-- ==== Sys2Proof/Word.lean ====
section
/-!
DEFINITION. The word types of the part and their plainest arithmetic (R2: bit 0 is the least
significant bit; memory is little-endian).
-/
namespace Sys2Proof

/-- One 32-bit register word of one lane (R147). -/
abbrev Word := BitVec 32

/-- One byte of memory. -/
abbrev Byte := BitVec 8

/-- The lane mask of one warp: bit L is lane L (Table 0.2). -/
abbrev Mask := BitVec 32

/-- One 96-bit instruction word (R52). -/
abbrev InstrWord := BitVec 96

end Sys2Proof
end

