-- ==== Sys2Proof/Config.lean ====
section
/-!
DEFINITION. What the manual leaves open and the machine goes on with: constants with no body, so that nothing can
be proved of their values. A free value is such a constant applied to the counter `State.free`, which the step that
uses it advances (log entry 4).
-/
set_option autoImplicit false

namespace Sys2Proof.Config

/-- A register word that the manual leaves undefined. -/
opaque freeWord : Nat → Sys2Proof.Word

/-- A byte of memory that the manual leaves undefined. -/
opaque freeByte : Nat → Sys2Proof.Byte

/-- A count that the manual leaves to the implementation (a choice among several places, a wait). -/
opaque freeNat : Nat → Nat

/-- How many clocks a core's cycle counter has advanced between two reads of it (R15, R69). -/
opaque freeClocks : Nat → Nat

/-- The public key of the firmware's signatures, its two coordinates one after the other (R464). -/
opaque fwKey : BitVec 768

/-- The digest of the public key that is fused in the hub (R464). -/
opaque fusedDigest : BitVec 384

/-- Whether the agent of a firmware image can restore a save area of a layout version (R441). -/
opaque layoutOk : List Sys2Proof.Byte → Nat → Bool

/-- A signature over some bytes with the key of certificate slot 0, of the kind of R464 (R466). -/
opaque sign : List Sys2Proof.Byte → BitVec 768

/-- A key-exchange share of the security engine. -/
opaque keyShare : Nat → BitVec 768

/-- The device identity chain of certificate slot 0 (R466). -/
opaque certChain : List Sys2Proof.Byte

/-- The hash that chooses the set of an issue-group entry from its slice, code object and index (R161). -/
opaque groupHash : Nat → BitVec 24 → BitVec 32 → Nat

/-- The hash that chooses the set of a CLB entry from its volume and tile coordinate (R285). -/
opaque clbHash : BitVec 24 → Nat → Nat → Nat → Nat

/-- The index that chooses the set of an instruction-cache line from its object id and line number (R157). -/
opaque lineIndex : BitVec 24 → Nat → Nat

end Sys2Proof.Config
end

