-- ==== Sys2Proof/Syntax.lean ====
section
/-!
DEFINITION. The instructions and events of the part, whole: one constructor per row of
spec/opcode_table.json. The 199 encoded instructions carry their decoded guard, hints and operands
(Tables 3.1 to 3.5); the 24 commands carry the decoded command (Tables 6.2, 6.3, 6.5, 6.7, 19.2);
the 79 events carry what names the place they happen at.
-/
namespace Sys2Proof

/-- The guard and the scheduling hints of an instruction word (R52, R54, R60 to R65). -/
structure Ctl where
  gn    : Bool := false
  gp    : BitVec 4 := 15
  la    : BitVec 4 := 0
  hold  : BitVec 2 := 0
  hslot : BitVec 2 := 0
  yld   : Bool := false
  pf    : BitVec 4 := 0
  deriving DecidableEq, Repr

/-- A vector-register field (Table 3.2): a register, all ones, the lane index, a latch slot, or zero
(which is the immediate under R56, and discards as a destination). -/
inductive VReg where
  | v (n : Fin 1536)
  | ones
  | lane
  | latch (k : Fin 3)
  | zero
  deriving DecidableEq, Repr

/-- Operand type codes (Table 3.4). -/
inductive Ty where
  | i8 | i16 | i32 | i64 | n8 | n16 | n32 | n64 | f16 | bf16 | f32 | f64 | e4m3 | e5m2 | pair
  deriving DecidableEq, Repr

/-- Rounding codes (Table 3.4). -/
inductive Rnd where
  | rne | rtz | rdn | rup | rna | ef | dyn
  deriving DecidableEq, Repr

/-- Scope codes (Tables 3.4 and 16.1). -/
inductive Scope where
  | thr | blk | core | die | dev | sys
  deriving DecidableEq, Repr

/-- The modifier layout of X (Table 3.3). -/
structure Mods where
  ty    : Ty := .i8
  rnd   : Rnd := .rne
  scope : Scope := .thr
  sat   : Bool := false
  fb    : Bool := false
  sub   : BitVec 4 := 0
  imm   : BitVec 16 := 0
  deriving DecidableEq, Repr

/-- Operands of class V (Table 3.5). -/
structure OpsV where
  d : VReg
  a : VReg
  b : VReg
  m : Mods := {}
  deriving DecidableEq, Repr

/-- Operands of class P that compare vector registers: destination predicate 0 to 14. -/
structure OpsPC where
  p : Fin 15
  a : VReg
  b : VReg
  m : Mods := {}
  deriving DecidableEq, Repr

/-- Operands of class P over predicates; 15 is pt (R199). -/
structure OpsPP where
  p : Fin 15
  a : BitVec 4
  b : BitVec 4
  m : Mods := {}
  deriving DecidableEq, Repr

/-- Operands of class M with a vector register in D. -/
structure OpsM where
  d   : VReg
  cap : BitVec 5
  b   : VReg
  m   : Mods := {}
  deriving DecidableEq, Repr

/-- Operands of class M with a destination predicate in D. -/
structure OpsMP where
  p   : Fin 15
  cap : BitVec 5
  b   : VReg
  m   : Mods := {}
  deriving DecidableEq, Repr

/-- A command's source queue and header (Table 6.2). -/
structure CmdHdr where
  vi      : Nat
  q       : Nat
  stat    : BitVec 64
  usertag : BitVec 64
  gang    : BitVec 32 := 0
  peers   : BitVec 16 := 0
  gretry  : Bool := false
  irq     : Bool := false
  barrier : Bool := false
  deriving DecidableEq, Repr

/-- The body of LAUNCH and START (Table 6.5). -/
structure LaunchBody where
  loadh    : BitVec 64
  entryno  : BitVec 16
  minblk   : BitVec 16
  diemask  : BitVec 4
  capmask  : BitVec 32
  capstore : BitVec 24
  gx : BitVec 32
  gy : BitVec 32
  gz : BitVec 32
  deriving DecidableEq, Repr

/-- The body of OBJCREATE (Table 6.7). -/
structure ObjCreateBody where
  kind   : BitVec 8
  psize  : BitVec 8
  okind  : BitVec 8
  repl   : BitVec 8
  rights : BitVec 8
  flags  : BitVec 8
  size   : BitVec 64
  home   : BitVec 16
  etype  : BitVec 8
  nch    : BitVec 8
  nnodes : BitVec 32
  pool   : BitVec 32
  store  : BitVec 32
  slot   : BitVec 32
  deriving DecidableEq, Repr

/-- The body of HCOPY (Table 6.7). -/
structure HcopyBody where
  dir  : BitVec 8
  oid  : BitVec 32
  iova : BitVec 64
  off  : BitVec 64
  len  : BitVec 32
  deriving DecidableEq, Repr

/-- The body of CREATEQ (Table 6.7). -/
structure CreateqBody where
  qn   : BitVec 16
  s    : BitVec 8
  prio : BitVec 8
  vec  : BitVec 16
  ring : BitVec 64
  deriving DecidableEq, Repr

/-- The body of CAPMINT (Table 6.7). -/
structure CapmintBody where
  oid    : BitVec 32
  store  : BitVec 32
  slot   : BitVec 32
  rights : BitVec 8
  lower  : BitVec 64
  upper  : BitVec 64
  deriving DecidableEq, Repr

/-- The body of PARTCFG (Table 19.2). -/
structure PartcfgBody where
  part  : BitVec 8
  slots : BitVec 8
  flags : BitVec 8
  s     : BitVec 32
  c     : BitVec 32
  share : BitVec 64
  cores : BitVec 192
  deriving DecidableEq, Repr

/-- The body of SHAREOBJ (Table 19.2). -/
structure ShareobjBody where
  oid    : BitVec 32
  part   : BitVec 8
  store  : BitVec 32
  slot   : BitVec 32
  rights : BitVec 8
  deriving DecidableEq, Repr

/-- The body of LOGREAD (Table 19.2). -/
structure LogreadBody where
  log   : BitVec 8
  iova  : BitVec 64
  len   : BitVec 32
  first : BitVec 32
  deriving DecidableEq, Repr

/-- Where an ECC error was detected: the unit, die, stack or slice, core and address of an error-log entry (Table 19.6), the core
whose thread or whose engine work met it, and whether a Settle unit's array did (R445). -/
structure EccSite where
  unit   : BitVec 8
  die    : BitVec 8
  stack  : BitVec 8
  core   : Option Nat
  loc    : BitVec 64
  user   : Option Nat
  settle : Bool
  deriving DecidableEq, Repr


/-- The part's instructions, commands and events: one constructor per row of the opcode table. -/
inductive Instr where
  -- group 0 (opcodes 0 upward)
  | nop (c : Ctl) (m : Mods)
  | bra (c : Ctl) (off : BitVec 32)
  | brx (c : Ctl) (o : OpsV)
  | brany (c : Ctl) (p : BitVec 4) (off : BitVec 32)
  | brall (c : Ctl) (p : BitVec 4) (off : BitVec 32)
  | call (c : Ctl) (off : BitVec 32)
  | callx (c : Ctl) (o : OpsV)
  | ret (c : Ctl) (m : Mods)
  | exit (c : Ctl) (m : Mods)
  | yield (c : Ctl) (m : Mods)
  | clen (c : Ctl) (k : BitVec 4)
  | clwait (c : Ctl) (k : BitVec 4)
  | cldrop (c : Ctl) (k : BitVec 4)
  | clget (c : Ctl) (d : VReg) (k : BitVec 4) (m : Mods)
  | clset (c : Ctl) (k : BitVec 4) (a : VReg) (m : Mods)
  | ipref (c : Ctl) (off : BitVec 32)
  | loop (c : Ctl) (d : VReg) (off : BitVec 32)
  -- group 1 (opcodes 64 upward)
  | iadd (c : Ctl) (o : OpsV)
  | isub (c : Ctl) (o : OpsV)
  | iaddc (c : Ctl) (o : OpsV)
  | isubb (c : Ctl) (o : OpsV)
  | imul (c : Ctl) (o : OpsV)
  | imulh (c : Ctl) (o : OpsV)
  | imad (c : Ctl) (o : OpsV)
  | idiv (c : Ctl) (o : OpsV)
  | irem (c : Ctl) (o : OpsV)
  | iabs (c : Ctl) (o : OpsV)
  | ineg (c : Ctl) (o : OpsV)
  | imin (c : Ctl) (o : OpsV)
  | imax (c : Ctl) (o : OpsV)
  | and (c : Ctl) (o : OpsV)
  | or (c : Ctl) (o : OpsV)
  | xor (c : Ctl) (o : OpsV)
  | andn (c : Ctl) (o : OpsV)
  | not (c : Ctl) (o : OpsV)
  | shl (c : Ctl) (o : OpsV)
  | shr (c : Ctl) (o : OpsV)
  | sar (c : Ctl) (o : OpsV)
  | rol (c : Ctl) (o : OpsV)
  | popc (c : Ctl) (o : OpsV)
  | clz (c : Ctl) (o : OpsV)
  | ctz (c : Ctl) (o : OpsV)
  | brev (c : Ctl) (o : OpsV)
  | bfx (c : Ctl) (o : OpsV)
  | bfi (c : Ctl) (o : OpsV)
  | bperm (c : Ctl) (o : OpsV)
  | isad (c : Ctl) (o : OpsV)
  | iadds (c : Ctl) (o : OpsV)
  | imadw (c : Ctl) (o : OpsV)
  -- group 2 (opcodes 128 upward)
  | mov (c : Ctl) (o : OpsV)
  | movi (c : Ctl) (d : VReg) (imm : BitVec 32)
  | movx (c : Ctl) (o : OpsV)
  | movxw (c : Ctl) (o : OpsV)
  | sel (c : Ctl) (o : OpsV)
  | icmp (c : Ctl) (o : OpsPC)
  | pand (c : Ctl) (o : OpsPP)
  | por (c : Ctl) (o : OpsPP)
  | pxor (c : Ctl) (o : OpsPP)
  | pnot (c : Ctl) (o : OpsPP)
  | pmov (c : Ctl) (o : OpsPP)
  | vote (c : Ctl) (o : OpsPP)
  | ballot (c : Ctl) (o : OpsV)
  | shfl (c : Ctl) (o : OpsV)
  | bcast (c : Ctl) (o : OpsV)
  | affine (c : Ctl) (o : OpsV)
  | laneix (c : Ctl) (o : OpsV)
  | scan (c : Ctl) (o : OpsV)
  | red (c : Ctl) (o : OpsV)
  -- group 3 (opcodes 192 upward)
  | fadd (c : Ctl) (o : OpsV)
  | fsub (c : Ctl) (o : OpsV)
  | fmul (c : Ctl) (o : OpsV)
  | ffma (c : Ctl) (o : OpsV)
  | fmin (c : Ctl) (o : OpsV)
  | fmax (c : Ctl) (o : OpsV)
  | fcmp (c : Ctl) (o : OpsPC)
  | fclass (c : Ctl) (o : OpsV)
  | frcp (c : Ctl) (o : OpsV)
  | frsq (c : Ctl) (o : OpsV)
  | fex2 (c : Ctl) (o : OpsV)
  | flg2 (c : Ctl) (o : OpsV)
  | fsin (c : Ctl) (o : OpsV)
  | fcos (c : Ctl) (o : OpsV)
  | fdot2 (c : Ctl) (o : OpsV)
  | fmul2 (c : Ctl) (o : OpsV)
  | ffma2 (c : Ctl) (o : OpsV)
  | fround (c : Ctl) (o : OpsV)
  | fscalb (c : Ctl) (o : OpsV)
  | fsat (c : Ctl) (o : OpsV)
  -- group 4 (opcodes 256 upward)
  | cvt (c : Ctl) (o : OpsV)
  | cvti (c : Ctl) (o : OpsV)
  | cvtf (c : Ctl) (o : OpsV)
  | cvtef (c : Ctl) (o : OpsV)
  | efclr (c : Ctl) (e : BitVec 3)
  | efmov (c : Ctl) (wr : Bool) (r : VReg) (e : BitVec 3)
  | pack4 (c : Ctl) (o : OpsV)
  | pack6 (c : Ctl) (o : OpsV)
  | pack8 (c : Ctl) (o : OpsV)
  | unpk (c : Ctl) (o : OpsV)
  | bscale (c : Ctl) (o : OpsV)
  | flagrd (c : Ctl) (o : OpsV)
  | flagclr (c : Ctl) (m : Mods)
  | rmode (c : Ctl) (m : Mods)
  -- group 5 (opcodes 320 upward)
  | ld (c : Ctl) (o : OpsM)
  | st (c : Ctl) (o : OpsM)
  | ldsp (c : Ctl) (o : OpsM)
  | stsp (c : Ctl) (o : OpsM)
  | ldnp (c : Ctl) (o : OpsM)
  | ldv (c : Ctl) (o : OpsM)
  | stv (c : Ctl) (o : OpsM)
  | ldu (c : Ctl) (o : OpsM)
  | prtest (c : Ctl) (o : OpsMP)
  | prwait (c : Ctl) (o : OpsM)
  -- group 6 (opcodes 384 upward)
  | cpkick (c : Ctl) (o : OpsM)
  | cpstat (c : Ctl) (o : OpsV)
  | cpcancel (c : Ctl) (o : OpsV)
  | rltest (c : Ctl) (o : OpsMP)
  | cpin (c : Ctl) (o : OpsM)
  | cpout (c : Ctl) (o : OpsM)
  -- group 7 (opcodes 448 upward)
  | vld (c : Ctl) (o : OpsM)
  | vst (c : Ctl) (o : OpsM)
  | vadd (c : Ctl) (o : OpsM)
  | vprobe (c : Ctl) (o : OpsM)
  | vnbr (c : Ctl) (o : OpsM)
  | vtld (c : Ctl) (o : OpsM)
  | valloc (c : Ctl) (o : OpsM)
  | vfree (c : Ctl) (o : OpsM)
  | vshoot (c : Ctl) (o : OpsM)
  | vbgrd (c : Ctl) (o : OpsM)
  -- group 8 (opcodes 512 upward)
  | gthr (c : Ctl) (o : OpsM)
  | sctr (c : Ctl) (o : OpsM)
  | sctra (c : Ctl) (o : OpsM)
  | confl (c : Ctl) (o : OpsV)
  | cmbn (c : Ctl) (o : OpsV)
  | spawni (c : Ctl) (o : OpsV)
  | itemloop (c : Ctl) (k : BitVec 4) (d : VReg) (off : BitVec 32)
  | itemget (c : Ctl) (o : OpsV)
  | itemend (c : Ctl) (m : Mods)
  -- group 9 (opcodes 576 upward)
  | obres (c : Ctl) (d : VReg) (a : VReg) (m : Mods)
  | obrel (c : Ctl) (m : Mods)
  | shape (c : Ctl) (a : VReg) (b : VReg) (m : Mods)
  | mxldb (c : Ctl) (a : VReg) (m : Mods)
  | mxlda (c : Ctl) (a : VReg) (m : Mods)
  | mxmac (c : Ctl) (t : BitVec 4) (a : VReg) (m : Mods)
  | mxmacs (c : Ctl) (t : BitVec 4) (a : VReg) (m : Mods)
  | mxzero (c : Ctl) (t : BitVec 4) (a : VReg) (m : Mods)
  | mxst (c : Ctl) (t : BitVec 4) (a : VReg) (b : VReg) (m : Mods)
  | mxcvt (c : Ctl) (t : BitVec 4) (a : VReg) (b : VReg) (m : Mods)
  | mxver (c : Ctl) (d : VReg) (t : BitVec 4)
  | mxbar (c : Ctl) (k : BitVec 4)
  | mxwait (c : Ctl) (k : BitVec 4)
  | mxacq (c : Ctl) (m : Mods)
  | mxrel (c : Ctl) (m : Mods)
  | mxflags (c : Ctl) (d : VReg) (m : Mods)
  -- group 10 (opcodes 640 upward)
  | schrun (c : Ctl) (o : OpsM)
  | ddiv (c : Ctl) (o : OpsV)
  | dsqrt (c : Ctl) (o : OpsV)
  | pivchk (c : Ctl) (o : OpsV)
  | trstep (c : Ctl) (o : OpsV)
  | schstat (c : Ctl) (o : OpsV)
  -- group 11 (opcodes 704 upward)
  | atom (c : Ctl) (o : OpsM)
  | atomc (c : Ctl) (o : OpsM)
  | fence (c : Ctl) (m : Mods)
  | ldacq (c : Ctl) (o : OpsM)
  | strel (c : Ctl) (o : OpsM)
  | cjinit (c : Ctl) (o : OpsM)
  | cjarr (c : Ctl) (o : OpsM)
  | cjdrop (c : Ctl) (o : OpsM)
  | cjwait (c : Ctl) (o : OpsM)
  | cjbyte (c : Ctl) (o : OpsM)
  | cjtest (c : Ctl) (o : OpsM)
  -- group 12 (opcodes 768 upward)
  | spawn (c : Ctl) (o : OpsMP)
  | tjoin (c : Ctl) (o : OpsV)
  | tend (c : Ctl) (m : Mods)
  | tself (c : Ctl) (o : OpsV)
  | rpost (c : Ctl) (o : OpsV)
  | rread (c : Ctl) (o : OpsV)
  | rset (c : Ctl) (o : OpsV)
  | inpost (c : Ctl) (o : OpsM)
  | snap (c : Ctl) (o : OpsM)
  | launch (c : Ctl) (o : OpsMP)
  | lwait (c : Ctl) (o : OpsV)
  -- group 13 (opcodes 832 upward)
  | capld (c : Ctl) (cd : BitVec 5) (ca : BitVec 5) (b : VReg) (m : Mods)
  | capst (c : Ctl) (cd : BitVec 5) (ca : BitVec 5) (b : VReg) (m : Mods)
  | capnar (c : Ctl) (cd : BitVec 5) (ca : BitVec 5) (b : VReg) (m : Mods)
  | capoff (c : Ctl) (cd : BitVec 5) (ca : BitVec 5) (m : Mods)
  | captst (c : Ctl) (d : VReg) (ca : BitVec 5) (b : VReg) (m : Mods)
  | capget (c : Ctl) (d : VReg) (ca : BitVec 5) (m : Mods)
  | capmov (c : Ctl) (cd : BitVec 5) (ca : BitVec 5) (m : Mods)
  -- group 14 (opcodes 896 upward)
  | srd (c : Ctl) (d : VReg) (m : Mods)
  | swr (c : Ctl) (a : VReg) (m : Mods)
  | trap (c : Ctl) (m : Mods)
  | brkpt (c : Ctl) (m : Mods)
  | eret (c : Ctl) (m : Mods)
  | beat (c : Ctl) (m : Mods)
  | ctxsv (c : Ctl) (o : OpsM)
  | ctxld (c : Ctl) (o : OpsM)
  | icinv (c : Ctl) (m : Mods)
  | wfi (c : Ctl) (m : Mods)
  | regq (c : Ctl) (o : OpsV)
  -- commands (Tables 6.3 and 19.2)
  | nopCommand (h : CmdHdr)
  | launchCommand (h : CmdHdr) (b : LaunchBody)
  | start (h : CmdHdr) (b : LaunchBody)
  | stop (h : CmdHdr) (loadh : BitVec 64) (progidx : BitVec 16)
  | load (h : CmdHdr) (iova : BitVec 64) (len : BitVec 32)
  | unload (h : CmdHdr) (loadh : BitVec 64)
  | objcreate (h : CmdHdr) (b : ObjCreateBody)
  | objdestroy (h : CmdHdr) (oid : BitVec 24)
  | hcopy (h : CmdHdr) (b : HcopyBody)
  | waitcj (h : CmdHdr) (oid : BitVec 32) (off : BitVec 64) (token : BitVec 32)
  | createq (h : CmdHdr) (b : CreateqBody)
  | destroyq (h : CmdHdr) (qn : BitVec 16)
  | capmint (h : CmdHdr) (b : CapmintBody)
  | pageresume (h : CmdHdr) (oid : BitVec 32) (off : BitVec 64)
  | partcfg (h : CmdHdr) (b : PartcfgBody)
  | partdel (h : CmdHdr) (part : BitVec 8)
  | vfbind (h : CmdHdr) (vf : BitVec 16) (part : BitVec 8)
  | gangpeers (h : CmdHdr) (vf : BitVec 16) (peers : List (BitVec 16))
  | shareobj (h : CmdHdr) (b : ShareobjBody)
  | repair (h : CmdHdr) (core : BitVec 16)
  | fwstage (h : CmdHdr) (iova : BitVec 64) (len : BitVec 32)
  | fwact (h : CmdHdr)
  | logread (h : CmdHdr) (b : LogreadBody)
  | dbgresume (h : CmdHdr) (part : BitVec 8) (block : BitVec 32)
  -- events
  | commandCompletion (k : Nat)
  | doorbell (vi q : Nat) (tail : BitVec 32)
  | aqctlEnable (vi : Nat)
  | aqctlDisable (vi : Nat)
  | adminQueueDrained (vi : Nat)
  | sysstatRead
  | registerWrite (vi off : Nat) (val : BitVec 64)
  | conventionalReset
  | coldPowerOn
  | bootStageDone (image : List (BitVec 8)) (pass : Bool)
  | failedStartReset
  | readyTimeout
  | functionLevelReset (vf : Nat)
  | ideStreamFault
  | dmaError (k : Nat) (onStatus : Bool)
  | thermalWarning (compute hub : BitVec 8)
  | thermalWarningClear (compute hub : BitVec 8)
  | thermalStop (compute hub : BitVec 8)
  | getVersion (port : Nat)
  | getCapabilities (port : Nat)
  | negotiateAlgorithms (port : Nat)
  | getDigests (port : Nat)
  | getCertificate (port slot : Nat)
  | challenge (port : Nat) (nonce : BitVec 256)
  | getMeasurements (port : Nat)
  | keyExchange (port : Nat)
  | finish (port : Nat)
  | endSession (port : Nat)
  | ideKm (port : Nat) (key : BitVec 256)
  | beatWindowEnd
  | quantumEnd (core : Nat)
  | runawayBlock (core seq : Nat)
  | residentSetChoice (part : Nat) (keep : List (Nat × Nat))
  | eviction (core seq : Nat)
  | blockRestore (k core : Nat)
  | eccCorrected (site : EccSite)
  | mcheck (site : EccSite)
  | unhandledTrapAbort (core seq : Nat)
  | idemAbort (core seq : Nat)
  | icacheFill (core k : Nat)
  | yieldExpiry (core slice stamp : Nat)
  | loadDataArrival (k : Nat)
  | longLatencyComplete (k : Nat)
  | remoteStorePerformed (k : Nat)
  | copyRecordStart (core k : Nat)
  | copyLineArrival (core k n : Nat)
  | cpkickRegister (k : Nat)
  | collapseRequest (k : Nat)
  | collapseAck (k die : Nat)
  | sequencerWrite (k : Nat)
  | pageCompress (oid page : Nat) (slot : BitVec 24)
  | pageExpand (oid page : Nat) (frame : Option (BitVec 24))
  | clbWalk (k : Nat)
  | tileLineFetch (k : Nat)
  | tileAllocation (k : Nat)
  | tileRemoval (k : Nat)
  | shootdownMark (k core : Nat)
  | backgroundWrite (k : Nat)
  | lexiconRowPerformed (k : Nat)
  | itemRefill (core cls : Nat)
  | matrixOpComplete (core seq k : Nat)
  | matrixOpStart (core seq k : Nat)
  | schrunRegister (k : Nat)
  | ticketClaim (core : Nat)
  | taskStart (core : Nat)
  | steal (core : Nat)
  | landingReturn (core : Nat)
  | blockRetire (core seq : Nat)
  | pendingRetry (core : Nat)
  | gridComplete (g : Nat)
  | gangReservation (gang : BitVec 32)
  | settleDispatch (die : Nat)
  | postApply (k : Nat)
  | convergenceSweep (prog : Nat)
  | deferredActivation
  | tftpBlock (data : List (BitVec 8))
  | tftpRetry
  | vfEnable (n : Nat)
  | pageKindChange (oid page : Nat) (kind : BitVec 2)
  deriving DecidableEq, Repr

end Sys2Proof
end

