-- ==== Sys2Proof/WellFormed.lean ====
section
/-!
DEFINITION. Well-formed instructions: every encoding check of R55, R56, R58, R59, R63, R66 and R70 that
the word's fields must meet, entry by entry (Tables 8.3, 9.1, 9.2, 10.5, 10.6, 11.5, 11.6, 12.3, 13.1,
14.5, 15.2, 16.6, 17.4, 4.5, 18.5 and 7.2). A word that fails one is no instruction: it raises ILLOP (R71
step 1).
-/
namespace Sys2Proof

/-- The type is one of the eight integer types (R183). -/
def Ty.isInt : Ty → Bool
  | .i8 | .i16 | .i32 | .i64 | .n8 | .n16 | .n32 | .n64 => true
  | _ => false

/-- The type takes a register pair (R150, R209). -/
def Ty.is64 : Ty → Bool
  | .i64 | .n64 | .f64 => true
  | _ => false

/-- A field that names a register (Table 3.2). -/
def VReg.isReg : VReg → Bool
  | .v _ => true
  | _ => false

/-- A field that is legal as a destination: a register, or 2047 (Table 3.2). -/
def VReg.isDst : VReg → Bool
  | .v _ | .zero => true
  | _ => false

/-- The register number is a multiple of `n`; special values pass (R150, R269, R497). -/
def multV (n : Nat) : VReg → Bool
  | .v r => r.val % n == 0
  | _ => true

/-- Every listed field that names a register names an even one, when the operand is a pair (R150). -/
def pairs (is64 : Bool) (l : List VReg) : Bool := !is64 || l.all (multV 2)

/-- With the block shared memory space, A must be 0 (R265, R384). -/
def shmCap (space : Nat) (cap : BitVec 5) : Bool := space != 1 || cap == 0

/-- The all-integer type list I of R188. -/
def tyI : List Ty := [.i8, .i16, .i32, .i64, .n8, .n16, .n32, .n64]
/-- The signed type list S of R188. -/
def tyS : List Ty := [.i8, .i16, .i32, .i64]
/-- The type list L of R188. -/
def tyL : List Ty := [.i32, .n32, .i64, .n64]
/-- The type list N of R188. -/
def tyN : List Ty := [.n32, .n64]
/-- The type list Q of R188. -/
def tyQ : List Ty := [.i8, .i16, .i32, .n8, .n16, .n32]
/-- The type list F of R224. -/
def tyF : List Ty := [.f16, .bf16, .f32, .f64]
/-- The type list C of R224. -/
def tyC : List Ty := [.f16, .f32, .f64]
/-- The conversion types of Table 10.6. -/
def tyX : List Ty := [.f16, .bf16, .f32, .f64, .e4m3, .e5m2]
/-- The element types of a volume: codes 0 to 13 (R280). -/
def tyV : List Ty := tyI ++ tyX
/-- The VADD types of Table 12.3. -/
def tyVA : List Ty := tyL ++ tyF
/-- The "All" rounding codes 0 to 4 and 6 (R224). -/
def rndAll : List Rnd := [.rne, .rtz, .rdn, .rup, .rna, .dyn]
/-- Every scope (Table 16.6). -/
def scAll : List Scope := [.thr, .blk, .core, .die, .dev, .sys]
/-- The scopes 1 to 5 (Table 16.6). -/
def scNotThr : List Scope := [.blk, .core, .die, .dev, .sys]
/-- All sixteen sub-operation codes. -/
def sub16 : List (BitVec 4) := [0, 1, 2, 3, 4, 5, 6, 7, 8, 9, 10, 11, 12, 13, 14, 15]
/-- The SCAN and RED codes: x18 to x16 at most 5 (R199). -/
def foldSubs : List (BitVec 4) := [0, 1, 2, 3, 4, 5, 8, 9, 10, 11, 12, 13]
/-- An entry that gives all of imm16 a use. -/
def anyImm (_ : BitVec 16) : Bool := true
/-- The predicate selector of SEL and BALLOT: imm16[3:0], negate in imm16[4], rest zero, and pt is not
negated (R202). -/
def predImm (i : BitVec 16) : Bool := decide (i.toNat < 31)

/-- The special registers that SRD may name (Table 3.8, R69). -/
def sregReadable (n : BitVec 16) : Bool :=
  [0x0, 0x1, 0x2, 0x3, 0x4, 0x5, 0x6, 0x8, 0x9, 0xA, 0xB, 0xC, 0xD, 0xE, 0xF, 0x10, 0x11, 0x12,
    0x20, 0x21, 0x22, 0x23, 0x8000, 0x8001, 0x8002, 0x8003, 0x8004].contains n.toNat

/-- The special registers that SWR may name: those marked R/W (Table 3.8, R69). -/
def sregWritable (n : BitVec 16) : Bool :=
  [0x10, 0x11, 0x12, 0x8000, 0x8001, 0x8002, 0x8003].contains n.toNat

/-- What an entry lists for the modifier fields (R58): every field it does not list must be zero. -/
structure ModSpec where
  tys     : List Ty := [.i8]
  rnds    : List Rnd := [.rne]
  scopes  : List Scope := [.thr]
  sat     : Bool := false
  subs    : List (BitVec 4) := [0]
  immForm : Bool := false
  imm     : BitVec 16 → Bool := fun i => i == 0

/-- The modifier fields hold only what the entry lists; imm16 is nonzero only where the entry gives it a use,
or B is 2047 and the entry has an immediate form (R56, R58, R59). -/
def ModSpec.ok (sp : ModSpec) (m : Mods) (bZero : Bool) : Bool :=
  sp.tys.contains m.ty && sp.rnds.contains m.rnd && sp.scopes.contains m.scope && (sp.sat || !m.sat) &&
    !m.fb && sp.subs.contains m.sub && (sp.imm m.imm || (sp.immForm && bZero))

/-- Every modifier field zero. -/
def zm (m : Mods) : Bool := ({} : ModSpec).ok m false

/-- The guard and hint checks of R54, R63 and R70, for an entry that reads A or B as a vector-register
field, has a vector destination, or is long-latency (R67). -/
def ctlOk (aV bV dV long : Bool) (c : Ctl) : Bool :=
  !(c.gp == 15 && c.gn) &&
  (if c.hold == 0 then c.hslot == 0 else
    c.hslot != 3 && (if c.hold == 1 then aV else if c.hold == 2 then bV else dV && !long))

/-- A well-formed instruction. Commands are checked when they are decoded and events carry no encoding. -/
def Instr.wf : Instr → Bool
  | .nop c m => ctlOk false false false false c && (zm m)
  | .bra c _ => ctlOk false false false false c
  | .brx c o => ctlOk true false false false c && (o.d == .zero && o.b == .zero && ({} : ModSpec).ok o.m false)
  | .brany c _ _ => ctlOk false false false false c
  | .brall c _ _ => ctlOk false false false false c
  | .call c _ => ctlOk false false false false c
  | .callx c o => ctlOk true false false false c && (o.d == .zero && o.b == .zero && ({ imm := fun i => i.toNat < 32 } : ModSpec).ok o.m false)
  | .ret c m => ctlOk false false false false c && (zm m)
  | .exit c m => ctlOk false false false false c && (zm m)
  | .yield c m => ctlOk false false false false c && (({ imm := anyImm } : ModSpec).ok m false)
  | .clen c _ => ctlOk false false false false c
  | .clwait c _ => ctlOk false false false false c
  | .cldrop c _ => ctlOk false false false false c
  | .clget c d _ m => ctlOk false false true false c && (d.isDst && ({ subs := [0, 1] } : ModSpec).ok m false)
  | .clset c _ _ m => ctlOk true false false false c && (({ subs := [0, 1] } : ModSpec).ok m false)
  | .ipref c _ => ctlOk false false false false c
  | .loop c d _ => ctlOk false false true false c && (match d with | .v _ => true | _ => false)
  | .iadd c o => ctlOk true true true false c && (o.d.isDst && ({ tys := tyI, sat := true, immForm := true } : ModSpec).ok o.m (o.b == .zero) && pairs o.m.ty.is64 [o.d, o.a, o.b])
  | .isub c o => ctlOk true true true false c && (o.d.isDst && ({ tys := tyI, sat := true, immForm := true } : ModSpec).ok o.m (o.b == .zero) && pairs o.m.ty.is64 [o.d, o.a, o.b])
  | .iaddc c o => ctlOk true true true false c && (o.d.isDst && ({ tys := [.n32], imm := fun i => i.toNat < 15 } : ModSpec).ok o.m false)
  | .isubb c o => ctlOk true true true false c && (o.d.isDst && ({ tys := [.n32], imm := fun i => i.toNat < 15 } : ModSpec).ok o.m false)
  | .imul c o => ctlOk true true true false c && (o.d.isDst && ({ tys := tyI, sat := true, immForm := true } : ModSpec).ok o.m (o.b == .zero) && pairs o.m.ty.is64 [o.d, o.a, o.b])
  | .imulh c o => ctlOk true true true false c && (o.d.isDst && ({ tys := tyI, immForm := true } : ModSpec).ok o.m (o.b == .zero) && pairs o.m.ty.is64 [o.d, o.a, o.b])
  | .imad c o => ctlOk true true true false c && (o.d.isDst && ({ tys := tyI, sat := true, immForm := true } : ModSpec).ok o.m (o.b == .zero) && pairs o.m.ty.is64 [o.d, o.a, o.b])
  | .idiv c o => ctlOk true true true false c && (o.d.isDst && ({ tys := tyI, sat := true, immForm := true } : ModSpec).ok o.m (o.b == .zero) && pairs o.m.ty.is64 [o.d, o.a, o.b])
  | .irem c o => ctlOk true true true false c && (o.d.isDst && ({ tys := tyI, sat := true, immForm := true } : ModSpec).ok o.m (o.b == .zero) && pairs o.m.ty.is64 [o.d, o.a, o.b])
  | .iabs c o => ctlOk true false true false c && (o.d.isDst && o.b == .zero && ({ tys := tyS, sat := true } : ModSpec).ok o.m false && pairs o.m.ty.is64 [o.d, o.a])
  | .ineg c o => ctlOk true false true false c && (o.d.isDst && o.b == .zero && ({ tys := tyS, sat := true } : ModSpec).ok o.m false && pairs o.m.ty.is64 [o.d, o.a])
  | .imin c o => ctlOk true true true false c && (o.d.isDst && ({ tys := tyI, immForm := true } : ModSpec).ok o.m (o.b == .zero) && pairs o.m.ty.is64 [o.d, o.a, o.b])
  | .imax c o => ctlOk true true true false c && (o.d.isDst && ({ tys := tyI, immForm := true } : ModSpec).ok o.m (o.b == .zero) && pairs o.m.ty.is64 [o.d, o.a, o.b])
  | .and c o => ctlOk true true true false c && (o.d.isDst && ({ tys := tyL, immForm := true } : ModSpec).ok o.m (o.b == .zero) && pairs o.m.ty.is64 [o.d, o.a, o.b])
  | .or c o => ctlOk true true true false c && (o.d.isDst && ({ tys := tyL, immForm := true } : ModSpec).ok o.m (o.b == .zero) && pairs o.m.ty.is64 [o.d, o.a, o.b])
  | .xor c o => ctlOk true true true false c && (o.d.isDst && ({ tys := tyL, immForm := true } : ModSpec).ok o.m (o.b == .zero) && pairs o.m.ty.is64 [o.d, o.a, o.b])
  | .andn c o => ctlOk true true true false c && (o.d.isDst && ({ tys := tyL, immForm := true } : ModSpec).ok o.m (o.b == .zero) && pairs o.m.ty.is64 [o.d, o.a, o.b])
  | .not c o => ctlOk true false true false c && (o.d.isDst && o.b == .zero && ({ tys := tyL } : ModSpec).ok o.m false && pairs o.m.ty.is64 [o.d, o.a])
  | .shl c o => ctlOk true true true false c && (o.d.isDst && ({ tys := tyL, sat := true, immForm := true } : ModSpec).ok o.m (o.b == .zero) && pairs o.m.ty.is64 [o.d, o.a])
  | .shr c o => ctlOk true true true false c && (o.d.isDst && ({ tys := tyL, immForm := true } : ModSpec).ok o.m (o.b == .zero) && pairs o.m.ty.is64 [o.d, o.a])
  | .sar c o => ctlOk true true true false c && (o.d.isDst && ({ tys := tyL, immForm := true } : ModSpec).ok o.m (o.b == .zero) && pairs o.m.ty.is64 [o.d, o.a])
  | .rol c o => ctlOk true true true false c && (o.d.isDst && ({ tys := tyL, immForm := true } : ModSpec).ok o.m (o.b == .zero) && pairs o.m.ty.is64 [o.d, o.a])
  | .popc c o => ctlOk true false true false c && (o.d.isDst && o.b == .zero && ({ tys := tyN } : ModSpec).ok o.m false && pairs o.m.ty.is64 [o.a])
  | .clz c o => ctlOk true false true false c && (o.d.isDst && o.b == .zero && ({ tys := tyN } : ModSpec).ok o.m false && pairs o.m.ty.is64 [o.a])
  | .ctz c o => ctlOk true false true false c && (o.d.isDst && o.b == .zero && ({ tys := tyN } : ModSpec).ok o.m false && pairs o.m.ty.is64 [o.a])
  | .brev c o => ctlOk true false true false c && (o.d.isDst && o.b == .zero && ({ tys := tyN } : ModSpec).ok o.m false && pairs o.m.ty.is64 [o.d, o.a])
  | .bfx c o => ctlOk true true true false c && (o.d.isDst && ({ tys := tyL, immForm := true } : ModSpec).ok o.m (o.b == .zero) && pairs o.m.ty.is64 [o.d, o.a])
  | .bfi c o => ctlOk true true true false c && (o.d.isDst && ({ tys := tyN, immForm := true } : ModSpec).ok o.m (o.b == .zero) && pairs o.m.ty.is64 [o.d, o.a])
  | .bperm c o => ctlOk true true true false c && (o.d.isDst && ({ tys := [.n32], immForm := true } : ModSpec).ok o.m (o.b == .zero) && pairs o.m.ty.is64 [o.d, o.a, o.b])
  | .isad c o => ctlOk true true true false c && (o.d.isDst && ({ tys := tyQ, sat := true, immForm := true } : ModSpec).ok o.m (o.b == .zero) && pairs o.m.ty.is64 [o.d, o.a, o.b])
  | .iadds c o => ctlOk true true true false c && (o.d.isDst && ({ tys := tyL, sat := true, subs := sub16, immForm := true } : ModSpec).ok o.m (o.b == .zero) && pairs o.m.ty.is64 [o.d, o.a, o.b])
  | .imadw c o => ctlOk true true true false c && (o.d.isDst && ({ tys := [.i32, .n32], sat := true, immForm := true } : ModSpec).ok o.m (o.b == .zero) && pairs true [o.d])
  | .mov c o => ctlOk true false true false c && (o.d.isDst && o.b == .zero && ({ tys := tyL } : ModSpec).ok o.m false && pairs o.m.ty.is64 [o.d, o.a])
  | .movi c d _ => ctlOk false false true false c && (d.isDst)
  | .movx c o => ctlOk true false true false c && (o.d.isDst && o.b == .zero && ({ imm := anyImm } : ModSpec).ok o.m false)
  | .movxw c o => ctlOk true true false false c && (o.d == .zero && ({ imm := anyImm } : ModSpec).ok o.m false)
  | .sel c o => ctlOk true true true false c && (o.d.isDst && ({ tys := tyL, imm := predImm } : ModSpec).ok o.m false && pairs o.m.ty.is64 [o.d, o.a, o.b])
  | .icmp c o => ctlOk true true false false c && (({ tys := tyI, subs := [0, 1, 2, 3, 4, 5], immForm := true } : ModSpec).ok o.m (o.b == .zero) && pairs o.m.ty.is64 [o.a, o.b])
  | .pand c o => ctlOk false false false false c && (({ subs := [0, 1, 2, 3] } : ModSpec).ok o.m false)
  | .por c o => ctlOk false false false false c && (({ subs := [0, 1, 2, 3] } : ModSpec).ok o.m false)
  | .pxor c o => ctlOk false false false false c && (({ subs := [0, 1, 2, 3] } : ModSpec).ok o.m false)
  | .pnot c o => ctlOk false false false false c && (o.b == 0 && ({} : ModSpec).ok o.m false)
  | .pmov c o => ctlOk false false false false c && (o.b == 0 && ({} : ModSpec).ok o.m false)
  | .vote c o => ctlOk false false false false c && (o.b == 0 && ({ subs := [0, 1, 2] } : ModSpec).ok o.m false)
  | .ballot c o => ctlOk false false true false c && (o.d.isDst && o.a == .zero && o.b == .zero && ({ imm := predImm } : ModSpec).ok o.m false)
  | .shfl c o => ctlOk true true true false c && (o.d.isDst && ({ tys := tyN, subs := [0, 1, 2, 3], immForm := true } : ModSpec).ok o.m (o.b == .zero) && pairs o.m.ty.is64 [o.d, o.a])
  | .bcast c o => ctlOk true (o.m.sub == 0) true false c && (o.d.isDst && ({ tys := tyN, subs := [0, 1], immForm := o.m.sub == 0 } : ModSpec).ok o.m (o.b == .zero) && (o.m.sub == 0 || o.b == .zero) && pairs o.m.ty.is64 [o.d, o.a])
  | .affine c o => ctlOk true true true false c && (o.d.isDst && ({ immForm := true } : ModSpec).ok o.m (o.b == .zero) && pairs o.m.ty.is64 [o.d, o.a, o.b])
  | .laneix c o => ctlOk false false true false c && (o.d.isDst && o.a == .zero && o.b == .zero && ({ subs := [0, 1, 2, 3] } : ModSpec).ok o.m false)
  | .scan c o => ctlOk true false true false c && (o.d.isDst && o.b == .zero && ({ tys := tyL, subs := foldSubs, sat := o.m.sub.toNat % 8 == 0 } : ModSpec).ok o.m false && pairs o.m.ty.is64 [o.d, o.a])
  | .red c o => ctlOk true false true false c && (o.d.isDst && o.b == .zero && ({ tys := tyL, subs := [0, 1, 2, 3, 4, 5], sat := o.m.sub == 0 } : ModSpec).ok o.m false && pairs o.m.ty.is64 [o.d, o.a])
  | .fadd c o => ctlOk true true true false c && (o.d.isDst && ({ tys := tyF, rnds := rndAll, sat := true, immForm := o.m.ty == .f16 || o.m.ty == .bf16 } : ModSpec).ok o.m (o.b == .zero) && pairs o.m.ty.is64 [o.d, o.a, o.b])
  | .fsub c o => ctlOk true true true false c && (o.d.isDst && ({ tys := tyF, rnds := rndAll, sat := true, immForm := o.m.ty == .f16 || o.m.ty == .bf16 } : ModSpec).ok o.m (o.b == .zero) && pairs o.m.ty.is64 [o.d, o.a, o.b])
  | .fmul c o => ctlOk true true true false c && (o.d.isDst && ({ tys := tyF, rnds := rndAll, sat := true, immForm := o.m.ty == .f16 || o.m.ty == .bf16 } : ModSpec).ok o.m (o.b == .zero) && pairs o.m.ty.is64 [o.d, o.a, o.b])
  | .ffma c o => ctlOk true true true false c && (o.d.isDst && ({ tys := tyF, rnds := rndAll, sat := true } : ModSpec).ok o.m (o.b == .zero) && pairs o.m.ty.is64 [o.d, o.a, o.b])
  | .fmin c o => ctlOk true true true false c && (o.d.isDst && ({ tys := tyF, immForm := o.m.ty == .f16 || o.m.ty == .bf16 } : ModSpec).ok o.m (o.b == .zero) && pairs o.m.ty.is64 [o.d, o.a, o.b])
  | .fmax c o => ctlOk true true true false c && (o.d.isDst && ({ tys := tyF, immForm := o.m.ty == .f16 || o.m.ty == .bf16 } : ModSpec).ok o.m (o.b == .zero) && pairs o.m.ty.is64 [o.d, o.a, o.b])
  | .fcmp c o => ctlOk true true false false c && (({ tys := tyF, subs := [0, 1, 2, 3, 4, 5, 6, 7], immForm := o.m.ty == .f16 || o.m.ty == .bf16 } : ModSpec).ok o.m (o.b == .zero) && pairs o.m.ty.is64 [o.a, o.b])
  | .fclass c o => ctlOk true false true false c && (o.d.isDst && o.b == .zero && ({ tys := tyF } : ModSpec).ok o.m false && pairs o.m.ty.is64 [o.a])
  | .frcp c o => ctlOk true false true true c && (o.d.isDst && o.b == .zero && ({ tys := tyC, rnds := rndAll, sat := true } : ModSpec).ok o.m false && pairs o.m.ty.is64 [o.d, o.a])
  | .frsq c o => ctlOk true false true true c && (o.d.isDst && o.b == .zero && ({ tys := tyC, rnds := rndAll } : ModSpec).ok o.m false && pairs o.m.ty.is64 [o.d, o.a])
  | .fex2 c o => ctlOk true false true true c && (o.d.isDst && o.b == .zero && ({ tys := [.f16, .f32], sat := true } : ModSpec).ok o.m false && pairs o.m.ty.is64 [o.d, o.a])
  | .flg2 c o => ctlOk true false true true c && (o.d.isDst && o.b == .zero && ({ tys := [.f16, .f32] } : ModSpec).ok o.m false && pairs o.m.ty.is64 [o.d, o.a])
  | .fsin c o => ctlOk true false true true c && (o.d.isDst && o.b == .zero && ({ tys := [.f16, .f32] } : ModSpec).ok o.m false && pairs o.m.ty.is64 [o.d, o.a])
  | .fcos c o => ctlOk true false true true c && (o.d.isDst && o.b == .zero && ({ tys := [.f16, .f32] } : ModSpec).ok o.m false && pairs o.m.ty.is64 [o.d, o.a])
  | .fdot2 c o => ctlOk true true true false c && (o.d.isDst && ({ tys := [.f16, .bf16], rnds := rndAll, sat := true } : ModSpec).ok o.m (o.b == .zero) && pairs o.m.ty.is64 [o.d, o.a, o.b])
  | .fmul2 c o => ctlOk true true true false c && (o.d.isDst && ({ tys := [.f16, .bf16, .f32], rnds := rndAll, sat := true } : ModSpec).ok o.m false && pairs true [o.d, o.a, o.b])
  | .ffma2 c o => ctlOk true true true false c && (o.d.isDst && ({ tys := [.f16, .bf16, .f32], rnds := rndAll, sat := true } : ModSpec).ok o.m false && pairs true [o.d, o.a, o.b])
  | .fround c o => ctlOk true false true false c && (o.d.isDst && o.b == .zero && ({ tys := tyF, rnds := rndAll, subs := [0, 1] } : ModSpec).ok o.m false && pairs o.m.ty.is64 [o.d, o.a])
  | .fscalb c o => ctlOk true true true false c && (o.d.isDst && ({ tys := tyF, rnds := rndAll, sat := true, immForm := true } : ModSpec).ok o.m (o.b == .zero) && pairs o.m.ty.is64 [o.d, o.a])
  | .fsat c o => ctlOk true false true false c && (o.d.isDst && o.b == .zero && ({ tys := tyF, subs := [0, 1] } : ModSpec).ok o.m false && pairs o.m.ty.is64 [o.d, o.a])
  | .cvt c o => ctlOk true false true false c && (o.d.isDst && o.b == .zero && ({ tys := tyX, rnds := rndAll, sat := true, subs := [8, 9, 10, 11, 12, 13] } : ModSpec).ok o.m false && pairs o.m.ty.is64 [o.d] && pairs (o.m.sub == 11) [o.a])
  | .cvti c o => ctlOk true false true false c && (o.d.isDst && o.b == .zero && ({ tys := tyI, rnds := rndAll, subs := [8, 9, 10, 11] } : ModSpec).ok o.m false && pairs o.m.ty.is64 [o.d] && pairs (o.m.sub == 11) [o.a])
  | .cvtf c o => ctlOk true false true false c && (o.d.isDst && o.b == .zero && ({ tys := tyX, rnds := rndAll, sat := true, subs := [0, 1, 2, 3, 4, 5, 6, 7] } : ModSpec).ok o.m false && pairs o.m.ty.is64 [o.d] && pairs (o.m.sub == 3 || o.m.sub == 7) [o.a])
  | .cvtef c o => ctlOk true false true false c && (o.d.isDst && o.b == .zero && ({ tys := [.f16, .bf16, .e4m3, .e5m2], rnds := [.ef], sat := true, imm := fun i => i.toNat < 8 } : ModSpec).ok o.m false)
  | .efclr c _ => ctlOk false false false false c
  | .efmov c wr r _ => ctlOk wr false (!wr) false c && (if wr then true else r.isDst)
  | .pack4 c o => ctlOk true true true false c && (o.d.isDst && ({ tys := [.f32], rnds := rndAll, subs := [0, 6, 7] } : ModSpec).ok o.m false)
  | .pack6 c o => ctlOk true true true false c && (o.d.isDst && ({ tys := [.f32], rnds := rndAll, subs := [1, 2] } : ModSpec).ok o.m false)
  | .pack8 c o => ctlOk true true true false c && (o.d.isDst && ({ tys := [.f32], rnds := rndAll, subs := [3, 4, 5] } : ModSpec).ok o.m false)
  | .unpk c o => ctlOk true true true false c && (o.d.isDst && ({ tys := [.f32], rnds := rndAll, sat := true, subs := [0, 1, 2, 3, 4, 5, 6, 7] } : ModSpec).ok o.m false)
  | .bscale c o => ctlOk true false true false c && (o.b == .zero && o.d.isDst && ({ tys := [.f32], sat := false, subs := [0, 1, 2, 3, 4, 5, 6, 7] } : ModSpec).ok o.m false)
  | .flagrd c o => ctlOk false false true false c && (o.d.isDst && o.a == .zero && o.b == .zero && ({ subs := [0, 1] } : ModSpec).ok o.m false)
  | .flagclr c m => ctlOk false false false false c && (({ imm := fun i => i.toNat < 64 } : ModSpec).ok m false)
  | .rmode c m => ctlOk false false false false c && (({ imm := fun i => i.toNat < 5 } : ModSpec).ok m false)
  | .ld c o => ctlOk false true true true c && (o.d.isDst && shmCap (o.m.sub.toNat % 2) o.cap && ({ tys := tyI, subs := [0, 1], imm := anyImm } : ModSpec).ok o.m false && pairs o.m.ty.is64 [o.d])
  | .st c o => ctlOk false true false true c && (shmCap (o.m.sub.toNat % 2) o.cap && ({ tys := tyI, subs := [0, 1], imm := anyImm } : ModSpec).ok o.m false && pairs o.m.ty.is64 [o.d])
  | .ldsp c o => ctlOk false false true true c && (o.d.isDst && o.cap == 0 && o.b == .zero && ({ tys := if o.m.sub == 1 then [.i8] else tyI, subs := [0, 1], imm := fun i => o.m.sub == 0 || i == 0 } : ModSpec).ok o.m false && pairs (o.m.ty.is64) [o.d])
  | .stsp c o => ctlOk false false false true c && (o.cap == 0 && o.b == .zero && ({ tys := if o.m.sub == 1 then [.i8] else tyI, subs := [0, 1], imm := fun i => o.m.sub == 0 || i.toNat % 4 == 0 } : ModSpec).ok o.m false && (o.m.sub == 0 || o.d == .zero) && pairs (o.m.ty.is64) [o.d])
  | .ldnp c o => ctlOk false true true true c && (o.d.isDst && shmCap (o.m.sub.toNat % 2) o.cap && ({ tys := tyI, subs := [0, 1], imm := anyImm } : ModSpec).ok o.m false && pairs o.m.ty.is64 [o.d])
  | .ldv c o => ctlOk false true true true c && (o.d.isDst && shmCap (o.m.sub.toNat % 2) o.cap && ({ subs := [0, 1, 2, 3], imm := anyImm } : ModSpec).ok o.m false && pairs o.m.ty.is64 [] && multV (if o.m.sub.toNat < 2 then 2 else 4) o.d)
  | .stv c o => ctlOk false true false true c && (shmCap (o.m.sub.toNat % 2) o.cap && ({ subs := [0, 1, 2, 3], imm := anyImm } : ModSpec).ok o.m false && pairs o.m.ty.is64 [] && multV (if o.m.sub.toNat < 2 then 2 else 4) o.d)
  | .ldu c o => ctlOk false true true true c && (o.d.isDst && shmCap (o.m.sub.toNat % 2) o.cap && ({ tys := tyI, subs := [0, 1], imm := anyImm } : ModSpec).ok o.m false && pairs o.m.ty.is64 [o.d])
  | .prtest c o => ctlOk false true false false c && (shmCap (o.m.sub.toNat % 2) o.cap && ({ subs := [0, 1], imm := anyImm } : ModSpec).ok o.m false)
  | .prwait c o => ctlOk false true false true c && (o.d == .zero && shmCap (o.m.sub.toNat % 2) o.cap && ({ subs := [0, 1], imm := anyImm } : ModSpec).ok o.m false && pairs o.m.ty.is64 [])
  | .cpkick c o => ctlOk false true false true c && (shmCap (o.m.sub.toNat % 2) o.cap && ({ subs := [0, 1], imm := anyImm } : ModSpec).ok o.m false && pairs o.m.ty.is64 [])
  | .cpstat c o => ctlOk false false true true c && (o.d.isDst && o.a == .zero && o.b == .zero && ({ subs := [0, 1] } : ModSpec).ok o.m false)
  | .cpcancel c o => ctlOk false false true true c && (o.d.isDst && o.a == .zero && o.b == .zero && ({} : ModSpec).ok o.m false)
  | .rltest c o => ctlOk false true false true c && (shmCap (o.m.sub.toNat % 2) o.cap && ({ tys := tyI, subs := [0, 1], imm := anyImm } : ModSpec).ok o.m false)
  | .cpin c o => ctlOk false true false true c && (({ imm := anyImm } : ModSpec).ok o.m false)
  | .cpout c o => ctlOk false true false true c && (({ imm := anyImm } : ModSpec).ok o.m false)
  | .vld c o => ctlOk false true true true c && (o.d.isDst && o.b.isReg && ({ tys := tyV, subs := sub16, imm := fun i => i.toNat < 16 } : ModSpec).ok o.m false && pairs o.m.ty.is64 [o.d])
  | .vst c o => ctlOk false true false true c && (o.b.isReg && ({ tys := tyV, subs := sub16, imm := fun i => i.toNat < 16 } : ModSpec).ok o.m false && pairs o.m.ty.is64 [o.d])
  | .vadd c o => ctlOk false true false true c && (o.b.isReg && ({ tys := tyVA, subs := sub16, sat := o.m.ty.isInt, imm := fun i => i.toNat < 16 } : ModSpec).ok o.m false && pairs o.m.ty.is64 [o.d])
  | .vprobe c o => ctlOk false true true true c && (o.d.isDst && o.b.isReg && ({  } : ModSpec).ok o.m false)
  | .vnbr c o => ctlOk false true true true c && (o.d.isDst && o.b.isReg && ({  } : ModSpec).ok o.m false)
  | .vtld c o => ctlOk false true false true c && (o.b.isReg && ({  } : ModSpec).ok o.m false)
  | .valloc c o => ctlOk false true true true c && (o.d.isDst && o.b.isReg && ({  } : ModSpec).ok o.m false)
  | .vfree c o => ctlOk false true true true c && (o.d.isDst && o.b.isReg && ({  } : ModSpec).ok o.m false)
  | .vshoot c o => ctlOk false true true true c && (o.d.isDst && o.b.isReg && ({ imm := fun i => i.toNat < 5 } : ModSpec).ok o.m false)
  | .vbgrd c o => ctlOk false false true true c && (o.b == .zero && (o.m.imm.getLsbD 8 || o.d.isDst) && ({ tys := tyV, subs := sub16, imm := fun i => i &&& 0xFEF0 == 0 } : ModSpec).ok o.m false && pairs o.m.ty.is64 [o.d])
  | .gthr c o => ctlOk false true true true c && (o.d.isDst && ({ subs := sub16, imm := fun i => i != 0 && i.toNat % 4 == 0 && decide (4 * (o.m.sub.toNat + 1) ≤ i.toNat) } : ModSpec).ok o.m false)
  | .sctr c o => ctlOk false true false true c && (({ subs := sub16, imm := fun i => i != 0 && i.toNat % 4 == 0 && decide (4 * (o.m.sub.toNat + 1) ≤ i.toNat) } : ModSpec).ok o.m false)
  | .sctra c o => ctlOk false true false true c && (({ tys := [.i32, .n32, .f32], sat := o.m.ty.isInt, subs := sub16, imm := fun i => i != 0 && i.toNat % 4 == 0 && decide (4 * (o.m.sub.toNat + 1) ≤ i.toNat) } : ModSpec).ok o.m false)
  | .confl c o => ctlOk true false true false c && (o.d.isDst && o.b == .zero && ({ subs := [0, 1] } : ModSpec).ok o.m false)
  | .cmbn c o => ctlOk true true true false c && (o.d.isDst && ({ tys := [.i32, .n32, .f32], sat := o.m.ty.isInt && o.m.sub == 0, subs := [0, 1, 2] } : ModSpec).ok o.m false)
  | .spawni c o => ctlOk true false true false c && (o.d.isDst && o.b == .zero && ({ imm := fun i => i.toNat < 16 } : ModSpec).ok o.m false)
  | .itemloop c _ d _ => ctlOk false false true false c && (d.isDst)
  | .itemget c o => ctlOk false false true true c && (o.d.isDst && o.a == .zero && o.b == .zero && ({ imm := fun i => i.toNat < 16 } : ModSpec).ok o.m false)
  | .itemend c m => ctlOk false false false false c && (zm m)
  | .obres c d _ m => ctlOk true false true false c && (d.isDst && ({ subs := [0, 1], imm := fun i => if m.sub == 0 then decide (i.toNat < 16) else i == 0 } : ModSpec).ok m false)
  | .obrel c m => ctlOk false false false false c && (({ subs := [0, 1], imm := fun i => if m.sub == 0 then decide (i.toNat < 16) else i == 0 } : ModSpec).ok m false)
  | .shape c _ _ m => ctlOk true true false false c && (({ imm := fun i => i.toNat < 16 } : ModSpec).ok m false)
  | .mxldb c _ m => ctlOk true false false false c && (({ imm := fun i => i.toNat < 2048 } : ModSpec).ok m false)
  | .mxlda c _ m => ctlOk true false false false c && (({ imm := fun i => i.toNat < 64 } : ModSpec).ok m false)
  | .mxmac c _ _ m => ctlOk true false false false c && (({ imm := fun i => i.toNat < 512 } : ModSpec).ok m false)
  | .mxmacs c _ _ m => ctlOk true false false false c && (({ imm := fun i => i.toNat < 512 } : ModSpec).ok m false)
  | .mxzero c _ _ m => ctlOk true false false false c && (({ tys := [.f32, .f64] } : ModSpec).ok m false)
  | .mxst c _ _ _ m => ctlOk true true false true c && (({ tys := [.f32, .f64], imm := fun i => i.toNat < 64 } : ModSpec).ok m false)
  | .mxcvt c _ _ _ m => ctlOk true true false true c && (({ tys := [.f16, .bf16, .f32, .e4m3, .e5m2], rnds := [.rne, .rtz, .rdn, .rup, .rna, .ef, .dyn], sat := true, imm := fun i => decide (i.toNat < 1024) && (m.rnd == .ef || decide (i.toNat < 64)) } : ModSpec).ok m false)
  | .mxver c d _ => ctlOk false false true false c && (d.isDst)
  | .mxbar c _ => ctlOk false false false false c
  | .mxwait c _ => ctlOk false false false false c
  | .mxacq c m => ctlOk false false false false c && (zm m)
  | .mxrel c m => ctlOk false false false false c && (zm m)
  | .mxflags c d m => ctlOk false false true false c && (d.isDst && ({ subs := [0, 1, 2, 3] } : ModSpec).ok m false)
  | .schrun c o => ctlOk false true false true c && (shmCap (o.m.sub.toNat % 2) o.cap && ({ tys := [.f32, .f64], rnds := rndAll, subs := [0, 1], imm := anyImm } : ModSpec).ok o.m false)
  | .ddiv c o => ctlOk true true true true c && (o.d.isDst && ({ tys := [.f32, .f64], rnds := rndAll, sat := true } : ModSpec).ok o.m (o.b == .zero) && pairs o.m.ty.is64 [o.d, o.a, o.b])
  | .dsqrt c o => ctlOk true false true true c && (o.d.isDst && o.b == .zero && ({ tys := [.f32, .f64], rnds := rndAll, sat := true } : ModSpec).ok o.m false && pairs o.m.ty.is64 [o.d, o.a])
  | .pivchk c o => ctlOk true true true false c && (o.d.isDst && ({ tys := [.f32, .f64] } : ModSpec).ok o.m (o.b == .zero) && pairs o.m.ty.is64 [o.d, o.a, o.b])
  | .trstep c o => ctlOk true true true false c && (o.d.isDst && ({ tys := [.f32, .f64], rnds := rndAll, sat := true } : ModSpec).ok o.m (o.b == .zero) && pairs o.m.ty.is64 [o.d, o.a, o.b])
  | .schstat c o => ctlOk false false true false c && (o.d.isDst && o.a == .zero && o.b == .zero && ({ subs := [0, 1, 2] } : ModSpec).ok o.m false)
  | .atom c o => ctlOk false true true true c && (o.d.isDst && shmCap (o.m.sub.toNat / 8) o.cap && ({ tys := if o.m.sub.toNat % 8 < 3 then tyL ++ [.f32, .f64] else tyL, scopes := scAll, sat := o.m.sub.toNat % 8 == 0 && o.m.ty.isInt, subs := [0, 1, 2, 3, 4, 5, 6, 8, 9, 10, 11, 12, 13, 14], imm := anyImm } : ModSpec).ok o.m false && pairs o.m.ty.is64 [o.d])
  | .atomc c o => ctlOk false true true true c && (o.d.isDst && shmCap (o.m.sub.toNat / 8) o.cap && ({ tys := tyL, scopes := scAll, subs := [0, 8], imm := anyImm } : ModSpec).ok o.m false && pairs o.m.ty.is64 [o.d])
  | .fence c m => ctlOk false false false false c && (({ scopes := scNotThr, subs := [0, 1, 2] } : ModSpec).ok m false)
  | .ldacq c o => ctlOk false true true true c && (o.d.isDst && shmCap (o.m.sub.toNat / 8) o.cap && ({ tys := tyI, scopes := scNotThr, subs := [0, 8], imm := anyImm } : ModSpec).ok o.m false && pairs o.m.ty.is64 [o.d])
  | .strel c o => ctlOk false true false false c && (shmCap (o.m.sub.toNat / 8) o.cap && ({ tys := tyI, scopes := scNotThr, subs := [0, 8], imm := anyImm } : ModSpec).ok o.m false && pairs o.m.ty.is64 [o.d])
  | .cjinit c o => ctlOk false true false false c && (shmCap (o.m.sub.toNat / 8) o.cap && ({ scopes := scNotThr, subs := [0, 1, 8, 9], imm := anyImm } : ModSpec).ok o.m false)
  | .cjarr c o => ctlOk false true true false c && (o.d.isDst && shmCap (o.m.sub.toNat / 8) o.cap && ({ scopes := scNotThr, subs := [0, 8], imm := anyImm } : ModSpec).ok o.m false)
  | .cjdrop c o => ctlOk false true true false c && (o.d.isDst && shmCap (o.m.sub.toNat / 8) o.cap && ({ scopes := scNotThr, subs := [0, 8], imm := anyImm } : ModSpec).ok o.m false)
  | .cjwait c o => ctlOk false true true true c && (o.d.isDst && shmCap (o.m.sub.toNat / 8) o.cap && ({ scopes := scNotThr, subs := [0, 8], imm := anyImm } : ModSpec).ok o.m false)
  | .cjbyte c o => ctlOk false true false false c && (shmCap (o.m.sub.toNat / 8) o.cap && ({ scopes := scNotThr, subs := [0, 8], imm := anyImm } : ModSpec).ok o.m false)
  | .cjtest c o => ctlOk false true true false c && (o.d.isDst && shmCap (o.m.sub.toNat / 8) o.cap && ({ scopes := scNotThr, subs := [0, 1, 2, 3, 8, 9, 10, 11], imm := anyImm } : ModSpec).ok o.m false)
  | .spawn c o => ctlOk false true false false c && (shmCap (o.m.sub.toNat % 2) o.cap && ({ subs := [0, 1, 2, 3], imm := anyImm } : ModSpec).ok o.m false)
  | .tjoin c o => ctlOk true false true true c && (o.d.isDst && o.b == .zero && ({} : ModSpec).ok o.m false)
  | .tend c m => ctlOk false false false false c && (zm m)
  | .tself c o => ctlOk false false true false c && (o.d.isDst && o.a == .zero && o.b == .zero && ({ subs := [0, 1, 2, 3, 4, 5, 6, 7] } : ModSpec).ok o.m false)
  | .rpost c o => ctlOk true false true false c && (o.d.isDst && o.b == .zero && ({} : ModSpec).ok o.m false)
  | .rread c o => ctlOk true false true true c && (o.d.isDst && o.b == .zero && ({ imm := fun i => i.toNat < 16 } : ModSpec).ok o.m false)
  | .rset c o => ctlOk true true true false c && (o.d.isDst && ({ imm := fun i => i.toNat < 16 } : ModSpec).ok o.m false)
  | .inpost c o => ctlOk false true true false c && (o.d.isDst && shmCap (o.m.sub.toNat % 2) o.cap && ({ subs := [0, 1], imm := anyImm } : ModSpec).ok o.m false)
  | .snap c o => ctlOk false (o.m.sub != 4) false true c && (shmCap (o.m.sub.toNat % 2) o.cap && ({ subs := [0, 1, 2, 3, 4], imm := anyImm } : ModSpec).ok o.m false && (o.m.sub != 4 || (o.cap == 0 && o.b == .zero && o.m.imm == 0)))
  | .launch c o => ctlOk false true false false c && (shmCap (o.m.sub.toNat % 2) o.cap && ({ subs := [0, 1], imm := anyImm } : ModSpec).ok o.m false)
  | .lwait c o => ctlOk true false true true c && (o.d.isDst && o.b == .zero && ({} : ModSpec).ok o.m false)
  | .capld c _ _ _ m => ctlOk false true false true c && (({ imm := anyImm } : ModSpec).ok m false)
  | .capst c _ _ _ m => ctlOk false true false false c && (({ imm := anyImm } : ModSpec).ok m false)
  | .capnar c _ _ _ m => ctlOk false true false false c && (({ imm := fun i => i.toNat < 256 } : ModSpec).ok m false)
  | .capoff c _ _ m => ctlOk false false false false c && (({ imm := anyImm } : ModSpec).ok m false)
  | .captst c d _ _ m => ctlOk false true true false c && (d.isDst && ({ subs := [0, 1, 2, 3, 4], imm := fun i => i.toNat < 256 } : ModSpec).ok m false)
  | .capget c d _ m => ctlOk false false true false c && (d.isDst && ({ subs := [0, 1, 2, 3, 4, 5, 6] } : ModSpec).ok m false)
  | .capmov c _ ca m => ctlOk false false false false c && (({ subs := [0, 1] } : ModSpec).ok m false && (m.sub == 0 || ca == 0))
  | .srd c d m => ctlOk false false true false c && (d.isDst && ({ imm := fun i => sregReadable i } : ModSpec).ok m false)
  | .swr c _ m => ctlOk true false false false c && (({ imm := fun i => sregWritable i } : ModSpec).ok m false)
  | .trap c m => ctlOk false false false false c && (({ imm := anyImm } : ModSpec).ok m false)
  | .brkpt c m => ctlOk false false false false c && (({ imm := anyImm } : ModSpec).ok m false)
  | .eret c m => ctlOk false false false false c && (({ subs := [0, 1] } : ModSpec).ok m false)
  | .beat c m => ctlOk false false false false c && (({ imm := anyImm } : ModSpec).ok m false)
  | .ctxsv c o => ctlOk false true true true c && (o.d.isDst && ({ subs := [0, 1], imm := anyImm } : ModSpec).ok o.m false)
  | .ctxld c o => ctlOk false true true true c && (o.d.isDst && ({ subs := [0, 1], imm := anyImm } : ModSpec).ok o.m false)
  | .icinv c m => ctlOk false false false false c && (zm m)
  | .wfi c m => ctlOk false false false false c && (zm m)
  | .regq c o => ctlOk (o.m.sub == 5) false true false c && (o.d.isDst && o.b == .zero && (o.m.sub == 5 || o.a == .zero) && ({ subs := [0, 1, 2, 3, 4, 5, 6, 7] } : ModSpec).ok o.m false)
  | .nopCommand _ => true
  | .launchCommand _ _ => true
  | .start _ _ => true
  | .stop _ _ _ => true
  | .load _ _ _ => true
  | .unload _ _ => true
  | .objcreate _ _ => true
  | .objdestroy _ _ => true
  | .hcopy _ _ => true
  | .waitcj _ _ _ _ => true
  | .createq _ _ => true
  | .destroyq _ _ => true
  | .capmint _ _ => true
  | .pageresume _ _ _ => true
  | .partcfg _ _ => true
  | .partdel _ _ => true
  | .vfbind _ _ _ => true
  | .gangpeers _ _ _ => true
  | .shareobj _ _ => true
  | .repair _ _ => true
  | .fwstage _ _ _ => true
  | .fwact _ => true
  | .logread _ _ => true
  | .dbgresume _ _ _ => true
  | .commandCompletion _ => true
  | .doorbell _ _ _ => true
  | .aqctlEnable _ => true
  | .aqctlDisable _ => true
  | .adminQueueDrained _ => true
  | .sysstatRead => true
  | .registerWrite _ _ _ => true
  | .conventionalReset => true
  | .coldPowerOn => true
  | .bootStageDone _ _ => true
  | .failedStartReset => true
  | .readyTimeout => true
  | .functionLevelReset _ => true
  | .ideStreamFault => true
  | .dmaError _ _ => true
  | .thermalWarning _ _ => true
  | .thermalWarningClear _ _ => true
  | .thermalStop _ _ => true
  | .getVersion _ => true
  | .getCapabilities _ => true
  | .negotiateAlgorithms _ => true
  | .getDigests _ => true
  | .getCertificate _ _ => true
  | .challenge _ _ => true
  | .getMeasurements _ => true
  | .keyExchange _ => true
  | .finish _ => true
  | .endSession _ => true
  | .ideKm _ _ => true
  | .beatWindowEnd => true
  | .quantumEnd _ => true
  | .runawayBlock _ _ => true
  | .residentSetChoice _ _ => true
  | .eviction _ _ => true
  | .blockRestore _ _ => true
  | .eccCorrected _ => true
  | .mcheck _ => true
  | .unhandledTrapAbort _ _ => true
  | .idemAbort _ _ => true
  | .icacheFill _ _ => true
  | .yieldExpiry _ _ _ => true
  | .loadDataArrival _ => true
  | .longLatencyComplete _ => true
  | .remoteStorePerformed _ => true
  | .copyRecordStart _ _ => true
  | .copyLineArrival _ _ _ => true
  | .cpkickRegister _ => true
  | .collapseRequest _ => true
  | .collapseAck _ _ => true
  | .sequencerWrite _ => true
  | .pageCompress _ _ _ => true
  | .pageExpand _ _ _ => true
  | .clbWalk _ => true
  | .tileLineFetch _ => true
  | .tileAllocation _ => true
  | .tileRemoval _ => true
  | .shootdownMark _ _ => true
  | .backgroundWrite _ => true
  | .lexiconRowPerformed _ => true
  | .itemRefill _ _ => true
  | .matrixOpComplete _ _ _ => true
  | .matrixOpStart _ _ _ => true
  | .schrunRegister _ => true
  | .ticketClaim _ => true
  | .taskStart _ => true
  | .steal _ => true
  | .landingReturn _ => true
  | .blockRetire _ _ => true
  | .pendingRetry _ => true
  | .gridComplete _ => true
  | .gangReservation _ => true
  | .settleDispatch _ => true
  | .postApply _ => true
  | .convergenceSweep _ => true
  | .deferredActivation => true
  | .tftpBlock _ => true
  | .tftpRetry => true
  | .vfEnable _ => true
  | .pageKindChange _ _ _ => true

/-- The long-latency instructions (R67). -/
def Instr.isLong : Instr → Bool
  | .frcp _ _ => true
  | .frsq _ _ => true
  | .fex2 _ _ => true
  | .flg2 _ _ => true
  | .fsin _ _ => true
  | .fcos _ _ => true
  | .ld _ _ => true
  | .st _ _ => true
  | .ldsp _ _ => true
  | .stsp _ _ => true
  | .ldnp _ _ => true
  | .ldv _ _ => true
  | .stv _ _ => true
  | .ldu _ _ => true
  | .prwait _ _ => true
  | .cpkick _ _ => true
  | .cpstat _ _ => true
  | .cpcancel _ _ => true
  | .rltest _ _ => true
  | .cpin _ _ => true
  | .cpout _ _ => true
  | .vld _ _ => true
  | .vst _ _ => true
  | .vadd _ _ => true
  | .vprobe _ _ => true
  | .vnbr _ _ => true
  | .vtld _ _ => true
  | .valloc _ _ => true
  | .vfree _ _ => true
  | .vshoot _ _ => true
  | .vbgrd _ _ => true
  | .gthr _ _ => true
  | .sctr _ _ => true
  | .sctra _ _ => true
  | .itemget _ _ => true
  | .mxst _ _ _ _ _ => true
  | .mxcvt _ _ _ _ _ => true
  | .schrun _ _ => true
  | .ddiv _ _ => true
  | .dsqrt _ _ => true
  | .atom _ _ => true
  | .atomc _ _ => true
  | .ldacq _ _ => true
  | .cjwait _ _ => true
  | .tjoin _ _ => true
  | .rread _ _ => true
  | .snap _ _ => true
  | .lwait _ _ => true
  | .capld _ _ _ _ _ => true
  | .ctxsv _ _ => true
  | .ctxld _ _ => true
  | _ => false

end Sys2Proof
end

