-- ==== Sys2Proof/Decode.lean ====
section
/-!
DEFINITION. The decoder and the encoder of the 96-bit instruction word (R52, R55, R58, R66, R67, R70), the
decoder of the 128-byte command (R118 to R120, R126, R456), and the helpers that take bit fields and
bytes apart.
-/
namespace Sys2Proof

/-! ### Bytes and bit fields -/

/-- The number that a run of bytes holds, lowest address first (R2). -/
def leNat : List Byte → Nat
  | [] => 0
  | b :: bs => b.toNat + 256 * leNat bs

/-- The `n` bytes of a number, lowest address first (R2). -/
def leBytes : Nat → Nat → List Byte
  | 0, _ => []
  | n + 1, x => BitVec.ofNat 8 x :: leBytes n (x / 256)

/-- Bits `[lo + w - 1 : lo]` of a number. -/
def bitsOf (x lo w : Nat) : Nat := x / 2 ^ lo % 2 ^ w

/-- The bit of a Bool. -/
def bit1 (b : Bool) : BitVec 1 := if b then 1 else 0

/-! ### Field codes -/

/-- The code of a vector-register field (Table 3.2). -/
def VReg.enc : VReg → BitVec 11
  | .v n => BitVec.ofNat 11 n.val
  | .ones => 2042
  | .lane => 2043
  | .latch k => BitVec.ofNat 11 (2046 - k.val)
  | .zero => 2047

/-- The reading of a vector-register field; 1536 to 2041 are illegal (Table 3.2). -/
def VReg.dec (x : BitVec 11) : Option VReg :=
  if h : x.toNat < 1536 then some (.v ⟨x.toNat, h⟩)
  else if x == 2042 then some .ones
  else if x == 2043 then some .lane
  else if x == 2044 then some (.latch 2)
  else if x == 2045 then some (.latch 1)
  else if x == 2046 then some (.latch 0)
  else if x == 2047 then some .zero
  else none

/-- Type codes (Table 3.4). -/
def Ty.enc : Ty → BitVec 4
  | .i8 => 0 | .i16 => 1 | .i32 => 2 | .i64 => 3 | .n8 => 4 | .n16 => 5 | .n32 => 6 | .n64 => 7
  | .f16 => 8 | .bf16 => 9 | .f32 => 10 | .f64 => 11 | .e4m3 => 12 | .e5m2 => 13 | .pair => 14

/-- Code 15 is illegal (Table 3.4). -/
def Ty.dec (x : BitVec 4) : Option Ty :=
  [Ty.i8, .i16, .i32, .i64, .n8, .n16, .n32, .n64, .f16, .bf16, .f32, .f64, .e4m3, .e5m2, .pair][x.toNat]?

/-- Rounding codes (Table 3.4). -/
def Rnd.enc : Rnd → BitVec 3
  | .rne => 0 | .rtz => 1 | .rdn => 2 | .rup => 3 | .rna => 4 | .ef => 5 | .dyn => 6

/-- Code 7 is illegal (Table 3.4). -/
def Rnd.dec (x : BitVec 3) : Option Rnd :=
  [Rnd.rne, .rtz, .rdn, .rup, .rna, .ef, .dyn][x.toNat]?

/-- Scope codes (Table 3.4). -/
def Scope.enc : Scope → BitVec 3
  | .thr => 0 | .blk => 1 | .core => 2 | .die => 3 | .dev => 4 | .sys => 5

/-- Codes 6 and 7 are illegal (Table 3.4). -/
def Scope.dec (x : BitVec 3) : Option Scope :=
  [Scope.thr, .blk, .core, .die, .dev, .sys][x.toNat]?

/-- The 32 bits of X (Table 3.3). -/
def Mods.pack (m : Mods) : BitVec 32 :=
  m.ty.enc ++ m.rnd.enc ++ m.scope.enc ++ bit1 m.sat ++ bit1 m.fb ++ m.sub ++ m.imm

/-- The reading of X (Tables 3.3 and 3.4). -/
def Mods.unpack (x : BitVec 32) : Option Mods := do
  let ty ← Ty.dec (x.extractLsb' 28 4)
  let rnd ← Rnd.dec (x.extractLsb' 25 3)
  let scope ← Scope.dec (x.extractLsb' 22 3)
  some { ty := ty, rnd := rnd, scope := scope, sat := x.getLsbD 21, fb := x.getLsbD 20,
         sub := x.extractLsb' 16 4, imm := x.extractLsb' 0 16 }

/-- A destination predicate field. -/
def encP (p : Fin 15) : BitVec 11 := BitVec.ofNat 11 p.val

/-- A destination predicate is 0 to 14 (Table 3.5, R66). -/
def decP (x : BitVec 11) : Option (Fin 15) := if h : x.toNat < 15 then some ⟨x.toNat, h⟩ else none

/-- A field that names one of a file of `2 ^ w` (R66). -/
def decF (w : Nat) (x : BitVec 11) : Option (BitVec w) :=
  if x.toNat < 2 ^ w then some (x.setWidth w) else none

/-- A field the class marks 0 (R66). -/
def dec0 {w : Nat} (x : BitVec w) : Option Unit := if x == 0 then some () else none

/-! ### The word -/

/-- The fields of an instruction word (Table 3.1). -/
structure Raw where
  op  : BitVec 10
  c   : Ctl
  d   : BitVec 11
  a   : BitVec 11
  b   : BitVec 11
  x   : BitVec 32
  rsv : BitVec 3 := 0
  deriving DecidableEq, Repr

/-- The word that holds the fields (Table 3.1). -/
def Raw.pack (r : Raw) : InstrWord :=
  r.op ++ bit1 r.c.gn ++ r.c.gp ++ r.d ++ r.a ++ r.b ++ r.x ++ r.c.la ++ r.c.hold ++ r.c.hslot ++
    bit1 r.c.yld ++ r.c.pf ++ r.rsv

/-- The fields of the word (Table 3.1). -/
def Raw.unpack (w : InstrWord) : Raw :=
  { op := w.extractLsb' 86 10
    c := { gn := w.getLsbD 85, gp := w.extractLsb' 81 4, la := w.extractLsb' 12 4,
           hold := w.extractLsb' 10 2, hslot := w.extractLsb' 8 2, yld := w.getLsbD 7,
           pf := w.extractLsb' 3 4 }
    d := w.extractLsb' 70 11, a := w.extractLsb' 59 11, b := w.extractLsb' 48 11
    x := w.extractLsb' 16 32, rsv := w.extractLsb' 0 3 }

/-! ### Format classes (Table 3.5) -/

/-- Class shape Z: (m : Mods). -/
def mkZ (con : Ctl → Mods → Instr) (r : Raw) : Option Instr := do
  dec0 r.d
  dec0 r.a
  dec0 r.b
  let m ← Mods.unpack r.x
  some (con r.c m)

/-- Class shape JO: (off : BitVec 32). -/
def mkJO (con : Ctl → BitVec 32 → Instr) (r : Raw) : Option Instr := do
  dec0 r.d
  dec0 r.a
  dec0 r.b
  some (con r.c r.x)

/-- Class shape JP: (p : BitVec 4) (off : BitVec 32). -/
def mkJP (con : Ctl → BitVec 4 → BitVec 32 → Instr) (r : Raw) : Option Instr := do
  dec0 r.d
  let p ← decF 4 r.a
  dec0 r.b
  some (con r.c p r.x)

/-- Class shape JV: (d : VReg) (off : BitVec 32). -/
def mkJV (con : Ctl → VReg → BitVec 32 → Instr) (r : Raw) : Option Instr := do
  let d ← VReg.dec r.d
  dec0 r.a
  dec0 r.b
  some (con r.c d r.x)

/-- Class shape JK: (k : BitVec 4) (d : VReg) (off : BitVec 32). -/
def mkJK (con : Ctl → BitVec 4 → VReg → BitVec 32 → Instr) (r : Raw) : Option Instr := do
  let d ← VReg.dec r.d
  let k ← decF 4 r.a
  dec0 r.b
  some (con r.c k d r.x)

/-- Class shape W: (d : VReg) (imm : BitVec 32). -/
def mkW (con : Ctl → VReg → BitVec 32 → Instr) (r : Raw) : Option Instr := do
  let d ← VReg.dec r.d
  dec0 r.a
  dec0 r.b
  some (con r.c d r.x)

/-- Class shape V: (o : OpsV). -/
def mkV (con : Ctl → OpsV → Instr) (r : Raw) : Option Instr := do
  let d ← VReg.dec r.d
  let a ← VReg.dec r.a
  let b ← VReg.dec r.b
  let m ← Mods.unpack r.x
  some (con r.c { d := d, a := a, b := b, m := m })

/-- Class shape PC: (o : OpsPC). -/
def mkPC (con : Ctl → OpsPC → Instr) (r : Raw) : Option Instr := do
  let p ← decP r.d
  let a ← VReg.dec r.a
  let b ← VReg.dec r.b
  let m ← Mods.unpack r.x
  some (con r.c { p := p, a := a, b := b, m := m })

/-- Class shape PP: (o : OpsPP). -/
def mkPP (con : Ctl → OpsPP → Instr) (r : Raw) : Option Instr := do
  let p ← decP r.d
  let a ← decF 4 r.a
  let b ← decF 4 r.b
  let m ← Mods.unpack r.x
  some (con r.c { p := p, a := a, b := b, m := m })

/-- Class shape M: (o : OpsM). -/
def mkM (con : Ctl → OpsM → Instr) (r : Raw) : Option Instr := do
  let d ← VReg.dec r.d
  let cap ← decF 5 r.a
  let b ← VReg.dec r.b
  let m ← Mods.unpack r.x
  some (con r.c { d := d, cap := cap, b := b, m := m })

/-- Class shape MP: (o : OpsMP). -/
def mkMP (con : Ctl → OpsMP → Instr) (r : Raw) : Option Instr := do
  let p ← decP r.d
  let cap ← decF 5 r.a
  let b ← VReg.dec r.b
  let m ← Mods.unpack r.x
  some (con r.c { p := p, cap := cap, b := b, m := m })

/-- Class shape S1: (k : BitVec 4). -/
def mkS1 (con : Ctl → BitVec 4 → Instr) (r : Raw) : Option Instr := do
  let k ← decF 4 r.d
  dec0 r.a
  dec0 r.b
  dec0 r.x
  some (con r.c k)

/-- Class shape CLG: (d : VReg) (k : BitVec 4) (m : Mods). -/
def mkCLG (con : Ctl → VReg → BitVec 4 → Mods → Instr) (r : Raw) : Option Instr := do
  let d ← VReg.dec r.d
  let k ← decF 4 r.a
  dec0 r.b
  let m ← Mods.unpack r.x
  some (con r.c d k m)

/-- Class shape CLS: (k : BitVec 4) (a : VReg) (m : Mods). -/
def mkCLS (con : Ctl → BitVec 4 → VReg → Mods → Instr) (r : Raw) : Option Instr := do
  let k ← decF 4 r.d
  let a ← VReg.dec r.a
  dec0 r.b
  let m ← Mods.unpack r.x
  some (con r.c k a m)

/-- Class shape EC: (e : BitVec 3). -/
def mkEC (con : Ctl → BitVec 3 → Instr) (r : Raw) : Option Instr := do
  let e ← decF 3 r.d
  dec0 r.a
  dec0 r.b
  dec0 r.x
  some (con r.c e)

/-- Class shape EM: (wr : Bool) (r : VReg) (e : BitVec 3). -/
def mkEM (con : Ctl → Bool → VReg → BitVec 3 → Instr) (r : Raw) : Option Instr := do
  dec0 r.b
  if r.x == 0 then
    let d ← VReg.dec r.d
    let e ← decF 3 r.a
    some (con r.c false d e)
  else if r.x == 0x00010000 then
    let e ← decF 3 r.d
    let a ← VReg.dec r.a
    some (con r.c true a e)
  else none

/-- Class shape OBR: (d : VReg) (a : VReg) (m : Mods). -/
def mkOBR (con : Ctl → VReg → VReg → Mods → Instr) (r : Raw) : Option Instr := do
  let d ← VReg.dec r.d
  let a ← VReg.dec r.a
  dec0 r.b
  let m ← Mods.unpack r.x
  some (con r.c d a m)

/-- Class shape SHP: (a : VReg) (b : VReg) (m : Mods). -/
def mkSHP (con : Ctl → VReg → VReg → Mods → Instr) (r : Raw) : Option Instr := do
  dec0 r.d
  let a ← VReg.dec r.a
  let b ← VReg.dec r.b
  let m ← Mods.unpack r.x
  some (con r.c a b m)

/-- Class shape SA: (a : VReg) (m : Mods). -/
def mkSA (con : Ctl → VReg → Mods → Instr) (r : Raw) : Option Instr := do
  dec0 r.d
  let a ← VReg.dec r.a
  dec0 r.b
  let m ← Mods.unpack r.x
  some (con r.c a m)

/-- Class shape SD: (d : VReg) (m : Mods). -/
def mkSD (con : Ctl → VReg → Mods → Instr) (r : Raw) : Option Instr := do
  let d ← VReg.dec r.d
  dec0 r.a
  dec0 r.b
  let m ← Mods.unpack r.x
  some (con r.c d m)

/-- Class shape TA: (t : BitVec 4) (a : VReg) (m : Mods). -/
def mkTA (con : Ctl → BitVec 4 → VReg → Mods → Instr) (r : Raw) : Option Instr := do
  let t ← decF 4 r.d
  let a ← VReg.dec r.a
  dec0 r.b
  let m ← Mods.unpack r.x
  some (con r.c t a m)

/-- Class shape TAB: (t : BitVec 4) (a : VReg) (b : VReg) (m : Mods). -/
def mkTAB (con : Ctl → BitVec 4 → VReg → VReg → Mods → Instr) (r : Raw) : Option Instr := do
  let t ← decF 4 r.d
  let a ← VReg.dec r.a
  let b ← VReg.dec r.b
  let m ← Mods.unpack r.x
  some (con r.c t a b m)

/-- Class shape DT: (d : VReg) (t : BitVec 4). -/
def mkDT (con : Ctl → VReg → BitVec 4 → Instr) (r : Raw) : Option Instr := do
  let d ← VReg.dec r.d
  let t ← decF 4 r.a
  dec0 r.b
  dec0 r.x
  some (con r.c d t)

/-- Class shape CCB: (cd : BitVec 5) (ca : BitVec 5) (b : VReg) (m : Mods). -/
def mkCCB (con : Ctl → BitVec 5 → BitVec 5 → VReg → Mods → Instr) (r : Raw) : Option Instr := do
  let cd ← decF 5 r.d
  let ca ← decF 5 r.a
  let b ← VReg.dec r.b
  let m ← Mods.unpack r.x
  some (con r.c cd ca b m)

/-- Class shape CC: (cd : BitVec 5) (ca : BitVec 5) (m : Mods). -/
def mkCC (con : Ctl → BitVec 5 → BitVec 5 → Mods → Instr) (r : Raw) : Option Instr := do
  let cd ← decF 5 r.d
  let ca ← decF 5 r.a
  dec0 r.b
  let m ← Mods.unpack r.x
  some (con r.c cd ca m)

/-- Class shape DCB: (d : VReg) (ca : BitVec 5) (b : VReg) (m : Mods). -/
def mkDCB (con : Ctl → VReg → BitVec 5 → VReg → Mods → Instr) (r : Raw) : Option Instr := do
  let d ← VReg.dec r.d
  let ca ← decF 5 r.a
  let b ← VReg.dec r.b
  let m ← Mods.unpack r.x
  some (con r.c d ca b m)

/-- Class shape DC: (d : VReg) (ca : BitVec 5) (m : Mods). -/
def mkDC (con : Ctl → VReg → BitVec 5 → Mods → Instr) (r : Raw) : Option Instr := do
  let d ← VReg.dec r.d
  let ca ← decF 5 r.a
  dec0 r.b
  let m ← Mods.unpack r.x
  some (con r.c d ca m)

/-! ### The opcode map (Tables 3.6 and 3.7) -/

/-- Group 0 of the opcode map, by index. -/
def opGroup0 : List (Raw → Option Instr) :=
  [mkZ .nop, mkJO .bra, mkV .brx, mkJP .brany, mkJP .brall, mkJO .call, mkV .callx, mkZ .ret,
   mkZ .exit, mkZ .yield, mkS1 .clen, mkS1 .clwait, mkS1 .cldrop, mkCLG .clget, mkCLS .clset,
   mkJO .ipref, mkJV .loop]

/-- Group 1 of the opcode map, by index. -/
def opGroup1 : List (Raw → Option Instr) :=
  [mkV .iadd, mkV .isub, mkV .iaddc, mkV .isubb, mkV .imul, mkV .imulh, mkV .imad, mkV .idiv,
   mkV .irem, mkV .iabs, mkV .ineg, mkV .imin, mkV .imax, mkV .and, mkV .or, mkV .xor, mkV .andn,
   mkV .not, mkV .shl, mkV .shr, mkV .sar, mkV .rol, mkV .popc, mkV .clz, mkV .ctz, mkV .brev,
   mkV .bfx, mkV .bfi, mkV .bperm, mkV .isad, mkV .iadds, mkV .imadw]

/-- Group 2 of the opcode map, by index. -/
def opGroup2 : List (Raw → Option Instr) :=
  [mkV .mov, mkW .movi, mkV .movx, mkV .movxw, mkV .sel, mkPC .icmp, mkPP .pand, mkPP .por,
   mkPP .pxor, mkPP .pnot, mkPP .pmov, mkPP .vote, mkV .ballot, mkV .shfl, mkV .bcast, mkV .affine,
   mkV .laneix, mkV .scan, mkV .red]

/-- Group 3 of the opcode map, by index. -/
def opGroup3 : List (Raw → Option Instr) :=
  [mkV .fadd, mkV .fsub, mkV .fmul, mkV .ffma, mkV .fmin, mkV .fmax, mkPC .fcmp, mkV .fclass,
   mkV .frcp, mkV .frsq, mkV .fex2, mkV .flg2, mkV .fsin, mkV .fcos, mkV .fdot2, mkV .fmul2,
   mkV .ffma2, mkV .fround, mkV .fscalb, mkV .fsat]

/-- Group 4 of the opcode map, by index. -/
def opGroup4 : List (Raw → Option Instr) :=
  [mkV .cvt, mkV .cvti, mkV .cvtf, mkV .cvtef, mkEC .efclr, mkEM .efmov, mkV .pack4, mkV .pack6,
   mkV .pack8, mkV .unpk, mkV .bscale, mkV .flagrd, mkZ .flagclr, mkZ .rmode]

/-- Group 5 of the opcode map, by index. -/
def opGroup5 : List (Raw → Option Instr) :=
  [mkM .ld, mkM .st, mkM .ldsp, mkM .stsp, mkM .ldnp, mkM .ldv, mkM .stv, mkM .ldu, mkMP .prtest,
   mkM .prwait]

/-- Group 6 of the opcode map, by index. -/
def opGroup6 : List (Raw → Option Instr) :=
  [mkM .cpkick, mkV .cpstat, mkV .cpcancel, mkMP .rltest, mkM .cpin, mkM .cpout]

/-- Group 7 of the opcode map, by index. -/
def opGroup7 : List (Raw → Option Instr) :=
  [mkM .vld, mkM .vst, mkM .vadd, mkM .vprobe, mkM .vnbr, mkM .vtld, mkM .valloc, mkM .vfree,
   mkM .vshoot, mkM .vbgrd]

/-- Group 8 of the opcode map, by index. -/
def opGroup8 : List (Raw → Option Instr) :=
  [mkM .gthr, mkM .sctr, mkM .sctra, mkV .confl, mkV .cmbn, mkV .spawni, mkJK .itemloop,
   mkV .itemget, mkZ .itemend]

/-- Group 9 of the opcode map, by index. -/
def opGroup9 : List (Raw → Option Instr) :=
  [mkOBR .obres, mkZ .obrel, mkSHP .shape, mkSA .mxldb, mkSA .mxlda, mkTA .mxmac, mkTA .mxmacs,
   mkTA .mxzero, mkTAB .mxst, mkTAB .mxcvt, mkDT .mxver, mkS1 .mxbar, mkS1 .mxwait, mkZ .mxacq,
   mkZ .mxrel, mkSD .mxflags]

/-- Group 10 of the opcode map, by index. -/
def opGroup10 : List (Raw → Option Instr) :=
  [mkM .schrun, mkV .ddiv, mkV .dsqrt, mkV .pivchk, mkV .trstep, mkV .schstat]

/-- Group 11 of the opcode map, by index. -/
def opGroup11 : List (Raw → Option Instr) :=
  [mkM .atom, mkM .atomc, mkZ .fence, mkM .ldacq, mkM .strel, mkM .cjinit, mkM .cjarr, mkM .cjdrop,
   mkM .cjwait, mkM .cjbyte, mkM .cjtest]

/-- Group 12 of the opcode map, by index. -/
def opGroup12 : List (Raw → Option Instr) :=
  [mkMP .spawn, mkV .tjoin, mkZ .tend, mkV .tself, mkV .rpost, mkV .rread, mkV .rset, mkM .inpost,
   mkM .snap, mkMP .launch, mkV .lwait]

/-- Group 13 of the opcode map, by index. -/
def opGroup13 : List (Raw → Option Instr) :=
  [mkCCB .capld, mkCCB .capst, mkCCB .capnar, mkCC .capoff, mkDCB .captst, mkDC .capget,
   mkCC .capmov]

/-- Group 14 of the opcode map, by index. -/
def opGroup14 : List (Raw → Option Instr) :=
  [mkSD .srd, mkSA .swr, mkZ .trap, mkZ .brkpt, mkZ .eret, mkZ .beat, mkM .ctxsv, mkM .ctxld,
   mkZ .icinv, mkZ .wfi, mkV .regq]

/-- The opcode map: group 15 is illegal (Table 3.1). -/
def opMap : List (List (Raw → Option Instr)) :=
  [opGroup0, opGroup1, opGroup2, opGroup3, opGroup4, opGroup5, opGroup6, opGroup7,
   opGroup8, opGroup9, opGroup10, opGroup11, opGroup12, opGroup13, opGroup14]

/-- Why a word encodes no instruction (Table 3.9). Every one of these raises ILLOP. -/
inductive DecodeError where
  /-- Fewer than 12 bytes. -/
  | short
  /-- OP names no instruction (R70). -/
  | opcode
  /-- Bits [2:0] of the word are not zero. -/
  | reserved
  /-- A field holds a value outside what the class gives it (R66), or an illegal modifier code (R59). -/
  | field
  /-- A guard, hint, modifier or operand that the entry does not list (R54, R56, R58, R63). -/
  | entry
  deriving DecidableEq, Repr

/-- The decoder of one word: what it answers is well-formed. -/
def decodeWord (w : InstrWord) : Except DecodeError Instr :=
  let r := Raw.unpack w
  if r.rsv != 0 then .error .reserved else
  match opMap[r.op.toNat / 64]? with
  | none => .error .opcode
  | some g =>
    match g[r.op.toNat % 64]? with
    | none => .error .opcode
    | some mk =>
      match mk r with
      | none => .error .field
      | some i => if i.wf then .ok i else .error .entry

/-- The decoder of the bytes at an instruction's place (R52: 12 bytes, little-endian). -/
def decode (bs : List Byte) : Except DecodeError Instr :=
  if bs.length < 12 then .error .short else decodeWord (BitVec.ofNat 96 (leNat (bs.take 12)))

/-- The instruction the decoder reads from a word numbered as the opcode table numbers its bits. -/
def decodeTableWord (nbits w : Nat) : Option Instr :=
  if 96 < nbits then none else
  match decode (leBytes 12 (w % 2 ^ nbits)) with
  | .ok i => some i
  | .error _ => none

/-! ### The encoder -/

/-- The fields of an instruction's word; none for a command or event, which no word encodes. -/
def Instr.raw : Instr → Option Raw
  | .nop c m => some ⟨0, c, 0, 0, 0, m.pack, 0⟩
  | .bra c off => some ⟨1, c, 0, 0, 0, off, 0⟩
  | .brx c o => some ⟨2, c, o.d.enc, o.a.enc, o.b.enc, o.m.pack, 0⟩
  | .brany c p off => some ⟨3, c, 0, p.setWidth 11, 0, off, 0⟩
  | .brall c p off => some ⟨4, c, 0, p.setWidth 11, 0, off, 0⟩
  | .call c off => some ⟨5, c, 0, 0, 0, off, 0⟩
  | .callx c o => some ⟨6, c, o.d.enc, o.a.enc, o.b.enc, o.m.pack, 0⟩
  | .ret c m => some ⟨7, c, 0, 0, 0, m.pack, 0⟩
  | .exit c m => some ⟨8, c, 0, 0, 0, m.pack, 0⟩
  | .yield c m => some ⟨9, c, 0, 0, 0, m.pack, 0⟩
  | .clen c k => some ⟨10, c, k.setWidth 11, 0, 0, 0, 0⟩
  | .clwait c k => some ⟨11, c, k.setWidth 11, 0, 0, 0, 0⟩
  | .cldrop c k => some ⟨12, c, k.setWidth 11, 0, 0, 0, 0⟩
  | .clget c d k m => some ⟨13, c, d.enc, k.setWidth 11, 0, m.pack, 0⟩
  | .clset c k a m => some ⟨14, c, k.setWidth 11, a.enc, 0, m.pack, 0⟩
  | .ipref c off => some ⟨15, c, 0, 0, 0, off, 0⟩
  | .loop c d off => some ⟨16, c, d.enc, 0, 0, off, 0⟩
  | .iadd c o => some ⟨64, c, o.d.enc, o.a.enc, o.b.enc, o.m.pack, 0⟩
  | .isub c o => some ⟨65, c, o.d.enc, o.a.enc, o.b.enc, o.m.pack, 0⟩
  | .iaddc c o => some ⟨66, c, o.d.enc, o.a.enc, o.b.enc, o.m.pack, 0⟩
  | .isubb c o => some ⟨67, c, o.d.enc, o.a.enc, o.b.enc, o.m.pack, 0⟩
  | .imul c o => some ⟨68, c, o.d.enc, o.a.enc, o.b.enc, o.m.pack, 0⟩
  | .imulh c o => some ⟨69, c, o.d.enc, o.a.enc, o.b.enc, o.m.pack, 0⟩
  | .imad c o => some ⟨70, c, o.d.enc, o.a.enc, o.b.enc, o.m.pack, 0⟩
  | .idiv c o => some ⟨71, c, o.d.enc, o.a.enc, o.b.enc, o.m.pack, 0⟩
  | .irem c o => some ⟨72, c, o.d.enc, o.a.enc, o.b.enc, o.m.pack, 0⟩
  | .iabs c o => some ⟨73, c, o.d.enc, o.a.enc, o.b.enc, o.m.pack, 0⟩
  | .ineg c o => some ⟨74, c, o.d.enc, o.a.enc, o.b.enc, o.m.pack, 0⟩
  | .imin c o => some ⟨75, c, o.d.enc, o.a.enc, o.b.enc, o.m.pack, 0⟩
  | .imax c o => some ⟨76, c, o.d.enc, o.a.enc, o.b.enc, o.m.pack, 0⟩
  | .and c o => some ⟨77, c, o.d.enc, o.a.enc, o.b.enc, o.m.pack, 0⟩
  | .or c o => some ⟨78, c, o.d.enc, o.a.enc, o.b.enc, o.m.pack, 0⟩
  | .xor c o => some ⟨79, c, o.d.enc, o.a.enc, o.b.enc, o.m.pack, 0⟩
  | .andn c o => some ⟨80, c, o.d.enc, o.a.enc, o.b.enc, o.m.pack, 0⟩
  | .not c o => some ⟨81, c, o.d.enc, o.a.enc, o.b.enc, o.m.pack, 0⟩
  | .shl c o => some ⟨82, c, o.d.enc, o.a.enc, o.b.enc, o.m.pack, 0⟩
  | .shr c o => some ⟨83, c, o.d.enc, o.a.enc, o.b.enc, o.m.pack, 0⟩
  | .sar c o => some ⟨84, c, o.d.enc, o.a.enc, o.b.enc, o.m.pack, 0⟩
  | .rol c o => some ⟨85, c, o.d.enc, o.a.enc, o.b.enc, o.m.pack, 0⟩
  | .popc c o => some ⟨86, c, o.d.enc, o.a.enc, o.b.enc, o.m.pack, 0⟩
  | .clz c o => some ⟨87, c, o.d.enc, o.a.enc, o.b.enc, o.m.pack, 0⟩
  | .ctz c o => some ⟨88, c, o.d.enc, o.a.enc, o.b.enc, o.m.pack, 0⟩
  | .brev c o => some ⟨89, c, o.d.enc, o.a.enc, o.b.enc, o.m.pack, 0⟩
  | .bfx c o => some ⟨90, c, o.d.enc, o.a.enc, o.b.enc, o.m.pack, 0⟩
  | .bfi c o => some ⟨91, c, o.d.enc, o.a.enc, o.b.enc, o.m.pack, 0⟩
  | .bperm c o => some ⟨92, c, o.d.enc, o.a.enc, o.b.enc, o.m.pack, 0⟩
  | .isad c o => some ⟨93, c, o.d.enc, o.a.enc, o.b.enc, o.m.pack, 0⟩
  | .iadds c o => some ⟨94, c, o.d.enc, o.a.enc, o.b.enc, o.m.pack, 0⟩
  | .imadw c o => some ⟨95, c, o.d.enc, o.a.enc, o.b.enc, o.m.pack, 0⟩
  | .mov c o => some ⟨128, c, o.d.enc, o.a.enc, o.b.enc, o.m.pack, 0⟩
  | .movi c d imm => some ⟨129, c, d.enc, 0, 0, imm, 0⟩
  | .movx c o => some ⟨130, c, o.d.enc, o.a.enc, o.b.enc, o.m.pack, 0⟩
  | .movxw c o => some ⟨131, c, o.d.enc, o.a.enc, o.b.enc, o.m.pack, 0⟩
  | .sel c o => some ⟨132, c, o.d.enc, o.a.enc, o.b.enc, o.m.pack, 0⟩
  | .icmp c o => some ⟨133, c, encP o.p, o.a.enc, o.b.enc, o.m.pack, 0⟩
  | .pand c o => some ⟨134, c, encP o.p, o.a.setWidth 11, o.b.setWidth 11, o.m.pack, 0⟩
  | .por c o => some ⟨135, c, encP o.p, o.a.setWidth 11, o.b.setWidth 11, o.m.pack, 0⟩
  | .pxor c o => some ⟨136, c, encP o.p, o.a.setWidth 11, o.b.setWidth 11, o.m.pack, 0⟩
  | .pnot c o => some ⟨137, c, encP o.p, o.a.setWidth 11, o.b.setWidth 11, o.m.pack, 0⟩
  | .pmov c o => some ⟨138, c, encP o.p, o.a.setWidth 11, o.b.setWidth 11, o.m.pack, 0⟩
  | .vote c o => some ⟨139, c, encP o.p, o.a.setWidth 11, o.b.setWidth 11, o.m.pack, 0⟩
  | .ballot c o => some ⟨140, c, o.d.enc, o.a.enc, o.b.enc, o.m.pack, 0⟩
  | .shfl c o => some ⟨141, c, o.d.enc, o.a.enc, o.b.enc, o.m.pack, 0⟩
  | .bcast c o => some ⟨142, c, o.d.enc, o.a.enc, o.b.enc, o.m.pack, 0⟩
  | .affine c o => some ⟨143, c, o.d.enc, o.a.enc, o.b.enc, o.m.pack, 0⟩
  | .laneix c o => some ⟨144, c, o.d.enc, o.a.enc, o.b.enc, o.m.pack, 0⟩
  | .scan c o => some ⟨145, c, o.d.enc, o.a.enc, o.b.enc, o.m.pack, 0⟩
  | .red c o => some ⟨146, c, o.d.enc, o.a.enc, o.b.enc, o.m.pack, 0⟩
  | .fadd c o => some ⟨192, c, o.d.enc, o.a.enc, o.b.enc, o.m.pack, 0⟩
  | .fsub c o => some ⟨193, c, o.d.enc, o.a.enc, o.b.enc, o.m.pack, 0⟩
  | .fmul c o => some ⟨194, c, o.d.enc, o.a.enc, o.b.enc, o.m.pack, 0⟩
  | .ffma c o => some ⟨195, c, o.d.enc, o.a.enc, o.b.enc, o.m.pack, 0⟩
  | .fmin c o => some ⟨196, c, o.d.enc, o.a.enc, o.b.enc, o.m.pack, 0⟩
  | .fmax c o => some ⟨197, c, o.d.enc, o.a.enc, o.b.enc, o.m.pack, 0⟩
  | .fcmp c o => some ⟨198, c, encP o.p, o.a.enc, o.b.enc, o.m.pack, 0⟩
  | .fclass c o => some ⟨199, c, o.d.enc, o.a.enc, o.b.enc, o.m.pack, 0⟩
  | .frcp c o => some ⟨200, c, o.d.enc, o.a.enc, o.b.enc, o.m.pack, 0⟩
  | .frsq c o => some ⟨201, c, o.d.enc, o.a.enc, o.b.enc, o.m.pack, 0⟩
  | .fex2 c o => some ⟨202, c, o.d.enc, o.a.enc, o.b.enc, o.m.pack, 0⟩
  | .flg2 c o => some ⟨203, c, o.d.enc, o.a.enc, o.b.enc, o.m.pack, 0⟩
  | .fsin c o => some ⟨204, c, o.d.enc, o.a.enc, o.b.enc, o.m.pack, 0⟩
  | .fcos c o => some ⟨205, c, o.d.enc, o.a.enc, o.b.enc, o.m.pack, 0⟩
  | .fdot2 c o => some ⟨206, c, o.d.enc, o.a.enc, o.b.enc, o.m.pack, 0⟩
  | .fmul2 c o => some ⟨207, c, o.d.enc, o.a.enc, o.b.enc, o.m.pack, 0⟩
  | .ffma2 c o => some ⟨208, c, o.d.enc, o.a.enc, o.b.enc, o.m.pack, 0⟩
  | .fround c o => some ⟨209, c, o.d.enc, o.a.enc, o.b.enc, o.m.pack, 0⟩
  | .fscalb c o => some ⟨210, c, o.d.enc, o.a.enc, o.b.enc, o.m.pack, 0⟩
  | .fsat c o => some ⟨211, c, o.d.enc, o.a.enc, o.b.enc, o.m.pack, 0⟩
  | .cvt c o => some ⟨256, c, o.d.enc, o.a.enc, o.b.enc, o.m.pack, 0⟩
  | .cvti c o => some ⟨257, c, o.d.enc, o.a.enc, o.b.enc, o.m.pack, 0⟩
  | .cvtf c o => some ⟨258, c, o.d.enc, o.a.enc, o.b.enc, o.m.pack, 0⟩
  | .cvtef c o => some ⟨259, c, o.d.enc, o.a.enc, o.b.enc, o.m.pack, 0⟩
  | .efclr c e => some ⟨260, c, e.setWidth 11, 0, 0, 0, 0⟩
  | .efmov c wr r e => some ⟨261, c, (if wr then e.setWidth 11 else r.enc), (if wr then r.enc else e.setWidth 11), 0, (if wr then 0x00010000 else 0), 0⟩
  | .pack4 c o => some ⟨262, c, o.d.enc, o.a.enc, o.b.enc, o.m.pack, 0⟩
  | .pack6 c o => some ⟨263, c, o.d.enc, o.a.enc, o.b.enc, o.m.pack, 0⟩
  | .pack8 c o => some ⟨264, c, o.d.enc, o.a.enc, o.b.enc, o.m.pack, 0⟩
  | .unpk c o => some ⟨265, c, o.d.enc, o.a.enc, o.b.enc, o.m.pack, 0⟩
  | .bscale c o => some ⟨266, c, o.d.enc, o.a.enc, o.b.enc, o.m.pack, 0⟩
  | .flagrd c o => some ⟨267, c, o.d.enc, o.a.enc, o.b.enc, o.m.pack, 0⟩
  | .flagclr c m => some ⟨268, c, 0, 0, 0, m.pack, 0⟩
  | .rmode c m => some ⟨269, c, 0, 0, 0, m.pack, 0⟩
  | .ld c o => some ⟨320, c, o.d.enc, o.cap.setWidth 11, o.b.enc, o.m.pack, 0⟩
  | .st c o => some ⟨321, c, o.d.enc, o.cap.setWidth 11, o.b.enc, o.m.pack, 0⟩
  | .ldsp c o => some ⟨322, c, o.d.enc, o.cap.setWidth 11, o.b.enc, o.m.pack, 0⟩
  | .stsp c o => some ⟨323, c, o.d.enc, o.cap.setWidth 11, o.b.enc, o.m.pack, 0⟩
  | .ldnp c o => some ⟨324, c, o.d.enc, o.cap.setWidth 11, o.b.enc, o.m.pack, 0⟩
  | .ldv c o => some ⟨325, c, o.d.enc, o.cap.setWidth 11, o.b.enc, o.m.pack, 0⟩
  | .stv c o => some ⟨326, c, o.d.enc, o.cap.setWidth 11, o.b.enc, o.m.pack, 0⟩
  | .ldu c o => some ⟨327, c, o.d.enc, o.cap.setWidth 11, o.b.enc, o.m.pack, 0⟩
  | .prtest c o => some ⟨328, c, encP o.p, o.cap.setWidth 11, o.b.enc, o.m.pack, 0⟩
  | .prwait c o => some ⟨329, c, o.d.enc, o.cap.setWidth 11, o.b.enc, o.m.pack, 0⟩
  | .cpkick c o => some ⟨384, c, o.d.enc, o.cap.setWidth 11, o.b.enc, o.m.pack, 0⟩
  | .cpstat c o => some ⟨385, c, o.d.enc, o.a.enc, o.b.enc, o.m.pack, 0⟩
  | .cpcancel c o => some ⟨386, c, o.d.enc, o.a.enc, o.b.enc, o.m.pack, 0⟩
  | .rltest c o => some ⟨387, c, encP o.p, o.cap.setWidth 11, o.b.enc, o.m.pack, 0⟩
  | .cpin c o => some ⟨388, c, o.d.enc, o.cap.setWidth 11, o.b.enc, o.m.pack, 0⟩
  | .cpout c o => some ⟨389, c, o.d.enc, o.cap.setWidth 11, o.b.enc, o.m.pack, 0⟩
  | .vld c o => some ⟨448, c, o.d.enc, o.cap.setWidth 11, o.b.enc, o.m.pack, 0⟩
  | .vst c o => some ⟨449, c, o.d.enc, o.cap.setWidth 11, o.b.enc, o.m.pack, 0⟩
  | .vadd c o => some ⟨450, c, o.d.enc, o.cap.setWidth 11, o.b.enc, o.m.pack, 0⟩
  | .vprobe c o => some ⟨451, c, o.d.enc, o.cap.setWidth 11, o.b.enc, o.m.pack, 0⟩
  | .vnbr c o => some ⟨452, c, o.d.enc, o.cap.setWidth 11, o.b.enc, o.m.pack, 0⟩
  | .vtld c o => some ⟨453, c, o.d.enc, o.cap.setWidth 11, o.b.enc, o.m.pack, 0⟩
  | .valloc c o => some ⟨454, c, o.d.enc, o.cap.setWidth 11, o.b.enc, o.m.pack, 0⟩
  | .vfree c o => some ⟨455, c, o.d.enc, o.cap.setWidth 11, o.b.enc, o.m.pack, 0⟩
  | .vshoot c o => some ⟨456, c, o.d.enc, o.cap.setWidth 11, o.b.enc, o.m.pack, 0⟩
  | .vbgrd c o => some ⟨457, c, o.d.enc, o.cap.setWidth 11, o.b.enc, o.m.pack, 0⟩
  | .gthr c o => some ⟨512, c, o.d.enc, o.cap.setWidth 11, o.b.enc, o.m.pack, 0⟩
  | .sctr c o => some ⟨513, c, o.d.enc, o.cap.setWidth 11, o.b.enc, o.m.pack, 0⟩
  | .sctra c o => some ⟨514, c, o.d.enc, o.cap.setWidth 11, o.b.enc, o.m.pack, 0⟩
  | .confl c o => some ⟨515, c, o.d.enc, o.a.enc, o.b.enc, o.m.pack, 0⟩
  | .cmbn c o => some ⟨516, c, o.d.enc, o.a.enc, o.b.enc, o.m.pack, 0⟩
  | .spawni c o => some ⟨517, c, o.d.enc, o.a.enc, o.b.enc, o.m.pack, 0⟩
  | .itemloop c k d off => some ⟨518, c, d.enc, k.setWidth 11, 0, off, 0⟩
  | .itemget c o => some ⟨519, c, o.d.enc, o.a.enc, o.b.enc, o.m.pack, 0⟩
  | .itemend c m => some ⟨520, c, 0, 0, 0, m.pack, 0⟩
  | .obres c d a m => some ⟨576, c, d.enc, a.enc, 0, m.pack, 0⟩
  | .obrel c m => some ⟨577, c, 0, 0, 0, m.pack, 0⟩
  | .shape c a b m => some ⟨578, c, 0, a.enc, b.enc, m.pack, 0⟩
  | .mxldb c a m => some ⟨579, c, 0, a.enc, 0, m.pack, 0⟩
  | .mxlda c a m => some ⟨580, c, 0, a.enc, 0, m.pack, 0⟩
  | .mxmac c t a m => some ⟨581, c, t.setWidth 11, a.enc, 0, m.pack, 0⟩
  | .mxmacs c t a m => some ⟨582, c, t.setWidth 11, a.enc, 0, m.pack, 0⟩
  | .mxzero c t a m => some ⟨583, c, t.setWidth 11, a.enc, 0, m.pack, 0⟩
  | .mxst c t a b m => some ⟨584, c, t.setWidth 11, a.enc, b.enc, m.pack, 0⟩
  | .mxcvt c t a b m => some ⟨585, c, t.setWidth 11, a.enc, b.enc, m.pack, 0⟩
  | .mxver c d t => some ⟨586, c, d.enc, t.setWidth 11, 0, 0, 0⟩
  | .mxbar c k => some ⟨587, c, k.setWidth 11, 0, 0, 0, 0⟩
  | .mxwait c k => some ⟨588, c, k.setWidth 11, 0, 0, 0, 0⟩
  | .mxacq c m => some ⟨589, c, 0, 0, 0, m.pack, 0⟩
  | .mxrel c m => some ⟨590, c, 0, 0, 0, m.pack, 0⟩
  | .mxflags c d m => some ⟨591, c, d.enc, 0, 0, m.pack, 0⟩
  | .schrun c o => some ⟨640, c, o.d.enc, o.cap.setWidth 11, o.b.enc, o.m.pack, 0⟩
  | .ddiv c o => some ⟨641, c, o.d.enc, o.a.enc, o.b.enc, o.m.pack, 0⟩
  | .dsqrt c o => some ⟨642, c, o.d.enc, o.a.enc, o.b.enc, o.m.pack, 0⟩
  | .pivchk c o => some ⟨643, c, o.d.enc, o.a.enc, o.b.enc, o.m.pack, 0⟩
  | .trstep c o => some ⟨644, c, o.d.enc, o.a.enc, o.b.enc, o.m.pack, 0⟩
  | .schstat c o => some ⟨645, c, o.d.enc, o.a.enc, o.b.enc, o.m.pack, 0⟩
  | .atom c o => some ⟨704, c, o.d.enc, o.cap.setWidth 11, o.b.enc, o.m.pack, 0⟩
  | .atomc c o => some ⟨705, c, o.d.enc, o.cap.setWidth 11, o.b.enc, o.m.pack, 0⟩
  | .fence c m => some ⟨706, c, 0, 0, 0, m.pack, 0⟩
  | .ldacq c o => some ⟨707, c, o.d.enc, o.cap.setWidth 11, o.b.enc, o.m.pack, 0⟩
  | .strel c o => some ⟨708, c, o.d.enc, o.cap.setWidth 11, o.b.enc, o.m.pack, 0⟩
  | .cjinit c o => some ⟨709, c, o.d.enc, o.cap.setWidth 11, o.b.enc, o.m.pack, 0⟩
  | .cjarr c o => some ⟨710, c, o.d.enc, o.cap.setWidth 11, o.b.enc, o.m.pack, 0⟩
  | .cjdrop c o => some ⟨711, c, o.d.enc, o.cap.setWidth 11, o.b.enc, o.m.pack, 0⟩
  | .cjwait c o => some ⟨712, c, o.d.enc, o.cap.setWidth 11, o.b.enc, o.m.pack, 0⟩
  | .cjbyte c o => some ⟨713, c, o.d.enc, o.cap.setWidth 11, o.b.enc, o.m.pack, 0⟩
  | .cjtest c o => some ⟨714, c, o.d.enc, o.cap.setWidth 11, o.b.enc, o.m.pack, 0⟩
  | .spawn c o => some ⟨768, c, encP o.p, o.cap.setWidth 11, o.b.enc, o.m.pack, 0⟩
  | .tjoin c o => some ⟨769, c, o.d.enc, o.a.enc, o.b.enc, o.m.pack, 0⟩
  | .tend c m => some ⟨770, c, 0, 0, 0, m.pack, 0⟩
  | .tself c o => some ⟨771, c, o.d.enc, o.a.enc, o.b.enc, o.m.pack, 0⟩
  | .rpost c o => some ⟨772, c, o.d.enc, o.a.enc, o.b.enc, o.m.pack, 0⟩
  | .rread c o => some ⟨773, c, o.d.enc, o.a.enc, o.b.enc, o.m.pack, 0⟩
  | .rset c o => some ⟨774, c, o.d.enc, o.a.enc, o.b.enc, o.m.pack, 0⟩
  | .inpost c o => some ⟨775, c, o.d.enc, o.cap.setWidth 11, o.b.enc, o.m.pack, 0⟩
  | .snap c o => some ⟨776, c, o.d.enc, o.cap.setWidth 11, o.b.enc, o.m.pack, 0⟩
  | .launch c o => some ⟨777, c, encP o.p, o.cap.setWidth 11, o.b.enc, o.m.pack, 0⟩
  | .lwait c o => some ⟨778, c, o.d.enc, o.a.enc, o.b.enc, o.m.pack, 0⟩
  | .capld c cd ca b m => some ⟨832, c, cd.setWidth 11, ca.setWidth 11, b.enc, m.pack, 0⟩
  | .capst c cd ca b m => some ⟨833, c, cd.setWidth 11, ca.setWidth 11, b.enc, m.pack, 0⟩
  | .capnar c cd ca b m => some ⟨834, c, cd.setWidth 11, ca.setWidth 11, b.enc, m.pack, 0⟩
  | .capoff c cd ca m => some ⟨835, c, cd.setWidth 11, ca.setWidth 11, 0, m.pack, 0⟩
  | .captst c d ca b m => some ⟨836, c, d.enc, ca.setWidth 11, b.enc, m.pack, 0⟩
  | .capget c d ca m => some ⟨837, c, d.enc, ca.setWidth 11, 0, m.pack, 0⟩
  | .capmov c cd ca m => some ⟨838, c, cd.setWidth 11, ca.setWidth 11, 0, m.pack, 0⟩
  | .srd c d m => some ⟨896, c, d.enc, 0, 0, m.pack, 0⟩
  | .swr c a m => some ⟨897, c, 0, a.enc, 0, m.pack, 0⟩
  | .trap c m => some ⟨898, c, 0, 0, 0, m.pack, 0⟩
  | .brkpt c m => some ⟨899, c, 0, 0, 0, m.pack, 0⟩
  | .eret c m => some ⟨900, c, 0, 0, 0, m.pack, 0⟩
  | .beat c m => some ⟨901, c, 0, 0, 0, m.pack, 0⟩
  | .ctxsv c o => some ⟨902, c, o.d.enc, o.cap.setWidth 11, o.b.enc, o.m.pack, 0⟩
  | .ctxld c o => some ⟨903, c, o.d.enc, o.cap.setWidth 11, o.b.enc, o.m.pack, 0⟩
  | .icinv c m => some ⟨904, c, 0, 0, 0, m.pack, 0⟩
  | .wfi c m => some ⟨905, c, 0, 0, 0, m.pack, 0⟩
  | .regq c o => some ⟨906, c, o.d.enc, o.a.enc, o.b.enc, o.m.pack, 0⟩
  | _ => none

/-- The word of an instruction. -/
def encode (i : Instr) : Option InstrWord := i.raw.map Raw.pack

/-- The 12 bytes of an instruction, lowest address first. -/
def encodeBytes (i : Instr) : Option (List Byte) := (encode i).map fun w => leBytes 12 w.toNat

/-! ### Commands -/

/-- The number in bytes `lo` to `lo + n - 1` of a command. -/
def cmdNat (bs : List Byte) (lo n : Nat) : Nat := leNat ((bs.drop lo).take n)

/-- The field of `w` bits at byte `lo` of a command. -/
def cmdF (bs : List Byte) (w lo : Nat) : BitVec w := BitVec.ofNat w (cmdNat bs lo ((w + 7) / 8))

/-- Every body byte outside the named ranges (first byte, length) is zero (R118, R120). -/
def bodyZero (bs : List Byte) (named : List (Nat × Nat)) : Bool :=
  (List.range 96).all fun i =>
    named.any (fun r => decide (r.1 ≤ 32 + i ∧ 32 + i < r.1 + r.2)) || cmdNat bs (32 + i) 1 == 0

/-- The header of a command from queue `q` of interface `vi` (Table 6.2). -/
def cmdHdr (vi q : Nat) (bs : List Byte) : CmdHdr :=
  { vi := vi, q := q, stat := cmdF bs 64 24, usertag := cmdF bs 64 16, gang := cmdF bs 32 12,
    peers := cmdF bs 16 10, gretry := (cmdF bs 8 2).getLsbD 2, irq := (cmdF bs 8 2).getLsbD 1,
    barrier := (cmdF bs 8 2).getLsbD 0 }

/-- The reserved header bits are zero, a gang identity has peers, and only LAUNCH and START have peers
(R118, R119). -/
def hdrOk (h : CmdHdr) (bs : List Byte) : Bool :=
  cmdNat bs 1 1 == 0 && cmdNat bs 2 1 / 8 == 0 && cmdNat bs 3 7 == 0 && !h.peers.getLsbD 0 &&
    (h.gang == 0 || h.peers != 0) && (h.peers == 0 || cmdNat bs 0 1 == 1 || cmdNat bs 0 1 == 2)

/-- The body of LAUNCH, START, STOP and UNLOAD (Table 6.5). -/
def launchBody (bs : List Byte) : LaunchBody :=
  { loadh := cmdF bs 64 120, entryno := cmdF bs 16 118, minblk := cmdF bs 16 116,
    diemask := BitVec.ofNat 4 (cmdNat bs 115 1 / 16), capmask := cmdF bs 32 108, capstore := cmdF bs 24 102,
    gx := cmdF bs 32 32, gy := cmdF bs 32 36, gz := cmdF bs 32 40 }

/-- The reserved bits of the launch body are zero. -/
def launchZero (bs : List Byte) : Bool :=
  bodyZero bs [(32, 12), (102, 3), (108, 4), (115, 13)] && cmdNat bs 115 1 % 16 == 0

/-- The command in the 128 bytes that the front end copied (R117), or none: BADCMD (R118). -/
def decodeCommand (vi q : Nat) (bs : List Byte) : Option Instr :=
  let h := cmdHdr vi q bs
  let z := fun (named : List (Nat × Nat)) (i : Instr) => if bodyZero bs named then some i else none
  if !hdrOk h bs then none else
  match cmdNat bs 0 1 with
  | 0x00 => z [] (.nopCommand h)
  | 0x01 => if launchZero bs then some (.launchCommand h (launchBody bs)) else none
  | 0x02 => if launchZero bs then some (.start h (launchBody bs)) else none
  | 0x03 => z [(118, 10)] (.stop h (cmdF bs 64 120) (cmdF bs 16 118))
  | 0x04 => z [(32, 12)] (.load h (cmdF bs 64 32) (cmdF bs 32 40))
  | 0x05 => z [(120, 8)] (.unload h (cmdF bs 64 120))
  | 0x06 => z [(32, 6), (40, 10), (56, 2), (60, 8), (72, 8)] (.objcreate h
      { kind := cmdF bs 8 32, psize := cmdF bs 8 33, okind := cmdF bs 8 34, repl := cmdF bs 8 35,
        rights := cmdF bs 8 36, flags := cmdF bs 8 37, size := cmdF bs 64 40, home := cmdF bs 16 48,
        etype := cmdF bs 8 56, nch := cmdF bs 8 57, nnodes := cmdF bs 32 60, pool := cmdF bs 32 64,
        store := cmdF bs 32 72, slot := cmdF bs 32 76 })
  | 0x07 => if cmdNat bs 35 1 == 0 then z [(32, 3)] (.objdestroy h (cmdF bs 24 32)) else none
  | 0x08 => z [(32, 1), (36, 24)] (.hcopy h
      { dir := cmdF bs 8 32, oid := cmdF bs 32 36, iova := cmdF bs 64 40, off := cmdF bs 64 48, len := cmdF bs 32 56 })
  | 0x09 => z [(32, 4), (40, 12)] (.waitcj h (cmdF bs 32 32) (cmdF bs 64 40) (cmdF bs 32 48))
  | 0x0A => if q == 0 then z [(32, 6), (40, 8)] (.createq h
      { qn := cmdF bs 16 32, s := cmdF bs 8 34, prio := cmdF bs 8 35, vec := cmdF bs 16 36, ring := cmdF bs 64 40 })
      else none
  | 0x0B => if q == 0 then z [(32, 2)] (.destroyq h (cmdF bs 16 32)) else none
  | 0x0C => z [(32, 13), (48, 16)] (.capmint h
      { oid := cmdF bs 32 32, store := cmdF bs 32 36, slot := cmdF bs 32 40, rights := cmdF bs 8 44,
        lower := cmdF bs 64 48, upper := cmdF bs 64 56 })
  | 0x0D => z [(32, 4), (40, 8)] (.pageresume h (cmdF bs 32 32) (cmdF bs 64 40))
  | 0x20 => z [(32, 3), (36, 8), (48, 32)] (.partcfg h
      { part := cmdF bs 8 32, slots := cmdF bs 8 33, flags := cmdF bs 8 34, s := cmdF bs 32 36,
        c := cmdF bs 32 40, share := cmdF bs 64 48, cores := cmdF bs 192 56 })
  | 0x21 => z [(32, 1)] (.partdel h (cmdF bs 8 32))
  | 0x22 => z [(32, 3)] (.vfbind h (cmdF bs 16 32) (cmdF bs 8 34))
  | 0x23 => z [(32, 32)] (.gangpeers h (cmdF bs 16 32) ((List.range 15).map fun j => cmdF bs 16 (34 + 2 * j)))
  | 0x24 => z [(32, 5), (40, 9)] (.shareobj h
      { oid := cmdF bs 32 32, part := cmdF bs 8 36, store := cmdF bs 32 40, slot := cmdF bs 32 44, rights := cmdF bs 8 48 })
  | 0x25 => z [(32, 2)] (.repair h (cmdF bs 16 32))
  | 0x26 => z [(32, 12)] (.fwstage h (cmdF bs 64 32) (cmdF bs 32 40))
  | 0x27 => z [] (.fwact h)
  | 0x28 => z [(32, 1), (40, 16)] (.logread h
      { log := cmdF bs 8 32, iova := cmdF bs 64 40, len := cmdF bs 32 48, first := cmdF bs 32 52 })
  | 0x29 => z [(32, 1), (36, 4)] (.dbgresume h (cmdF bs 8 32) (cmdF bs 32 36))
  | _ => none

end Sys2Proof
end

