-- ==== Sys2Proof/Machine/State.lean ====
section
/-!
DEFINITION. The state of the whole module as plain data: objects and their pages, partitions, interfaces and
queues, loads, jobs, grids and standing programs, every core with its blocks, warps and threads, the
engines' requests in flight, the host's memory, the logs, the boot and attestation state, and the model's own
agenda (which unit moves next) and free-value counter. `State.reset` is the part at cold power-on.
-/
set_option autoImplicit false

namespace Sys2Proof.Machine

/-- A sparse map in canonical form: keys strictly rising, no entry holding the default value. -/
abbrev SMap (α : Type) := List (Nat × α)

/-- Bytes by address, in the same canonical form; an unlisted byte reads 0. -/
abbrev Memory := List Host.Cell

/-- A capability with its valid bit (R73, Table 4.1). -/
structure Cap where
  valid  : Bool := false
  oid    : BitVec 24 := 0
  rights : BitVec 8 := 0
  upper  : BitVec 48 := 0
  lower  : BitVec 48 := 0
  deriving DecidableEq, Repr

/-- Object kinds (Table 4.3). -/
inductive ObjKind where
  | data | code | capStore | scratch | volume | tilePool | report
  deriving DecidableEq, Repr

/-- A page entry (R80, Table 4.4). -/
structure PageEntry where
  kind  : BitVec 2 := 0
  repl  : BitVec 2 := 0
  comp  : Bool := false
  large : Bool := false
  valid : Bool := true
  stack : BitVec 4 := 0
  frame : BitVec 24 := 0
  aux   : BitVec 24 := 0
  deriving DecidableEq, Repr

/-- Runs of frames: the first and how many. Frame `f` of stack `k` has the module number `1138783·k + f` (R81). -/
abbrev Frames := List (Nat × Nat)

/-- An object (R79): descriptor, page entries, contents, capability slots, and the lines whose presence bit is
clear (R252). `owner` is a partition, or 16 for firmware; `proto` is the entry of a page that nothing has changed, but for its place: the
frames that its pages were given in order are `ext`, one list, or one for each compute die of an RDUP or MREP object, whose entries in the
owner's replica array begin at `aux0`. `held` are the frames that it holds now. A byte that nothing has written reads 0, or, where `fill` is
some `b`, the free value `b` + its offset (R87): `mem` holds a byte's difference from that. -/
structure Obj where
  kind   : ObjKind
  owner  : Nat
  owner2 : Option Nat := none
  size   : Nat
  rights : BitVec 8 := 0
  live   : Bool := true
  shared : Bool := false
  home   : Nat := 0
  large  : Bool := false
  mem    : Memory := []
  slots  : SMap Cap := []
  proto  : PageEntry := {}
  pages  : SMap PageEntry := []
  ext    : List Frames := []
  held   : Frames := []
  aux0   : Nat := 0
  fill   : Option Nat := none
  absent : List Nat := []
  load   : Option Nat := none
  pool   : BitVec 24 := 0
  deriving DecidableEq, Repr

/-- An item of an item queue (R317, Table 13.2). -/
structure Item where
  cls  : BitVec 4
  arg0 : Word
  arg1 : Word
  arg2 : Word
  deriving DecidableEq, Repr

/-- Names one warp: its core, its block's sequencer and its index in the block. -/
structure WRef where
  core : Nat
  seq  : Nat
  warp : Nat
  deriving DecidableEq, Repr

/-- What a thread waits for. The codes of Table 18.2 are: `conj` 1; `itemq`, `itemOwn`, `tjoin`, `lwait` 2;
`load` 3; `copy` 4; `matrix` 5. The others are no blocking points (R434). `hold` is the operand latch slot that an ITEMLOOP wrote, and when (R62). -/
inductive Wait where
  | none
  | clause (k : Nat)
  | conj (id : Nat)
  | itemq (k : Nat) (d : VReg) (exit : BitVec 32) (hold : Option (Nat × Nat) := Option.none)
  | itemOwn (k : Nat)
  | tjoin (uid t : Nat)
  | lwait (uid t : Nat)
  | load (id : Nat)
  | copy (id : Nat)
  | mxver (tile : Nat) (ver : BitVec 16)
  | mxbar (b : Nat)
  | mxacq
  | wprot (id : Nat)
  | answer (id : Nat)
  | deferred
  deriving DecidableEq, Repr

/-- The state of one thread (Tables 0.2 and 18.4). `stamp` is its age (R160), `las` the lookahead budget left of each of its
outstanding long-latency instructions (R60), `acq` the time of its latest acquire at die scope or wider (R288), `yld` the
threads that must issue first, each with its age stamp then, `yall` that this holds though they are no longer ready, and `yclk` that a YIELD's
clocks have not passed (R64, R180). `done` says that the thread's lane has been performed of the instruction that a VOLFULL trap had it return to, so the retry does
not issue in it (R430). -/
structure Thread where
  pc      : BitVec 32 := 0
  obj     : BitVec 24 := 0
  ended   : Bool := false
  wait    : Wait := .none
  inH     : Bool := false
  ret     : Bool := false
  rstack  : List (BitVec 24 × BitVec 32) := []
  cychi   : Word := 0
  item    : Option Item := none
  stamp   : Nat := 0
  las     : List (Nat × Nat) := []
  acq     : Nat := 0
  yld     : List (WRef × Nat × Nat) := []
  yall    : Bool := false
  yclk    : Bool := false
  done    : Bool := false
  deriving DecidableEq, Repr

/-- The causes of traps and faults (R426, Table 18.1). -/
inductive Cause where
  | illop | regrange | regshape | capbound | capright | capinvalid | rangelock | misalign | fptrap | idivz | volfull
  | volcoord | gatherix | shaperec | obextent | cjover | mxversion | deqspill | wprot | priv | spillovf | brkpt | softtrap
  | latch | pageabort | mcheck | loadfit
  deriving DecidableEq, Repr

/-- A trap being handled (R427). -/
structure TrapInfo where
  cause : BitVec 8
  pc    : BitVec 32
  obj   : BitVec 24
  lanes : Mask
  info  : Word
  deriving DecidableEq, Repr

/-- A warp (R144, R153, R169, R220, R223, R354). Registers are keyed `32·n + lane` in `gen`, `n` in `aff` (base,
stride) and `uni`; companions `32·e + lane`; clause registers hold (ENR, ARR). `started` is when the warp was started or restored. -/
structure Warp where
  slice   : Nat := 0
  slot    : Nat := 0
  g       : Nat := 8
  f       : Nat := 0
  q       : Nat := 0
  gen     : SMap Word := []
  aff     : SMap (Word × Word) := []
  uni     : SMap Word := []
  preds   : SMap Mask := []
  clauses : SMap (Mask × Mask) := []
  efs     : SMap Word := []
  fpflags : BitVec 6 := 0
  fpten   : BitVec 5 := 0
  fprnd   : BitVec 3 := 0
  sp      : Nat := 0
  spill   : Memory := []
  pvcnt   : Word := 0
  trap    : Option TrapInfo := none
  started : Nat := 0
  threads : List Thread := []
  deriving DecidableEq, Repr

/-- An entry image (R127, Table 6.6). -/
structure Image where
  stream : BitVec 48 := 0
  entry  : BitVec 48 := 0
  spill  : Nat := 0
  shared : Nat := 0
  unif   : Nat := 0
  aff    : Nat := 0
  gen    : Nat := 8
  warps  : Nat := 1
  team   : Nat := 0
  strm   : Bool := false
  prio   : Bool := false
  idem   : Bool := false
  task   : Bool := false
  deriving DecidableEq, Repr

/-- A task record (R394, Table 17.1). -/
structure TaskRec where
  pslot   : BitVec 4 := 0
  eqblk   : BitVec 20 := 0
  warps   : BitVec 6 := 1
  settle  : Bool := false
  prio    : Bool := false
  idem    : Bool := false
  argcap  : BitVec 5 := 0
  jobid   : Word := 0
  succobj : BitVec 24 := 0
  succoff : BitVec 48 := 0
  depth   : BitVec 4 := 0
  tz      : BitVec 20 := 0
  ty      : BitVec 20 := 0
  tx      : BitVec 20 := 0
  image   : BitVec 16 := 0
  entry   : BitVec 48 := 0
  parent  : Option Nat := none
  deriving DecidableEq, Repr

/-- A matrix reservation (R328, Table 14.3). -/
structure Resv where
  base     : Nat
  extent   : Nat
  scaleoff : Nat
  planeoff : Nat
  fmt      : Nat
  blk      : Bool
  deriving DecidableEq, Repr

/-- A matrix shape slot (R329). -/
structure Shape where
  resv   : Nat
  base   : Nat
  stride : Nat
  rows   : Nat
  cols   : Nat
  deriving DecidableEq, Repr

/-- A loaded operand tile (R329, R330): element codes, and the E8M0 scales of the elements, keyed `128·row + k`, the
extent inside which elements are no edge elements, and the non-finite flags of the four groups (R334). -/
structure Operand where
  fmt    : Nat
  rows   : Nat
  cols   : Nat
  elems  : SMap (BitVec 64) := []
  scales : SMap Byte := []
  nonfin : BitVec 4 := 0
  deriving DecidableEq, Repr

/-- An accumulator tile (R324, R335): version, FP64 kind, elements keyed `128·row + column`, default +0. -/
structure Tile where
  ver   : BitVec 16 := 0
  k64   : Bool := false
  elems : SMap (BitVec 64) := []
  deriving DecidableEq, Repr

/-- What a load reads, fixed when it issues (R344, R345): the reservation, the shape, and its base with the load's offset; `ldb` is MXLDB. -/
structure MxSrc where
  ldb   : Bool
  resv  : Resv
  shape : Shape
  base  : Nat
  deriving DecidableEq, Repr

/-- A matrix operation of the stream (R331, R335): the kind (0 MXZERO, 1 MXMAC, 2 MXMACS, 3 a load that waits), tile, row buffer, CIM
number and slot, the FP64 form of MXZERO, the expected version, whether it has started, and a load's source. -/
structure MxOp where
  kind    : Nat
  tile    : Nat
  rb      : Nat := 0
  cim     : Nat := 0
  slot    : Nat := 0
  f64     : Bool := false
  ver     : BitVec 16
  started : Bool := false
  src     : Option MxSrc := none
  deriving DecidableEq, Repr

/-- The state of a uniform sequencer's stream (R337, R338). -/
inductive StreamSt where
  | idle
  | running
  | waiting (b : Nat)
  | ended
  | faulted (cause sub : BitVec 8)
  deriving DecidableEq, Repr

/-- The matrix resources of a block (Table 14.1). -/
structure Mx where
  claim : Option (Nat × Nat) := none
  tiles : SMap Tile := []
  cims  : SMap (SMap Operand) := []
  rbufs : SMap Operand := []
  resv  : SMap Resv := []
  shapes : SMap Shape := []
  bars  : SMap Mask := []
  mxf   : BitVec 6 := 0
  st    : StreamSt := .idle
  pc    : BitVec 32 := 0
  regs  : SMap Word := []
  ops   : List MxOp := []
  deriving DecidableEq, Repr

/-- Where a block comes from (R440): a grid's ticket, or a task record. -/
inductive Origin where
  | grid (g : Nat) (x y z : Word)
  | task (r : TaskRec)
  deriving DecidableEq, Repr

/-- Why a block issues nothing more: an unhandled trap waiting for its accesses (R431), a debugger stop (R448), a
halt (R444), the abort of its job, or that its agent is saving or loading it piece by piece (R451). -/
inductive Stop where
  | trap (t : TrapInfo)
  | debug (t : TrapInfo) (id : Word)
  | halted
  | aborted
  | moving
  deriving DecidableEq, Repr

/-- A resident block (R76, R131, R140, R395). `retired` lists its retired warps, `kids` and `grids` the counts of
R418, `quanta` how long it has been marked (R437), `sticky` that it may no longer be aborted (R433), `done` that its
dispatch has committed (R100). -/
structure Block where
  origin  : Origin
  uid     : Nat := 0
  part    : Nat := 0
  job     : Nat := 0
  load    : Nat := 0
  code    : BitVec 24 := 0
  image   : Image := {}
  depth   : Nat := 0
  gdim    : Word × Word × Word := (0, 0, 0)
  caps    : SMap Cap := []
  shared  : Memory := []
  absent  : List Nat := []
  warps   : SMap Warp := []
  retired : List Nat := []
  kids    : Nat := 0
  grids   : Nat := 0
  mark    : Bool := false
  quanta  : Nat := 0
  sticky  : Bool := false
  done    : Bool := false
  stop    : Option Stop := none
  mx      : Mx := {}
  deriving DecidableEq, Repr

/-- An item queue with its owner block's sequencer and its outstanding count (R316). -/
structure ItemQ where
  owner : Nat
  items : List Item := []
  o     : Nat := 0
  deriving DecidableEq, Repr

/-- An operand latch slot (R62): width in bits, the values by lane, how many instructions of groups that include a lane of the
set have issued since, and when it was written. -/
structure Latch where
  width : Nat
  vals  : List (Nat × BitVec 64)
  used  : Nat := 0
  at_   : Nat := 0
  deriving DecidableEq, Repr

/-- A side of a copy, or a Conjunction object's place: block shared memory of a sequencer's block, or an object. -/
inductive Side where
  | shm (core seq : Nat)
  | obj (oid : BitVec 24)
  deriving DecidableEq, Repr

/-- A run of destination bytes of a copy inside one line: the destination offset, the length, and the source offset, or the
bytes themselves (a fill). `here` says that its source line has been found absent and is waited for (R256). -/
structure CopyPart where
  dst : Nat
  len : Nat
  src : Option Nat := none
  bytes : List Byte := []
  here : Bool := false
  deriving DecidableEq, Repr

/-- A copy in progress (R255 to R260, R277, R302, R347). `entry` says that it holds a range-lock entry with the bounding ranges `srcR` and
`dstR`; `todo` lists the parts not yet arrived; `cj` the Conjunction object it counts down; `after` the record that must
complete first (R273); `uid` the block that issued it and `seq` its sequencer; `op` the instruction that waits for it. `sets` says that it sets the presence bits of
its destination lines, which CPOUT does not (R252, R277), and `kick` that it is a kicked record (R274). `kept` lists the bytes that a copy with no count has delivered to
a line that is still absent, each with its value before the copy, which LDNP may read still (R267). -/
structure Copy where
  id      : Nat
  seq     : Nat
  uid     : Nat
  entry   : Bool
  srcSide : Option Side
  dstSide : Side
  srcR    : Nat × Nat := (0, 0)
  dstR    : Nat × Nat := (0, 0)
  todo    : List CopyPart
  cj      : Option (Side × Nat) := none
  started : Bool := true
  after   : Option Nat := none
  op      : Option Nat := none
  sets    : Bool := true
  kick    : Bool := false
  kept    : List (Nat × Byte) := []
  deriving DecidableEq, Repr

/-- A CLB entry (R285): volume, tile coordinate, the tile's pool offset or none for background with the depth, the
time it was filled, and the tile-cache slot that it names. -/
structure Clb where
  vol   : BitVec 24
  tx    : Nat
  ty    : Nat
  tz    : Nat
  tile  : Option Nat
  depth : Nat
  at_   : Nat
  slot  : Option Nat := none
  deriving DecidableEq, Repr

/-- A line that a core holds of a tile, or the background voxel: its bytes and the time it was fetched (R288). -/
structure TLine where
  bytes : List Byte
  at_   : Nat
  deriving DecidableEq, Repr

/-- A tile-cache slot (R286): its number, the tile that it caches, with the tile's coordinate and pool offset, its size in bytes, and the lines that are present,
by their number in the tile. -/
structure TSlot where
  id    : Nat
  vol   : BitVec 24
  tx    : Nat
  ty    : Nat
  tz    : Nat
  tile  : Nat
  size  : Nat
  lines : SMap TLine := []
  deriving DecidableEq, Repr

/-- The key of an issue-group entry (R161): slice, code object and index. -/
abbrev GroupKey := Nat × BitVec 24 × BitVec 32

/-- A core (R10, R139, R140, R157, R161, R396, R398, R400, R447). Slices' latches are keyed `4·slice + slot`; `icache` lists the lines that are
present, the most recently used first, `imiss` those requested, `igt` the issue-group entries, and `igtq` the keys that wait for one, the longest first; `chosen` is the record that
the starter has chosen and that has not fitted yet, `alt` that it took its last one from the deque, and `claims` that the placement unit's next turn is the
agent's (R398). `clb` and `tcache` list their entries and slots with the
least recently used first (R285, R286), and `bgs` holds the background voxels by volume. `capw` holds, while several slices issue in one clock, the capability registers
that they write: the sequencer, the register and the value, in order (R76). `beat` is what the management core received last (R450). -/
structure Core where
  part    : Option Nat := none
  halted  : Bool := false
  cycles  : BitVec 64 := 0
  latches : SMap (Option Latch) := []
  blocks  : SMap Block := []
  agtctl  : Word := 0x100
  quantum : Word := 0x1000000
  preempt : Bool := false
  mxsolo  : Bool := false
  beatseq : Word := 0
  issued  : Nat := 0
  beats   : Nat := 0
  beat    : Option (Word × BitVec 16) := none
  missed  : Nat := 0
  noBeat  : Bool := false
  waitfi  : Bool := false
  icache  : List (BitVec 24 × Nat) := []
  imiss   : List (BitVec 24 × Nat) := []
  igt     : List GroupKey := []
  igtq    : List GroupKey := []
  copies  : List Copy := []
  deque   : List TaskRec := []
  settleq : List TaskRec := []
  chosen  : Option TaskRec := none
  landing : Option TaskRec := none
  alt     : Bool := false
  claims  : Bool := false
  pend    : List (BitVec 24 × Nat) := []
  items   : SMap ItemQ := []
  owners  : List (Nat × Nat) := []
  owned   : Bool := false
  clb     : List Clb := []
  tcache  : List TSlot := []
  bgs     : SMap TLine := []
  closed  : List Nat := []
  capw    : Option (List (Nat × Nat × Cap)) := none
  deriving DecidableEq, Repr

/-- A partition (R139, R140, R286, R457). `room` are the frames of its share that nothing holds (R81), `sysimg` that its system image has been
measured (R463), and `turns` the interface and queue whose command started last, for each priority (R136). -/
structure Part where
  cores    : List Nat := []
  slots    : Nat := 1
  flags    : BitVec 8 := 0
  s        : Nat := 32
  c        : Nat := 16
  share    : Nat := 0
  room     : Frames := []
  sysimg   : Bool := false
  turns    : SMap (Nat × Nat) := []
  deriving DecidableEq, Repr

/-- Queue states (R116). -/
inductive QSt where
  | ok | error
  deriving DecidableEq, Repr

/-- A queue (R115, R116, R136). `cur` is the front end's copy of the command at its head (R117). -/
structure Queue where
  base     : BitVec 64 := 0
  s        : Nat := 6
  prio     : Nat := 0
  vec      : Nat := 0
  head     : Word := 0
  tail     : Word := 0
  st       : QSt := .ok
  resident : Bool := true
  dying    : Bool := false
  cur      : Option (List Byte) := none
  deriving DecidableEq, Repr

/-- A pending page abort (R123). -/
structure PageAbort where
  oid    : BitVec 24
  page   : Nat
  q      : Nat
  reason : BitVec 8
  deriving DecidableEq, Repr

/-- A virtual interface, or the physical function as number 0 (R112, R114, R133). -/
structure Vi where
  part    : Option Nat := none
  aqbase  : BitVec 64 := 0
  aqsize  : BitVec 64 := 0
  aqen    : Bool := false
  aqerr   : Bool := false
  priocap : BitVec 32 := 7
  queues  : SMap Queue := []
  aborts  : List PageAbort := []
  peers   : List Nat := []
  enabled : Bool := false
  deriving DecidableEq, Repr

/-- A dependent pair, a block-table entry and an input of a standing-program image (Tables 5.5 to 5.7). -/
structure EqBlk where
  decl  : Bool := false
  home  : Nat := 0
  arg   : Nat := 0
  entry : BitVec 48 := 0
  deps  : List (Nat × Word) := []
  deriving DecidableEq, Repr

/-- A standing-program image (Table 5.4). `report` is the Report object of the load. -/
structure ProgImage where
  ok     : Bool := true
  norm   : BitVec 8 := 0
  thresh : Word := 0
  blocks : List EqBlk := []
  inputs : List (Nat × Nat) := []
  report : BitVec 24 := 0
  deriving DecidableEq, Repr

/-- How far a load has come (R49, R50). A rejected one keeps what its LOAD reported. -/
inductive LoadSt where
  | loading | ready
  | rejected (detail : Word)
  deriving DecidableEq, Repr

/-- A load (R48 to R50). `started` lists the standing programs that have been started from it (R125). -/
structure Load where
  part   : Nat
  st     : LoadSt := .ready
  code   : BitVec 24
  objs   : List (BitVec 24) := []
  images : List Image := []
  progs  : List ProgImage := []
  started : List Nat := []
  dying  : Bool := false
  deriving DecidableEq, Repr

/-- A job (R395 to R397): the outstanding count, the spill region, the capability snapshot, and the records held after an
abort of an idempotent block (R432). `prog` names the standing program, keyed `16·partition + slot`. -/
structure Job where
  part    : Nat
  load    : Nat
  hdr     : CmdHdr
  count   : Nat := 0
  spill   : List TaskRec := []
  caps    : SMap Cap := []
  capmask : Word := 0
  prog    : Option Nat := none
  aborted : Option (BitVec 32) := none
  held    : List (TaskRec × Nat × BitVec 24 × Nat) := []
  deriving DecidableEq, Repr

/-- A grid (R128, R132, R406): its launch record and its ticket counter. `parent` is the uid of the launching block. -/
structure Grid where
  job     : Nat
  part    : Nat
  load    : Nat
  image   : Image
  code    : BitVec 24
  dim     : Word × Word × Word
  n       : Nat
  ticket  : Nat := 0
  caps    : SMap Cap := []
  depth   : Nat := 0
  parent  : Option Nat := none
  diemask : BitVec 4 := 0
  running : Nat := 0
  order   : Nat := 0
  done    : Bool := false
  deriving DecidableEq, Repr

/-- What a Settle unit keeps for one declared block (R407), with its version bits at the holds (R415). -/
structure SBlk where
  res    : Word := 0x7F800000
  seqno  : Nat := 0
  flight : Bool := false
  capR   : Word := 0
  capG   : BitVec 64 := 0
  holds  : BitVec 4 := 0
  deriving DecidableEq, Repr

/-- A sweep's reading (R411): all settled, dispatches in flight, posts sent and applied, and event counters. -/
structure Sweep where
  settled : Bool
  flight  : Nat
  sent    : Nat
  applied : Nat
  events  : List Nat
  deriving DecidableEq, Repr

/-- A standing program (R94 to R110, R407 to R415). -/
structure Prog where
  job      : Nat
  part     : Nat
  slot     : Nat
  load     : Nat
  progidx  : Nat
  img      : ProgImage
  caps     : SMap Cap
  blks     : SMap SBlk
  gen      : BitVec 64 := 0
  disp     : Nat := 0
  heapk    : SMap Nat := []
  sent     : SMap Nat := []
  applied  : SMap Nat := []
  events   : SMap Nat := []
  inObj    : BitVec 24 := 0
  vmap     : BitVec 24 := 0
  holds    : SMap Nat := []
  last     : Option Sweep := none
  recorded : Bool := false
  stopping : Bool := false
  ending   : Bool := false
  deriving DecidableEq, Repr

/-- What a command that has started still waits for (Tables 6.3 and 19.2). A LOAD is to be placed; `partcfg` names the cores that join at its
completion (R457); `stage` is an image to be copied and verified (R461). -/
inductive CmdWait where
  | done
  | launch (g : Nat)
  | stop (p : Nat)
  | unload (l : Nat)
  | destroy (oid : BitVec 24)
  | hcopy (b : HcopyBody)
  | conj (oid : BitVec 24) (off : Nat) (token : Word)
  | destroyq (q : Nat)
  | partcfg (part : Nat) (added : List Nat)
  | partdel (part : Nat)
  | load (l iova len : Nat)
  | stage (iova len : Nat)
  | logread (b : LogreadBody)
  deriving DecidableEq, Repr

/-- A command that has started and not written its status record (R121, R122); `silent`, it writes none (R455); `dma`, it accesses host
memory beside its status record (R453). -/
structure Cmd where
  hdr    : CmdHdr
  wait   : CmdWait
  code   : BitVec 8 := 1
  detail : Word := 0
  silent : Bool := false
  dma    : Bool := false
  deriving DecidableEq, Repr

/-- What the scoreboard marks (R168): a vector register or a predicate of a warp. -/
inductive Mark where
  | reg (w : WRef) (n : Nat)
  | pred (w : WRef) (p : Nat)
  deriving DecidableEq, Repr

/-- A register result in flight: a general word of one lane, a uniform or affine register, or predicate bits. -/
inductive RW where
  | gen (w : WRef) (reg lane : Nat) (v : Word)
  | uni (w : WRef) (reg : Nat) (v : Word)
  | aff (w : WRef) (reg : Nat) (b s : Word)
  | pred (w : WRef) (p : Nat) (lanes vals : Mask)
  deriving DecidableEq, Repr

/-- Which unit a group issues on: a slice, a uniform sequencer (R337) or the firmware agent (R11). -/
inductive Unit_ where
  | slice
  | stream (seq : Nat)
  | agent
  deriving DecidableEq, Repr

/-- One warp's threads in an issue group (R162). -/
structure Member where
  w     : WRef
  lanes : Mask
  deriving DecidableEq, Repr

/-- The issue group that the next thread instruction runs for (R162): members in ascending warp slot. `held` says that its instruction has been held back, and
issues again later. -/
structure Group where
  core  : Nat := 0
  slice : Nat := 0
  unit  : Unit_ := .slice
  mems  : List Member := []
  obj   : BitVec 24 := 0
  pc    : BitVec 32 := 0
  held  : Bool := false
  deriving DecidableEq, Repr

/-- A store to a scratch line homed on another core, not yet performed, and the thread that made it (R248, R254). -/
structure RStore where
  core  : Nat
  uid   : Nat
  w     : WRef
  lanes : Mask
  oid   : BitVec 24
  off   : Nat
  bytes : List Byte
  deriving DecidableEq, Repr

/-- How a load writes its register (R267, R269, R297, R308): extended in a type, as whole words, once per warp and named uniform, or as
a channel of a volume. `pres` reads nothing (PRWAIT), `pred` the presence bit (PRTEST). -/
inductive LForm where
  | ext (t : Ty)
  | words
  | uni (t : Ty)
  | chan (t : Ty)
  | pres
  | pred (p : Nat)
  deriving DecidableEq, Repr

/-- What a memory step does at its place: a load; a store of bytes; one read-modify-write with the codes of ATOM; a compare and
swap; a row of vsums (R300, R311); a capability slot read or written (R89); the read of a CPOUT's line, which becomes a copy (R277). -/
inductive MAct where
  | load (f : LForm)
  | store (bytes : List Byte)
  | rmw (op : Nat) (t : Ty) (sat : Bool) (v : BitVec 64)
  | cas (wide : Bool) (cmp new : BitVec 64)
  | adds (t : Ty) (sat : Bool) (vals : List (BitVec 64))
  | capld (blk : Nat × Nat) (c : Nat)
  | capst (v : Cap)
  | copyOut (dst : Side) (doff : Nat)
  deriving DecidableEq, Repr

/-- One access of an instruction at one place: the warp, the lanes that take its result, the bytes, and the first destination register.
`here` says that the access has reached the home of its line and waits there for the line to be present (R253). `np` is LDNP's rule (R267); `ord` that it is a release, which waits for its threads' earlier accesses to be performed (R370); `rel` that it
waits for the core's earlier stores too, being one at die scope or wider; `acq` that it is an acquire at die scope or wider (R288); `row` that the Lexicon performs it (R312), for the lanes of `more` as well (R305). -/
structure MemStep where
  w    : WRef
  lanes : Mask
  side : Side
  off  : Nat
  n    : Nat
  act  : MAct
  d    : Option Nat := none
  np   : Bool := false
  ord  : Bool := false
  rel  : Bool := false
  acq  : Bool := false
  row  : Bool := false
  more : List Member := []
  here : Bool := false
  deriving DecidableEq, Repr

/-- A Conjunction instruction (R390 to R393) that has not been performed: its kind (0 CJINIT, 1 CJARR, 2 CJDROP, 3 CJWAIT, 4 CJBYTE, 5
CJTEST), sub-operation, place, and per lane the operand. `parked` says that a CJWAIT has begun to wait, and `hold` is the latch slot that its result goes to (R62). -/
structure CjReq where
  kind : Nat
  sub  : Nat
  side : Side
  off  : Nat
  d    : VReg
  vals : List (Nat × Word)
  rel  : Bool
  acq  : Bool
  parked : Bool := false
  hold : Option Nat := none
  deriving DecidableEq, Repr

/-- One lane of a volume request (R296 to R304): its volume and coordinate, its data, its thread's latest acquire at die scope or
wider (R288), the translations that it has found (R287), and the lines that have been fetched for it. -/
structure VLane where
  w    : WRef
  lane : Nat
  vol  : BitVec 24
  x    : Int
  y    : Int
  z    : Int
  vals : List (BitVec 64) := []
  acq  : Nat := 0
  tr   : List Clb := []
  got  : List (Option Nat × List Byte) := []
  deriving DecidableEq, Repr

/-- A volume request (R287 to R304). `op`: 0 VLD, 1 VST, 2 VADD, 3 VPROBE, 4 VNBR, 5 VTLD, 6 VALLOC, 7 VFREE, 8 VSHOOT, 9 VBGRD.SET, 10
VBGRD.GET. `todo` are the lanes not yet performed, in ascending order, `fails` the lanes that failed with their TRINFO code (R298); `sent`
that every translation is resolved (R287). A removal under way holds BUSY on the entry at `level` of its first lane's path; `acks`
are the cores whose CLB has acknowledged. -/
structure VReq where
  op    : Nat
  ty    : Ty
  sat   : Bool := false
  c     : Nat := 0
  n     : Nat := 1
  d     : VReg
  level : Nat := 5
  todo  : List VLane
  fails : List (Nat × Nat) := []
  sent  : Bool := false
  busy  : Bool := false
  acks  : List Nat := []
  deriving DecidableEq, Repr

/-- The solver run of a SCHRUN (R351, R356): the issuing warp, the type and rounding mode, the window's first byte and length in block shared
memory, and the step records in order. `going` says that the window is registered. -/
structure SchedRun where
  w       : WRef
  f64     : Bool
  rnd     : Nat
  base    : Nat
  len     : Nat
  entries : List (BitVec 64)
  going   : Bool := false
  deriving DecidableEq, Repr

/-- A reader of an accumulator tile (R336, R347): an MXST, or an MXCVT with its rounding mode and the companion tile of error feedback. -/
structure MxRead where
  w      : WRef
  lanes  : Mask
  tile   : Nat
  ver    : BitVec 16
  off    : Nat
  stride : Nat
  n      : Nat
  ty     : Ty
  cvt    : Bool
  rnd    : Nat := 0
  sat    : Bool := false
  comp   : Option Nat := none
  deriving DecidableEq, Repr

/-- What an outstanding instruction still waits for: nothing but the arrival of its results; memory steps; a Conjunction
instruction; a fence's condition (0 full, 1 acquire, 2 release, and 4 more at die scope or wider); a snapshot of a program, with 1 more than the
hold that it takes or 0; a volume request; range-lock entries for copies or a solver
run (R263, R356); the version of a tile (R336); the count of a join (R418). -/
inductive Work where
  | results
  | mem (steps : List MemStep)
  | conj (r : CjReq)
  | fence (kind : Nat)
  | vol (r : VReq)
  | kick (copies : List Copy)
  | sched (r : SchedRun)
  | snap (prog hold : Nat) (side : Side) (off uid : Nat)
  | mxrd (rs : List MxRead)
  | join
  deriving DecidableEq, Repr

/-- A collapse of an RDUP page that its home walker has accepted (R83): the request whose write won, the object, the pages that
become SINGLE, the winning die, and the dies that have acknowledged. -/
structure Collapse where
  req  : Nat
  oid  : BitVec 24
  page : Nat
  lo   : Nat
  hi   : Nat
  die  : Nat
  acks : List Nat := []
  deriving DecidableEq, Repr

/-- An instruction that has issued and not completed (R60, R168, R222): its threads, its place, what the
scoreboard marks for it, the register writes to deliver, its floating-point flags by lane, and its work. `fp` says that it is
one of the floating-point instructions of R61, with `fpten` the traps that its group's warps enabled when it issued, and `long` that it is a long-latency instruction of R67. -/
structure LongOp where
  id    : Nat
  core  : Nat
  mems  : List Member
  obj   : BitVec 24
  pc    : BitVec 32
  marks : List Mark := []
  rws   : List RW := []
  flags : List (WRef × Nat × BitVec 6) := []
  fp    : Bool := false
  fpten : BitVec 5 := 0
  long  : Bool := false
  work  : Work := .results
  deriving DecidableEq, Repr

/-- A trap that waits for older long-latency instructions of its threads (R61): its group, its cause, the lanes that raise it, and the detail word, for
all lanes or, in `infos`, by lane. -/
structure Deferred where
  grp   : Group
  cause : Cause
  lanes : Mask
  info  : Word
  infos : List (Nat × Word) := []
  deriving DecidableEq, Repr

/-- A post on its way to a dependent's home unit (R408): program, block, amount (bits of weight and change). -/
structure Post where
  prog : Nat
  blk  : Nat
  w    : Word
  d    : Word
  deriving DecidableEq, Repr

/-- A saved block (R435, R438 to R440): its save area, its item queues, the outstanding instructions that wait again after a
restore, and how far a save or a restore by the agent's own instructions has come: the warp sections still to be saved, as they were when the first was,
and the warps not yet loaded (R451). -/
structure Saved where
  blk    : Block
  area   : BitVec 24 := 0
  off    : Nat := 0
  items  : SMap ItemQ := []
  ops    : List LongOp := []
  layout : Nat := 1
  whole  : Bool := true
  loading : List Nat := []
  secs   : SMap (List Byte) := []
  deriving DecidableEq, Repr

/-- A successor cell that holds a deferred record, with the block that spawned it and the record's job (R404, R405, R418). -/
structure Armed where
  oid    : BitVec 24
  off    : Nat
  parent : Nat
  job    : Nat := 0
  deriving DecidableEq, Repr

/-- A gang part that waits at its queue's head (R133, R134). `tried` says that its gang was rolled back and that no block of a named partition
has retired or been evicted since. -/
structure GangPart where
  hdr  : CmdHdr
  body : LaunchBody
  isStart : Bool
  tried : Bool := false
  deriving DecidableEq, Repr

/-- The boot mode (Table 19.1). -/
inductive Mode where
  | booting | running | minimal | thermal
  deriving DecidableEq, Repr

/-- Boot, firmware and system registers (R456, R461 to R468). `flash` is the first stage in the SPI flash and `later` the images there of the
stages 3 and 4, `netbuf` the file being fetched over TFTP with the retries of its current block, and `netname` that DHCPv6 has named it.
`idekey` is the key of the link stream (R454), `blockers` are the queues that a refused activation waits for (R442), and `turns` the physical function's queue that started last, for each priority (R136). -/
structure Sys where
  mode     : Mode := .booting
  stage    : Nat := 1
  fails    : Nat := 0
  failed   : Bool := false
  reason   : BitVec 8 := 0
  ide      : Bool := false
  idekey   : Option (BitVec 256) := none
  staged   : Option (List Byte) := none
  actDone  : Bool := false
  actWait  : Bool := false
  blockers : List (Nat × Nat) := []
  flash    : Option (List Byte) := none
  later    : SMap (List Byte) := []
  svnMin   : BitVec 32 := 0
  thermC   : BitVec 8 := 0
  thermH   : BitVec 8 := 0
  warn     : Bool := false
  hotLast  : Bool := false
  net      : Bool := false
  netname  : Bool := false
  netbuf   : List Byte := []
  netgot   : Bool := false
  retries  : Nat := 0
  spares   : SMap Nat := []
  turns    : SMap (Nat × Nat) := []
  deriving DecidableEq, Repr

/-- The SPDM responder of one port (R466): port 0 and 1 the Ethernet ports, 2 the PF's DOE. `session` is 0 for none, 1 after a key
exchange and 2 once finished. -/
structure Spdm where
  version  : Bool := false
  caps     : Bool := false
  algs     : Bool := false
  session  : Nat := 0
  deriving DecidableEq, Repr

/-- The base hash that a responder offers (R466). -/
inductive HashAlg where
  | sha384
  deriving DecidableEq, Repr

/-- The extended asymmetric algorithm that a responder offers: ECDSA with SHA-384 on the 384-bit random Brainpool curve (R464, R466). -/
inductive SigAlg where
  | ecdsaBrainpoolP384
  deriving DecidableEq, Repr

/-- An SPDM response (R466). -/
inductive SpdmMsg where
  | versions (l : List Nat)
  | capabilities
  | algorithms (hash : HashAlg) (sig : SigAlg)
  | digests (d : BitVec 384)
  | certificate (slot : Nat) (chain : List Byte)
  | challengeAuth (sig : BitVec 768)
  | measurements (l : List (Nat × BitVec 384))
  | keyExchangeRsp (key : BitVec 768)
  | finishRsp
  | endSessionAck
  | keySetAck
  | error
  deriving DecidableEq, Repr

/-- A vector of an MSI-X table: the message's address and data, and the mask bit, which is set at reset (R452). -/
structure MsixVec where
  addr : BitVec 64 := 0
  data : BitVec 32 := 0
  mask : Bool := true
  deriving DecidableEq, Repr

/-- A function's BAR2: the MSI-X table, and the vectors whose pending bit is set (R452). -/
structure Msix where
  table   : SMap MsixVec := []
  pending : List Nat := []
  deriving DecidableEq, Repr

/-- The four logs (R462), oldest entry first, with the number of the first entry still held. -/
structure Logs where
  fault   : List (List Byte) := []
  faultN  : Nat := 0
  err     : List (List Byte) := []
  errN    : Nat := 0
  meas    : List (List Byte) := []
  capt    : List (List Byte) := []
  captN   : Nat := 0
  digests : SMap (BitVec 384) := []
  eccN    : SMap Nat := []
  deriving DecidableEq, Repr

/-- What moves next: a slice issues, or several in one clock (R76), a sequencer or an agent issues, the front end starts the head command of a queue, or an event
of the opcode table happens. The agenda is the model's own: it stands for the order in which the part's units act. -/
inductive Move where
  | issue (core slice : Nat)
  | together (core : Nat) (slices : List Nat)
  | stream (core seq : Nat)
  | agent (core : Nat)
  | command (vi q : Nat)
  | event (i : Instr)
  | idle
  deriving DecidableEq, Repr

/-- What could stop a step. The manual leaves no encoding undefined (R70) and gives every check a trap, so no rule of the
model raises a fault; the one name is for a state that no run reaches. -/
inductive Fault where
  /-- The agenda names an instruction that only an issue group can run, as an event. Raised by `step` alone. Safe: the machine
  stops where no hardware behaviour is claimed. -/
  | notAnEvent
  deriving DecidableEq, Repr

/-- Why an instruction has no meaning. -/
inductive Refusal where
  /-- The dispatcher has no meaning for the instruction yet. Raised by `exec` alone. Safe. -/
  | notModelled (mnemonic : String)
  deriving DecidableEq, Repr

/-- The whole module. -/
structure State where
  sys     : Sys := {}
  logs    : Logs := {}
  spdm    : SMap Spdm := []
  spdmOut : List (Nat × SpdmMsg) := []
  objs    : SMap Obj := []
  parts   : SMap Part := []
  vis     : SMap Vi := []
  loads   : SMap Load := []
  jobs    : SMap Job := []
  grids   : SMap Grid := []
  progs   : SMap Prog := []
  cores   : SMap Core := []
  cmds    : List Cmd := []
  gangs   : List GangPart := []
  saved   : List Saved := []
  ops     : List LongOp := []
  deferred : List Deferred := []
  rstores : List RStore := []
  collapses : List Collapse := []
  posts   : List Post := []
  armed   : List Armed := []
  turns   : SMap Nat := []
  hbm     : Frames := (List.range 8).map fun k => (1138783 * k, 1138783)
  replicas : SMap (List Nat) := []
  hostMem : Memory := []
  msix    : List (Nat × Nat) := []
  bar2    : SMap Msix := []
  bclock  : BitVec 64 := 0
  nextId  : Nat := 0x400
  clock   : Nat := 0
  free    : Nat := 0
  agenda  : List Move := []
  cur     : Group := {}
  deriving DecidableEq, Repr

/-- The part at cold power-on: booting at the boot ROM, no partition, no core of a partition, memory with nothing listed.
A core of no partition holds AGTCTL 0x0000_0100, MXSOLO 0 and PREEMPT 0 (R447), and QUANTUM is 2^24 (R436). -/
def State.reset : State := {}

end Sys2Proof.Machine
end

