-- ==== Sys2Proof/Machine/Ecdsa.lean ====
section
/-!
DEFINITION. The firmware signature (R464): ECDSA with SHA-384 on the 384-bit random Brainpool curve of RFC 5639, brainpoolP384r1, with a public key whose
digest is fused in the hub. The curve's parameters and the algorithm are not in the manual, which names the standards (log entry 105).
-/
set_option autoImplicit false

namespace Sys2Proof.Machine

/-- The prime of the field. -/
def bpP : Nat := 0x8CB91E82A3386D280F5D6F7E50E641DF152F7109ED5456B412B1DA197FB71123ACD3A729901D1A71874700133107EC53
/-- The coefficient of x. -/
def bpA : Nat := 0x7BC382C63D8C150C3C72080ACE05AFA0C2BEA28E4FB22787139165EFBA91F90F8AA5814A503AD4EB04A8C7DD22CE2826
/-- The constant of the curve. -/
def bpB : Nat := 0x04A8C7DD22CE28268B39B55416F0447C2FB77DE107DCD2A62E880EA53EEB62D57CB4390295DBC9943AB78696FA504C11
/-- The base point. -/
def bpG : Nat × Nat :=
  (0x1D1C64F068CF45FFA2A63A81B7C13F6B8847A3E77EF14FE3DB7FCAFE0CBD10E8E826E03436D646AAEF87B2E247D4AF1E,
   0x8ABE1D7520F9C2A45CB1EB8E95CFD55262B70B29FEEC5864E19C054FF99129280E4646217791811142820341263C5315)
/-- The order of the base point. -/
def bpQ : Nat := 0x8CB91E82A3386D280F5D6F7E50E641DF152F7109ED5456B31F166E6CAC0425A7CF3AB6AF6B7FC3103B883202E9046565

/-- `b` to the power `e` modulo `m`, over the low `n` bits of `e`. -/
def powMod (m : Nat) : Nat → Nat → Nat → Nat
  | 0, _, _ => 1 % m
  | n + 1, b, e => (if e % 2 = 1 then b else 1) * powMod m n (b * b % m) (e / 2) % m

/-- The inverse modulo a prime of at most 384 bits. -/
def invMod (m x : Nat) : Nat := powMod m 384 (x % m) (m - 2)

/-- A point of the curve, none for the point at infinity. -/
abbrev Point := Option (Nat × Nat)

/-- The point lies on the curve. -/
def onCurve (x y : Nat) : Bool := decide (x < bpP) && decide (y < bpP) && y * y % bpP == (x * x * x + bpA * x + bpB) % bpP

/-- The sum of two points of the curve. -/
def Point.add : Point → Point → Point
  | none, b => b
  | a, none => a
  | some (x, y), some (u, v) =>
    if x = u ∧ (y + v) % bpP = 0 then none
    else
      let l := (if x = u then (3 * x * x + bpA) * invMod bpP (2 * y) else (v + bpP - y) * invMod bpP (u + bpP - x)) % bpP
      let z := (l * l + 2 * bpP - x - u) % bpP
      some (z, (l * (x + bpP - z) + bpP - y) % bpP)

/-- A multiple of a point, by the low `n` bits of the factor. -/
def Point.mul : Nat → Nat → Point → Point
  | 0, _, _ => none
  | n + 1, k, a => Point.add (if k % 2 = 1 then a else none) (Point.mul n (k / 2) (a.add a))

/-- ECDSA with SHA-384: the signature (r, s) of some bytes verifies under the public key (x, y). -/
def ecdsaOk (m : List Byte) (r s x y : Nat) : Bool :=
  if r = 0 ∨ bpQ ≤ r ∨ s = 0 ∨ bpQ ≤ s ∨ !onCurve x y then false
  else
    let e := (sha384 m).toNat
    let w := invMod bpQ s
    match Point.add (Point.mul 384 (e * w % bpQ) (some bpG)) (Point.mul 384 (r * w % bpQ) (some (x, y))) with
    | some p => p.1 % bpQ == r
    | none => false

/-- The signature at the end of an image verifies, under the public key, which is accepted when its digest is the one fused in the hub (R464). The digest is
that of the key's two coordinates, each of 48 bytes in big-endian order (log entry 105). -/
def signatureOk (img : List Byte) : Bool :=
  let n := img.length - 96
  let key := (leBytes 96 Config.fwKey.toNat).reverse
  sha384 key == Config.fusedDigest &&
    ecdsaOk (img.take n) (beNat ((img.drop n).take 48)) (beNat (img.drop (n + 48))) (Config.fwKey.toNat / 2 ^ 384) (Config.fwKey.toNat % 2 ^ 384)

end Sys2Proof.Machine
end

