-- ==== Sys2Proof/Machine/Ops.lean ====
section
/-!
DEFINITION. The named operations over the state that every meaning shares: sparse maps and memory, the accessors of
cores, blocks, warps and threads, the registers of a warp, lane masks, capabilities, and taking a trap and returning
from it (R427 to R431).
-/
set_option autoImplicit false

namespace Sys2Proof.Machine

/-! ### Sparse maps -/

/-- The entry of a key, if any. -/
def smGet? {α : Type} : SMap α → Nat → Option α
  | [], _ => none
  | (j, v) :: r, k => if j = k then some v else smGet? r k

/-- The entry of a key, or the default. -/
def smGetD {α : Type} (m : SMap α) (k : Nat) (d : α) : α := (smGet? m k).getD d

/-- Sets the entry of a key, keeping the keys rising. -/
def smSet {α : Type} : SMap α → Nat → α → SMap α
  | [], k, v => [(k, v)]
  | (j, u) :: r, k, v => if k < j then (k, v) :: (j, u) :: r else if k = j then (k, v) :: r else (j, u) :: smSet r k v

/-- Removes every entry of a key. -/
def smDel {α : Type} : SMap α → Nat → SMap α
  | [], _ => []
  | (j, u) :: r, k => if j = k then smDel r k else (j, u) :: smDel r k

/-- Sets a value, listing nothing for the default `d`. -/
def smPut {α : Type} [DecidableEq α] (m : SMap α) (k : Nat) (v d : α) : SMap α := if v = d then smDel m k else smSet m k v

/-! ### Memory -/

/-- The form of a memory: keys strictly rising, and no entry equal to the byte that an unlisted address reads as. -/
def Memory.wf : Memory → Bool
  | [] => true
  | [(_, b)] => b != 0
  | (a, b) :: (a', b') :: r => b != 0 && decide (a < a') && Memory.wf ((a', b') :: r)

/-- Reads one byte; an address that nothing has written reads 0 (log entry 2). -/
def memRead (m : Memory) (a : Nat) : Byte := smGetD m a 0

/-- Writes one byte. -/
def memWrite (m : Memory) (a : Nat) (b : Byte) : Memory := smPut m a b 0

/-- Reads `n` bytes. -/
def memReadN (m : Memory) (a : Nat) : Nat → List Byte
  | 0 => []
  | n + 1 => memRead m a :: memReadN m (a + 1) n

/-- Writes a run of bytes. -/
def memWriteN (m : Memory) (a : Nat) : List Byte → Memory
  | [] => m
  | b :: r => memWriteN (memWrite m a b) (a + 1) r

/-- Reads `n` bytes as a little-endian number (R2). -/
def memNat (m : Memory) (a n : Nat) : Nat := leNat (memReadN m a n)

/-- Writes a number as `n` little-endian bytes (R2). -/
def memPutNat (m : Memory) (a n v : Nat) : Memory := memWriteN m a (leBytes n v)

/-! ### Lanes -/

/-- The mask of one lane. -/
def laneBit (l : Nat) : Mask := BitVec.twoPow 32 l

/-- The lanes of a mask, ascending. -/
def lanesOf (m : Mask) : List Nat := (List.range 32).filter fun l => m.getLsbD l

/-- The mask of the lanes that satisfy a test. -/
def maskOf (f : Nat → Bool) : Mask := BitVec.ofNat 32 ((List.range 32).foldr (fun l n => 2 * n + (f l).toNat) 0)

/-- The number of lanes in a mask. -/
def laneCount (m : Mask) : Nat := (lanesOf m).length

/-! ### Accessors -/

/-- The sequencer number under which a core holds the firmware agent's own block (R11). -/
def agentSeq : Nat := 16

/-- The firmware agent's warp before its firmware runs: one thread, on lane 0. -/
def agentWarp : Warp :=
  { g := 64, f := 16, q := 32, threads := ({} : Thread) :: List.replicate 31 { ended := true } }

/-- The firmware agent's block before its firmware runs. -/
def agentBlock : Block :=
  { origin := .grid 0 0 0 0, part := 16, image := { gen := 64, unif := 32, aff := 16 }, warps := [(0, agentWarp)] }

/-- The core numbered `c`. -/
def State.core (s : State) (c : Nat) : Core := smGetD s.cores c {}
/-- Replaces a core. -/
def State.setCore (s : State) (c : Nat) (k : Core) : State := { s with cores := smSet s.cores c k }
/-- Changes a core. -/
def State.modCore (s : State) (c : Nat) (f : Core → Core) : State := s.setCore c (f (s.core c))

/-- The block of a sequencer of a core; the agent's block always exists. -/
def State.block? (s : State) (c q : Nat) : Option Block :=
  match smGet? (s.core c).blocks q with
  | some b => some b
  | none => if q = agentSeq then some agentBlock else none
/-- The block of a sequencer, or an empty one. -/
def State.block (s : State) (c q : Nat) : Block := (s.block? c q).getD { origin := .grid 0 0 0 0 }
/-- Replaces a block. -/
def State.setBlock (s : State) (c q : Nat) (b : Block) : State :=
  s.modCore c fun k => { k with blocks := smSet k.blocks q b }
/-- Changes a block, if it is resident. -/
def State.modBlock (s : State) (c q : Nat) (f : Block → Block) : State :=
  match s.block? c q with
  | some b => s.setBlock c q (f b)
  | none => s

/-- The warp that a reference names, or an empty one. -/
def State.warp (s : State) (w : WRef) : Warp := smGetD (s.block w.core w.seq).warps w.warp {}
/-- Changes a warp. -/
def State.modWarp (s : State) (w : WRef) (f : Warp → Warp) : State :=
  s.modBlock w.core w.seq fun b => { b with warps := smSet b.warps w.warp (f (smGetD b.warps w.warp {})) }
/-- Replaces a warp. -/
def State.setWarp (s : State) (w : WRef) (x : Warp) : State := s.modWarp w fun _ => x

/-- The thread of a lane. -/
def Warp.thread (w : Warp) (l : Nat) : Thread := w.threads.getD l {}
/-- Changes the threads of the lanes of a mask. -/
def Warp.modThreads (w : Warp) (m : Mask) (f : Nat → Thread → Thread) : Warp :=
  { w with threads := w.threads.mapIdx fun l t => if m.getLsbD l then f l t else t }
/-- Changes the threads of the lanes of a mask. -/
def State.modThreads (s : State) (w : WRef) (m : Mask) (f : Nat → Thread → Thread) : State :=
  s.modWarp w fun x => x.modThreads m f
/-- Changes every thread of a warp. -/
def Warp.mapThreads (w : Warp) (f : Thread → Thread) : Warp := { w with threads := w.threads.map f }
/-- Changes every warp of a block. -/
def Block.mapWarps (b : Block) (f : Warp → Warp) : Block := { b with warps := b.warps.map fun iw => (iw.1, f iw.2) }
/-- The lanes whose threads have not ended. -/
def Warp.alive (w : Warp) : Mask := maskOf fun l => decide (l < w.threads.length) && !(w.thread l).ended

/-- An object that is in the object table. -/
def State.obj? (s : State) (oid : BitVec 24) : Option Obj := smGet? s.objs oid.toNat
/-- Changes an object. -/
def State.modObj (s : State) (oid : BitVec 24) (f : Obj → Obj) : State :=
  match s.obj? oid with
  | some o => { s with objs := smSet s.objs oid.toNat (f o) }
  | none => s

/-- Takes a fresh number for an object or a record of the model. -/
def State.fresh (s : State) : Nat × State := (s.nextId, { s with nextId := s.nextId + 1 })
/-- Takes a free value's index (log entry 4). -/
def State.takeFree (s : State) : Nat × State := (s.free, { s with free := s.free + 1 })

/-! ### The issue group -/

/-- The lanes of a group. -/
def Group.lanes (g : Group) : Mask := g.mems.foldl (fun m x => m ||| x.lanes) 0
/-- The member whose thread occupies a lane. -/
def Group.member? (g : Group) (l : Nat) : Option Member := g.mems.find? fun x => x.lanes.getLsbD l
/-- The members that have a lane in a mask, with those lanes only (R54, R152). -/
def Group.acting (g : Group) (act : Mask) : List Member :=
  (g.mems.map fun x => { x with lanes := x.lanes &&& act }).filter fun x => x.lanes != 0
/-- The warp of the thread that occupies a lane of the current group. -/
def State.warpAt (s : State) (l : Nat) : Warp :=
  match s.cur.member? l with
  | some m => s.warp m.w
  | none => {}
/-- The block of the thread that occupies a lane of the current group. -/
def State.blockAt (s : State) (l : Nat) : Block :=
  match s.cur.member? l with
  | some m => s.block m.w.core m.w.seq
  | none => { origin := .grid 0 0 0 0 }
/-- Changes every member's warp. -/
def State.modMembers (s : State) (ms : List Member) (f : Member → Warp → Warp) : State :=
  ms.foldl (fun s m => s.modWarp m.w (f m)) s
/-- The blocks of some members, each once, in ascending order of first appearance. -/
def blocksOf (ms : List Member) : List (Nat × Nat) := (ms.map fun m => (m.w.core, m.w.seq)).eraseDups
/-- The latch slots of the group's slice are keyed from here; the agent's own follow the slices'. -/
def Group.latchBase (g : Group) : Nat := match g.unit with | .agent => 32 | _ => 4 * g.slice

/-! ### Capabilities (R73 to R75) -/

/-- The right numbered `i` of Table 4.2. -/
def Cap.right (c : Cap) (i : Nat) : Bool := c.rights.getLsbD i
/-- R75 step 1: valid, and naming a live object of the owner. The firmware's own blocks are of owner 16, and firmware reaches the
objects of every owner. -/
def State.usable (s : State) (part : Nat) (c : Cap) : Bool :=
  c.valid && (match s.obj? c.oid with
    | some o => o.live && (part == 16 || o.owner == part || o.owner2 == some part)
    | none => false)
/-- The object that a capability names. -/
def State.capObj (s : State) (c : Cap) : Option Obj := s.obj? c.oid
/-- A block's capability register. -/
def Block.cap (b : Block) (n : Nat) : Cap := smGetD b.caps n {}
/-- Writes a block's capability register. -/
def Block.setCap (b : Block) (n : Nat) (c : Cap) : Block := { b with caps := smPut b.caps n c {} }

/-! ### Taking a trap (R426 to R431) -/

/-- The codes of Table 18.1. -/
def Cause.code : Cause → BitVec 8
  | .illop => 0x01 | .regrange => 0x02 | .regshape => 0x03 | .capbound => 0x04 | .capright => 0x05 | .capinvalid => 0x06
  | .rangelock => 0x07 | .misalign => 0x08 | .fptrap => 0x09 | .idivz => 0x0A | .volfull => 0x0B | .volcoord => 0x0C
  | .gatherix => 0x0D | .shaperec => 0x0E | .obextent => 0x0F | .cjover => 0x10 | .mxversion => 0x11 | .deqspill => 0x12
  | .wprot => 0x13 | .priv => 0x14 | .spillovf => 0x15 | .brkpt => 0x16 | .softtrap => 0x17 | .latch => 0x18
  | .pageabort => 0x19 | .mcheck => 0x1A | .loadfit => 0x1B

/-- A trap that an instruction raises: its cause, the lanes that raise it, and the detail word: one for all, or, in `infos`, one for each lane, of which a
warp takes that of its lowest lane that raises it (R308). -/
structure TrapReq where
  cause : Cause
  lanes : Mask
  info  : Word := 0
  infos : List (Nat × Word) := []
  deriving DecidableEq, Repr

/-- What a check or a body answers: a trap, or a value. -/
abbrev Chk (α : Type) := Except TrapReq α

/-- Raises a trap in some lanes. -/
def trapIf (b : Bool) (c : Cause) (lanes : Mask) (info : Word := 0) : Chk Unit :=
  if b then .error { cause := c, lanes := lanes, info := info } else .ok ()

/-- R428: the block's trap vector may be entered. -/
def State.vectorOk (s : State) (b : Block) : Bool :=
  let c := b.cap 31
  s.usable b.part c && c.right 2 && (match s.capObj c with | some o => o.kind == .code | none => false) &&
    c.lower.toNat % 12 == 0 && decide (c.lower.toNat + 12 ≤ c.upper.toNat)

/-- The trap information that one member's warp takes (R427); a warp that none of the lanes is of takes the detail word that is for all. -/
def TrapReq.infoFor (t : TrapReq) (g : Group) (m : Member) : TrapInfo :=
  { cause := t.cause.code, pc := g.pc, obj := g.obj, lanes := t.lanes &&& m.lanes
    info := smGetD t.infos ((lanesOf (t.lanes &&& m.lanes)).headD 32) t.info }

/-- R427: a member's threads enter the handler. -/
def enterHandler (t : TrapReq) (g : Group) (clock : Nat) (c31 : Cap) (m : Member) (w : Warp) : Warp :=
  { w.modThreads m.lanes fun _ th =>
      { th with pc := BitVec.ofNat 32 (c31.lower.toNat / 12), obj := c31.oid, inH := true, ret := false, wait := .none,
                stamp := clock, yld := [], yclk := false } with
    trap := some (t.infoFor g m) }

/-- Stops a block that nothing but its being moved has stopped; the abort of its job takes the place of a debugger's stop too. -/
def Block.stopBy (b : Block) (x : Stop) : Block :=
  { b with stop := match b.stop, x with | none, _ | some .moving, _ | some (.debug ..), .aborted => some x | y, _ => y }

/-- R427 to R431 and R447, for one block of the group: its threads enter the handler, or the block stops. -/
def trapBlock (t : TrapReq) (g : Group) (s : State) (cq : Nat × Nat) : State :=
  let b := s.block cq.1 cq.2
  let ms := g.mems.filter fun m => m.w.core == cq.1 && m.w.seq == cq.2
  if (s.core cq.1).agtctl.getLsbD 0 && s.vectorOk b && ms.all fun m => (s.warp m.w).trap == none then
    s.modMembers ms (enterHandler t g s.clock (b.cap 31))
  else
    match (ms.filter fun m => t.lanes &&& m.lanes != 0) ++ ms with
    | m :: _ => s.modBlock cq.1 cq.2 fun b => b.stopBy (.trap (t.infoFor g m))
    | [] => s

/-- The three latch slots of a group's slice are emptied (R62). -/
def clearLatch (g : Group) (s : State) : State :=
  s.modCore g.core fun k =>
    { k with latches := smDel (smDel (smDel k.latches g.latchBase) (g.latchBase + 1)) (g.latchBase + 2) }

/-- Taking a trap: the one operation (R427). `s` is the state before the instruction, which leaves no effect (R7). -/
def takeTrap (t : TrapReq) (g : Group) (s : State) : State :=
  (blocksOf g.mems).foldl (trapBlock t g) (clearLatch g { s with clock := s.clock + 1 })

/-- R61: some thread of the group has an older long-latency instruction outstanding. -/
def olderPending (g : Group) (s : State) : Bool :=
  g.mems.any fun m => (lanesOf m.lanes).any fun l => ((s.warp m.w).thread l).las != []

/-- A group's trap: taken at once, or after every older long-latency instruction of the threads has completed (R61). -/
def raiseAt (t : TrapReq) (g : Group) (s : State) : State :=
  if olderPending g s then
    { s.modMembers g.mems (fun m w => w.modThreads m.lanes fun _ th => { th with wait := .deferred }) with
      deferred := s.deferred ++ [{ grp := g, cause := t.cause, lanes := t.lanes, info := t.info, infos := t.infos }] }
  else takeTrap t g s

/-- A trap at issue. -/
def raiseTrap (t : TrapReq) (s : State) : State := raiseAt t s.cur s

/-- R430: a returned thread goes on, under the age stamp; one that retries after VOLFULL without having failed issues the instruction no more. -/
def Thread.released (th : Thread) (t : TrapInfo) (l clock : Nat) : Thread :=
  if th.ret then
    { th with ret := false, stamp := clock
              done := th.done || (t.cause == Cause.volfull.code && th.pc == t.pc && th.obj == t.obj && !t.lanes.getLsbD l) }
  else th

/-- R430: in a warp whose every handler thread has returned or ended, trap mode ends and the returned threads go on, with
one age stamp. -/
def Warp.leaveTrap (w : Warp) (clock : Nat) : Warp :=
  match w.trap with
  | none => w
  | some t =>
    if w.threads.any (fun th => th.inH && !th.ended) then w else
      { w with
        trap := none
        threads := w.threads.mapIdx fun l th => th.released t l clock }

/-- Return from a trap (R430): the active threads go to TRPC, or TRPC + 1 when skipping, in the trap object, and are held
until the warp leaves trap mode. -/
def returnTrap (skip : Bool) (clock : Nat) (m : Member) (w : Warp) : Warp :=
  match w.trap with
  | none => w
  | some t =>
    (w.modThreads m.lanes fun _ th =>
      { th with pc := if skip then t.pc + 1 else t.pc, obj := t.obj, inH := false, ret := true, done := th.done && !skip }).leaveTrap clock

end Sys2Proof.Machine
end

