-- ==== Sys2Proof/Machine/Uses.lean ====
section
/-!
DEFINITION. Which operands each instruction reads and writes: its register fields with their widths, the registers they reach
(R497), the predicates it names, whether it is privileged (R68) and whether it is long-latency (R67). The checks of
R57 and R62, the scoreboard (R168) and HOLD (R62) use it.
-/
set_option autoImplicit false

namespace Sys2Proof

/-- imm16, sign-extended (R56). -/
def Mods.immS (m : Mods) : BitVec 64 := m.imm.signExtend 64
/-- imm16, zero-extended (R56). -/
def Mods.immU (m : Mods) : BitVec 64 := m.imm.setWidth 64
/-- A signed integer type (R183). -/
def Ty.signed : Ty → Bool
  | .i8 | .i16 | .i32 | .i64 => true
  | _ => false
/-- imm16, extended by the type (R183). -/
def Mods.immT (m : Mods) : BitVec 64 := if m.ty.signed then m.immS else m.immU

end Sys2Proof

namespace Sys2Proof.Machine

/-- A vector-register field as an operand: the field, whether it is a 64-bit pair, how many registers it reaches, and the
immediate that 2047 stands for (R55, R56). -/
structure Fld where
  r    : VReg
  wide : Bool := false
  n    : Nat := 1
  imm  : BitVec 64 := 0
  deriving DecidableEq, Repr

/-- The operands of an instruction. `d` is its vector destination, `ds` its D field read as a source; `all` says that it reads or
writes registers by a computed index (R201), `fp` that it is a floating-point instruction of R61, and `flagHold` that it waits
for such instructions (R222). -/
structure Uses where
  a     : Option Fld := none
  b     : Option Fld := none
  d     : Option Fld := none
  ds    : Option Fld := none
  preds : List Nat := []
  all   : Bool := false
  priv  : Bool := false
  long  : Bool := false
  fp    : Bool := false
  flagHold : Bool := false
  deriving DecidableEq, Repr

/-- An operand field. -/
def fld (r : VReg) (wide : Bool := false) (n : Nat := 1) (imm : BitVec 64 := 0) : Option Fld :=
  some { r := r, wide := wide, n := n, imm := imm }

/-- The data field of VST, VADD and VBGRD.SET: the registers of its channels, or a special value that stands for every channel at the
width of the type (R297, R497). -/
def chanFld (o : OpsM) : Option Fld :=
  match o.d with
  | .v _ => fld o.d false ((o.m.sub.toNat + 1) * (if o.m.ty.is64 then 2 else 1))
  | _ => fld o.d o.m.ty.is64

/-- The operands of each instruction (Tables 7.2 to 18.5). Commands and events have none. -/
def usesOf : Instr → Uses
  | .nop _ _ => { }
  | .bra _ _ => { }
  | .brx _ o => { a := fld o.a }
  | .brany _ p _ => { preds := [p.toNat] }
  | .brall _ p _ => { preds := [p.toNat] }
  | .call _ _ => { }
  | .callx _ o => { a := fld o.a }
  | .ret _ _ => { }
  | .exit _ _ => { }
  | .yield _ _ => { }
  | .clen _ _ => { }
  | .clwait _ _ => { }
  | .cldrop _ _ => { }
  | .clget _ d _ _ => { d := fld d }
  | .clset _ _ a _ => { a := fld a }
  | .ipref _ _ => { }
  | .loop _ d _ => { d := fld d, ds := fld d }
  | .iadd _ o => { a := fld o.a o.m.ty.is64, b := fld o.b o.m.ty.is64 1 o.m.immT, d := fld o.d o.m.ty.is64 }
  | .isub _ o => { a := fld o.a o.m.ty.is64, b := fld o.b o.m.ty.is64 1 o.m.immT, d := fld o.d o.m.ty.is64 }
  | .iaddc _ o => { a := fld o.a false, b := fld o.b false 1 0, d := fld o.d false, preds := [o.m.imm.toNat % 16] }
  | .isubb _ o => { a := fld o.a false, b := fld o.b false 1 0, d := fld o.d false, preds := [o.m.imm.toNat % 16] }
  | .imul _ o => { a := fld o.a o.m.ty.is64, b := fld o.b o.m.ty.is64 1 o.m.immT, d := fld o.d o.m.ty.is64 }
  | .imulh _ o => { a := fld o.a o.m.ty.is64, b := fld o.b o.m.ty.is64 1 o.m.immT, d := fld o.d o.m.ty.is64 }
  | .imad _ o => { a := fld o.a o.m.ty.is64, b := fld o.b o.m.ty.is64 1 o.m.immT, d := fld o.d o.m.ty.is64, ds := fld o.d o.m.ty.is64 }
  | .idiv _ o => { a := fld o.a o.m.ty.is64, b := fld o.b o.m.ty.is64 1 o.m.immT, d := fld o.d o.m.ty.is64 }
  | .irem _ o => { a := fld o.a o.m.ty.is64, b := fld o.b o.m.ty.is64 1 o.m.immT, d := fld o.d o.m.ty.is64 }
  | .iabs _ o => { a := fld o.a o.m.ty.is64, d := fld o.d o.m.ty.is64 }
  | .ineg _ o => { a := fld o.a o.m.ty.is64, d := fld o.d o.m.ty.is64 }
  | .imin _ o => { a := fld o.a o.m.ty.is64, b := fld o.b o.m.ty.is64 1 o.m.immT, d := fld o.d o.m.ty.is64 }
  | .imax _ o => { a := fld o.a o.m.ty.is64, b := fld o.b o.m.ty.is64 1 o.m.immT, d := fld o.d o.m.ty.is64 }
  | .and _ o => { a := fld o.a o.m.ty.is64, b := fld o.b o.m.ty.is64 1 o.m.immU, d := fld o.d o.m.ty.is64 }
  | .or _ o => { a := fld o.a o.m.ty.is64, b := fld o.b o.m.ty.is64 1 o.m.immU, d := fld o.d o.m.ty.is64 }
  | .xor _ o => { a := fld o.a o.m.ty.is64, b := fld o.b o.m.ty.is64 1 o.m.immU, d := fld o.d o.m.ty.is64 }
  | .andn _ o => { a := fld o.a o.m.ty.is64, b := fld o.b o.m.ty.is64 1 o.m.immU, d := fld o.d o.m.ty.is64 }
  | .not _ o => { a := fld o.a o.m.ty.is64, d := fld o.d o.m.ty.is64 }
  | .shl _ o => { a := fld o.a o.m.ty.is64, b := fld o.b false 1 o.m.immU, d := fld o.d o.m.ty.is64 }
  | .shr _ o => { a := fld o.a o.m.ty.is64, b := fld o.b false 1 o.m.immU, d := fld o.d o.m.ty.is64 }
  | .sar _ o => { a := fld o.a o.m.ty.is64, b := fld o.b false 1 o.m.immU, d := fld o.d o.m.ty.is64 }
  | .rol _ o => { a := fld o.a o.m.ty.is64, b := fld o.b false 1 o.m.immU, d := fld o.d o.m.ty.is64 }
  | .popc _ o => { a := fld o.a o.m.ty.is64, d := fld o.d false }
  | .clz _ o => { a := fld o.a o.m.ty.is64, d := fld o.d false }
  | .ctz _ o => { a := fld o.a o.m.ty.is64, d := fld o.d false }
  | .brev _ o => { a := fld o.a o.m.ty.is64, d := fld o.d o.m.ty.is64 }
  | .bfx _ o => { a := fld o.a o.m.ty.is64, b := fld o.b false 1 o.m.immU, d := fld o.d o.m.ty.is64 }
  | .bfi _ o => { a := fld o.a o.m.ty.is64, b := fld o.b false 1 o.m.immU, d := fld o.d o.m.ty.is64, ds := fld o.d o.m.ty.is64 }
  | .bperm _ o => { a := fld o.a o.m.ty.is64, b := fld o.b o.m.ty.is64 1 o.m.immU, d := fld o.d o.m.ty.is64, ds := fld o.d o.m.ty.is64 }
  | .isad _ o => { a := fld o.a false, b := fld o.b false 1 o.m.immT, d := fld o.d false, ds := fld o.d false }
  | .iadds _ o => { a := fld o.a o.m.ty.is64, b := fld o.b o.m.ty.is64 1 o.m.immT, d := fld o.d o.m.ty.is64 }
  | .imadw _ o => { a := fld o.a false, b := fld o.b false 1 o.m.immT, d := fld o.d true, ds := fld o.d true }
  | .mov _ o => { a := fld o.a o.m.ty.is64, d := fld o.d o.m.ty.is64 }
  | .movi _ d _ => { d := fld d }
  | .movx _ o => { a := fld o.a false, d := fld o.d false, all := true }
  | .movxw _ o => { a := fld o.a false, b := fld o.b false 1 0, all := true }
  | .sel _ o => { a := fld o.a o.m.ty.is64, b := fld o.b o.m.ty.is64 1 0, d := fld o.d o.m.ty.is64, preds := [o.m.imm.toNat % 16] }
  | .icmp _ o => { a := fld o.a o.m.ty.is64, b := fld o.b o.m.ty.is64 1 o.m.immT, preds := [o.p.val] }
  | .pand _ o => { preds := [o.p.val, o.a.toNat, o.b.toNat] }
  | .por _ o => { preds := [o.p.val, o.a.toNat, o.b.toNat] }
  | .pxor _ o => { preds := [o.p.val, o.a.toNat, o.b.toNat] }
  | .pnot _ o => { preds := [o.p.val, o.a.toNat] }
  | .pmov _ o => { preds := [o.p.val, o.a.toNat] }
  | .vote _ o => { preds := [o.p.val, o.a.toNat] }
  | .ballot _ o => { d := fld o.d false, preds := [o.m.imm.toNat % 16] }
  | .shfl _ o => { a := fld o.a o.m.ty.is64, b := fld o.b false 1 o.m.immU, d := fld o.d o.m.ty.is64 }
  | .bcast _ o => { a := fld o.a o.m.ty.is64, b := if o.m.sub == 1 then none else fld o.b false 1 o.m.immU, d := fld o.d o.m.ty.is64 }
  | .affine _ o => { a := fld o.a false, b := fld o.b false 1 o.m.immS, d := fld o.d false }
  | .laneix _ o => { d := fld o.d false }
  | .scan _ o => { a := fld o.a o.m.ty.is64, d := fld o.d o.m.ty.is64 }
  | .red _ o => { a := fld o.a o.m.ty.is64, d := fld o.d o.m.ty.is64 }
  | .fadd _ o => { a := fld o.a o.m.ty.is64, b := fld o.b o.m.ty.is64 1 o.m.immU, d := fld o.d o.m.ty.is64 }
  | .fsub _ o => { a := fld o.a o.m.ty.is64, b := fld o.b o.m.ty.is64 1 o.m.immU, d := fld o.d o.m.ty.is64 }
  | .fmul _ o => { a := fld o.a o.m.ty.is64, b := fld o.b o.m.ty.is64 1 o.m.immU, d := fld o.d o.m.ty.is64 }
  | .ffma _ o => { a := fld o.a o.m.ty.is64, b := fld o.b o.m.ty.is64 1 0, d := fld o.d o.m.ty.is64, ds := fld o.d o.m.ty.is64 }
  | .fmin _ o => { a := fld o.a o.m.ty.is64, b := fld o.b o.m.ty.is64 1 o.m.immU, d := fld o.d o.m.ty.is64 }
  | .fmax _ o => { a := fld o.a o.m.ty.is64, b := fld o.b o.m.ty.is64 1 o.m.immU, d := fld o.d o.m.ty.is64 }
  | .fcmp _ o => { a := fld o.a o.m.ty.is64, b := fld o.b o.m.ty.is64 1 o.m.immU, preds := [o.p.val] }
  | .fclass _ o => { a := fld o.a o.m.ty.is64, d := fld o.d false }
  | .frcp _ o => { a := fld o.a o.m.ty.is64, d := fld o.d o.m.ty.is64, fp := true, long := true }
  | .frsq _ o => { a := fld o.a o.m.ty.is64, d := fld o.d o.m.ty.is64, fp := true, long := true }
  | .fex2 _ o => { a := fld o.a o.m.ty.is64, d := fld o.d o.m.ty.is64, fp := true, long := true }
  | .flg2 _ o => { a := fld o.a o.m.ty.is64, d := fld o.d o.m.ty.is64, fp := true, long := true }
  | .fsin _ o => { a := fld o.a o.m.ty.is64, d := fld o.d o.m.ty.is64, fp := true, long := true }
  | .fcos _ o => { a := fld o.a o.m.ty.is64, d := fld o.d o.m.ty.is64, fp := true, long := true }
  | .fdot2 _ o => { a := fld o.a false, b := fld o.b false 1 0, d := fld o.d false, ds := fld o.d false }
  | .fmul2 _ o => { a := fld o.a true, b := fld o.b true 1 0, d := fld o.d true }
  | .ffma2 _ o => { a := fld o.a true, b := fld o.b true 1 0, d := fld o.d true, ds := fld o.d true }
  | .fround _ o => { a := fld o.a o.m.ty.is64, d := fld o.d o.m.ty.is64 }
  | .fscalb _ o => { a := fld o.a o.m.ty.is64, b := fld o.b false 1 o.m.immS, d := fld o.d o.m.ty.is64 }
  | .fsat _ o => { a := fld o.a o.m.ty.is64, d := fld o.d o.m.ty.is64 }
  | .cvt _ o => { a := fld o.a (o.m.sub == 11), d := fld o.d o.m.ty.is64 }
  | .cvti _ o => { a := fld o.a (o.m.sub == 11), d := fld o.d o.m.ty.is64 }
  | .cvtf _ o => { a := fld o.a (o.m.sub == 3 || o.m.sub == 7), d := fld o.d o.m.ty.is64 }
  | .cvtef _ o => { a := fld o.a false, d := fld o.d false }
  | .efclr _ _ => { }
  | .efmov _ wr r _ => { a := if wr then fld r else none, d := if wr then none else fld r }
  | .pack4 _ o => { a := fld o.a false, b := fld o.b false 1 0, d := fld o.d false }
  | .pack6 _ o => { a := fld o.a false, b := fld o.b false 1 0, d := fld o.d false 2 }
  | .pack8 _ o => { a := fld o.a false, b := fld o.b false 1 0, d := fld o.d false }
  | .unpk _ o => { a := fld o.a false (if o.m.sub == 1 || o.m.sub == 2 then 2 else 1), b := fld o.b false 1 0, d := fld o.d false }
  | .bscale _ o => { a := fld o.a false, d := fld o.d false }
  | .flagrd _ o => { d := fld o.d false, flagHold := true }
  | .flagclr _ _ => { flagHold := true }
  | .rmode _ _ => { flagHold := true }
  | .ld _ o => { b := fld o.b, d := fld o.d o.m.ty.is64, long := true }
  | .st _ o => { b := fld o.b, ds := fld o.d o.m.ty.is64, long := true }
  | .ldsp _ o => { d := fld o.d o.m.ty.is64, long := true }
  | .stsp _ o => { ds := if o.m.sub == 0 then fld o.d o.m.ty.is64 else none, long := true }
  | .ldnp _ o => { b := fld o.b, d := fld o.d o.m.ty.is64, long := true }
  | .ldv _ o => { b := fld o.b, d := fld o.d false (if o.m.sub.toNat < 2 then 2 else 4), long := true }
  | .stv _ o => { b := fld o.b, ds := fld o.d false (if o.m.sub.toNat < 2 then 2 else 4), long := true }
  | .ldu _ o => { b := fld o.b, d := fld o.d o.m.ty.is64, long := true }
  | .prtest _ o => { b := fld o.b, preds := [o.p.val] }
  | .prwait _ o => { b := fld o.b, long := true }
  | .cpkick _ o => { b := fld o.b, ds := fld o.d, long := true }
  | .cpstat _ o => { d := fld o.d, long := true }
  | .cpcancel _ o => { d := fld o.d, long := true }
  | .rltest _ o => { b := fld o.b, preds := [o.p.val], long := true }
  | .cpin _ o => { b := fld o.b, ds := fld o.d, long := true }
  | .cpout _ o => { b := fld o.b, ds := fld o.d, long := true }
  | .vld _ o => { b := fld o.b false 3, d := fld o.d false ((o.m.sub.toNat + 1) * (if o.m.ty.is64 then 2 else 1)), long := true }
  | .vst _ o => { b := fld o.b false 3, ds := chanFld o, long := true }
  | .vadd _ o => { b := fld o.b false 3, ds := chanFld o, long := true }
  | .vprobe _ o => { b := fld o.b false 3, d := fld o.d, long := true }
  | .vnbr _ o => { b := fld o.b false 3, d := fld o.d, long := true }
  | .vtld _ o => { b := fld o.b false 3, ds := fld o.d, long := true }
  | .valloc _ o => { b := fld o.b false 3, d := fld o.d, long := true }
  | .vfree _ o => { b := fld o.b false 3, d := fld o.d, long := true }
  | .vshoot _ o => { b := fld o.b false 3, d := fld o.d, long := true }
  | .vbgrd _ o => { d := if o.m.imm.getLsbD 8 then none else fld o.d false ((o.m.sub.toNat + 1) * (if o.m.ty.is64 then 2 else 1)), ds := if o.m.imm.getLsbD 8 then chanFld o else none, long := true }
  | .gthr _ o => { b := fld o.b, d := fld o.d false (o.m.sub.toNat + 1), long := true }
  | .sctr _ o => { b := fld o.b, ds := fld o.d false (o.m.sub.toNat + 1), long := true }
  | .sctra _ o => { b := fld o.b, ds := fld o.d false (o.m.sub.toNat + 1), long := true }
  | .confl _ o => { a := fld o.a, d := fld o.d }
  | .cmbn _ o => { a := fld o.a, b := fld o.b, d := fld o.d }
  | .spawni _ o => { a := fld o.a false 3, d := fld o.d }
  | .itemloop _ _ d _ => { d := fld d false 3 }
  | .itemget _ o => { d := fld o.d false 4, long := true }
  | .itemend _ _ => { }
  | .obres _ d a m => { a := fld a false (if m.sub == 0 then 4 else 1), d := fld d }
  | .obrel _ _ => { }
  | .shape _ a b _ => { a := fld a false 2, b := fld b }
  | .mxldb _ a _ => { a := fld a }
  | .mxlda _ a _ => { a := fld a }
  | .mxmac _ _ a _ => { a := fld a }
  | .mxmacs _ _ a _ => { a := fld a }
  | .mxzero _ _ a _ => { a := fld a }
  | .mxst _ _ a b _ => { a := fld a, b := fld b, long := true }
  | .mxcvt _ _ a b _ => { a := fld a, b := fld b, long := true }
  | .mxver _ d _ => { d := fld d }
  | .mxbar _ _ => { }
  | .mxwait _ _ => { }
  | .mxacq _ _ => { }
  | .mxrel _ _ => { }
  | .mxflags _ d _ => { d := fld d }
  | .schrun _ o => { b := fld o.b, ds := fld o.d false 2, long := true }
  | .ddiv _ o => { a := fld o.a o.m.ty.is64, b := fld o.b o.m.ty.is64, d := fld o.d o.m.ty.is64, fp := true, long := true }
  | .dsqrt _ o => { a := fld o.a o.m.ty.is64, d := fld o.d o.m.ty.is64, fp := true, long := true }
  | .pivchk _ o => { a := fld o.a o.m.ty.is64, b := fld o.b o.m.ty.is64, d := fld o.d o.m.ty.is64 }
  | .trstep _ o => { a := fld o.a o.m.ty.is64, b := fld o.b o.m.ty.is64, d := fld o.d o.m.ty.is64, ds := fld o.d o.m.ty.is64 }
  | .schstat _ o => { d := fld o.d }
  | .atom _ o => { b := fld o.b, d := fld o.d o.m.ty.is64, ds := fld o.d o.m.ty.is64, long := true }
  | .atomc _ o => { b := fld o.b, d := fld o.d o.m.ty.is64, ds := fld o.d o.m.ty.is64 2, long := true }
  | .fence _ _ => { }
  | .ldacq _ o => { b := fld o.b, d := fld o.d o.m.ty.is64, long := true }
  | .strel _ o => { b := fld o.b, ds := fld o.d o.m.ty.is64 }
  | .cjinit _ o => { b := fld o.b, ds := fld o.d }
  | .cjarr _ o => { b := fld o.b, d := fld o.d, ds := fld o.d }
  | .cjdrop _ o => { b := fld o.b, d := fld o.d }
  | .cjwait _ o => { b := fld o.b, d := fld o.d, ds := fld o.d, long := true }
  | .cjbyte _ o => { b := fld o.b, ds := fld o.d }
  | .cjtest _ o => { b := fld o.b, d := fld o.d }
  | .spawn _ o => { b := fld o.b, preds := [o.p.val] }
  | .tjoin _ o => { a := fld o.a, d := fld o.d, long := true }
  | .tend _ _ => { }
  | .tself _ o => { d := fld o.d }
  | .rpost _ o => { a := fld o.a, d := fld o.d }
  | .rread _ o => { a := fld o.a, d := fld o.d, long := true }
  | .rset _ o => { a := fld o.a, b := fld o.b, d := fld o.d }
  | .inpost _ o => { b := fld o.b, d := fld o.d }
  | .snap _ o => { b := fld o.b, ds := fld o.d, long := true }
  | .launch _ o => { b := fld o.b, preds := [o.p.val] }
  | .lwait _ o => { a := fld o.a, d := fld o.d, long := true }
  | .capld _ _ _ b _ => { b := fld b, long := true }
  | .capst _ _ _ b _ => { b := fld b }
  | .capnar _ _ _ b _ => { b := fld b false 2 }
  | .capoff _ _ _ _ => { }
  | .captst _ d _ b _ => { b := fld b, d := fld d }
  | .capget _ d _ _ => { d := fld d }
  | .capmov _ _ _ _ => { }
  | .srd _ d m => { d := fld d, priv := m.imm.getLsbD 15, flagHold := m.imm == 0x10 }
  | .swr _ a m => { a := fld a, priv := m.imm.getLsbD 15, flagHold := m.imm == 0x10 }
  | .trap _ _ => { }
  | .brkpt _ _ => { }
  | .eret _ _ => { }
  | .beat _ _ => { priv := true }
  | .ctxsv _ o => { b := fld o.b, d := fld o.d, ds := fld o.d, long := true, priv := true }
  | .ctxld _ o => { b := fld o.b, d := fld o.d, ds := fld o.d, long := true, priv := true }
  | .icinv _ _ => { priv := true }
  | .wfi _ _ => { priv := true }
  | .regq _ o => { a := fld o.a, d := fld o.d }
  | _ => {}

end Sys2Proof.Machine
end

