-- ==== Sys2Proof/Machine/Operands.lean ====
section
/-!
DEFINITION. Every operand form: reading a register field in a lane (R55, R56, R147, R150), result shapes (R148), the write
checks and the writes of vector registers (R148 to R150), predicates, the operand latch (R62), and registers reached
beyond a field (R497).
-/
set_option autoImplicit false

namespace Sys2Proof.Machine

/-! ### Registers of a warp (R144, R147) -/

/-- The class of a register number in a warp (Table 7.1); `out` is at or beyond T. -/
inductive RegClass where
  | gen | aff | uni | out
  deriving DecidableEq, Repr

/-- T of R144. -/
def Warp.total (w : Warp) : Nat := w.g + w.f + w.q

/-- The class of register `n`. -/
def Warp.cls (w : Warp) (n : Nat) : RegClass :=
  if n < w.g then .gen else if n < w.g + w.f then .aff else if n < w.total then .uni else .out

/-- Register `n` in lane `l` (R147). -/
def Warp.readReg (w : Warp) (n l : Nat) : Word :=
  match w.cls n with
  | .gen => smGetD w.gen (32 * n + l) 0
  | .aff => (smGetD w.aff n (0, 0)).1 + BitVec.ofNat 32 l * (smGetD w.aff n (0, 0)).2
  | .uni => smGetD w.uni n 0
  | .out => 0

/-- The pair `n`, `n + 1` in lane `l` (R150). -/
def Warp.read64 (w : Warp) (n l : Nat) : BitVec 64 := w.readReg (n + 1) l ++ w.readReg n l

/-- Writes one lane of a general register. -/
def Warp.putGen (w : Warp) (n l : Nat) (v : Word) : Warp := { w with gen := smPut w.gen (32 * n + l) v 0 }
/-- Writes a uniform register. -/
def Warp.putUni (w : Warp) (n : Nat) (v : Word) : Warp := { w with uni := smPut w.uni n v 0 }
/-- Writes an affine register. -/
def Warp.putAff (w : Warp) (n : Nat) (v : Word × Word) : Warp := { w with aff := smPut w.aff n v (0, 0) }

/-- Predicate `p` of a warp, by lane; 15 is pt (Table 3.1). -/
def Warp.pred (w : Warp) (p : Nat) : Mask := if p = 15 then BitVec.allOnes 32 else smGetD w.preds p 0
/-- Writes predicate `p` in the lanes of `m` only. -/
def Warp.putPred (w : Warp) (p : Nat) (m v : Mask) : Warp :=
  { w with preds := smPut w.preds p ((smGetD w.preds p 0 &&& ~~~m) ||| (v &&& m)) 0 }

/-! ### The operand latch (R62) -/

/-- The latch slot that a group's slice holds under number `k`. -/
def State.slot (s : State) (k : Nat) : Option Latch :=
  (smGet? (s.core s.cur.core).latches (s.cur.latchBase + k)).getD none

/-- The lanes of a slot. -/
def Latch.lanes (x : Latch) : Mask := maskOf fun l => x.vals.any fun p => p.1 == l

/-- R62: the slot may be read by the active lanes, as an operand of this width. -/
def State.latchOk (s : State) (act : Mask) (wide : Bool) (k : Nat) : Bool :=
  match s.slot k with
  | none => false
  | some x => act &&& ~~~x.lanes == 0 && x.lanes &&& s.cur.lanes != 0 && decide (x.used < 2) && x.width == (if wide then 64 else 32) &&
      s.cur.mems.all fun m => decide ((s.warp m.w).started ≤ x.at_)

/-- Replaces the latch slot that a core keeps under a key with the values of some lanes (R62). -/
def State.setLatch (s : State) (core key : Nat) (wide : Bool) (act : Mask) (vals : Nat → BitVec 64) : State :=
  s.modCore core fun c => { c with
    latches := smSet c.latches key (some
      { width := if wide then 64 else 32, at_ := s.clock
        vals := (lanesOf act).map fun l => (l, if wide then vals l else (vals l).setWidth 32 |>.setWidth 64) }) }

/-- Replaces a latch slot of the group's slice. -/
def State.putLatch (s : State) (k : Nat) (wide : Bool) (act : Mask) (vals : Nat → BitVec 64) : State :=
  s.setLatch s.cur.core (s.cur.latchBase + k) wide act vals

/-- The key of the latch slot that an instruction's own result goes to, if any (R62). -/
def State.resultSlot (s : State) (c : Ctl) : Option Nat := if c.hold == 3 then some (s.cur.latchBase + c.hslot.toNat) else none

/-- A result that is formed after its instruction issued goes to the latch slot kept for it (R62). -/
def State.latchResult (s : State) (core : Nat) (slot : Option Nat) (vals : List (Nat × Word)) : State :=
  match slot with
  | some key => s.setLatch core key false (maskOf fun l => vals.any fun v => v.1 == l) fun l => (smGetD vals l 0).setWidth 64
  | none => s

/-! ### Reading operands -/

/-- A field as a source, in lane `l` of a warp of the current group (Table 3.2, R56, R147). -/
def State.srcW (s : State) (w : Warp) (f : Fld) (l : Nat) : BitVec 64 :=
  match f.r with
  | .v n => if f.wide then w.read64 n l else (w.readReg n l).setWidth 64
  | .ones => if f.wide then BitVec.allOnes 64 else 0xFFFFFFFF
  | .lane => BitVec.ofNat 64 l
  | .latch k => match s.slot k.val with
      | some x => smGetD x.vals l 0
      | none => 0
  | .zero => f.imm

/-- A field as a source, in lane `l` of the current group. -/
def State.src (s : State) (f : Fld) (l : Nat) : BitVec 64 := s.srcW (s.warpAt l) f l

/-- A source, or 0 when the instruction has none. -/
def State.src? (s : State) (f : Option Fld) (l : Nat) : BitVec 64 := match f with | some f => s.src f l | none => 0

/-- Register `j` beyond the field's own, in lane `l`; a special value stands for every register (R497). -/
def State.srcMore (s : State) (r : VReg) (j l : Nat) : Word :=
  match r with
  | .v n => (s.warpAt l).readReg (n + j) l
  | _ => (s.src { r := r } l).setWidth 32

/-- The shape of a result or a source (R148). -/
inductive Shp where
  | uni | aff | gen
  deriving DecidableEq, Repr

/-- The shape of a source in a warp (R148). -/
def srcShp (w : Warp) : VReg → Shp
  | .v n => match w.cls n with | .uni => .uni | .aff => .aff | _ => .gen
  | .ones | .zero => .uni
  | .lane => .aff
  | .latch _ => .gen

/-- Base and stride of an affine, lane-index or uniform source in a member's warp (R147, R148). -/
def State.affOf (s : State) (f : Fld) (m : Member) : Word × Word :=
  match f.r with
  | .v n => match (s.warp m.w).cls n with
      | .aff => smGetD (s.warp m.w).aff n (0, 0)
      | _ => ((s.warp m.w).readReg n 0, 0)
  | .lane => (0, 1)
  | .ones => (BitVec.allOnes 32, 0)
  | _ => (f.imm.setWidth 32, 0)

/-- R148: a result is uniform when every source the instruction reads is uniform, and general otherwise. -/
def autoShp (u : Uses) (w : Warp) : Shp :=
  if (u.a.toList ++ u.b.toList ++ u.ds.toList).all fun f => srcShp w f.r == .uni then .uni else .gen

/-! ### Checks of registers -/

/-- Every member has some register field of the instruction inside its allocation (R57). -/
def State.regsIn (s : State) (u : Uses) : Bool :=
  (u.a.toList ++ u.b.toList ++ u.d.toList ++ u.ds.toList).all fun f =>
    match f.r with
    | .v n => s.cur.mems.all fun m => decide (n.val < (s.warp m.w).total)
    | _ => true

/-- R62: every latch slot that a source names may be read. -/
def State.latchesOk (s : State) (u : Uses) (act : Mask) : Bool :=
  (u.a.toList ++ u.b.toList ++ u.ds.toList).all fun f =>
    match f.r with
    | .latch k => s.latchOk act f.wide k.val
    | _ => true

/-- R148 to R150, for one member: the destination accepts a result of the shape. -/
def State.accepts (s : State) (f : Fld) (sh : Shp) (m : Member) : Bool :=
  match f.r with
  | .v n => match (s.warp m.w).cls n with
      | .aff => !f.wide && sh == .aff && (s.warp m.w).alive &&& ~~~m.lanes == 0
      | .uni => sh == .uni && (s.warp m.w).alive &&& ~~~m.lanes == 0
      | _ => true
  | _ => true

/-- R150: no 64-bit source touches an affine register. -/
def State.pairsOk (s : State) (u : Uses) (m : Member) : Bool :=
  (u.a.toList ++ u.b.toList ++ u.ds.toList).all fun f =>
    match f.r with
    | .v n => !f.wide || (s.warp m.w).cls n != .aff
    | _ => true

/-- REGSHAPE, the first of the instruction's own checks (R149): for every warp with an active lane. -/
def State.shapeChk (s : State) (u : Uses) (act : Mask) (sh : Member → Shp) : Chk Unit :=
  trapIf (!(s.cur.acting act).all fun m => s.pairsOk u m && u.d.toList.all fun f => s.accepts f (sh m) m) .regshape act

/-- R497: the registers `n` to `n + cnt - 1` reached from a field are in range, and then of a class that the entry
requires, in every warp with an active lane. -/
def State.reachChk (s : State) (r : VReg) (cnt : Nat) (cls : List RegClass) (act : Mask) : Chk Unit :=
  match r with
  | .v n => do
    let ms := s.cur.acting act
    trapIf (!ms.all fun m => decide (n.val + cnt ≤ (s.warp m.w).total)) .regrange act
    trapIf (!ms.all fun m => (List.range cnt).all fun j => cls.contains ((s.warp m.w).cls (n.val + j))) .regshape act
  | _ => .ok ()

/-- A field that must name a uniform register, or 2047 (R88, R182, R447). -/
def State.uniformChk (s : State) (r : VReg) (act : Mask) : Chk Unit :=
  trapIf (!(s.cur.acting act).all fun m => r == .zero || (r.isReg && srcShp (s.warp m.w) r == .uni)) .regshape act

/-! ### Writing results -/

/-- Writes a result to a destination field of one member's warp, in the member's lanes (R147 to R150). -/
def putField (f : Fld) (vals : Nat → BitVec 64) (aff : Word × Word) (m : Member) (w : Warp) : Warp :=
  match f.r with
  | .v n => match w.cls n with
      | .gen => (lanesOf m.lanes).foldl (fun w l =>
          let w := w.putGen n l ((vals l).setWidth 32)
          if f.wide then w.putGen (n + 1) l ((vals l >>> 32).setWidth 32) else w) w
      | .uni =>
          let v := vals ((lanesOf m.lanes).headD 0)
          let w := w.putUni n (v.setWidth 32)
          if f.wide then w.putUni (n + 1) ((v >>> 32).setWidth 32) else w
      | .aff => w.putAff n aff
      | .out => w
  | _ => w

/-- Writes an instruction's result to D in the active lanes, and to the latch under HOLD = 3 (R62, R63). -/
def State.putD (s : State) (c : Ctl) (f : Fld) (act : Mask) (vals : Nat → BitVec 64)
    (aff : Member → Word × Word := fun _ => (0, 0)) : State :=
  let s := s.modMembers (s.cur.acting act) fun m w => putField f vals (aff m) m w
  if c.hold == 3 then s.putLatch c.hslot.toNat f.wide act vals else s

/-- Writes a predicate in the active lanes of every member. -/
def State.putP (s : State) (p : Nat) (act : Mask) (f : Nat → Bool) : State :=
  s.modMembers (s.cur.acting act) fun m w => w.putPred p m.lanes (maskOf f)

/-- Reads a predicate in lane `l` of the current group. -/
def State.predAt (s : State) (p l : Nat) : Bool := ((s.warpAt l).pred p).getLsbD l

/-! ### Stores of register results that arrive later (R168) -/

/-- The register writes of a result, for delivery when a long-latency instruction completes. -/
def fieldWrites (f : Fld) (vals : Nat → BitVec 64) (m : Member) (w : Warp) : List RW :=
  match f.r with
  | .v n => match w.cls n with
      | .gen => (lanesOf m.lanes).flatMap fun l =>
          RW.gen m.w n l ((vals l).setWidth 32) ::
            (if f.wide then [RW.gen m.w (n + 1) l ((vals l >>> 32).setWidth 32)] else [])
      | .uni =>
          let v := vals ((lanesOf m.lanes).headD 0)
          RW.uni m.w n (v.setWidth 32) :: (if f.wide then [RW.uni m.w (n + 1) ((v >>> 32).setWidth 32)] else [])
      | _ => []
  | _ => []

/-- Delivers one register write. -/
def deliver (s : State) : RW → State
  | .gen w n l v => s.modWarp w fun x => x.putGen n l v
  | .uni w n v => s.modWarp w fun x => x.putUni n v
  | .aff w n b t => s.modWarp w fun x => x.putAff n (b, t)
  | .pred w p m v => s.modWarp w fun x => x.putPred p m v

end Sys2Proof.Machine
end

