-- ==== Sys2Proof/Machine/Flags.lean ====
section
/-!
DEFINITION. Floating-point formats, exact values, rounding and the flags it raises (R209 to R220): every flag
computation that the manual gives.
-/
set_option autoImplicit false

namespace Sys2Proof.Machine

/-- A binary format (Tables 10.1 to 10.3): exponent bits, trailing significand bits, bias, and what its top exponent holds: 0
infinities and NaNs, 1 finite values with one NaN code (E4M3), 2 finite values only. -/
structure Fmt where
  eb   : Nat
  mb   : Nat
  bias : Nat
  kind : Nat := 0
  deriving DecidableEq, Repr

def fmtF64 : Fmt := { eb := 11, mb := 52, bias := 1023 }
def fmtF32 : Fmt := { eb := 8, mb := 23, bias := 127 }
def fmtF16 : Fmt := { eb := 5, mb := 10, bias := 15 }
def fmtBF16 : Fmt := { eb := 8, mb := 7, bias := 127 }
def fmtE4M3 : Fmt := { eb := 4, mb := 3, bias := 7, kind := 1 }
def fmtE5M2 : Fmt := { eb := 5, mb := 2, bias := 15 }
def fmtE2M1 : Fmt := { eb := 2, mb := 1, bias := 1, kind := 2 }
def fmtE3M2 : Fmt := { eb := 3, mb := 2, bias := 3, kind := 2 }
def fmtE2M3 : Fmt := { eb := 2, mb := 3, bias := 1, kind := 2 }

/-- The format of a floating-point type (R209); other types read as FP32. -/
def fmtOf : Ty → Fmt
  | .f16 => fmtF16
  | .bf16 => fmtBF16
  | .f64 => fmtF64
  | .e4m3 => fmtE4M3
  | .e5m2 => fmtE5M2
  | _ => fmtF32

/-- The number of bits of a format. -/
def Fmt.bits (f : Fmt) : Nat := 1 + f.eb + f.mb
/-- The canonical NaN of a format (R211, Table 10.2). -/
def Fmt.nan (f : Fmt) : Nat :=
  if f.kind = 1 then 2 ^ (f.bits - 1) - 1
  else (2 ^ f.eb - 1) * 2 ^ f.mb + 2 ^ (f.mb - 1)
/-- The largest finite code of a format, with sign 0. -/
def Fmt.maxCode (f : Fmt) : Nat :=
  match f.kind with
  | 0 => (2 ^ f.eb - 1) * 2 ^ f.mb - 1
  | 1 => 2 ^ (f.bits - 1) - 2
  | _ => 2 ^ (f.bits - 1) - 1
/-- What stands for an infinity in the format, with sign 0: E4M3 has a NaN there (R218). -/
def Fmt.infCode (f : Fmt) : Nat := if f.kind = 0 then (2 ^ f.eb - 1) * 2 ^ f.mb else f.nan
/-- The sign bit. -/
def Fmt.signBit (f : Fmt) (neg : Bool) : Nat := if neg then 2 ^ (f.bits - 1) else 0

/-- A value: a NaN (signalling or not), an infinity, or a number (−1)^neg · m · 2^e. -/
inductive FVal where
  | nan (sig : Bool)
  | inf (neg : Bool)
  | num (neg : Bool) (m : Nat) (e : Int)
  deriving DecidableEq, Repr

/-- Reads a code of a format (R210 to R213). -/
def Fmt.read (f : Fmt) (x : Nat) : FVal :=
  let neg := x.testBit (f.bits - 1)
  let ex := x / 2 ^ f.mb % 2 ^ f.eb
  let sg := x % 2 ^ f.mb
  if f.kind = 0 ∧ ex = 2 ^ f.eb - 1 then
    if sg = 0 then .inf neg else .nan (f.bits != 8 && !sg.testBit (f.mb - 1))
  else if f.kind = 1 ∧ x % 2 ^ (f.bits - 1) = 2 ^ (f.bits - 1) - 1 then .nan false
  else if ex = 0 then .num neg sg (1 - (f.bias : Int) - f.mb)
  else .num neg (2 ^ f.mb + sg) ((ex : Int) - f.bias - f.mb)

/-! ### Flags (Table 10.4) -/

abbrev FpFlags := BitVec 6
def flNV : FpFlags := 1
def flDZ : FpFlags := 2
def flOF : FpFlags := 4
def flUF : FpFlags := 8
def flNX : FpFlags := 16
def flPV : FpFlags := 32

/-- A result with the flags it raises. -/
structure FRes where
  v  : Nat
  fl : FpFlags := 0
  deriving DecidableEq, Repr

/-! ### Rounding (R217, R218) -/

/-- `m · 2^e` as a multiple of `2^q`, rounded by mode `r` (0 RNE, 1 RTZ, 2 RDN, 3 RUP, 4 RNA), and whether it is inexact. -/
def roundAt (r : Nat) (neg : Bool) (m : Nat) (e q : Int) : Nat × Bool :=
  if q ≤ e then (m * 2 ^ (e - q).toNat, false)
  else
    let k := (q - e).toNat
    let n := m / 2 ^ k
    let rem := m % 2 ^ k
    let up := match r with
      | 0 => decide (2 ^ k < 2 * rem) || (decide (2 * rem = 2 ^ k) && n % 2 == 1)
      | 1 => false
      | 2 => neg && rem != 0
      | 3 => !neg && rem != 0
      | _ => decide (2 ^ k ≤ 2 * rem)
    (if up then n + 1 else n, rem != 0)

/-- The value that overflow takes (R218), or the largest finite value when saturating (R219). -/
def Fmt.overflow (f : Fmt) (r : Nat) (sat neg : Bool) : Nat :=
  let toInf := match r with | 1 => false | 2 => neg | 3 => !neg | _ => true
  f.signBit neg + (if toInf && !sat then f.infCode else f.maxCode)

/-- Rounds a number to a format (R217 to R219). -/
def Fmt.round (f : Fmt) (r : Nat) (sat neg : Bool) (m : Nat) (e : Int) : FRes :=
  if m = 0 then { v := f.signBit neg }
  else
    let lead : Int := e + m.log2
    let emin : Int := 1 - (f.bias : Int)
    let q := max lead emin - f.mb
    let nx := roundAt r neg m e q
    let code := ((q + f.mb + f.bias - 1) * 2 ^ f.mb + nx.1).toNat
    if f.maxCode < code then { v := f.overflow r sat neg, fl := flOF ||| flNX }
    else
      let free := (roundAt r neg m e (lead - f.mb)).1
      let tiny := decide (lead + (if free = 2 ^ (f.mb + 1) then 1 else 0) < emin)
      { v := f.signBit neg + code
        fl := (if nx.2 then flNX else 0) ||| (if nx.2 && tiny then flUF else 0) }

/-- Writes a value to a format: a NaN becomes canonical and raises NV if it is signalling (R211, R219). -/
def Fmt.write (f : Fmt) (r : Nat) (sat : Bool) : FVal → FRes
  | .nan sig => { v := f.nan, fl := if sig then flNV else 0 }
  | .inf neg => { v := f.signBit neg + (if sat then f.maxCode else f.infCode) }
  | .num neg m e => f.round r sat neg m e

/-! ### Exact arithmetic (R218, R225) -/

/-- A product. 0 · ∞ is invalid, as a signalling NaN is. -/
def mulV : FVal → FVal → FVal
  | .nan a, .nan b => .nan (a || b)
  | .nan a, _ => .nan a
  | _, .nan b => .nan b
  | .inf a, .inf b => .inf (a != b)
  | .inf a, .num b m _ => if m = 0 then .nan true else .inf (a != b)
  | .num a m _, .inf b => if m = 0 then .nan true else .inf (a != b)
  | .num a m e, .num b n k => .num (a != b) (m * n) (e + k)

/-- The signed integer of a number scaled to exponent `q`, which does not exceed its own. -/
def scaled (neg : Bool) (m : Nat) (e q : Int) : Int :=
  let x : Int := (m * 2 ^ (e - q).toNat : Nat)
  if neg then -x else x

/-- A sum. ∞ − ∞ is invalid; an exact zero of operands of opposite sign is +0, or −0 toward −∞ (R218). -/
def addV (r : Nat) : FVal → FVal → FVal
  | .nan a, .nan b => .nan (a || b)
  | .nan a, _ => .nan a
  | _, .nan b => .nan b
  | .inf a, .inf b => if a == b then .inf a else .nan true
  | .inf a, .num .. => .inf a
  | .num .., .inf b => .inf b
  | .num a m e, .num b n k =>
    let q := min e k
    let x := scaled a m e q + scaled b n k q
    if x = 0 then .num (if a == b then a else r == 2) 0 q else .num (decide (x < 0)) x.natAbs q

/-- The opposite value. -/
def negV : FVal → FVal
  | .num a m e => .num (!a) m e
  | .inf a => .inf (!a)
  | .nan s => .nan s

/-- Compares two numbers or infinities: the sign of a − b, −0 equal to +0. -/
def cmpV : FVal → FVal → Int
  | .inf a, .inf b => (if a then -1 else 1) - (if b then -1 else 1)
  | .inf a, _ => if a then -1 else 1
  | _, .inf b => if b then 1 else -1
  | .num a m e, .num b n k => let q := min e k; (scaled a m e q - scaled b n k q).sign
  | _, _ => 0

/-- A NaN. -/
def FVal.isNan : FVal → Bool
  | .nan _ => true
  | _ => false
/-- A signalling NaN. -/
def FVal.isSig : FVal → Bool
  | .nan s => s
  | _ => false
/-- The sign. -/
def FVal.neg : FVal → Bool
  | .num a _ _ => a
  | .inf a => a
  | .nan _ => false
/-- Zero. -/
def FVal.isZero : FVal → Bool
  | .num _ m _ => m == 0
  | _ => false
/-- A number. -/
def FVal.isFin : FVal → Bool
  | .num .. => true
  | _ => false

/-- The largest `x` with `x · x ≤ n`, found bit by bit from bit `k − 1`. -/
def isqrtBits (n : Nat) : Nat → Nat → Nat
  | 0, x => x
  | k + 1, x => let y := x + 2 ^ k; isqrtBits n k (if y * y ≤ n then y else x)
/-- The integer square root. -/
def isqrt (n : Nat) : Nat := isqrtBits n (n.log2 / 2 + 1) 0

/-- A quotient of numbers, with the divisor nonzero: 140 bits and a sticky bit, so that one rounding to any format is exact. -/
def quotV (a : Bool) (m : Nat) (e : Int) (b : Bool) (n : Nat) (k : Int) : FVal :=
  if m = 0 then .num (a != b) 0 0
  else
    let sh := 140 + n.log2
    let x := m * 2 ^ sh
    .num (a != b) (2 * (x / n) + (if x % n = 0 then 0 else 1)) (e - k - sh - 1)

/-- A quotient (R352): a finite nonzero value over zero is an infinity that raises DZ. -/
def divV : FVal → FVal → FVal × FpFlags
  | .nan a, .nan b => (.nan (a || b), 0)
  | .nan a, _ => (.nan a, 0)
  | _, .nan b => (.nan b, 0)
  | .inf _, .inf _ => (.nan true, 0)
  | .inf a, .num b _ _ => (.inf (a != b), 0)
  | .num a _ _, .inf b => (.num (a != b) 0 0, 0)
  | .num a m e, .num b n k =>
    if n = 0 then (if m = 0 then (.nan true, 0) else (.inf (a != b), flDZ)) else (quotV a m e b n k, 0)

/-- The square root of a positive number `m · 2^e`, with a sticky bit. -/
def sqrtNum (m : Nat) (e : Int) : FVal :=
  let odd := e % 2 = 1
  let m1 := if odd then 2 * m else m
  let e1 := if odd then e - 1 else e
  let x := m1 * 2 ^ 280
  let y := isqrt x
  .num false (2 * y + (if y * y = x then 0 else 1)) (e1 / 2 - 141)

/-- A square root: of a negative number invalid, of ±0 itself. -/
def sqrtV : FVal → FVal
  | .nan s => .nan s
  | .inf neg => if neg then .nan true else .inf false
  | .num neg m e => if m = 0 then .num neg 0 0 else if neg then .nan true else sqrtNum m e

/-- The rounding mode of an instruction in a warp (R217). -/
def rndMode (r : Rnd) (w : Warp) : Nat :=
  match r with
  | .rne | .ef => 0
  | .rtz => 1
  | .rdn => 2
  | .rup => 3
  | .rna => 4
  | .dyn => w.fprnd.toNat

end Sys2Proof.Machine
end

