-- ==== Sys2Proof/Machine/FpTrans.lean ====
section
/-!
DEFINITION. The four transcendental functions of R230, to 512 fraction bits and a sticky bit before the one rounding (log entry 12).
-/
set_option autoImplicit false

namespace Sys2Proof.Machine

/-- Fraction bits of the fixed-point values. -/
def fpBits : Nat := 512

/-- 1.0 in fixed point. -/
def fpOne : Nat := 2 ^ fpBits

/-- A product in fixed point. -/
def fpMul (a b : Nat) : Nat := a * b / fpOne

/-- Σ x^(2j+1)/(2j+1), alternating when `alt`, for x = 1/k: atan or atanh of 1/k. `t` holds the current power. -/
def invSeries (alt : Bool) (k2 : Nat) : Nat → Nat → Nat → Int
  | 0, _, _ => 0
  | n + 1, j, t =>
    (if alt && j % 2 == 1 then -((t / (2 * j + 1) : Nat) : Int) else (t / (2 * j + 1) : Nat)) + invSeries alt k2 n (j + 1) (t / k2)

/-- atan(1/k) in fixed point. -/
def atanInv (k : Nat) : Int := invSeries true (k * k) 230 0 (fpOne / k)
/-- π in fixed point. -/
def fpPi : Nat := (16 * atanInv 5 - 4 * atanInv 239).toNat
/-- ln 2 in fixed point: 2 atanh(1/3). -/
def fpLn2 : Nat := (2 * invSeries false 9 330 0 (fpOne / 3)).toNat

/-- Σ x^j/j! from term `j`, with the current term `t`. -/
def expSeries (x : Nat) : Nat → Nat → Nat → Nat
  | 0, _, _ => 0
  | n + 1, j, t => t + expSeries x n (j + 1) (fpMul t x / (j + 1))

/-- Σ (−1)^j x^(2j+1)/(2j+1)!, with the current term `t` and x². -/
def sinSeries (x2 : Nat) : Nat → Nat → Nat → Int
  | 0, _, _ => 0
  | n + 1, j, t => (t : Int) - sinSeries x2 n (j + 1) (fpMul t x2 / ((2 * j + 2) * (2 * j + 3)))

/-- Σ z^(2j+1)/(2j+1), with the current power `t` and z². -/
def atanhSeries (z2 : Nat) : Nat → Nat → Nat → Nat
  | 0, _, _ => 0
  | n + 1, j, t => t / (2 * j + 1) + atanhSeries z2 n (j + 1) (fpMul t z2)

/-- A fixed-point value that is not exact: its low bit is a sticky bit. -/
def sticky (neg : Bool) (x : Nat) (e : Int) : FVal := .num neg (2 * x + 1) (e - fpBits - 1)

/-- The fraction in fixed point of `m · 2^e` (e < 0), with 0 ≤ value < 1. -/
def fpFrac (m : Nat) (e : Int) : Nat := m * 2 ^ (fpBits - (-e).toNat)

/-- 2^A of a number (R230). The exponent is bounded, since beyond ±2000 every result overflows or underflows alike. -/
def exp2Num (neg : Bool) (m : Nat) (e : Int) : FVal :=
  let clip := fun (x : Int) => max (-2000) (min 2000 x)
  if m = 0 then .num false 1 0
  else if e + m.log2 ≥ 12 then .num false 1 (if neg then -2000 else 2000)
  else
    let x := scaled neg m e (min e 0)
    if e ≥ 0 then .num false 1 (clip (scaled neg m e 0))
    else
      let d : Int := (2 ^ (-e).toNat : Nat)
      let n := x / d
      let f := x % d
      if f = 0 then .num false 1 (clip n)
      else sticky false (expSeries (fpMul (fpFrac f.toNat e) fpLn2) 110 0 fpOne) (clip n)

/-- log2 of a positive number (R230). -/
def log2Num (m : Nat) (e : Int) : FVal :=
  let lead : Int := e + m.log2
  if m = 2 ^ m.log2 then .num (decide (lead < 0)) lead.natAbs 0
  else
    let x := m * 2 ^ fpBits / 2 ^ m.log2
    let z := (x - fpOne) * fpOne / (x + fpOne)
    let l := 2 * atanhSeries (fpMul z z) 170 0 z * fpOne / fpLn2
    let v : Int := lead * fpOne + l
    if v < 0 then .num true (2 * v.natAbs - 1) (-(fpBits : Int) - 1) else sticky false v.toNat 0

/-- sin(π · m · 2^e) for 0 ≤ value < 2, exact at the multiples of one half (R230). -/
def sinPiNum (neg : Bool) (m : Nat) (e : Int) : FVal :=
  let one : Nat := 2 ^ (-e).toNat
  let (up, r) := if m < one then (neg, m) else (!neg, m - one)
  let r := if 2 * r ≤ one then r else one - r
  if r = 0 then .num neg 0 0
  else if 2 * r = one then .num up 1 0
  else
    let x := fpMul (fpFrac r e) fpPi
    sticky up (sinSeries (fpMul x x) 60 0 x).toNat 0

/-- sin(π · A) (R230): an integer n gives +0 for n > 0 and −0 for n < 0. -/
def sinPi (neg : Bool) (m : Nat) (e : Int) : FVal :=
  if m = 0 then .num neg 0 0
  else if e ≥ 0 then .num neg 0 0
  else sinPiNum neg (m % 2 ^ (1 + (-e).toNat)) e

/-- cos(π · A) = sin(π · (|A| + 1/2)) (R230). -/
def cosPi (m : Nat) (e : Int) : FVal :=
  let q := min e (-1)
  let x := m * 2 ^ (e - q).toNat + 2 ^ (-1 - q).toNat
  match sinPiNum false (x % 2 ^ (1 + (-q).toNat)) q with
  | .num _ 0 k => .num false 0 k
  | v => v

/-- FEX2 (R230). -/
def exp2V : FVal → FVal × FpFlags
  | .nan s => (.nan s, 0)
  | .inf neg => (if neg then .num false 0 0 else .inf false, 0)
  | .num neg m e => (exp2Num neg m e, 0)

/-- FLG2 (R230). -/
def log2V : FVal → FVal × FpFlags
  | .nan s => (.nan s, 0)
  | .inf neg => (if neg then .nan true else .inf false, 0)
  | .num neg m e => if m = 0 then (.inf true, flDZ) else if neg then (.nan true, 0) else (log2Num m e, 0)

/-- FSIN (R230). -/
def sinV : FVal → FVal × FpFlags
  | .nan s => (.nan s, 0)
  | .inf _ => (.nan true, 0)
  | .num neg m e => (sinPi neg m e, 0)

/-- FCOS (R230). -/
def cosV : FVal → FVal × FpFlags
  | .nan s => (.nan s, 0)
  | .inf _ => (.nan true, 0)
  | .num _ m e => (cosPi m e, 0)

end Sys2Proof.Machine
end

