-- ==== Sys2Proof/Machine/Issue.lean ====
section
/-!
DEFINITION. What issues and how (chapter 8): fetching a word, readiness (R160), forming the issue group (R162), the wrapper
that every thread instruction runs in (R54, R57, R62, R71), and long-latency instructions from issue to completion
(R60, R61, R168, R221, R222).
-/
set_option autoImplicit false

namespace Sys2Proof.Machine

/-- The outcome type of every meaning. -/
abbrev Out := Host.Outcome State Fault Refusal

/-! ### Fetch -/

/-- The word at index `pc` of a code object, or none outside it (R52, R53). -/
def State.fetch (s : State) (obj : BitVec 24) (pc : BitVec 32) : Option InstrWord :=
  match s.obj? obj with
  | some o =>
    if o.kind == .code && decide (12 * pc.toNat + 12 ≤ o.size) then some (BitVec.ofNat 96 (memNat o.mem (12 * pc.toNat) 12))
    else none
  | none => none

/-- The line of an index (R157). -/
def lineOf (pc : Nat) : Nat := pc / 16

/-- The line of a thread's next instruction is present; an index outside the object reads no line (R53, R158). -/
def State.linePresent (s : State) (core : Nat) (th : Thread) : Bool :=
  (s.fetch th.obj th.pc).isNone || (s.core core).icache.contains (th.obj, lineOf th.pc.toNat)

/-- The line at an index of a code object is present. -/
def State.lineAt (s : State) (core : Nat) (obj : BitVec 24) (pc : BitVec 32) : Bool := s.linePresent core { pc := pc, obj := obj }

/-- The code object and index of a core's uniform sequencer, if its stream runs. -/
def Block.streamAt (b : Block) : Option (BitVec 24 × BitVec 32) :=
  match b.mx.st with
  | .running | .waiting _ => some (b.code, b.mx.pc)
  | _ => none

/-- The missing lines that a core's threads, streams and agent wait for, each with the sequencer of a block that does (R158). -/
def wantedLines (s : State) (core : Nat) : List (Nat × BitVec 24 × Nat) :=
  let blocks := (agentSeq, s.block core agentSeq) :: (s.core core).blocks.filter fun qb => decide (qb.1 < agentSeq)
  blocks.flatMap fun qb =>
    (qb.2.warps.flatMap fun iw => iw.2.threads.filterMap fun th =>
      if th.ended || s.linePresent core th then none else some (qb.1, th.obj, lineOf th.pc.toNat)) ++
    (qb.2.streamAt.toList.filterMap fun x => if s.lineAt core x.1 x.2 then none else some (qb.1, x.1, lineOf x.2.toNat))

/-- Two lines lie in one set of the instruction cache: 128 sets, indexed by the object id and the line number (R157; log entry 10). -/
def sameLineSet (x y : BitVec 24 × Nat) : Bool := Config.lineIndex x.1 x.2 % 128 == Config.lineIndex y.1 y.2 % 128

/-- Of the lines that `f` names, the first `n` are kept, and all others. -/
def keepFirst {α : Type} (f : α → Bool) : Nat → List α → List α
  | _, [] => []
  | n, x :: r => if f x then (match n with | 0 => keepFirst f 0 r | m + 1 => x :: keepFirst f m r) else x :: keepFirst f n r

/-- A line arrives in the cache: the least recently used lines leave where a set would hold more than its 8 ways with those it waits for, the lines
`demand` among them (R157, R159). -/
def Core.addLine (k : Core) (demand : List (BitVec 24 × Nat)) (x : BitVec 24 × Nat) : Core :=
  let here := k.icache.filter (· != x)
  let imiss := k.imiss.filter (· != x)
  let waits := (imiss ++ demand.filter (· != x)).eraseDups
  { k with imiss := imiss
           icache := x :: if here.length + waits.length < 8 then here
             else keepFirst (sameLineSet x) (7 - (waits.filter (sameLineSet x)).length) here }

/-- A line is used: it becomes the most recently used one. -/
def Core.useLine (k : Core) (x : BitVec 24 × Nat) : Core :=
  if k.icache.contains x then { k with icache := x :: k.icache.filter (· != x) } else k

/-- Asks the instruction cache for a line: nothing is added where it is present or already requested, and the request is dropped where every way
of its set waits for a line, one requested or one of `demand` that threads and streams wait for (R158, R159). -/
def Core.askLine (demand : List (BitVec 24 × Nat)) (k : Core) (x : BitVec 24 × Nat) : Core :=
  let waits := (k.imiss ++ demand).eraseDups
  if k.icache.contains x || waits.contains x || !(decide (waits.length < 8) || decide ((waits.filter (sameLineSet x)).length < 8)) then k
  else { k with imiss := k.imiss ++ [x] }

/-- Asks the instruction cache for the lines of `n` instructions, dropping what lies outside the object. -/
def askLines (core : Nat) (obj : BitVec 24) (start : Int) (n : Nat) (s : State) : State :=
  let size := match s.obj? obj with | some o => o.size / 12 | none => 0
  let idx := (List.range n).filterMap fun (i : Nat) =>
    if start + i < 0 ∨ start + i ≥ size then none else some (lineOf (start + i).toNat)
  let demand := if idx.isEmpty then [] else ((wantedLines s core).map (·.2)).eraseDups
  s.modCore core fun k => idx.foldl (fun k n => k.askLine demand (obj, n)) k

/-- Asks the instruction cache for the lines of 64 instructions (R65, R159). -/
def prefetch (core : Nat) (obj : BitVec 24) (start : Int) (s : State) : State := askLines core obj start 64 s

/-! ### Readiness (R160) -/

/-- The registers that a field reaches. -/
def Fld.regs (f : Fld) : List Nat :=
  match f.r with
  | .v n => (List.range (f.n * (if f.wide then 2 else 1))).map fun j => n.val + j
  | _ => []

/-- The scoreboard holds an instruction of a warp (R168, R201, R222). -/
def State.held (s : State) (w : WRef) (u : Uses) (gp : Nat) : Bool :=
  let regs := (u.a.toList ++ u.b.toList ++ u.d.toList ++ u.ds.toList).flatMap Fld.regs
  s.ops.any fun o =>
    o.marks.any (fun k => match k with
      | .reg w' n => w' == w && (u.all || regs.contains n)
      | .pred w' p => w' == w && (u.preds.contains p || p == gp)) ||
    (u.flagHold && o.long && o.mems.any fun m => m.w == w)

/-- The control fields of an instruction; commands and events have none. -/
def ctlOf (i : Instr) : Ctl := match i.raw with | some r => r.c | none => {}

/-- The scoreboard holds the next instruction of a thread. -/
def State.nextHeld (s : State) (w : WRef) (th : Thread) : Bool :=
  match s.fetch th.obj th.pc with
  | none => false
  | some x => match decodeWord x with
    | .ok i => s.held w (usesOf i) (ctlOf i).gp.toNat
    | .error _ => false

/-- A thread may issue, but for its line (R160, R429 to R431). -/
def State.willing (s : State) (b : Block) (w : WRef) (l : Nat) : Bool :=
  let x := smGetD b.warps w.warp {}
  let th := x.thread l
  !(s.core w.core).halted && b.stop == none && decide (l < x.threads.length) && !th.ended && th.wait == .none && !th.ret &&
    (x.trap == none || th.inH) && !th.yclk && th.las.all (fun p => decide (0 < p.2)) && !s.nextHeld w th

/-- A thread is ready, but for YLD. -/
def State.readyBase (s : State) (w : WRef) (l : Nat) : Bool :=
  let b := s.block w.core w.seq
  s.willing b w l && s.linePresent w.core ((smGetD b.warps w.warp {}).thread l)

/-- A thread can never issue again where it is: it has ended, or its block or core has stopped or it has left the core. -/
def State.gone (s : State) (w : WRef) (l : Nat) : Bool :=
  (s.core w.core).halted || (s.block? w.core w.seq).elim true (fun b => b.stop.isSome) || ((s.warp w).thread l).ended

/-- A thread is ready (R160): each thread that it must wait for has issued, by its age stamp, or, after YLD alone, is not ready (R64, R180). -/
def State.ready (s : State) (w : WRef) (l : Nat) : Bool :=
  let th := (s.warp w).thread l
  s.readyBase w l && th.yld.all fun y =>
    ((s.warp y.1).thread y.2.1).stamp != y.2.2 || (if th.yall then s.gone y.1 y.2.1 else !s.readyBase y.1 y.2.1)

/-- The warps of a slice. -/
def State.sliceWarps (s : State) (core slice : Nat) : List WRef :=
  (s.core core).blocks.flatMap fun qb =>
    if qb.1 < agentSeq then
      qb.2.warps.filterMap fun iw => if iw.2.slice = slice then some { core := core, seq := qb.1, warp := iw.1 } else none
    else []

/-- The ready threads of a slice: age stamp, warp slot, lane and warp. -/
def State.readyList (s : State) (core slice : Nat) : List (Nat × Nat × Nat × WRef) :=
  (s.sliceWarps core slice).flatMap fun w =>
    (List.range 32).filterMap fun l =>
      if s.ready w l then some (((s.warp w).thread l).stamp, (s.warp w).slot, l, w) else none

/-! ### The issue-group table (R161) -/

/-- The keys that the ready threads of a core hold or wait for, each with its thread's age stamp. -/
def State.readyKeys (s : State) (core : Nat) : List (Nat × GroupKey) :=
  (List.range 8).flatMap fun n => (s.readyList core n).map fun y =>
    let th := (s.warp y.2.2.2).thread y.2.2.1
    (y.1, n, th.obj, th.pc)

/-- The set of a key has a way free: 128 sets of 8 entries, chosen by a hash (log entry 10). -/
def tableRoom (held : List GroupKey) (k : GroupKey) : Bool :=
  let set := fun (x : GroupKey) => Config.groupHash x.1 x.2.1 x.2.2 % 128
  decide (held.length < 8) || decide ((held.filter fun x => set x == set k).length < 8)

/-- Some keys in the order in which their threads became ready, oldest first; `fuel` bounds their number. -/
def oldestKeys : Nat → List (Nat × GroupKey) → List GroupKey
  | 0, _ => []
  | _ + 1, [] => []
  | fuel + 1, x :: r =>
    let y := r.foldl (fun (y : Nat × GroupKey) (z : Nat × GroupKey) => if z.1 < y.1 then z else y) x
    y.2 :: oldestKeys fuel ((x :: r).filter fun z => z.2 != y.2)

/-- The waiting keys take entries in order: the entries, and the keys that wait on. -/
def admitKeys : List GroupKey → List GroupKey → List GroupKey × List GroupKey
  | [], held => (held, [])
  | k :: r, held =>
    if tableRoom held k then admitKeys r (held ++ [k]) else let x := admitKeys r held; (x.1, k :: x.2)

/-- The entries of a core's table, those that a ready thread still holds and those that the waiting keys take, the longest waiting first, and the
keys that wait on. -/
def State.groupTable (s : State) (core : Nat) : List GroupKey × List GroupKey :=
  let ready := s.readyKeys core
  let live := fun (k : GroupKey) => ready.any fun z => z.2 == k
  let kept := (s.core core).igt.filter live
  let waits := (s.core core).igtq.filter fun k => live k && !kept.contains k
  let new := ready.filter fun z => !kept.contains z.2 && !waits.contains z.2
  admitKeys (waits ++ oldestKeys new.length new) kept

/-- The state with a core's table brought up to its ready threads. -/
def State.refreshTable (s : State) (core : Nat) : State :=
  s.modCore core fun k => { k with igt := (s.groupTable core).1, igtq := (s.groupTable core).2 }

/-- After a step: the table of each core that holds a block is brought up to its ready threads, so keys wait in the order of the steps in which their threads
became ready, and those of one step in the order of the age stamps (R161; log entry 10). -/
def State.settleTables (s : State) : State :=
  s.cores.foldl (fun s ck => if ck.2.blocks.isEmpty && ck.2.igt.isEmpty then s else s.refreshTable ck.1) s

/-- The ready threads of a slice whose keys are in the table. -/
def State.entryList (s : State) (core slice : Nat) : List (Nat × Nat × Nat × WRef) :=
  (s.readyList core slice).filter fun y =>
    let th := (s.warp y.2.2.2).thread y.2.2.1
    (s.core core).igt.contains (slice, th.obj, th.pc)

/-! ### The issue group (R162) -/

/-- The order of R162: older stamp, then lower slot, then lower lane. -/
def older (x y : Nat × Nat × Nat × WRef) : Bool :=
  decide (x.1 < y.1) || (x.1 == y.1 && (decide (x.2.1 < y.2.1) || (x.2.1 == y.2.1 && decide (x.2.2.1 < y.2.2.1))))

/-- The oldest of some threads. -/
def oldest : List (Nat × Nat × Nat × WRef) → Option (Nat × Nat × Nat × WRef)
  | [] => none
  | x :: r => match oldest r with
    | none => some x
    | some y => some (if older y x then y else x)

/-- Inserts a member by ascending warp slot. -/
def insertMember (s : State) (m : Member) : List Member → List Member
  | [] => [m]
  | x :: r => if (s.warp m.w).slot < (s.warp x.w).slot then m :: x :: r else x :: insertMember s m r

/-- R162 step 3: the other warps in order of their oldest thread at P; `fuel` bounds their number. -/
def joinWarps (s : State) : Nat → List (Nat × Nat × Nat × WRef) → List Member → List Member
  | 0, _, ms => ms
  | fuel + 1, cand, ms =>
    match oldest cand with
    | none => ms
    | some x =>
      let mine := cand.filter fun y => y.2.2.2 == x.2.2.2
      let lanes := maskOf fun l => mine.any fun y => y.2.2.1 == l
      let taken := ms.foldl (fun a m => a ||| m.lanes) 0
      joinWarps s fuel (cand.filter fun y => !(y.2.2.2 == x.2.2.2))
        (if lanes &&& taken == 0 then insertMember s { w := x.2.2.2, lanes := lanes } ms else ms)

/-- The issue group that a slice forms (R162), if it has a ready thread with an entry. -/
def State.formGroup (s : State) (core slice : Nat) : Option Group :=
  let rl := s.entryList core slice
  match oldest rl with
  | none => none
  | some x =>
    let th := (s.warp x.2.2.2).thread x.2.2.1
    let at_ := rl.filter fun y =>
      let t := (s.warp y.2.2.2).thread y.2.2.1
      t.pc == th.pc && t.obj == th.obj
    let mine := at_.filter fun y => y.2.2.2 == x.2.2.2
    let seed : Member := { w := x.2.2.2, lanes := maskOf fun l => mine.any fun y => y.2.2.1 == l }
    some { core := core, slice := slice, unit := .slice, obj := th.obj, pc := th.pc
           mems := joinWarps s 8 (at_.filter fun y => !(y.2.2.2 == x.2.2.2)) [seed] }

/-- The group of a core's firmware agent (R11). -/
def State.agentGroup (s : State) (core : Nat) : Group :=
  let th := (s.warp { core := core, seq := agentSeq, warp := 0 }).thread 0
  { core := core, slice := 0, unit := .agent, obj := th.obj, pc := th.pc
    mems := [{ w := { core := core, seq := agentSeq, warp := 0 }, lanes := 1 }] }

/-! ### The wrapper of every thread instruction -/

/-- The lanes in which a warp's threads issue: a thread whose lane has been performed before a VOLFULL trap does not, in the retry (R430). -/
def Warp.issuing (w : Warp) : Mask := maskOf fun l => !(w.thread l).done || (w.thread l).inH

/-- The active lanes (R54), within those that a retry after VOLFULL may issue in (R430). -/
def State.active (s : State) (c : Ctl) : Mask :=
  s.cur.mems.foldl (fun a m =>
    let w := s.warp m.w
    let p := w.pred c.gp.toNat
    a ||| ((if c.gn then ~~~p else p) &&& w.issuing &&& m.lanes)) 0

/-- R71 steps 2 to 4: PRIV, REGRANGE and LATCH, for the whole group. -/
def State.issueChk (s : State) (u : Uses) (act : Mask) : Chk Unit := do
  trapIf (u.priv && s.cur.unit != .agent) .priv s.cur.lanes
  trapIf (!s.regsIn u) .regrange s.cur.lanes
  trapIf (!s.latchesOk u act) .latch s.cur.lanes

/-- A thread of the group has issued: its age, its lookahead budgets and its continuation (R60, R160, R172). -/
def Thread.issued (th : Thread) (clock : Nat) (pc : BitVec 32) : Thread :=
  { th with pc := pc + 1, stamp := clock, las := th.las.map fun p => (p.1, p.2 - 1), yld := [], yall := false, yclk := false, done := th.done && th.inH }

/-- Changes the count of instructions in the latch windows of a group (R62). -/
def Group.countUse (g : Group) (f : Nat → Nat) (k : Core) : Core :=
  { k with latches := k.latches.map fun x => (x.1,
      if g.latchBase ≤ x.1 ∧ x.1 < g.latchBase + 3 then
        x.2.map fun y => if y.lanes &&& g.lanes != 0 then { y with used := f y.used } else y
      else x.2) }

/-- What every issue does before the instruction's own effect: the group's threads continue at PC + 1, the latch windows and the
core's instruction count advance. -/
def State.advance (s : State) : State :=
  let g := s.cur
  let s := { s with clock := s.clock + 1 }
  let s := s.modMembers g.mems fun m w => w.modThreads m.lanes fun _ th => th.issued s.clock g.pc
  s.modCore g.core fun k => { g.countUse (· + 1) k with issued := if g.unit == .slice then k.issued + 1 else k.issued }

/-- The group's instruction is held back: its threads wait as `x` says and issue it again, and nothing of them has issued. -/
def holdReissue (x : Wait) (s : State) : State :=
  let g := s.cur
  let s := s.modMembers g.mems fun m w => w.modThreads m.lanes fun _ th =>
    { th with wait := x, pc := g.pc, las := th.las.map fun p => (p.1, p.2 + 1) }
  { s.modCore g.core (fun k => { g.countUse (· - 1) k with issued := if g.unit == .slice then k.issued - 1 else k.issued }) with cur := { g with held := true } }

/-- HOLD of A or B, and of a result when no lane is active (R62); `s0` is the state in which the operands were read. -/
def holdOperand (c : Ctl) (u : Uses) (act : Mask) (s0 s : State) : State :=
  if c.hold == 1 then s.putLatch c.hslot.toNat (u.a.elim false (·.wide)) act (s0.src? u.a)
  else if c.hold == 2 then s.putLatch c.hslot.toNat (u.b.elim false (·.wide)) act (s0.src? u.b)
  else if c.hold == 3 && act == 0 then s.putLatch c.hslot.toNat (u.d.elim false (·.wide)) 0 fun _ => 0
  else s

/-- The other threads of the group's slice that are ready, each with an issue-group entry, and their stamps (R64, R161). -/
def State.others (s : State) (g : Group) : List (WRef × Nat × Nat) :=
  ((s.entryList g.core g.slice).filter fun x =>
    !(g.mems.any fun m => m.w == x.2.2.2 && m.lanes.getLsbD x.2.2.1)).map fun x => (x.2.2.2, x.2.2.1, x.1)

/-- YLD (R64): the group's threads wait for every other ready thread of the slice. -/
def yieldGroup (s0 s : State) : State :=
  s.modMembers s.cur.mems fun m w => w.modThreads m.lanes fun _ th => { th with yld := s0.others s0.cur }

/-- The hints of an instruction that has issued: HOLD, YLD and PF (R60 to R65); one that is held back takes them when it issues. -/
def hints (c : Ctl) (u : Uses) (act : Mask) (s0 s : State) : State :=
  if s.cur.held then s else
  let s := holdOperand c u act s0 s
  let s := if c.yld then yieldGroup s0 s else s
  if c.pf == 0 then s else prefetch s.cur.core s.cur.obj (s.cur.pc.toNat + 64 * c.pf.toNat) s

/-- A thread instruction: the checks of R71, then its body over the active lanes, or a trap with no effect (R7). An instruction with
no active lane issues and has no effect of its own (R54). -/
def issue (c : Ctl) (u : Uses) (body : Mask → State → Chk State) (s : State) : Out :=
  let act := s.active c
  .next (match s.issueChk u act with
    | .error t => raiseTrap t s
    | .ok () =>
      if act == 0 then hints c u act s s.advance
      else match body act s.advance with
        | .error t => raiseTrap t s
        | .ok s' => hints c u act s s')

/-! ### Long-latency instructions (R60, R61, R168) -/

/-- The registers and predicates that the scoreboard marks for an instruction, in the warps with an active lane. -/
def marksOf (g : Group) (act : Mask) (d : Option Fld) (preds : List Nat) : List Mark :=
  (g.acting act).flatMap fun m =>
    (d.toList.flatMap Fld.regs).map (Mark.reg m.w) ++ preds.map (Mark.pred m.w)

/-- The floating-point traps that the warps of some members enable (R221). -/
def State.fptenOf (s : State) (ms : List Member) : BitVec 5 := ms.foldl (fun a m => a ||| (s.warp m.w).fpten) 0

/-- Starts a long-latency instruction: it is outstanding, and the group's threads take its lookahead budget (R60, R61). DESIGN CHOICE (log entry 110): in a
group of several warps the budget of a floating-point one is 0 for every member when one member's warp has a trap enabled. -/
def State.startOp (s : State) (c : Ctl) (o : LongOp) : State :=
  let fpten := s.fptenOf s.cur.mems
  let o := { o with id := s.nextId, core := s.cur.core, mems := s.cur.mems, obj := s.cur.obj, pc := s.cur.pc, fpten := fpten }
  let s := { s with nextId := s.nextId + 1, ops := s.ops ++ [{ o with long := true }] }
  s.modMembers s.cur.mems fun m w => w.modThreads m.lanes fun _ th => { th with las := th.las ++ [(o.id, if o.fp && fpten != 0 then 0 else c.la.toNat)] }

/-- Starts a long-latency instruction whose results are formed: they arrive at its completion. -/
def State.startResults (s : State) (c : Ctl) (act : Mask) (d : Option Fld) (rws : List RW) : State :=
  s.startOp c { id := 0, core := 0, mems := [], obj := 0, pc := 0, marks := marksOf s.cur act d [], rws := rws }

/-- An outstanding instruction. -/
def State.op? (s : State) (id : Nat) : Option LongOp := s.ops.find? fun o => o.id == id
/-- Changes an outstanding instruction. -/
def State.modOp (s : State) (id : Nat) (f : LongOp → LongOp) : State :=
  { s with ops := s.ops.map fun o => if o.id == id then f o else o }

/-- Wakes the threads of a mask: they take the clock as their age stamp (R160). -/
def State.wake (s : State) (w : WRef) (m : Mask) : State :=
  let s := { s with clock := s.clock + 1 }
  s.modThreads w m fun _ th => { th with wait := .none, stamp := s.clock }

/-- Takes the deferred traps whose threads have no older instruction outstanding (R61). -/
def takeDeferred (s : State) : State :=
  s.deferred.foldl (fun s d =>
    if olderPending d.grp s then s else
      let s := { s with deferred := s.deferred.filter fun x => !(x == d) }
      let s := s.modMembers d.grp.mems fun m w =>
        w.modThreads m.lanes fun _ th => if th.wait == .deferred then { th with wait := .none } else th
      takeTrap { cause := d.cause, lanes := d.lanes, info := d.info, infos := d.infos } d.grp s) s

/-- Removes an outstanding instruction and its lookahead budgets. -/
def State.dropOp (s : State) (o : LongOp) : State :=
  let s := { s with ops := s.ops.filter fun x => x.id != o.id }
  s.modMembers o.mems fun m w =>
    w.modThreads m.lanes fun _ th => { th with las := th.las.filter fun p => p.1 != o.id }

/-- The group of an outstanding instruction. -/
def LongOp.group (s : State) (o : LongOp) : Group :=
  { core := o.core, slice := match o.mems with | m :: _ => (s.warp m.w).slice | [] => 0
    unit := if o.mems.any (fun m => m.w.seq == agentSeq) then .agent else .slice
    mems := o.mems, obj := o.obj, pc := o.pc }

/-- ORs flags, given by warp and lane, into FPFLAGS (R220). -/
def orFlags (flags : List (WRef × Nat × BitVec 6)) (s : State) : State :=
  flags.foldl (fun s f => s.modWarp f.1 fun w => { w with fpflags := w.fpflags ||| f.2.2 }) s

/-- R221: the trap that flags raise, if one of them is enabled in `en`: a warp's detail word is every flag that its lanes of TRLANE raised. -/
def fpTrapOf (en : BitVec 5) (flags : List (WRef × Nat × BitVec 6)) : Option TrapReq :=
  let hit := flags.filter fun f => f.2.2.setWidth 5 &&& en != 0
  let raised := fun (w : WRef) => (hit.filter fun f => f.1 == w).foldl (fun a f => a ||| f.2.2.setWidth 32) 0
  if hit.isEmpty then none else
    some { cause := .fptrap, lanes := maskOf fun l => hit.any fun f => f.2.1 == l, infos := hit.map fun f => (f.2.1, raised f.1) }

/-- R221: the trap that flags raise, if some warp of the group enables one of them. -/
def fpTrap (s : State) (ms : List Member) (flags : List (WRef × Nat × BitVec 6)) : Option TrapReq := fpTrapOf (s.fptenOf ms) flags

/-- Completes an outstanding instruction whose results are formed: its registers and flags are written, or it traps
(R168, R221, R222); the traps that count are those enabled when it issued (R61), and a trap waits for the older instructions of its threads. -/
def State.completeOp (s : State) (o : LongOp) : State :=
  let s1 := s.dropOp o
  takeDeferred (match fpTrapOf o.fpten o.flags with
    | some t => raiseAt t (o.group s) s1
    | none => orFlags o.flags (o.rws.foldl deliver s1))

/-- Completes the outstanding instruction numbered `id`, if its results are formed and no copy that it waits for is left. -/
def State.complete (s : State) (id : Nat) : State :=
  match s.op? id with
  | some o =>
    if o.work == .results && !(s.core o.core).copies.any (fun k => k.op == some id)
    then s.completeOp o else s
  | none => s

end Sys2Proof.Machine
end

