-- ==== Sys2Proof/Machine/Control.lean ====
section
/-!
DEFINITION. Group 0, control flow (chapter 8): branches, calls and returns, ends of threads, clause registers; and the wrapper of
the instructions that a uniform sequencer runs (R337, R338).
-/
set_option autoImplicit false

namespace Sys2Proof.Machine

/-! ### The uniform sequencer (R337, R338) -/

/-- The sequencer's value of a register field: v0 to v63, all ones, or zero with its immediate (R337). -/
def streamSrc (mx : Mx) (imm : Word) : VReg → Option Word
  | .v n => if n.val < 64 then some (smGetD mx.regs n.val 0) else none
  | .ones => some (BitVec.allOnes 32)
  | .zero => some imm
  | _ => none

/-- Writes a register field of the sequencer; 2047 discards (R337). -/
def streamPut (mx : Mx) (v : Word) : VReg → Option Mx
  | .v n => if n.val < 64 then some { mx with regs := smPut mx.regs n.val v 0 } else none
  | .zero => some mx
  | _ => none

/-- Wakes the threads of a block that wait as `p` says; their instruction issues again (R338). -/
def wakeWhere (core seq : Nat) (p : Wait → Bool) (s : State) : State :=
  let s := { s with clock := s.clock + 1 }
  s.modBlock core seq fun b => b.mapWarps fun w => w.mapThreads fun th =>
    if p th.wait then { th with wait := .none, stamp := s.clock } else th

/-- The lines that a reader of a tile writes, and the bytes of one row of it (R347). -/
def MxRead.rowBytes (r : MxRead) : Nat :=
  match r.ty with
  | .f64 => 1024
  | .f32 => 512
  | .f16 | .bf16 => 256
  | _ => 128

/-- The lines of block shared memory that a reader writes (R347). -/
def MxRead.lines (r : MxRead) : List Nat :=
  (List.range r.n).flatMap fun i => (List.range (r.rowBytes / 64)).map fun j => (r.off + i * r.stride) / 64 + j

/-- A reader that traps writes nothing: the presence bits of its lines are set again (R347). -/
def unclear (r : MxRead) (s : State) : State :=
  s.modBlock r.w.core r.w.seq fun b => { b with absent := b.absent.filter fun l => !(r.lines.contains l) }

/-- The readers of an instruction are given up, and it traps in the lanes of some of them. -/
def trapReaders (o : LongOp) (rs : List MxRead) (bad : MxRead → Bool) (cause : Cause) (info : Word) (s : State) : State :=
  let lanes := (rs.filter bad).foldl (fun m r => m ||| r.lanes) 0
  let s := rs.foldl (fun s r => unclear r s) s
  let s := { s with clock := s.clock + 1 }
  let s := s.modMembers o.mems fun m w => w.modThreads m.lanes fun _ th =>
    match th.wait with
    | .mxver _ _ => { th with wait := .none, stamp := s.clock }
    | _ => th
  takeDeferred (raiseAt { cause := cause, lanes := lanes, info := info } (o.group s) (s.dropOp o))

/-- A stream fault: the sequencer stops at the instruction, which leaves no effect; a warp parked at MXBAR wakes to issue again, and one
parked at MXST or MXCVT takes the trap (R338). -/
def streamFault (core seq : Nat) (cause : Cause) (sub : BitVec 8) (s : State) : State :=
  let s := s.modBlock core seq fun b => { b with mx := { b.mx with st := .faulted cause.code sub } }
  let s := wakeWhere core seq (fun w => match w with | .mxbar _ => true | _ => false) s
  s.ops.foldl (fun s o => match o.work with
    | .mxrd rs =>
      let bad := fun (r : MxRead) => r.w.core == core && r.w.seq == seq
      if rs.any bad then trapReaders o rs bad cause (0x80000000 + sub.setWidth 32) s else s
    | _ => s) s

/-- An instruction of a stream: no guard, no HOLD, and a body over the block's matrix resources that answers none where a
field is one that R337 forbids (ILLOP). -/
def streamIssue (seq : Nat) (c : Ctl) (body : Mx → Option Mx) (s : State) : Out :=
  let core := s.cur.core
  let mx := (s.block core seq).mx
  .next (if c.gp != 15 || c.gn || c.hold != 0 || c.hslot != 0 then streamFault core seq .illop 0 s else
    match body { mx with pc := s.cur.pc + 1 } with
    | none => streamFault core seq .illop 0 s
    | some mx' =>
      let s := { s with clock := s.clock + 1 }
      let s := s.modBlock core seq fun b => { b with mx := mx' }
      if c.pf == 0 then s else prefetch core s.cur.obj (s.cur.pc.toNat + 64 * c.pf.toNat) s)

/-- An instruction that the sequencer does not accept (R337). -/
def streamIllegal (seq : Nat) (s : State) : Out := .next (streamFault s.cur.core seq .illop 0 s)

/-- A thread instruction; on a uniform sequencer it is a stream fault (R337). -/
def issueT (c : Ctl) (u : Uses) (body : Mask → State → Chk State) (s : State) : Out :=
  match s.cur.unit with
  | .stream seq => streamIllegal seq s
  | _ => issue c u body s

/-! ### Continuations -/

/-- Sends the active lanes of the group to the indices that `f` gives (R172). -/
def goTo (act : Mask) (f : Nat → Option (BitVec 32)) (s : State) : State :=
  s.modMembers (s.cur.acting act) fun m w => w.modThreads m.lanes fun l th =>
    match f l with
    | some pc => { th with pc := pc }
    | none => th

/-- PC + X for a lane: the sum of the instruction's index and the signed offset (R46, R174). -/
def State.target (s : State) (off : BitVec 32) : BitVec 32 := s.cur.pc + off

/-- NOP (R173). -/
def execNop (c : Ctl) (_m : Mods) (s : State) : Out :=
  match s.cur.unit with
  | .stream seq => streamIssue seq c some s
  | _ => issue c (usesOf (.nop c _m)) (fun _ s => .ok s) s

/-- BRA (R174). -/
def execBra (c : Ctl) (off : BitVec 32) (s : State) : Out :=
  match s.cur.unit with
  | .stream seq => streamIssue seq c (fun mx => some { mx with pc := s.target off }) s
  | _ => issue c (usesOf (.bra c off)) (fun act s => .ok (goTo act (fun _ => some (s.target off)) s)) s

/-- BRX (R175). -/
def execBrx (c : Ctl) (o : OpsV) (s : State) : Out :=
  issueT c (usesOf (.brx c o)) (fun act s =>
    .ok (goTo act (fun l => some ((s.src { r := o.a } l).setWidth 32)) s)) s

/-- The branch test of BRANY and BRALL over a member's active lanes (R174). -/
def branchOn (p : BitVec 4) (off : BitVec 32) (test : Mask → Mask → Bool) (act : Mask) (s : State) : State :=
  s.modMembers (s.cur.acting act) fun m w => w.modThreads m.lanes fun _ th =>
    if test (w.pred p.toNat &&& m.lanes) m.lanes then { th with pc := s.target off } else th

/-- BRANY (R174). -/
def execBrany (c : Ctl) (p : BitVec 4) (off : BitVec 32) (s : State) : Out :=
  issueT c (usesOf (.brany c p off)) (fun act s => .ok (branchOn p off (fun x _ => x != 0) act s)) s

/-- BRALL (R174). -/
def execBrall (c : Ctl) (p : BitVec 4) (off : BitVec 32) (s : State) : Out :=
  issueT c (usesOf (.brall c p off)) (fun act s => .ok (branchOn p off (fun x m => x == m) act s)) s

/-! ### Calls (R176, R177) -/

/-- The active lanes of the group whose thread satisfies a test. -/
def State.lanesWith (s : State) (act : Mask) (p : Nat → Thread → Bool) : Mask :=
  maskOf fun l => act.getLsbD l && p l ((s.warpAt l).thread l)

/-- Pushes the return place on the active lanes' return stacks and sends them on (R176). -/
def callTo (act : Mask) (f : Nat → Thread → BitVec 24 × BitVec 32) (s : State) : State :=
  s.modMembers (s.cur.acting act) fun m w => w.modThreads m.lanes fun l th =>
    { th with rstack := (th.obj, s.cur.pc + 1) :: th.rstack, obj := (f l th).1, pc := (f l th).2 }

/-- R176: lanes with a full return stack. -/
def fullStacks (act : Mask) (s : State) : Chk Unit :=
  let z := s.lanesWith act fun _ th => decide (16 ≤ th.rstack.length)
  trapIf (z != 0) .spillovf z 1

/-- CALL (R176). -/
def execCall (c : Ctl) (off : BitVec 32) (s : State) : Out :=
  issueT c (usesOf (.call c off)) (fun act s => do
    fullStacks act s
    .ok (callTo act (fun _ th => (th.obj, s.target off)) s)) s

/-- The capability checks of CALLX in one lane (R177), in their order. -/
def callxChk (s : State) (n : Nat) (o : OpsV) (act : Mask) : Chk Unit := do
  let cap := fun l => (s.blockAt l).cap n
  let on := fun (p : Nat → Bool) => maskOf fun l => act.getLsbD l && p l
  let z1 := on fun l => !s.usable (s.blockAt l).part (cap l)
  trapIf (z1 != 0) .capinvalid z1
  let z2 := on fun l => !(cap l).right 2 || (match s.capObj (cap l) with | some ob => ob.kind != .code | none => true)
  trapIf (z2 != 0) .capright z2
  let z3 := on fun l => (cap l).lower.toNat % 12 != 0
  trapIf (z3 != 0) .misalign z3
  let z4 := on fun l => decide ((cap l).upper.toNat < (cap l).lower.toNat + 12 * ((s.src { r := o.a } l).toNat % 2 ^ 32) + 12)
  trapIf (z4 != 0) .capbound z4

/-- CALLX (R176, R177). -/
def execCallx (c : Ctl) (o : OpsV) (s : State) : Out :=
  issueT c (usesOf (.callx c o)) (fun act s => do
    let n := o.m.imm.toNat % 32
    callxChk s n o act
    fullStacks act s
    .ok (callTo act (fun l _ => (((s.blockAt l).cap n).oid,
      BitVec.ofNat 32 (((s.blockAt l).cap n).lower.toNat / 12) + (s.src { r := o.a } l).setWidth 32)) s)) s

/-- RET (R176). -/
def execRet (c : Ctl) (m : Mods) (s : State) : Out :=
  issueT c (usesOf (.ret c m)) (fun act s => do
    let z := s.lanesWith act fun _ th => th.rstack.isEmpty
    trapIf (z != 0) .spillovf z 2
    .ok (s.modMembers (s.cur.acting act) fun m w => w.modThreads m.lanes fun _ th =>
      match th.rstack with
      | (ob, i) :: r => { th with rstack := r, obj := ob, pc := i }
      | [] => th)) s

/-! ### Clause registers (R169, R170, R182) -/

/-- A clause register (ENR, ARR). -/
def Warp.clause (w : Warp) (k : Nat) : Mask × Mask := smGetD w.clauses k (0, 0)
/-- Writes a clause register. -/
def Warp.setClause (w : Warp) (k : Nat) (v : Mask × Mask) : Warp := { w with clauses := smPut w.clauses k v (0, 0) }
/-- The lanes parked at a clause register. -/
def Warp.parkedAt (w : Warp) (k : Nat) : Mask := maskOf fun l => (w.thread l).wait == .clause k

/-- R169: when ARR equals ENR and is not zero, the parked lanes are released with one age stamp and ARR becomes 0. -/
def Warp.releaseClause (w : Warp) (k clock : Nat) : Warp :=
  let e := w.clause k
  if e.2 == e.1 && e.2 != 0 then
    (w.setClause k (e.1, 0)).modThreads (w.parkedAt k) fun _ th => { th with wait := .none, stamp := clock }
  else w

/-- R170: ended lanes are struck out of all sixteen clause registers, and each is checked for release. -/
def Warp.strike (w : Warp) (ended : Mask) (clock : Nat) : Warp :=
  (List.range 16).foldl (fun w k =>
    let e := w.clause k
    (w.setClause k (e.1 &&& ~~~ended, e.2 &&& ~~~ended)).releaseClause k clock) w

/-- CLEN (R182). -/
def execClen (c : Ctl) (k : BitVec 4) (s : State) : Out :=
  issueT c (usesOf (.clen c k)) (fun act s => .ok (s.modMembers (s.cur.acting act) fun m w =>
    w.setClause k.toNat ((w.clause k.toNat).1 ||| m.lanes, (w.clause k.toNat).2))) s

/-- CLWAIT (R182). -/
def execClwait (c : Ctl) (k : BitVec 4) (s : State) : Out :=
  issueT c (usesOf (.clwait c k)) (fun act s => .ok (s.modMembers (s.cur.acting act) fun m w =>
    let e := w.clause k.toNat
    let w := w.setClause k.toNat (e.1, e.2 ||| (m.lanes &&& e.1))
    if (w.clause k.toNat).2 == e.1 then w.releaseClause k.toNat s.clock
    else w.modThreads (m.lanes &&& e.1) fun _ th => { th with wait := .clause k.toNat })) s

/-- CLDROP (R182). -/
def execCldrop (c : Ctl) (k : BitVec 4) (s : State) : Out :=
  issueT c (usesOf (.cldrop c k)) (fun act s => .ok (s.modMembers (s.cur.acting act) fun m w =>
    let e := w.clause k.toNat
    let w := w.setClause k.toNat (e.1 &&& ~~~m.lanes, e.2 &&& ~~~m.lanes)
    if w.parkedAt k.toNat != 0 then w.releaseClause k.toNat s.clock else w)) s

/-- CLGET (R182): its result is general. -/
def execClget (c : Ctl) (d : VReg) (k : BitVec 4) (m : Mods) (s : State) : Out :=
  let u := usesOf (.clget c d k m)
  issueT c u (fun act s => do
    s.shapeChk u act fun _ => .gen
    .ok (s.putD c { r := d } act fun l =>
      let e := (s.warpAt l).clause k.toNat
      (if m.sub == 0 then e.1 else e.2).setWidth 64)) s

/-- CLSET (R182). -/
def execClset (c : Ctl) (k : BitVec 4) (a : VReg) (m : Mods) (s : State) : Out :=
  issueT c (usesOf (.clset c k a m)) (fun act s => do
    s.uniformChk a act
    .ok (s.modMembers (s.cur.acting act) fun mm w =>
      let v := (s.src { r := a } ((lanesOf mm.lanes).headD 0)).setWidth 32 &&& w.alive
      let e := w.clause k.toNat
      let w := if m.sub == 0 then
          (w.setClause k.toNat (v, e.2 &&& v)).modThreads (w.parkedAt k.toNat &&& ~~~v) fun _ th =>
            { th with wait := .none, stamp := s.clock }
        else w.setClause k.toNat (e.1, v &&& e.1)
      if w.parkedAt k.toNat != 0 then w.releaseClause k.toNat s.clock else w)) s

/-! ### Ends of threads (R179, R322, R419) -/

/-- The item of a lane ends: the outstanding count of its class steps down, and when it reaches 0 every lane of the owner parked
at ITEMLOOP of the class wakes past its loop (R319, R322). -/
def endItem (core k : Nat) (s : State) : State :=
  match smGet? (s.core core).items k with
  | none => s
  | some q =>
    let s := s.modCore core fun x => { x with items := smSet x.items k { q with o := q.o - 1 } }
    if q.o - 1 = 0 then
      let s := { s with clock := s.clock + 1 }
      s.modBlock core q.owner fun b => b.mapWarps fun w => w.mapThreads fun th =>
        match th.wait with
        | .itemq k' _ ex _ => if k' = k then { th with wait := .none, pc := ex, stamp := s.clock } else th
        | _ => th
    else s

/-- Ends the items that the lanes of a member hold. -/
def endItems (m : Member) (s : State) : State :=
  (lanesOf m.lanes).foldl (fun s l =>
    match ((s.warp m.w).thread l).item with
    | none => s
    | some it => endItem m.w.core it.cls.toNat (s.modThreads m.w (laneBit l) fun _ th => { th with item := none })) s

/-- The owner at the head of the core's queue takes the matrix unit: from then on the sequencers are held, and the owner wakes once their
operations in flight have finished (R340). -/
def grantOwner (core : Nat) (s : State) : State :=
  match (s.core core).owners with
  | [] => s
  | (q, w) :: _ =>
      let s := { s.modCore core (fun k => { k with owned := true }) with clock := s.clock + 1 }
      if (s.core core).blocks.any fun qb => !qb.2.mx.ops.isEmpty then s
      else s.modWarp { core := core, seq := q, warp := w } fun x => x.mapThreads fun th =>
        if th.wait == .mxacq then { th with wait := .none, stamp := s.clock } else th

/-- A warp gives up the matrix unit, or its place in the queue of owners (R340). -/
def dropOwner (w : WRef) (s : State) : State :=
  let head := (s.core w.core).owners.head? == some (w.seq, w.warp)
  grantOwner w.core (s.modCore w.core fun k => { k with
    owners := k.owners.filter fun x => x != (w.seq, w.warp)
    owned := k.owned && !head })

/-- A warp whose 32 threads have ended retires (R179); it counts as arrived in every later matrix phase (R339). -/
def retireWarp (w : WRef) (s : State) : State :=
  if (s.warp w).alive == 0 then
    let s := s.modBlock w.core w.seq fun b =>
      if b.retired.contains w.warp then b else { b with retired := b.retired ++ [w.warp] }
    if (s.core w.core).owners.contains (w.seq, w.warp) then dropOwner w s else s
  else s

/-- Ends the threads of the active lanes: they leave their clause registers, their items end, a handler that they were the last
of ends, and their warp may retire (R170, R179, R322, R430). -/
def endThreads (act : Mask) (s : State) : State :=
  (s.cur.acting act).foldl (fun s m =>
    let s := s.modWarp m.w fun w =>
      ((w.modThreads m.lanes fun _ th => { th with ended := true }).strike m.lanes s.clock).leaveTrap s.clock
    retireWarp m.w (endItems m s)) s

/-- EXIT (R179; in a task block it acts as TEND, which ends a thread in the same way, R419). -/
def execExit (c : Ctl) (m : Mods) (s : State) : Out :=
  match s.cur.unit with
  | .stream seq => streamIssue seq c (fun mx => some { mx with st := .ended }) s
  | _ => issue c (usesOf (.exit c m)) (fun act s => .ok (endThreads act s)) s

/-- YIELD (R180): the group waits for every other ready group to issue once, and for n clocks. -/
def execYield (c : Ctl) (m : Mods) (s : State) : Out :=
  issueT c (usesOf (.yield c m)) (fun _ s' =>
    .ok ((yieldGroup s s').modMembers s'.cur.mems fun mm w => w.modThreads mm.lanes fun _ th =>
      { th with yclk := m.imm != 0, yall := m.imm != 0 })) s

/-- IPREF (R181). -/
def execIpref (c : Ctl) (off : BitVec 32) (s : State) : Out :=
  issueT c (usesOf (.ipref c off)) (fun _ s => .ok (prefetch s.cur.core s.cur.obj (s.cur.pc.toNat + off.toInt) s)) s

/-- LOOP (R178): the result has the shape of D itself. -/
def execLoop (c : Ctl) (d : VReg) (off : BitVec 32) (s : State) : Out :=
  match s.cur.unit with
  | .stream seq => streamIssue seq c (fun mx => match d with
      | .v n => do
        let x ← streamSrc mx 0 d
        let mx ← streamPut mx (x - 1) (.v n)
        some (if x - 1 != 0 then { mx with pc := s.target off } else mx)
      | _ => none) s
  | _ =>
    let u := usesOf (.loop c d off)
    issue c u (fun act s => do
      s.shapeChk u act fun m => srcShp (s.warp m.w) d
      let v := fun l => (s.src { r := d } l).setWidth 32 - (1 : Word)
      let s' := s.putD c { r := d } act (fun l => (v l).setWidth 64) fun m =>
        ((s.affOf { r := d } m).1 - 1, (s.affOf { r := d } m).2)
      .ok (goTo act (fun l => if v l != 0 then some (s.target off) else none) s')) s

end Sys2Proof.Machine
end

