-- ==== Sys2Proof/Machine/Integer.lean ====
section
/-!
DEFINITION. Group 1, integer arithmetic and logic (chapter 9, R183 to R198).
-/
set_option autoImplicit false

namespace Sys2Proof

/-- The operand width w of an integer type (R183); other types read as 32 bits. -/
def Ty.bits : Ty → Nat
  | .i8 | .n8 => 8
  | .i16 | .n16 => 16
  | .i64 | .n64 => 64
  | _ => 32

/-- The least value of an integer type (R184). -/
def Ty.lo (t : Ty) : Int := if t.signed then -(2 ^ (t.bits - 1) : Nat) else 0
/-- The greatest value of an integer type (R184). -/
def Ty.hi (t : Ty) : Int := if t.signed then (2 ^ (t.bits - 1) : Nat) - 1 else (2 ^ t.bits : Nat) - 1

end Sys2Proof

namespace Sys2Proof.Machine

/-! ### Reading and writing in a type (R183, R184) -/

/-- The low w bits of a word, read in the type (R183). -/
def rdInt (t : Ty) (x : BitVec 64) : Int :=
  if t.signed then (x.setWidth t.bits).toInt else (x.setWidth t.bits).toNat

/-- The result bits of a value of the type: sign- or zero-extended to its registers (R183). -/
def wrInt (v : Int) : BitVec 64 := BitVec.ofInt 64 v

/-- `fit` of R184: reduced modulo 2^w and read in the type, or clamped to its range. -/
def fitInt (t : Ty) (sat : Bool) (v : Int) : Int :=
  if sat then (if v < t.lo then t.lo else if t.hi < v then t.hi else v) else rdInt t (BitVec.ofInt 64 v)

/-- The low w bits of a pattern (R193, R194). -/
def lowBits (t : Ty) (x : BitVec 64) : BitVec 64 := (x.setWidth t.bits).setWidth 64

/-- The shape rule of an entry. -/
abbrev ShpRule := State → Member → Shp

/-- A vector instruction that writes D: shape check, its own check, then one value per lane (R71, R148, R149). -/
def alu (c : Ctl) (u : Uses) (sh : ShpRule) (aff : State → Member → Word × Word) (chk : Mask → State → Chk Unit)
    (f : State → Nat → BitVec 64) : State → Out :=
  issueT c u (fun act s => do
    s.shapeChk u act (sh s)
    chk act s
    match u.d with
    | some d => .ok (s.putD c d act (f s) (aff s))
    | none => .ok s)

/-- The shape of R148 with no entry of its own. -/
def autoRule (u : Uses) : ShpRule := fun s m => autoShp u (s.warp m.w)
/-- A result named general. -/
def genRule : ShpRule := fun _ _ => .gen
/-- A result named uniform. -/
def uniRule : ShpRule := fun _ _ => .uni
/-- No base and stride. -/
def noAff (_ : State) (_ : Member) : Word × Word := (0, 0)
/-- No check of its own. -/
def noChk (_ : Mask) (_ : State) : Chk Unit := .ok ()

/-- A plain class-V instruction: its value depends on A, B and D of the same lane only, by R148's shape. -/
def plain (c : Ctl) (u : Uses) (f : BitVec 64 → BitVec 64 → BitVec 64 → BitVec 64) : State → Out :=
  alu c u (autoRule u) noAff noChk fun s l => f (s.src? u.a l) (s.src? u.b l) (s.src? u.ds l)

/-- An integer instruction whose exact result is wrapped or clamped (R184). -/
def arith (c : Ctl) (u : Uses) (m : Mods) (f : Int → Int → Int → Int) : State → Out :=
  plain c u fun a b d => wrInt (fitInt m.ty m.sat (f (rdInt m.ty a) (rdInt m.ty b) (rdInt m.ty d)))

/-! ### IADD and ISUB, with their affine case (R148, R186, R189) -/

/-- The shape of IADD and ISUB (R148, R186). -/
def sumShp (u : Uses) (m : Mods) : ShpRule := fun s mm =>
  let w := s.warp mm.w
  if autoShp u w == .uni then .uni
  else if !m.sat && m.ty.bits == 32 && (u.a.toList ++ u.b.toList).all fun f => srcShp w f.r != .gen then .aff else .gen

/-- Base and stride of an affine sum or difference (R148). -/
def sumAff (u : Uses) (f : Word → Word → Word) (s : State) (m : Member) : Word × Word :=
  let a := (u.a.map fun x => s.affOf x m).getD (0, 0)
  let b := (u.b.map fun x => s.affOf x m).getD (0, 0)
  (f a.1 b.1, f a.2 b.2)

/-- IADD and ISUB: the sum or difference, with its shape. -/
def sumLike (c : Ctl) (u : Uses) (m : Mods) (f : Int → Int → Int) (g : Word → Word → Word) : State → Out :=
  alu c u (sumShp u m) (sumAff u g) noChk fun s l =>
    wrInt (fitInt m.ty m.sat (f (rdInt m.ty (s.src? u.a l)) (rdInt m.ty (s.src? u.b l))))

/-- IADD (R189); on a uniform sequencer at n32 or i32 without saturation (R337). -/
def execIadd (c : Ctl) (o : OpsV) (s : State) : Out :=
  match s.cur.unit with
  | .stream seq => streamIssue seq c (fun mx =>
      if o.m.ty.bits == 32 && !o.m.sat then do
        let x ← streamSrc mx 0 o.a
        let y ← streamSrc mx (o.m.immT.setWidth 32) o.b
        streamPut mx (x + y) o.d
      else none) s
  | _ => sumLike c (usesOf (.iadd c o)) o.m (· + ·) (· + ·) s

/-- ISUB (R189). -/
def execIsub (c : Ctl) (o : OpsV) : State → Out := sumLike c (usesOf (.isub c o)) o.m (· - ·) (· - ·)

/-! ### Carry chains (R190) -/

/-- IADDC and ISUBB: the exact sum or difference with the predicate, D and the carry or borrow out. -/
def carryOp (c : Ctl) (u : Uses) (m : Mods) (f : Int → Int → Int → Int) : State → Out :=
  issueT c u (fun act s => do
    s.shapeChk u act fun _ => .gen
    let p := m.imm.toNat % 16
    let v := fun l => f (rdInt .n32 (s.src? u.a l)) (rdInt .n32 (s.src? u.b l)) (if s.predAt p l then 1 else 0)
    let s' := match u.d with
      | some d => s.putD c d act fun l => wrInt (v l % 2 ^ 32)
      | none => s
    .ok (s'.putP p act fun l => decide (v l < 0) || decide (2 ^ 32 ≤ v l)))

/-- IADDC (R190). -/
def execIaddc (c : Ctl) (o : OpsV) : State → Out := carryOp c (usesOf (.iaddc c o)) o.m fun a b k => a + b + k
/-- ISUBB (R190). -/
def execIsubb (c : Ctl) (o : OpsV) : State → Out := carryOp c (usesOf (.isubb c o)) o.m fun a b k => a - b - k

/-! ### Products (R189, R191) -/

/-- IMUL (R189). -/
def execImul (c : Ctl) (o : OpsV) : State → Out := arith c (usesOf (.imul c o)) o.m fun a b _ => a * b
/-- IMULH: the high half of the exact product, read in the type (R191). -/
def execImulh (c : Ctl) (o : OpsV) : State → Out := arith c (usesOf (.imulh c o)) o.m fun a b _ => a * b / 2 ^ o.m.ty.bits
/-- IMAD (R189). -/
def execImad (c : Ctl) (o : OpsV) : State → Out := arith c (usesOf (.imad c o)) o.m fun a b d => d + a * b
/-- IMADW: A and B at 32 bits, D a pair in i64 or n64 (R191). -/
def execImadw (c : Ctl) (o : OpsV) : State → Out :=
  let t : Ty := if o.m.ty.signed then .i64 else .n64
  plain c (usesOf (.imadw c o)) fun a b d =>
    wrInt (fitInt t o.m.sat (rdInt t d + rdInt o.m.ty a * rdInt o.m.ty b))

/-! ### Division (R192) -/

/-- The quotient and remainder of R192, before `fit`. -/
def divide (t : Ty) (rem : Bool) (a b : Int) : Int :=
  if b = 0 then (if rem then a else if !t.signed || decide (0 ≤ a) then t.hi else t.lo)
  else if rem then a - b * a.tdiv b else a.tdiv b

/-- IDIV and IREM: IDIVZ in the lanes that divide by zero, unless saturating (R192). -/
def divOp (rem : Bool) (c : Ctl) (u : Uses) (m : Mods) : State → Out :=
  alu c u (autoRule u) noAff
    (fun act s =>
      let z := maskOf fun l => act.getLsbD l && rdInt m.ty (s.src? u.b l) == 0
      trapIf (z != 0 && !m.sat) .idivz z)
    fun s l => wrInt (fitInt m.ty m.sat (divide m.ty rem (rdInt m.ty (s.src? u.a l)) (rdInt m.ty (s.src? u.b l))))

/-- IDIV (R192). -/
def execIdiv (c : Ctl) (o : OpsV) : State → Out := divOp false c (usesOf (.idiv c o)) o.m
/-- IREM (R192). -/
def execIrem (c : Ctl) (o : OpsV) : State → Out := divOp true c (usesOf (.irem c o)) o.m

/-- IABS (R189). -/
def execIabs (c : Ctl) (o : OpsV) : State → Out := arith c (usesOf (.iabs c o)) o.m fun a _ _ => (a.natAbs : Int)
/-- INEG (R189). -/
def execIneg (c : Ctl) (o : OpsV) : State → Out := arith c (usesOf (.ineg c o)) o.m fun a _ _ => -a
/-- IMIN (R189). -/
def execImin (c : Ctl) (o : OpsV) : State → Out := arith c (usesOf (.imin c o)) o.m fun a b _ => min a b
/-- IMAX (R189). -/
def execImax (c : Ctl) (o : OpsV) : State → Out := arith c (usesOf (.imax c o)) o.m fun a b _ => max a b

/-! ### Logic (R193) -/

/-- A logic instruction on all w bits. -/
def logic (c : Ctl) (u : Uses) (m : Mods) (f : BitVec 64 → BitVec 64 → BitVec 64) : State → Out :=
  plain c u fun a b _ => lowBits m.ty (f a b)

/-- AND (R193). -/
def execAnd (c : Ctl) (o : OpsV) : State → Out := logic c (usesOf (.and c o)) o.m (· &&& ·)
/-- OR (R193). -/
def execOr (c : Ctl) (o : OpsV) : State → Out := logic c (usesOf (.or c o)) o.m (· ||| ·)
/-- XOR (R193). -/
def execXor (c : Ctl) (o : OpsV) : State → Out := logic c (usesOf (.xor c o)) o.m (· ^^^ ·)
/-- ANDN (R193). -/
def execAndn (c : Ctl) (o : OpsV) : State → Out := logic c (usesOf (.andn c o)) o.m fun a b => a &&& ~~~b
/-- NOT (R193). -/
def execNot (c : Ctl) (o : OpsV) : State → Out := logic c (usesOf (.not c o)) o.m fun a _ => ~~~a

/-! ### Shifts (R194) -/

/-- The count of a shift: B as n32, at its full value; 64 and more act alike. -/
def shiftCount (b : BitVec 64) : Nat := min (b.toNat % 2 ^ 32) 64

/-- SHL (R194). -/
def execShl (c : Ctl) (o : OpsV) : State → Out :=
  plain c (usesOf (.shl c o)) fun a b _ => wrInt (fitInt o.m.ty o.m.sat (rdInt o.m.ty a * 2 ^ shiftCount b))
/-- SHR (R194). -/
def execShr (c : Ctl) (o : OpsV) : State → Out :=
  plain c (usesOf (.shr c o)) fun a b _ => lowBits o.m.ty a >>> shiftCount b
/-- SAR (R194). -/
def execSar (c : Ctl) (o : OpsV) : State → Out :=
  plain c (usesOf (.sar c o)) fun a b _ =>
    lowBits o.m.ty (BitVec.ofInt 64 ((a.setWidth o.m.ty.bits).toInt / 2 ^ shiftCount b))
/-- ROL (R194). -/
def execRol (c : Ctl) (o : OpsV) : State → Out :=
  plain c (usesOf (.rol c o)) fun a b _ =>
    ((a.setWidth o.m.ty.bits).rotateLeft (b.toNat % 2 ^ 32 % o.m.ty.bits)).setWidth 64

/-! ### Counts and bit fields (R195 to R197) -/

/-- The number of ones in the low `w` bits. -/
def popcount (w x : Nat) : Nat := (List.range w).foldl (fun n i => n + (x.testBit i).toNat) 0
/-- Leading zeros from bit w − 1. -/
def leadZeros (w x : Nat) : Nat := if x = 0 then w else w - 1 - x.log2
/-- Trailing zeros from bit 0. -/
def trailZeros (w x : Nat) : Nat := ((List.range w).find? fun i => x.testBit i).getD w

/-- POPC (R195). -/
def execPopc (c : Ctl) (o : OpsV) : State → Out :=
  plain c (usesOf (.popc c o)) fun a _ _ => BitVec.ofNat 64 (popcount o.m.ty.bits (lowBits o.m.ty a).toNat)
/-- CLZ (R195). -/
def execClz (c : Ctl) (o : OpsV) : State → Out :=
  plain c (usesOf (.clz c o)) fun a _ _ => BitVec.ofNat 64 (leadZeros o.m.ty.bits (lowBits o.m.ty a).toNat)
/-- CTZ (R195). -/
def execCtz (c : Ctl) (o : OpsV) : State → Out :=
  plain c (usesOf (.ctz c o)) fun a _ _ => BitVec.ofNat 64 (trailZeros o.m.ty.bits (lowBits o.m.ty a).toNat)
/-- BREV (R195). -/
def execBrev (c : Ctl) (o : OpsV) : State → Out :=
  plain c (usesOf (.brev c o)) fun a _ _ => ((a.setWidth o.m.ty.bits).reverse).setWidth 64

/-- The length of a bit-field control (R196). -/
def bfLen (t : Ty) (k : BitVec 64) : Nat := min (bitsOf k.toNat 8 8) t.bits

/-- BFX (R196). -/
def bfx (t : Ty) (a k : BitVec 64) : BitVec 64 :=
  let len := bfLen t k
  let f := rdInt t a / 2 ^ bitsOf k.toNat 0 8 % 2 ^ len
  if len = 0 then 0
  else wrInt (if t.signed && decide (2 ^ (len - 1) ≤ f) then f - 2 ^ len else f)

/-- BFI (R196). -/
def bfi (t : Ty) (a k d : BitVec 64) : BitVec 64 :=
  let mask : BitVec 64 := lowBits t (BitVec.ofNat 64 ((2 ^ bfLen t k - 1) * 2 ^ bitsOf k.toNat 0 8))
  (d &&& ~~~mask) ||| (a <<< bitsOf k.toNat 0 8 &&& mask)

/-- BFX (R196). -/
def execBfx (c : Ctl) (o : OpsV) : State → Out := plain c (usesOf (.bfx c o)) fun a b _ => bfx o.m.ty a b
/-- BFI (R196). -/
def execBfi (c : Ctl) (o : OpsV) : State → Out := plain c (usesOf (.bfi c o)) fun a b d => bfi o.m.ty a b d

/-- One byte of BPERM (R197). -/
def bpermByte (x sel i : Nat) : Nat :=
  let k := bitsOf sel (4 * i) 4
  let y := bitsOf x (8 * (k % 8)) 8
  if k / 8 = 1 then (if y / 128 = 1 then 255 else 0) else y

/-- BPERM (R197). -/
def execBperm (c : Ctl) (o : OpsV) : State → Out :=
  plain c (usesOf (.bperm c o)) fun a b d =>
    let x := d.toNat % 2 ^ 32 * 2 ^ 32 + a.toNat % 2 ^ 32
    BitVec.ofNat 64 ((List.range 4).foldl (fun n i => n + bpermByte x b.toNat i * 256 ^ i) 0)

/-- ISAD (R198). -/
def execIsad (c : Ctl) (o : OpsV) : State → Out :=
  plain c (usesOf (.isad c o)) fun a b d =>
    wrInt (fitInt .n32 o.m.sat (rdInt .n32 d + ((rdInt o.m.ty a - rdInt o.m.ty b).natAbs : Int)))
/-- IADDS (R198). -/
def execIadds (c : Ctl) (o : OpsV) : State → Out :=
  arith c (usesOf (.iadds c o)) o.m fun a b _ => a + b * 2 ^ o.m.sub.toNat

end Sys2Proof.Machine
end

