-- ==== Sys2Proof/Machine/Lane.lean ====
section
/-!
DEFINITION. Group 2, moves, comparisons, predicates and operations across lanes (chapter 9, R199 to R208).
-/
set_option autoImplicit false

namespace Sys2Proof.Machine

/-! ### Moves (R200, R201) -/

/-- MOV (R200): it keeps A's shape. -/
def execMov (c : Ctl) (o : OpsV) : State → Out :=
  let u := usesOf (.mov c o)
  alu c u (fun s m => srcShp (s.warp m.w) o.a) (fun s m => s.affOf { r := o.a } m) noChk
    fun s l => lowBits o.m.ty (s.src? u.a l)

/-- MOVI (R200): its result is uniform; a uniform sequencer writes its own register (R337). -/
def execMovi (c : Ctl) (d : VReg) (imm : BitVec 32) (s : State) : Out :=
  match s.cur.unit with
  | .stream seq => streamIssue seq c (fun mx => streamPut mx imm d) s
  | _ => alu c (usesOf (.movi c d imm)) uniRule noAff noChk (fun _ _ => imm.setWidth 64) s

/-- The computed index of MOVX and MOVXW in a lane (R201): the sum is exact. -/
def movIndex (s : State) (o : OpsV) (l : Nat) : Nat := (s.src { r := o.a } l).toNat % 2 ^ 32 + o.m.imm.toNat

/-- R151: REGRANGE in the active lanes whose index lies at or beyond T. -/
def indexChk (o : OpsV) (act : Mask) (s : State) : Chk Unit :=
  let z := maskOf fun l => act.getLsbD l && decide ((s.warpAt l).total ≤ movIndex s o l)
  trapIf (z != 0) .regrange z

/-- MOVX (R201): its result is general, and REGRANGE is checked before REGSHAPE. -/
def execMovx (c : Ctl) (o : OpsV) : State → Out :=
  let u := usesOf (.movx c o)
  issueT c u (fun act s => do
    indexChk o act s
    s.shapeChk u act fun _ => .gen
    match u.d with
    | some d => .ok (s.putD c d act fun l => ((s.warpAt l).readReg (movIndex s o l) l).setWidth 64)
    | none => .ok s)

/-- R201: the target of MOVXW in a member's warp accepts the write. A target in the general class takes each lane's value;
an affine or uniform target needs one target, every live thread, and B's shape. -/
def movxwOk (s : State) (o : OpsV) (m : Member) : Bool :=
  let w := s.warp m.w
  let idx := (lanesOf m.lanes).map (movIndex s o)
  if idx.all fun i => w.cls i == .gen then true
  else idx.all (fun i => i == idx.headD 0) && w.alive &&& ~~~m.lanes == 0 &&
    (match w.cls (idx.headD 0) with | .aff => srcShp w o.b == .aff | _ => srcShp w o.b == .uni)

/-- The write of MOVXW in a member's warp. -/
def movxwPut (s : State) (o : OpsV) (m : Member) (w : Warp) : Warp :=
  let b := fun l => (s.src { r := o.b } l).setWidth 32
  let l0 := (lanesOf m.lanes).headD 0
  match w.cls (movIndex s o l0) with
  | .aff => w.putAff (movIndex s o l0) (s.affOf { r := o.b } m)
  | .uni => w.putUni (movIndex s o l0) (b l0)
  | _ => (lanesOf m.lanes).foldl (fun w l => w.putGen (movIndex s o l) l (b l)) w

/-- MOVXW (R201). -/
def execMovxw (c : Ctl) (o : OpsV) : State → Out :=
  issueT c (usesOf (.movxw c o)) (fun act s => do
    indexChk o act s
    trapIf (!(s.cur.acting act).all (movxwOk s o)) .regshape act
    .ok (s.modMembers (s.cur.acting act) (movxwPut s o)))

/-! ### Selection and comparison (R202, R203) -/

/-- The predicate that imm16 selects, with its negation (R202). -/
def State.selPred (s : State) (m : Mods) (l : Nat) : Bool := s.predAt (m.imm.toNat % 16) l != m.imm.getLsbD 4

/-- SEL (R202). -/
def execSel (c : Ctl) (o : OpsV) : State → Out :=
  let u := usesOf (.sel c o)
  alu c u genRule noAff noChk fun s l => lowBits o.m.ty (if s.selPred o.m l then s.src? u.a l else s.src? u.b l)

/-- The relation of a comparison code (R203). -/
def compare (cc : Nat) (a b : Int) : Bool :=
  match cc with
  | 0 => a == b | 1 => a != b | 2 => decide (a < b) | 3 => decide (a ≤ b) | 4 => decide (b < a) | _ => decide (b ≤ a)

/-- ICMP (R203). -/
def execIcmp (c : Ctl) (o : OpsPC) : State → Out :=
  let u := usesOf (.icmp c o)
  issueT c u (fun act s => do
    s.shapeChk u act fun _ => .gen
    .ok (s.putP o.p.val act fun l =>
      compare o.m.sub.toNat (rdInt o.m.ty (s.src? u.a l)) (rdInt o.m.ty (s.src? u.b l))))

/-! ### Predicates (R204, R205) -/

/-- A predicate instruction: one bit per lane from A and B. -/
def predOp (c : Ctl) (u : Uses) (o : OpsPP) (f : Bool → Bool → Bool) : State → Out :=
  issueT c u (fun act s => .ok (s.putP o.p.val act fun l =>
    f (s.predAt o.a.toNat l != o.m.sub.getLsbD 0) (s.predAt o.b.toNat l != o.m.sub.getLsbD 1)))

/-- PAND (R204). -/
def execPand (c : Ctl) (o : OpsPP) : State → Out := predOp c (usesOf (.pand c o)) o (· && ·)
/-- POR (R204). -/
def execPor (c : Ctl) (o : OpsPP) : State → Out := predOp c (usesOf (.por c o)) o (· || ·)
/-- PXOR (R204). -/
def execPxor (c : Ctl) (o : OpsPP) : State → Out := predOp c (usesOf (.pxor c o)) o (· != ·)
/-- PNOT (R204). -/
def execPnot (c : Ctl) (o : OpsPP) : State → Out := predOp c (usesOf (.pnot c o)) o fun a _ => !a
/-- PMOV (R204). -/
def execPmov (c : Ctl) (o : OpsPP) : State → Out := predOp c (usesOf (.pmov c o)) o fun a _ => a

/-- VOTE over the lanes of a member (R205). -/
def voteOn (sub : Nat) (a m : Mask) : Bool :=
  match sub with
  | 0 => a &&& m != 0
  | 1 => a &&& m == m
  | _ => a &&& m == m || a &&& m == 0

/-- VOTE (R205). -/
def execVote (c : Ctl) (o : OpsPP) : State → Out :=
  issueT c (usesOf (.vote c o)) (fun act s => .ok (s.modMembers (s.cur.acting act) fun m w =>
    w.putPred o.p.val m.lanes (if voteOn o.m.sub.toNat (w.pred o.a.toNat) m.lanes then BitVec.allOnes 32 else 0)))

/-! ### Operations across the lanes of a warp (R205 to R208) -/

/-- The lanes of m(W) for the warp of lane `l` (R199). -/
def State.mates (s : State) (act : Mask) (l : Nat) : Mask :=
  match s.cur.member? l with
  | some m => m.lanes &&& act
  | none => 0

/-- A cross-lane instruction that writes D: its value in a lane may read every lane of the warp. -/
def cross (c : Ctl) (u : Uses) (sh : ShpRule) (aff : State → Member → Word × Word) (chk : Mask → State → Chk Unit)
    (f : State → Mask → Nat → BitVec 64) : State → Out :=
  issueT c u (fun act s => do
    chk act s
    s.shapeChk u act (sh s)
    match u.d with
    | some d => .ok (s.putD c d act (fun l => f s (s.mates act l) l) (aff s))
    | none => .ok s)

/-- BALLOT (R205). -/
def execBallot (c : Ctl) (o : OpsV) : State → Out :=
  cross c (usesOf (.ballot c o)) uniRule noAff noChk fun s m _ =>
    (maskOf fun j => m.getLsbD j && s.selPred o.m j).setWidth 64

/-- A of lane `j` of a lane's warp. A latch slot holds nothing for a lane outside its set: there the word is a free value
(log entry 4). DESIGN CHOICE (log entry 83): a lane of the set gives the slot's word also where a thread of another warp of the writer's group wrote it. -/
def State.otherLane (s : State) (f : Fld) (w : Warp) (j : Nat) : BitVec 64 :=
  match f.r with
  | .latch k => match s.slot k.val with
      | some x => if x.lanes.getLsbD j then s.srcW w f j
          else if f.wide then Config.freeWord (s.free + 32 + j) ++ Config.freeWord (s.free + j)
          else (Config.freeWord (s.free + j)).setWidth 64
      | none => 0
  | _ => s.srcW w f j

/-- Advances the free-value counter past the words that `otherLane` may have used. -/
def spendFree (f : Option Fld) (s : State) : State :=
  match f with
  | some { r := .latch _, .. } => { s with free := s.free + 64 }
  | _ => s

/-- A cross-lane instruction that reads A of other lanes. -/
def crossRead (c : Ctl) (u : Uses) (sh : ShpRule) (chk : Mask → State → Chk Unit) (f : State → Mask → Nat → BitVec 64) : State → Out :=
  issueT c u (fun act s => do
    chk act s
    s.shapeChk u act (sh s)
    .ok (spendFree u.a (match u.d with
      | some d => s.putD c d act fun l => f s (s.mates act l) l
      | none => s)))

/-- The source lane of SHFL (R206), exact. -/
def shflLane (sub l k : Nat) : Int :=
  match sub with
  | 0 => k
  | 1 => (l : Int) - k
  | 2 => (l : Int) + k
  | _ => (l ^^^ k : Nat)

/-- SHFL (R206). -/
def execShfl (c : Ctl) (o : OpsV) (s : State) : Out :=
  let u := usesOf (.shfl c o)
  crossRead c u genRule noChk (fun s _ l =>
    match u.a with
    | none => 0
    | some fa =>
      let j := shflLane o.m.sub.toNat l ((s.src? u.b l).toNat % 2 ^ 32)
      if 0 ≤ j ∧ j ≤ 31 then s.otherLane fa (s.warpAt l) j.toNat else s.src fa l) s

/-- BCAST (R206): the lane form needs a uniform B. -/
def execBcast (c : Ctl) (o : OpsV) (s : State) : Out :=
  let u := usesOf (.bcast c o)
  crossRead c u uniRule
    (fun act s => trapIf (!(s.cur.acting act).all fun m => u.b.toList.all fun f => srcShp (s.warp m.w) f.r == .uni) .regshape act)
    (fun s m l =>
      match u.a with
      | none => 0
      | some fa =>
        let j := if o.m.sub == 1 then (lanesOf m).headD 0 else (s.src? u.b l).toNat % 2 ^ 32
        if j ≤ 31 then s.otherLane fa (s.warpAt l) j else 0) s

/-- AFFINE (R207): uniform sources, an affine result with base A and stride B. -/
def execAffine (c : Ctl) (o : OpsV) : State → Out :=
  let u := usesOf (.affine c o)
  let w := fun (s : State) (f : Option Fld) (l : Nat) => (s.src? f l).setWidth 32
  cross c u (fun _ _ => .aff)
    (fun s m => let l := (lanesOf m.lanes).headD 0; (w s u.a l, w s u.b l))
    (fun act s => trapIf (!(s.cur.acting act).all fun m => autoShp u (s.warp m.w) == .uni) .regshape act)
    fun s _ l => (w s u.a l + BitVec.ofNat 32 l * w s u.b l).setWidth 64

/-- LANEIX (R207). -/
def execLaneix (c : Ctl) (o : OpsV) : State → Out :=
  cross c (usesOf (.laneix c o)) (fun _ _ => match o.m.sub.toNat with | 0 => .aff | 1 => .gen | _ => .uni)
    (fun _ _ => (0, 1)) noChk fun _ m l =>
      match o.m.sub.toNat with
      | 0 => BitVec.ofNat 64 l
      | 1 => BitVec.ofNat 64 ((lanesOf m).filter (· < l)).length
      | 2 => BitVec.ofNat 64 (laneCount m)
      | _ => m.setWidth 64

/-- The operation of SCAN and RED on two values (R208). -/
def foldOp (t : Ty) (sat : Bool) (op : Nat) (a b : Int) : Int :=
  match op with
  | 0 => fitInt t sat (a + b)
  | 1 => min a b
  | 2 => max a b
  | 3 => rdInt t (wrInt a &&& wrInt b)
  | 4 => rdInt t (wrInt a ||| wrInt b)
  | _ => rdInt t (wrInt a ^^^ wrInt b)

/-- The identity of a fold (R208). -/
def foldId (t : Ty) (op : Nat) : Int :=
  match op with
  | 1 => t.hi
  | 2 => t.lo
  | 3 => rdInt t (BitVec.allOnes 64)
  | _ => 0

/-- The fold of A over some lanes, in ascending order (R208). -/
def foldLanes (t : Ty) (sat : Bool) (op : Nat) (f : Nat → Int) (lanes : List Nat) : Int :=
  match lanes with
  | [] => foldId t op
  | l :: r => r.foldl (fun a j => foldOp t sat op a (f j)) (f l)

/-- SCAN (R208). -/
def execScan (c : Ctl) (o : OpsV) : State → Out :=
  let u := usesOf (.scan c o)
  cross c u genRule noAff noChk fun s m l =>
    wrInt (foldLanes o.m.ty o.m.sat (o.m.sub.toNat % 8) (fun j => rdInt o.m.ty (s.src? u.a j))
      ((lanesOf m).filter fun j => if o.m.sub.getLsbD 3 then j < l else j ≤ l))

/-- RED (R208). -/
def execRed (c : Ctl) (o : OpsV) : State → Out :=
  let u := usesOf (.red c o)
  cross c u uniRule noAff noChk fun s m _ =>
    wrInt (foldLanes o.m.ty o.m.sat (o.m.sub.toNat % 8) (fun j => rdInt o.m.ty (s.src? u.a j)) (lanesOf m))

end Sys2Proof.Machine
end

