-- ==== Sys2Proof/Machine/Float.lean ====
section
/-!
DEFINITION. Group 3, floating-point arithmetic (chapter 10, R224 to R235).
-/
set_option autoImplicit false

namespace Sys2Proof.Machine

/-! ### Shared forms -/

/-- The flags of the active lanes, by warp and lane. -/
def laneFlags (s : State) (act : Mask) (f : Nat → FpFlags) : List (WRef × Nat × BitVec 6) :=
  (s.cur.acting act).flatMap fun m => (lanesOf m.lanes).map fun l => (m.w, l, f l)

/-- R221: FPTRAP, if an enabled flag is raised. -/
def fpChk (s : State) (fl : List (WRef × Nat × BitVec 6)) : Chk Unit :=
  match fpTrap s s.cur.mems fl with
  | some t => .error t
  | none => .ok ()

/-- A floating-point instruction that is not long-latency: shape check, FPTRAP check, D and the flags (R209, R220, R221). -/
def fpAlu (c : Ctl) (u : Uses) (sh : ShpRule) (f : State → Nat → FRes) : State → Out :=
  issueT c u (fun act s => do
    s.shapeChk u act (sh s)
    let fl := laneFlags s act fun l => (f s l).fl
    fpChk s fl
    match u.d with
    | some d => .ok (orFlags fl (s.putD c d act fun l => BitVec.ofNat 64 (f s l).v))
    | none => .ok (orFlags fl s))

/-- The register writes of a result in every acting member. -/
def State.writesOf (s : State) (act : Mask) (d : Option Fld) (vals : Nat → BitVec 64) : List RW :=
  d.toList.flatMap fun f => (s.cur.acting act).flatMap fun m => fieldWrites f vals m (s.warp m.w)

/-- A floating-point long-latency instruction: its results and flags arrive at completion (R61, R221, R222). -/
def fpLong (c : Ctl) (u : Uses) (sh : ShpRule) (f : State → Nat → FRes) : State → Out :=
  issueT c u (fun act s => do
    s.shapeChk u act (sh s)
    .ok (s.startOp c
      { id := 0, core := 0, mems := [], obj := 0, pc := 0, fp := true, marks := marksOf s.cur act u.d []
        rws := s.writesOf act u.d fun l => BitVec.ofNat 64 (f s l).v
        flags := laneFlags s act fun l => (f s l).fl }))

/-- Operand values of a lane in a format. -/
def State.fsrc (s : State) (t : Ty) (f : Option Fld) (l : Nat) : FVal :=
  (fmtOf t).read ((s.src? f l).toNat % 2 ^ (fmtOf t).bits)

/-- The rounding mode in a lane's warp. -/
def State.mode (s : State) (m : Mods) (l : Nat) : Nat := rndMode m.rnd (s.warpAt l)

/-- An instruction of A, B and D in one type, rounded once (R217). -/
def arithF (c : Ctl) (u : Uses) (m : Mods) (f : Nat → FVal → FVal → FVal → FVal) : State → Out :=
  fpAlu c u (autoRule u) fun s l =>
    (fmtOf m.ty).write (s.mode m l) m.sat (f (s.mode m l) (s.fsrc m.ty u.a l) (s.fsrc m.ty u.b l) (s.fsrc m.ty u.ds l))

/-- FADD (R225). -/
def execFadd (c : Ctl) (o : OpsV) : State → Out := arithF c (usesOf (.fadd c o)) o.m fun r a b _ => addV r a b
/-- FSUB (R225). -/
def execFsub (c : Ctl) (o : OpsV) : State → Out := arithF c (usesOf (.fsub c o)) o.m fun r a b _ => addV r a (negV b)
/-- FMUL (R225). -/
def execFmul (c : Ctl) (o : OpsV) : State → Out := arithF c (usesOf (.fmul c o)) o.m fun _ a b _ => mulV a b
/-- FFMA (R225). -/
def execFfma (c : Ctl) (o : OpsV) : State → Out := arithF c (usesOf (.ffma c o)) o.m fun r a b d => addV r d (mulV a b)

/-! ### Minimum, maximum, comparison and class (R226 to R228) -/

/-- The lesser operand, with −0 below +0 (R226). -/
def lesser (a b : FVal) : Bool :=
  decide (cmpV a b < 0) || (decide (cmpV a b = 0) && a.neg)

/-- FMIN and FMAX of two values (R226): the code of the result and its flags. -/
def minMax (f : Fmt) (mx : Bool) (x y : Nat) : FRes :=
  let a := f.read x
  let b := f.read y
  { v := if a.isNan && b.isNan then f.nan else if a.isNan then y else if b.isNan then x
         else if lesser a b != mx then x else y
    fl := if a.isSig || b.isSig then flNV else 0 }

/-- FMIN and FMAX. -/
def minMaxOp (mx : Bool) (c : Ctl) (u : Uses) (m : Mods) : State → Out :=
  fpAlu c u (autoRule u) fun s l =>
    let f := fmtOf m.ty
    minMax f mx ((s.src? u.a l).toNat % 2 ^ f.bits) ((s.src? u.b l).toNat % 2 ^ f.bits)

/-- FMIN (R226). -/
def execFmin (c : Ctl) (o : OpsV) : State → Out := minMaxOp false c (usesOf (.fmin c o)) o.m
/-- FMAX (R226). -/
def execFmax (c : Ctl) (o : OpsV) : State → Out := minMaxOp true c (usesOf (.fmax c o)) o.m

/-- The relation of FCMP (R227). -/
def fcompare (cc : Nat) (a b : FVal) : Bool :=
  let un := a.isNan || b.isNan
  match cc with
  | 0 => !un && cmpV a b == 0
  | 1 => un || cmpV a b != 0
  | 2 => !un && decide (cmpV a b < 0)
  | 3 => !un && decide (cmpV a b ≤ 0)
  | 4 => !un && decide (0 < cmpV a b)
  | 5 => !un && decide (0 ≤ cmpV a b)
  | 6 => un
  | _ => !un

/-- The NV of FCMP (R227). -/
def fcompareFl (cc : Nat) (a b : FVal) : FpFlags :=
  if (2 ≤ cc ∧ cc ≤ 5 ∧ (a.isNan || b.isNan)) ∨ a.isSig || b.isSig then flNV else 0

/-- FCMP (R227). -/
def execFcmp (c : Ctl) (o : OpsPC) : State → Out :=
  let u := usesOf (.fcmp c o)
  issueT c u (fun act s => do
    s.shapeChk u act fun _ => .gen
    let x := fun l => s.fsrc o.m.ty u.a l
    let y := fun l => s.fsrc o.m.ty u.b l
    let fl := laneFlags s act fun l => fcompareFl o.m.sub.toNat (x l) (y l)
    fpChk s fl
    .ok (orFlags fl (s.putP o.p.val act fun l => fcompare o.m.sub.toNat (x l) (y l))))

/-- The class bit of FCLASS (R228). -/
def classBit (f : Fmt) : FVal → Nat
  | .nan s => if s then 8 else 9
  | .inf neg => if neg then 0 else 7
  | .num neg m _ =>
    if m = 0 then (if neg then 3 else 4)
    else if m < 2 ^ f.mb then (if neg then 2 else 5)
    else if neg then 1 else 6

/-- FCLASS (R228). -/
def execFclass (c : Ctl) (o : OpsV) : State → Out :=
  let u := usesOf (.fclass c o)
  fpAlu c u (autoRule u) fun s l => { v := 2 ^ classBit (fmtOf o.m.ty) (s.fsrc o.m.ty u.a l) }

/-! ### Reciprocals and transcendentals (R229, R230) -/

/-- 1/A (R229). -/
def rcpV (a : FVal) : FVal × FpFlags := divV (.num false 1 0) a

/-- 1/√A (R229). DEDUCED (log entry 116): −∞ is a negative operand other than −0, and gives the canonical NaN and NV. -/
def rsqV : FVal → FVal × FpFlags
  | .nan s => (.nan s, 0)
  | .inf neg => if neg then (.nan true, 0) else (.num false 0 0, 0)
  | .num neg m e =>
    if m = 0 then (.inf neg, flDZ)
    else if neg then (.nan true, 0)
    else
      let odd := e % 2 = 1
      let m1 := if odd then 2 * m else m
      let e1 := if odd then e - 1 else e
      let x := 2 ^ (2 * (140 + m1.log2)) / m1
      let y := isqrt x
      (.num false (2 * y + (if y * y * m1 = 2 ^ (2 * (140 + m1.log2)) then 0 else 1)) (-(e1 / 2) - (140 + m1.log2 : Nat) - 1), 0)

/-- A unary long-latency instruction of one value with its own flags. -/
def unaryF (c : Ctl) (u : Uses) (m : Mods) (f : FVal → FVal × FpFlags) : State → Out :=
  fpLong c u (autoRule u) fun s l =>
    let x := f (s.fsrc m.ty u.a l)
    let y := (fmtOf m.ty).write (s.mode m l) m.sat x.1
    { y with fl := y.fl ||| x.2 }

/-- FRCP (R229). -/
def execFrcp (c : Ctl) (o : OpsV) : State → Out := unaryF c (usesOf (.frcp c o)) o.m rcpV
/-- FRSQ (R229). -/
def execFrsq (c : Ctl) (o : OpsV) : State → Out := unaryF c (usesOf (.frsq c o)) o.m rsqV
/-- FEX2 (R230). -/
def execFex2 (c : Ctl) (o : OpsV) : State → Out := unaryF c (usesOf (.fex2 c o)) o.m exp2V
/-- FLG2 (R230). -/
def execFlg2 (c : Ctl) (o : OpsV) : State → Out := unaryF c (usesOf (.flg2 c o)) o.m log2V
/-- FSIN (R230). -/
def execFsin (c : Ctl) (o : OpsV) : State → Out := unaryF c (usesOf (.fsin c o)) o.m sinV
/-- FCOS (R230). -/
def execFcos (c : Ctl) (o : OpsV) : State → Out := unaryF c (usesOf (.fcos c o)) o.m cosV

/-! ### Paired elements (R231, R232) -/

/-- Element `j` of a packed word. -/
def elemAt (f : Fmt) (x : BitVec 64) (j : Nat) : FVal := f.read (bitsOf x.toNat (f.bits * j) f.bits)

/-- The sum of three values: exact, and NV where it adds infinities of opposite sign, whatever the third value is (R231). -/
def sum3V (r : Nat) (a b c : FVal) : FVal :=
  let x := addV r (addV r a b) c
  let inf := fun (s : Bool) => [a, b, c].contains (.inf s)
  if inf false && inf true then addV r x (.nan true) else x

/-- FDOT2 (R231). -/
def execFdot2 (c : Ctl) (o : OpsV) : State → Out :=
  let u := usesOf (.fdot2 c o)
  fpAlu c u (autoRule u) fun s l =>
    let f := fmtOf o.m.ty
    let r := s.mode o.m l
    let p := fun j => mulV (elemAt f (s.src? u.a l) j) (elemAt f (s.src? u.b l) j)
    fmtF32.write r o.m.sat (sum3V r (s.fsrc .f32 u.ds l) (p 0) (p 1))

/-- FMUL2 and FFMA2 (R232): each element of the pair is rounded on its own, and the flags are ORed. -/
def pairOp (c : Ctl) (u : Uses) (m : Mods) (g : Nat → FVal → FVal → FVal → FVal) : State → Out :=
  fpAlu c u (autoRule u) fun s l =>
    let f := fmtOf m.ty
    (List.range (64 / f.bits)).foldl (fun acc j =>
      let x := f.write (s.mode m l) m.sat (g (s.mode m l)
        (elemAt f (s.src? u.a l) j) (elemAt f (s.src? u.b l) j) (elemAt f (s.src? u.ds l) j))
      { v := acc.v + x.v * 2 ^ (f.bits * j), fl := acc.fl ||| x.fl }) { v := 0 }

/-- FMUL2 (R232). -/
def execFmul2 (c : Ctl) (o : OpsV) : State → Out := pairOp c (usesOf (.fmul2 c o)) o.m fun _ a b _ => mulV a b
/-- FFMA2 (R232). -/
def execFfma2 (c : Ctl) (o : OpsV) : State → Out := pairOp c (usesOf (.ffma2 c o)) o.m fun r a b d => addV r d (mulV a b)

/-! ### FROUND, FSCALB and FSAT (R233 to R235) -/

/-- A number rounded to an integer, and whether it changed. -/
def roundInt (r : Nat) (neg : Bool) (m : Nat) (e : Int) : Nat × Bool := roundAt r neg m e 0

/-- FROUND of a value (R233). -/
def froundV (f : Fmt) (r : Nat) (exact : Bool) : FVal → FRes
  | .num neg m e =>
    if 0 ≤ e then f.write 0 false (.num neg m e)
    else
      let x := roundInt r neg m e
      let y := f.write 0 false (.num neg x.1 0)
      { y with fl := if exact && x.2 then flNX else 0 }
  | v => f.write 0 false v

/-- FROUND (R233). -/
def execFround (c : Ctl) (o : OpsV) : State → Out :=
  let u := usesOf (.fround c o)
  fpAlu c u (autoRule u) fun s l => froundV (fmtOf o.m.ty) (s.mode o.m l) (o.m.sub == 1) (s.fsrc o.m.ty u.a l)

/-- A · 2^k (R234); beyond ±10000 every result overflows or underflows alike. -/
def scaleV (v : FVal) (k : Int) : FVal :=
  match v with
  | .num neg m e => .num neg m (e + max (-10000) (min 10000 k))
  | v => v

/-- FSCALB (R234): an infinity is returned as it is, under saturation too. -/
def execFscalb (c : Ctl) (o : OpsV) : State → Out :=
  let u := usesOf (.fscalb c o)
  fpAlu c u (autoRule u) fun s l =>
    (fmtOf o.m.ty).write (s.mode o.m l) (o.m.sat && (s.fsrc o.m.ty u.a l).isFin) (scaleV (s.fsrc o.m.ty u.a l) (rdInt .i32 (s.src? u.b l)))

/-- FSAT of a value (R235). -/
def fsatV (f : Fmt) (sym : Bool) (v : FVal) : FRes :=
  let lo : FVal := if sym then .num true 1 0 else .num false 0 0
  if v.isNan then { v := 0, fl := if v.isSig then flNV else 0 }
  else if lesser v lo then f.write 0 false lo
  else if lesser (.num false 1 0) v then f.write 0 false (.num false 1 0)
  else f.write 0 false v

/-- FSAT (R235). -/
def execFsat (c : Ctl) (o : OpsV) : State → Out :=
  let u := usesOf (.fsat c o)
  fpAlu c u (autoRule u) fun s l => fsatV (fmtOf o.m.ty) (o.m.sub == 1) (s.fsrc o.m.ty u.a l)

end Sys2Proof.Machine
end

