-- ==== Sys2Proof/Machine/Convert.lean ====
section
/-!
DEFINITION. Group 4, conversions, error feedback, block-scaled formats and flags (chapter 10, R213 to R216, R223, R236 to R246).
-/
set_option autoImplicit false

namespace Sys2Proof

/-- A type from its code, as the sub-operation field of a conversion names a source (R236). -/
def tyOfCode (c : BitVec 4) : Ty := (Ty.dec c).getD .i8

end Sys2Proof

namespace Sys2Proof.Machine

/-! ### Conversions (R237 to R239) -/

/-- CVT of a value to a format (R237): ±∞ to E4M3 raises NV unless saturating. -/
def cvtV (f : Fmt) (r : Nat) (sat : Bool) (v : FVal) : FRes :=
  let x := f.write r sat v
  match v with
  | .inf _ => if f.kind = 1 && !sat then { x with fl := flNV } else x
  | _ => x

/-- CVT (R237). -/
def execCvt (c : Ctl) (o : OpsV) : State → Out :=
  let u := usesOf (.cvt c o)
  fpAlu c u (autoRule u) fun s l =>
    cvtV (fmtOf o.m.ty) (s.mode o.m l) o.m.sat (s.fsrc (tyOfCode o.m.sub) u.a l)

/-- CVTI of a value to an integer type (R238). -/
def cvtiV (t : Ty) (r : Nat) : FVal → Int × FpFlags
  | .nan _ => (0, flNV)
  | .inf neg => (if neg then t.lo else t.hi, flNV)
  | .num neg m e =>
    if 200 ≤ e + m.log2 ∧ m ≠ 0 then (if neg then t.lo else t.hi, flNV)
    else
      let x := roundInt r neg m e
      let v : Int := if neg then -(x.1 : Int) else x.1
      if v < t.lo then (t.lo, flNV) else if t.hi < v then (t.hi, flNV) else (v, if x.2 then flNX else 0)

/-- CVTI (R238). -/
def execCvti (c : Ctl) (o : OpsV) : State → Out :=
  let u := usesOf (.cvti c o)
  fpAlu c u (autoRule u) fun s l =>
    let x := cvtiV o.m.ty (s.mode o.m l) (s.fsrc (tyOfCode o.m.sub) u.a l)
    { v := (wrInt x.1).toNat, fl := x.2 }

/-- CVTF (R239). -/
def execCvtf (c : Ctl) (o : OpsV) : State → Out :=
  let u := usesOf (.cvtf c o)
  fpAlu c u (autoRule u) fun s l =>
    let a := rdInt (tyOfCode o.m.sub) (s.src? u.a l)
    (fmtOf o.m.ty).write (s.mode o.m l) o.m.sat (.num (decide (a < 0)) a.natAbs 0)

/-! ### Error feedback (R223, R240, R241) -/

/-- Companion `e` in lane `l`. -/
def Warp.companion (w : Warp) (e l : Nat) : Word := smGetD w.efs (32 * e + l) 0
/-- Writes companion `e` in lane `l`. -/
def Warp.setCompanion (w : Warp) (e l : Nat) (v : Word) : Warp := { w with efs := smPut w.efs (32 * e + l) v 0 }
/-- Writes companion `e` in the active lanes. -/
def State.putComp (s : State) (e : Nat) (act : Mask) (f : Nat → Word) : State :=
  s.modMembers (s.cur.acting act) fun m w => (lanesOf m.lanes).foldl (fun w l => w.setCompanion e l (f l)) w

/-- CVTEF in one lane (R240): the rounded result, its flags, and the new residue. -/
def cvtefV (f : Fmt) (sat : Bool) (a e : FVal) : FRes × Word :=
  let s := fmtF32.read (fmtF32.write 0 false (addV 0 a e)).v
  let q := f.write 0 sat s
  let qv := f.read q.v
  (q, if s.isFin && qv.isFin then BitVec.ofNat 32 (fmtF32.write 0 false (addV 0 s (negV qv))).v else 0)

/-- CVTEF (R240). -/
def execCvtef (c : Ctl) (o : OpsV) : State → Out :=
  let u := usesOf (.cvtef c o)
  let e := o.m.imm.toNat % 8
  issueT c u (fun act s => do
    s.shapeChk u act fun _ => .gen
    let x := fun l => cvtefV (fmtOf o.m.ty) o.m.sat (s.fsrc .f32 u.a l) (fmtF32.read ((s.warpAt l).companion e l).toNat)
    let fl := laneFlags s act fun l => (x l).1.fl
    fpChk s fl
    let s' := match u.d with
      | some d => s.putD c d act fun l => BitVec.ofNat 64 (x l).1.v
      | none => s
    .ok (orFlags fl (s'.putComp e act fun l => (x l).2)))

/-- EFCLR (R241). -/
def execEfclr (c : Ctl) (e : BitVec 3) : State → Out :=
  issueT c (usesOf (.efclr c e)) fun act s => .ok (s.putComp e.toNat act fun _ => 0)

/-- EFMOV (R241). -/
def execEfmov (c : Ctl) (wr : Bool) (r : VReg) (e : BitVec 3) : State → Out :=
  let u := usesOf (.efmov c wr r e)
  issueT c u (fun act s => do
    s.shapeChk u act fun _ => .gen
    if wr then .ok (s.putComp e.toNat act fun l => (s.src { r := r } l).setWidth 32)
    else .ok (s.putD c { r := r } act fun l => ((s.warpAt l).companion e.toNat l).setWidth 64))

/-! ### Block-scaled formats (R213 to R216, R242 to R245) -/

/-- The floating-point element format of a code (Table 10.3); integer codes have none. -/
def elemFmt (k : Nat) : Option Fmt :=
  match k with
  | 0 => some fmtE2M1 | 1 => some fmtE3M2 | 2 => some fmtE2M3 | 3 => some fmtE4M3 | 4 => some fmtE5M2
  | _ => none

/-- The bits of an element of a format code. -/
def elemBits (k : Nat) : Nat :=
  match k with
  | 1 | 2 => 6
  | 3 | 4 | 5 => 8
  | _ => 4

/-- emax of Table 10.3. -/
def elemMax (k : Nat) : Int :=
  match k with
  | 1 => 4 | 3 => 8 | 4 => 15 | 5 => 6 | _ => 2

/-- The range of an integer element format. -/
def elemRange (k : Nat) : Int × Int :=
  match k with
  | 5 => (-128, 127) | 6 => (-8, 7) | _ => (-7, 7)

/-- BSCALE over the active lanes of a warp (R242). -/
def blockScale (k : Nat) (vs : List FVal) : Nat :=
  if vs.any (fun v => !v.isFin) then 255
  else
    let lead := vs.filterMap fun v => match v with | .num _ m e => if m = 0 then none else some (e + (m.log2 : Int)) | _ => none
    match lead with
    | [] => 0
    | x :: r => (max 0 (min 254 (r.foldl max x - elemMax k + 127))).toNat

/-- BSCALE (R242). -/
def execBscale (c : Ctl) (o : OpsV) : State → Out :=
  let u := usesOf (.bscale c o)
  cross c u uniRule noAff noChk fun s m _ =>
    BitVec.ofNat 64 (blockScale o.m.sub.toNat ((lanesOf m).map fun j => s.fsrc .f32 u.a j))

/-- An element code with its flags. -/
abbrev Elem := Nat × FpFlags

/-- `v = A / 2^(s − 127)` (R243). -/
def unscale (a : FVal) (sc : Nat) : FVal :=
  match a with
  | .num neg m e => .num neg m (e - ((sc : Int) - 127))
  | v => v

/-- A number rounded and clamped to an integer range, with NX when the element differs from it (R243). -/
def packInt (r : Nat) (lo hi : Int) (bits : Nat) : FVal → Elem
  | .nan _ => (0, flNV)
  | .inf neg => (((if neg then lo else hi) % 2 ^ bits).toNat, flNX)
  | .num neg m e =>
    let x := roundInt r neg m (min e 64)
    let v : Int := if neg then -(x.1 : Int) else x.1
    let w := max lo (min hi v)
    ((w % 2 ^ bits).toNat, if x.2 || w != v then flNX else 0)

/-- A value packed to a floating-point element format, with saturation on (R243). -/
def packFloat (f : Fmt) (r : Nat) : FVal → Elem
  | .nan _ => if f.kind = 2 then (0, flNV) else (f.nan, flNV)
  | .inf neg => (f.signBit neg + f.maxCode, flNV)
  | .num neg m e => let x := f.round r true neg m e; (x.v, x.fl &&& flNX)

/-- One element of a format other than q4o (R243). -/
def packElem (k r : Nat) (a : FVal) (sc : Nat) : Elem :=
  if sc = 255 then (0, flNV)
  else match elemFmt k with
    | some f => packFloat f r (unscale a sc)
    | none => packInt r (elemRange k).1 (elemRange k).2 (elemBits k) (unscale a sc)

/-- The magnitude order of two values: |a| < |b|. -/
def absLess (a b : FVal) : Bool :=
  match a, b with
  | .num _ m e, .num _ n k => decide (cmpV (.num false m e) (.num false n k) < 0)
  | .num .., .inf _ => true
  | _, _ => false

/-- |v| > 11.5 (R244). -/
def isOutlier : FVal → Bool
  | .inf _ => true
  | .num _ m e => decide (0 < cmpV (.num false m e) (.num false 23 (-1)))
  | .nan _ => false

/-- The exponent field of an outlier's magnitude: 16, 64 or 256, ties to the smaller, and whether it differs (R244). -/
def outlierCode (v : FVal) : Nat × Bool :=
  let above := fun (n : Nat) => match v with
    | .inf _ => true
    | .num _ m e => decide (0 < cmpV (.num false m e) (.num false n 0))
    | .nan _ => false
  let is := fun (n : Nat) => match v with
    | .num _ m e => decide (cmpV (.num false m e) (.num false n 0) = 0)
    | _ => false
  if above 160 then (7, !is 256) else if above 40 then (6, !is 64) else (5, !is 16)

/-- An ordinary q4o slot (R244). -/
def packOrd (r : Nat) (v : FVal) : Elem := packInt r (-7) 7 4 v

/-- A q4o pair (R244): the elements of slots 2k and 2k + 1. A NaN scale gives 0 with NV (R243). -/
def packPair (r : Nat) (v0 v1 : FVal) : Elem × Elem :=
  if v0.isNan || v1.isNan then (packOrd r v0, packOrd r v1)
  else
    let one := absLess v0 v1
    let big := if one then v1 else v0
    let oth := if one then v0 else v1
    if isOutlier big then
      let k := outlierCode big
      let e : Elem := (8, if k.2 then flNX else 0)
      let n : Elem := ((if big.neg then 8 else 0) + k.1, if oth.isZero then 0 else flNX)
      if one then (n, e) else (e, n)
    else (packOrd r v0, packOrd r v1)

/-- The q4o value of a slot: +0 for an inactive one. -/
def q4oVal (act : Mask) (a : Nat → FVal) (sc : Nat → Nat) (l : Nat) : FVal :=
  if act.getLsbD l && sc l != 255 then unscale (a l) (sc l) else .num false 0 0

/-- The element of a lane, with what the whole warp packs (R243, R244): inactive lanes supply code 0 in every format but q4o,
where a pair is encoded with +0 for an inactive slot. -/
def packLane (k : Nat) (r : Nat) (act : Mask) (a : Nat → FVal) (sc : Nat → Nat) (l : Nat) : Elem :=
  if k = 7 then
    let p := packPair r (q4oVal act a sc (l / 2 * 2)) (q4oVal act a sc (l / 2 * 2 + 1))
    let e := if l % 2 = 0 then p.1 else p.2
    if act.getLsbD l then (if sc l = 255 then (e.1, e.2 ||| flNV) else e) else (e.1, 0)
  else if act.getLsbD l then packElem k r (a l) (sc l) else (0, 0)

/-- The word of lane `l` that holds codes packed `w` bits each (R216): bits `lo` to `lo + w − 1` of each code. -/
def packWord (w lo : Nat) (code : Nat → Nat) (l : Nat) : Nat :=
  let per := 32 / w
  (List.range per).foldl (fun n j => n + bitsOf (code (l / per * per + j)) lo w * 2 ^ (w * j)) 0

/-- PACK4, PACK6 and PACK8 (R243, R244). -/
def packOp (c : Ctl) (u : Uses) (o : OpsV) : State → Out :=
  let k := o.m.sub.toNat
  let six := elemBits k == 6
  issueT c u (fun act s => do
    if six then s.reachChk o.d 2 [.gen] act
    s.shapeChk u act fun _ => .gen
    let e := fun l j => packLane k (s.mode o.m l) (s.mates act l) (fun i => s.fsrc .f32 u.a i)
      (fun i => (s.src? u.b i).toNat % 256) j
    let codes := fun l j => (e l j).1
    let fl := laneFlags s act fun l => (e l l).2
    fpChk s fl
    let w := if six then 4 else elemBits k
    let s1 := match u.d with
      | some d => s.putD c d act fun l => BitVec.ofNat 64 (packWord w 0 (codes l) l)
      | none => s
    let s2 := match six, o.d with
      | true, .v n => s1.modMembers (s.cur.acting act) fun m w =>
          (lanesOf m.lanes).foldl (fun w l => w.putGen (n + 1) l (BitVec.ofNat 32 (packWord 2 4 (codes l) l))) w
      | _, _ => s1
    .ok (orFlags fl s2))

/-- PACK4 (R243, R244). -/
def execPack4 (c : Ctl) (o : OpsV) : State → Out := packOp c (usesOf (.pack4 c o)) o
/-- PACK6 (R243). -/
def execPack6 (c : Ctl) (o : OpsV) : State → Out := packOp c (usesOf (.pack6 c o)) o
/-- PACK8 (R243). -/
def execPack8 (c : Ctl) (o : OpsV) : State → Out := packOp c (usesOf (.pack8 c o)) o

/-- A two's complement element. -/
def intElem (bits x : Nat) : FVal :=
  if x.testBit (bits - 1) then .num true (2 ^ bits - x) 0 else .num false x 0

/-- Decodes a q4o slot from its nibble and its partner's (R215). -/
def q4oElem (odd : Bool) (mine other : Nat) : FVal :=
  if odd && other == 8 then .num false 0 0
  else if mine = 8 then fmtE4M3.read (other * 16 + 8)
  else if other = 8 then .num false 0 0
  else intElem 4 mine

/-- Decodes an element of a format code (Table 10.3). -/
def readElem (k x : Nat) : FVal :=
  match elemFmt k with
  | some f => f.read x
  | none => intElem (elemBits k) x

/-- The element at lane `l` of the words `lo` (and `hi`) (R216, R245). -/
def unpkElem (k : Nat) (lo hi : Nat) (l : Nat) : FVal :=
  match elemBits k with
  | 6 => readElem k (bitsOf lo (4 * (l % 8)) 4 + 16 * bitsOf hi (2 * (l % 16)) 2)
  | 8 => readElem k (bitsOf lo (8 * (l % 4)) 8)
  | _ =>
    if k = 7 then q4oElem (l % 2 == 1) (bitsOf lo (4 * (l % 8)) 4) (bitsOf lo (4 * ((l ^^^ 1) % 8)) 4)
    else readElem k (bitsOf lo (4 * (l % 8)) 4)

/-- UNPK (R245): its value depends on the lane, so its result is general. -/
def execUnpk (c : Ctl) (o : OpsV) : State → Out :=
  let u := usesOf (.unpk c o)
  let k := o.m.sub.toNat
  issueT c u (fun act s => do
    if elemBits k == 6 then s.reachChk o.a 2 [.gen] act
    s.shapeChk u act fun _ => .gen
    let x := fun l =>
      let sc := (s.src? u.b l).toNat % 256
      let e := unpkElem k ((s.src? u.a l).toNat % 2 ^ 32) (s.srcMore o.a 1 l).toNat l
      if sc = 255 || e.isNan then ({ v := fmtF32.nan } : FRes)
      else fmtF32.write (s.mode o.m l) o.m.sat (scaleV e ((sc : Int) - 127))
    let fl := laneFlags s act fun l => (x l).fl
    fpChk s fl
    match u.d with
    | some d => .ok (orFlags fl (s.putD c d act fun l => BitVec.ofNat 64 (x l).v))
    | none => .ok (orFlags fl s))

/-! ### Flags and the rounding mode (R246) -/

/-- FLAGRD (R246). -/
def execFlagrd (c : Ctl) (o : OpsV) : State → Out :=
  let u := usesOf (.flagrd c o)
  issueT c u (fun act s => do
    s.shapeChk u act fun _ => .uni
    let s' := match u.d with
      | some d => s.putD c d act fun l => (s.warpAt l).fpflags.setWidth 64
      | none => s
    .ok (if o.m.sub == 1 then s'.modMembers (s.cur.acting act) fun _ w => { w with fpflags := 0 } else s'))

/-- FLAGCLR (R246). -/
def execFlagclr (c : Ctl) (m : Mods) : State → Out :=
  issueT c (usesOf (.flagclr c m)) fun act s => .ok (s.modMembers (s.cur.acting act) fun _ w =>
    { w with fpflags := w.fpflags &&& ~~~(m.imm.setWidth 6) })

/-- RMODE (R246). -/
def execRmode (c : Ctl) (m : Mods) : State → Out :=
  issueT c (usesOf (.rmode c m)) fun act s => .ok (s.modMembers (s.cur.acting act) fun _ w =>
    { w with fprnd := m.imm.setWidth 3 })

end Sys2Proof.Machine
end

