-- ==== Sys2Proof/Machine/Logs.lean ====
section
/-!
DEFINITION. The fault log and the error log (R462, Tables 19.5 and 19.6), and the interrupts that the part raises (R122, R124).
-/
set_option autoImplicit false

namespace Sys2Proof.Machine

/-- Fields at bit offsets, as `n` bytes. -/
def packN (n : Nat) (fs : List (Nat × Nat)) : List Byte := leBytes n (fs.foldl (fun a f => a + f.2 * 2 ^ f.1) 0)

/-- A vector of a function's MSI-X table is masked (R452). -/
def State.msixMasked (s : State) (vi vec : Nat) : Bool := (smGetD (smGetD s.bar2 vi {}).table vec {}).mask

/-- Sets the pending bit of a vector whose mask bit is set (R452). -/
def pendMsix (vi vec : Nat) (s : State) : SMap Msix :=
  let b := smGetD s.bar2 vi {}
  if s.msixMasked vi vec && !b.pending.contains vec then smSet s.bar2 vi { b with pending := b.pending ++ [vec] } else s.bar2

/-- Raises an MSI-X vector of an interface (R122): the request is listed, and a masked vector becomes pending. -/
def raiseMsix (vi vec : Nat) (s : State) : State := { s with msix := s.msix ++ [(vi, vec)], bar2 := pendMsix vi vec s }

/-- The vector of a queue: that of its CREATEQ, and for queue 0 vector 0 of a VF and vector 1 of the PF (R124). -/
def State.vecOf (s : State) (vi q : Nat) : Nat :=
  if q = 0 then (if vi = 0 then 1 else 0) else ((smGet? s.vis vi).bind fun v => smGet? v.queues q).elim 0 (·.vec)

/-- Raises the vector of a queue. -/
def raiseQueue (vi q : Nat) (s : State) : State := raiseMsix vi (s.vecOf vi q) s

/-- What the fault log says of one fault, without its number and its command (Table 19.5). -/
structure FaultRec where
  kind   : Nat
  cause  : Nat
  block  : Nat := 0
  pc     : Nat := 0
  lanes  : Nat := 0
  info   : Nat := 0
  obj    : Nat := 0
  core   : Nat
  capidx : Nat := 0xFFFFFFFF
  paobj  : Nat := 0
  paoff  : Nat := 0
  deriving DecidableEq, Repr

/-- A trap as the fault log records it. -/
def TrapInfo.fault (t : TrapInfo) (kind block core capidx : Nat) : FaultRec :=
  { kind := kind, cause := t.cause.toNat, block := block, pc := t.pc.toNat, lanes := t.lanes.toNat, info := t.info.toNat
    obj := t.obj.toNat, core := core, capidx := capidx }

/-- The 64 bytes of a fault-log entry. -/
def FaultRec.bytes (f : FaultRec) (seq part : Nat) (h : CmdHdr) : List Byte :=
  packN 64 [(0, seq), (32, f.kind), (40, f.cause), (48, part), (64, h.vi), (80, h.q), (96, f.block), (128, f.pc), (160, f.lanes),
    (192, f.info), (224, f.obj), (256, f.core), (288, f.capidx), (320, h.usertag.toNat), (384, f.paoff), (448, f.paobj)]

/-- The last `n` entries of a log. -/
def keepLast {α : Type} (n : Nat) (l : List α) : List α := l.drop (l.length - n)

/-- Appends an entry to the fault log, for a partition and a command; the log keeps its latest 4,096 (R462). -/
def putFault (part : Nat) (h : CmdHdr) (f : FaultRec) (s : State) : State :=
  let g := s.logs
  let l := g.fault ++ [f.bytes (g.faultN + g.fault.length) part h]
  { s with logs := { g with fault := keepLast 4096 l, faultN := g.faultN + (l.length - 4096) } }

/-- Appends an entry about a job's work to the fault log. -/
def logFault (job : Nat) (f : FaultRec) (s : State) : State :=
  match smGet? s.jobs job with
  | none => s
  | some j => putFault j.part j.hdr f s

/-- Appends an entry to the error log, which keeps its latest 4,096 (R445, R462, Table 19.6). The TIME is the management core's own cycle
count, which has advanced by some clocks since it was last read (R15). -/
def logError (kind : Nat) (e : EccSite) (s : State) : State :=
  let g := s.logs
  let now := s.bclock + BitVec.ofNat 64 (Config.freeClocks s.free)
  let key := (e.unit.toNat + 256 * e.die.toNat + 65536 * e.stack.toNat + 2 ^ 24 * (e.core.elim 0 (· + 1))) * 2 ^ 64 + e.loc.toNat
  let n := smGetD g.eccN key 0 + (if kind = 0 then 1 else 0)
  let l := g.err ++ [packN 64 [(0, g.errN + g.err.length), (32, kind), (40, e.unit.toNat), (48, e.die.toNat), (56, e.stack.toNat),
    (64, e.core.getD 0xFFFFFFFF), (96, e.loc.toNat), (160, now.toNat), (224, min n 0xFFFFFFFF)]]
  let g := { g with err := keepLast 4096 l, errN := g.errN + (l.length - 4096), eccN := smPut g.eccN key n 0 }
  { s with logs := g, bclock := now, free := s.free + 1 }

end Sys2Proof.Machine
end

