-- ==== Sys2Proof/Machine/Memory.lean ====
section
/-!
DEFINITION. The operations over memory that the instructions and the engines share: the places a thread reaches (R247), presence bits (R252 to
R254), range locks (R260, R261), pages (R80 to R85), address forming and its checks (R75, R266), memory steps from issue
to performance, and Conjunction objects (R378 to R382, R390 to R393).
-/
set_option autoImplicit false

namespace Sys2Proof.Machine

/-! ### Places -/

/-- The bytes of a side. -/
def State.sideMem (s : State) : Side → Memory
  | .shm c q => (s.block c q).shared
  | .obj oid => match s.obj? oid with | some o => o.mem | none => []

/-- What the unlisted bytes of a side read as: zeros, or the free values from a number on (R87). -/
def State.sideFill (s : State) : Side → Option Nat
  | .shm _ _ => none
  | .obj oid => match s.obj? oid with | some o => o.fill | none => none

/-- Bytes from `off` on, each with its difference from what an unlisted byte reads as (R87, log entry 2). -/
def fillXor (fill : Option Nat) (off : Nat) (bs : List Byte) : List Byte :=
  match fill with
  | none => bs
  | some b => bs.mapIdx fun i x => x ^^^ Config.freeByte (b + off + i)

/-- Reads `n` bytes of a side. -/
def State.readN (s : State) (sd : Side) (off n : Nat) : List Byte := fillXor (s.sideFill sd) off (memReadN (s.sideMem sd) off n)
/-- Reads one byte of a side. -/
def State.readByte (s : State) (sd : Side) (off : Nat) : Byte := (s.readN sd off 1).headD 0
/-- Reads `n` bytes of a side as a number. -/
def State.readNat (s : State) (sd : Side) (off n : Nat) : Nat := leNat (s.readN sd off n)

/-- Writes bytes to a side. -/
def State.writeN (s : State) (sd : Side) (off : Nat) (bs : List Byte) : State :=
  match sd with
  | .shm c q => s.modBlock c q fun b => { b with shared := memWriteN b.shared off bs }
  | .obj oid => s.modObj oid fun o => { o with mem := memWriteN o.mem off (fillXor o.fill off bs) }
/-- Writes a number of `n` bytes to a side. -/
def State.writeNat (s : State) (sd : Side) (off n v : Nat) : State := s.writeN sd off (leBytes n v)

/-- The core whose SRAM holds a side, for block shared memory and scratch objects (R79, R247). -/
def State.homeOf (s : State) : Side → Option Nat
  | .shm c _ => some c
  | .obj oid => match s.obj? oid with | some o => if o.kind == .scratch then some o.home else none | none => none

/-! ### Presence bits (R252) -/

/-- The lines of a side whose presence bit is clear. -/
def State.absentOf (s : State) : Side → List Nat
  | .shm c q => (s.block c q).absent
  | .obj oid => match s.obj? oid with | some o => o.absent | none => []

/-- Changes the clear presence bits of a side. -/
def State.modAbsent (s : State) (sd : Side) (f : List Nat → List Nat) : State :=
  match sd with
  | .shm c q => s.modBlock c q fun b => { b with absent := f b.absent }
  | .obj oid => s.modObj oid fun o => { o with absent := f o.absent }

/-- The lines that `n` bytes from `off` touch. -/
def linesOf (off n : Nat) : List Nat := if n = 0 then [] else (List.range ((off + n - 1) / 64 - off / 64 + 1)).map fun i => off / 64 + i

/-- Some touched line's presence bit is clear. -/
def State.absentAt (s : State) (sd : Side) (off n : Nat) : Bool := (linesOf off n).any fun l => (s.absentOf sd).contains l

/-- Clears the presence bits of some lines; only SRAM lines carry them (R252, R258). -/
def clearPresence (sd : Side) (ls : List Nat) (s : State) : State :=
  if (s.homeOf sd).isNone then s else s.modAbsent sd fun a => ls.foldl (fun a l => if a.contains l then a else a ++ [l]) a

/-- Sets the presence bit of a line. -/
def setPresence (sd : Side) (l : Nat) (s : State) : State := s.modAbsent sd fun a => a.filter (· != l)

/-! ### Range locks (R260, R261) -/

/-- Two byte ranges overlap. -/
def overlaps (a b : Nat × Nat) : Bool := decide (a.1 < b.2) && decide (b.1 < a.2)

/-- A range of a side overlaps a registered destination range of the core, or, when `src`, a registered source range. -/
def State.locked (s : State) (core : Nat) (src : Bool) (sd : Side) (r : Nat × Nat) : Bool :=
  (s.core core).copies.any fun k => k.entry &&
    ((k.dstSide == sd && overlaps k.dstR r) || (src && k.srcSide == some sd && overlaps k.srcR r))

/-- A store to the range would raise RANGELOCK (R254, R261). -/
def State.storeLocked (s : State) (core : Nat) (sd : Side) (off n : Nat) : Bool :=
  (s.homeOf sd == some core && s.absentAt sd off n) || s.locked core true sd (off, off + n)

/-! ### Pages (R80, R83 to R85, R123) -/

/-- The usable frames of a stack (R81). -/
def usable : Nat := 1138783

/-- The number of frames in some runs. -/
def frameCount (l : Frames) : Nat := (l.map (·.2)).foldl (· + ·) 0

/-- Takes `n` frames, a multiple of `unit`, out of free ones, from runs that begin at a multiple of `unit` in their stack: those taken, and those
left. -/
def takeFrames (unit : Nat) : Frames → Nat → Frames × Frames
  | [], _ => ([], [])
  | (a, l) :: r, n =>
    let lead := (unit - a % usable % unit) % unit
    let k := min ((l - lead) / unit * unit) n
    let x := takeFrames unit r (n - k)
    ([(a + lead, k)].filter (fun e => e.2 != 0) ++ x.1, [(a, min lead l), (a + lead + k, l - lead - k)].filter (fun e => e.2 != 0) ++ x.2)

/-- Gives a run of frames back: the runs stay in order, and runs of one stack that touch become one. -/
def putFrames : Nat × Nat → Frames → Frames
  | x, [] => [x]
  | (a, l), (b, m) :: r =>
    if a + l = b ∧ a / usable = b / usable then (a, l + m) :: r
    else if b + m = a ∧ a / usable = b / usable then putFrames (b, m + l) r
    else if a < b then (a, l) :: (b, m) :: r
    else (b, m) :: putFrames (a, l) r

/-- Takes the frames `a` to `a + n - 1` out of some runs. -/
def cutFrames (a n : Nat) (l : Frames) : Frames :=
  l.flatMap fun x => [(x.1, min (x.1 + x.2) a - x.1), (max x.1 (a + n), x.1 + x.2 - max x.1 (a + n))].filter fun e => e.2 != 0

/-- Takes runs of frames out of others. -/
def cutAll (gone l : Frames) : Frames := gone.foldl (fun (h : Frames) x => cutFrames x.1 x.2 h) l

/-- Some runs hold the frames `a` to `a + n - 1`. -/
def hasFrames (a n : Nat) (l : Frames) : Bool := l.any fun x => decide (x.1 ≤ a) && decide (a + n ≤ x.1 + x.2)

/-- The `i`th frame of some runs. -/
def frameAt : Frames → Nat → Nat
  | [], _ => 0
  | (a, l) :: r, i => if i < l then a + i else frameAt r (i - l)

/-- The compute die of a frame: two stacks to a die (R13). -/
def frameDie (u : Nat) : Nat := u / usable / 2

/-- A page entry at a frame. -/
def PageEntry.onFrame (e : PageEntry) (u : Nat) : PageEntry := { e with stack := BitVec.ofNat 4 (u / usable), frame := BitVec.ofNat 24 (u % usable) }

/-- The module number of a page entry's frame. -/
def PageEntry.unit (e : PageEntry) : Nat := usable * e.stack.toNat + e.frame.toNat

/-- The frames of a page. -/
def PageEntry.span (e : PageEntry) : Nat := if e.large then 32 else 1

/-- The number of the page entry that describes an offset: 64 KiB pages, or the first of the 32 of a 2 MiB page (R80). -/
def Obj.pageKey (o : Obj) (off : Nat) : Nat :=
  let k := off / 65536
  match smGet? o.pages k with
  | some e => if e.large then k / 32 * 32 else k
  | none => if o.large then k / 32 * 32 else k

/-- The entry of a page that nothing has changed: the object's, at the frame that the page was given, and for an RDUP or MREP page with its place in
the owner's replica array (R80). -/
def Obj.basePage (o : Obj) (k : Nat) : PageEntry :=
  match o.ext with
  | [] => o.proto
  | e :: r => { o.proto.onFrame (frameAt e k) with aux := if r.isEmpty then o.proto.aux else BitVec.ofNat 24 (o.aux0 + k / o.proto.span) }

/-- A page entry. -/
def Obj.page (o : Obj) (k : Nat) : PageEntry := smGetD o.pages k (o.basePage k)

/-- Where an owner's replica array is kept (R80). -/
def replicaKey (owner aux : Nat) : Nat := 2 ^ 24 * owner + aux

/-- The frame of a die's replica of page `k`: the frame that the replica array gives, or, for a page split from a large one, the one at its place
there (R490). -/
def State.replica (s : State) (o : Obj) (k die : Nat) : Nat :=
  let e := o.page k
  (smGetD s.replicas (replicaKey o.owner e.aux.toNat) []).getD die 0 + (if o.large && !e.large then k % 32 else 0)

/-- R80: an access to the page reports PAGEABORT. -/
def PageEntry.aborts (e : PageEntry) : Bool := e.kind == 3 || e.repl == 3 || !e.valid || decide (1138782 < e.frame.toNat)

/-- Why an access may not be performed now. `wait` ends by an event; `wprot` needs a collapse (R83); `mrep` the replication
sequencer (R84); `abort` a PAGERESUME (R80). -/
inductive Gate where
  | ok | wait | wprot | mrep | abort
  deriving DecidableEq, Repr

/-- The gate of one page for an access (R80, R83 to R85); at the replication sequencer, `seqd` (R84). -/
def pageGate (e : PageEntry) (write seqd : Bool) : Gate :=
  if e.aborts then .abort
  else if e.comp then .wait
  else if write && e.repl == 1 then .wprot
  else if write && e.repl == 2 && !seqd then .mrep
  else .ok

/-- The core has sent a store to a line of the range that has not been performed. -/
def State.sending (s : State) (core : Nat) (sd : Side) (off n : Nat) : Bool :=
  s.rstores.any fun r => r.core == core && Side.obj r.oid == sd && (linesOf off n).contains (r.off / 64)

/-- The gate of an access of a core to a side. Away from its home an SRAM access waits until it reaches it (`arrive`), behind the
core's earlier stores to the line, and for the line to be present unless `np` (R248, R253, R254). -/
def State.gate (s : State) (core : Nat) (sd : Side) (off n : Nat) (write np arrive seqd : Bool) : Gate :=
  match s.homeOf sd, sd with
  | some h, _ =>
    if h != core && !arrive then .wait
    else if s.sending core sd off n then .wait
    else if !np && s.absentAt sd off n then .wait
    else .ok
  | none, .obj oid => match s.obj? oid with
    | some o => pageGate (o.page (o.pageKey off)) write seqd
    | none => .ok
  | none, .shm _ _ => .ok

/-- The first gate that is not open. -/
def Gate.andThen (a b : Gate) : Gate := if a == .ok then b else a

/-- The gate of an engine's access to a run of bytes, at both its ends. -/
def State.runGate (s : State) (core : Nat) (sd : Side) (off n : Nat) (write np seqd : Bool) : Gate :=
  (s.gate core sd off n write np true seqd).andThen (s.gate core sd (off + n - 1) 1 write np true seqd)

/-- Some interface has a pending abort of a page (R123). -/
def State.pagePending (s : State) (oid : BitVec 24) (k : Nat) : Bool := s.vis.any fun v => v.2.aborts.any fun a => a.oid == oid && a.page == k

/-- R123: reports a PAGEABORT to the interface whose queue holds the block's work, one entry per page, and records it in the fault log. -/
def reportAbort (job core uid : Nat) (oid : BitVec 24) (page : Nat) (reason : BitVec 8) (s : State) : State :=
  match smGet? s.jobs job with
  | none => s
  | some j =>
    match smGet? s.vis j.hdr.vi with
    | none => s
    | some v =>
      if v.aborts.any fun a => a.oid == oid && a.page == page then s
      else
        let pa : PageAbort := { oid := oid, page := page, q := j.hdr.q, reason := reason }
        let s := { s with vis := smSet s.vis j.hdr.vi { v with aborts := v.aborts ++ [pa] } }
        raiseQueue j.hdr.vi j.hdr.q
          (logFault job { kind := 2, cause := 0x19, block := uid, core := core, paobj := oid.toNat, paoff := 65536 * page } s)

/-- The reason code of the page abort that an entry gives (Table 6.1). -/
def PageEntry.reason (e : PageEntry) : BitVec 8 := if !e.valid then 1 else if e.kind == 3 || e.repl == 3 then 2 else 3

/-- Of the pages that an access of `n` bytes touches, the one that aborts it. -/
def Obj.abortKey (o : Obj) (off n : Nat) : Nat :=
  if (o.page (o.pageKey off)).aborts then o.pageKey off else o.pageKey (off + n - 1)

/-- Reports the abort of the page that an access of a core's block meets (R123). -/
def abortAccess (w : WRef) (sd : Side) (off n : Nat) (s : State) : State :=
  match sd with
  | .obj oid => match s.obj? oid with
    | some o =>
      let b := s.block w.core w.seq
      let k := o.abortKey off n
      reportAbort b.job w.core b.uid oid k (o.page k).reason s
    | none => s
  | .shm _ _ => s

/-- The ordering kind of a place: SRAM is ordered as RELEASE (R82, R366). -/
def State.kindAt (s : State) (sd : Side) (off : Nat) : BitVec 2 :=
  match s.homeOf sd, sd with
  | none, .obj oid => (s.obj? oid).elim 0 fun o => (o.page (o.pageKey off)).kind
  | _, _ => 0

/-- A place on a STRONG page (R367). -/
def State.strongAt (s : State) (sd : Side) (off : Nat) : Bool := s.kindAt sd off == 1
/-- A place on a LOOSE page (R368). -/
def State.looseAt (s : State) (sd : Side) (off : Nat) : Bool := s.kindAt sd off == 2

/-! ### Addresses and their checks (R75, R266) -/

/-- A memory operand: the space, the capability register, the offset field and imm16. -/
structure MemOpd where
  shm : Bool
  cap : Nat
  b   : VReg
  imm : BitVec 16
  deriving DecidableEq, Repr

/-- The signed offset of a lane: B as n32 plus imm16, exact (R266). -/
def MemOpd.offset (o : MemOpd) (s : State) (l : Nat) : Int :=
  ((s.src { r := o.b } l).toNat % 2 ^ 32 : Nat) + o.imm.toInt

/-- The bounds of a lane's operand. -/
def MemOpd.bounds (o : MemOpd) (s : State) (l : Nat) : Nat × Nat :=
  if o.shm then (0, (s.blockAt l).image.shared) else (((s.blockAt l).cap o.cap).lower.toNat, ((s.blockAt l).cap o.cap).upper.toNat)

/-- ea(L) of R266. -/
def MemOpd.ea (o : MemOpd) (s : State) (l : Nat) : Nat := (((o.bounds s l).1 : Int) + o.offset s l).toNat

/-- The side that a lane's operand names. -/
def MemOpd.side (o : MemOpd) (s : State) (l : Nat) : Side :=
  if o.shm then (match s.cur.member? l with | some m => .shm m.w.core m.w.seq | none => .shm 0 0) else .obj ((s.blockAt l).cap o.cap).oid

/-- The lanes of a mask that satisfy a test. -/
def lanesBy (act : Mask) (p : Nat → Bool) : Mask := maskOf fun l => act.getLsbD l && p l

/-- A trap in the lanes that fail a test, if any. -/
def failIn (act : Mask) (c : Cause) (p : Nat → Bool) (info : Word := 0) : Chk Unit :=
  trapIf (lanesBy act p != 0) c (lanesBy act p) info

/-- R75 steps 1 and 2 for a capability register of each lane's block: usable, the rights, and the object's kind. -/
def capChk (s : State) (act : Mask) (cap : Nat) (rights : List Nat) (kinds : List ObjKind) : Chk Unit := do
  failIn act .capinvalid fun l => !s.usable (s.blockAt l).part ((s.blockAt l).cap cap)
  failIn act .capright fun l =>
    let c := (s.blockAt l).cap cap
    !(rights.all fun i => c.right i) || !(match s.capObj c with | some o => kinds.contains o.kind | none => false)

/-- A check made for one lane that reports the lanes of a mask. -/
def onLanes {α : Type} (act : Mask) : Chk α → Chk α
  | .error t => .error { t with lanes := act }
  | .ok a => .ok a

/-- R75 steps 3 and 4 over the active lanes: the bounds for `k` bytes, then the alignment. -/
def MemOpd.place (o : MemOpd) (s : State) (act : Mask) (k align : Nat) : Chk Unit := do
  failIn act .capbound fun l =>
    decide (o.offset s l < 0) || decide (((o.bounds s l).2 : Int) < (o.bounds s l).1 + o.offset s l + k)
  failIn act .misalign fun l => o.ea s l % align != 0

/-- The checks of R75 and R266 over the active lanes, in order: the capability, the bounds for `k` bytes, and the alignment. -/
def MemOpd.check (o : MemOpd) (s : State) (act : Mask) (k align : Nat) (rights : List Nat) (kinds : List ObjKind) : Chk Unit := do
  if !o.shm then capChk s act o.cap rights kinds
  o.place s act k align

/-- RANGELOCK for a store of `k` bytes in each lane (R254, R261). -/
def MemOpd.storeChk (o : MemOpd) (s : State) (act : Mask) (k : Nat) : Chk Unit :=
  failIn act .rangelock fun l => s.storeLocked s.cur.core (o.side s l) (o.ea s l) k

/-! ### vsum and the read-modify-writes (R300, R386, R387) -/

/-- The code of a value of a floating type. -/
def fbits (t : Ty) (x : BitVec 64) : Nat := x.toNat % 2 ^ (fmtOf t).bits

/-- vsum (R300): exact, wrapped or clamped for integers; rounded once by RNE for floating types, with no flag. -/
def vsum (t : Ty) (sat : Bool) (a b : BitVec 64) : BitVec 64 :=
  if t.isInt then wrInt (fitInt t sat (rdInt t a + rdInt t b))
  else BitVec.ofNat 64 ((fmtOf t).write 0 false (addV 0 ((fmtOf t).read (fbits t a)) ((fmtOf t).read (fbits t b)))).v

/-- The lesser or greater of two codes, under R226 for floating types, without flags. -/
def minMaxBits (t : Ty) (mx : Bool) (a b : BitVec 64) : BitVec 64 :=
  if t.isInt then wrInt (if mx then max (rdInt t a) (rdInt t b) else min (rdInt t a) (rdInt t b))
  else
    let f := fmtOf t
    let x := f.read (fbits t a)
    let y := f.read (fbits t b)
    let less := decide (cmpV x y < 0) || (decide (cmpV x y = 0) && x.neg)
    if x.isNan && y.isNan then BitVec.ofNat 64 f.nan
    else if x.isNan then b else if y.isNan then a else if less != mx then a else b

/-- The new value of an ATOM (R386). -/
def atomOp (op : Nat) (t : Ty) (sat : Bool) (old v : BitVec 64) : BitVec 64 :=
  match op with
  | 0 => vsum t sat old v
  | 1 => minMaxBits t false old v
  | 2 => minMaxBits t true old v
  | 3 => old &&& v
  | 4 => old ||| v
  | 5 => old ^^^ v
  | _ => v

/-- The bytes of a type in memory: its width in bytes. -/
def tyBytes (t : Ty) : Nat :=
  match t with
  | .i8 | .n8 | .e4m3 | .e5m2 => 1
  | .i16 | .n16 | .f16 | .bf16 => 2
  | .i64 | .n64 | .f64 => 8
  | _ => 4

/-! ### Memory steps -/

/-- A value of `w` words to the registers from `d`, in some lanes of a warp; a uniform register takes one write. -/
def regWrites (s : State) (w : WRef) (lanes : Mask) (d n : Nat) (v : Nat) : List RW :=
  (List.range n).flatMap fun j =>
    let x := BitVec.ofNat 32 (v / 2 ^ (32 * j))
    match (s.warp w).cls (d + j) with
    | .uni => [RW.uni w (d + j) x]
    | .gen => (lanesOf lanes).map fun l => RW.gen w (d + j) l x
    | _ => []

/-- An integer read in a type as the bits of its registers (R183). -/
def extBits (t : Ty) (x : Nat) : Nat :=
  let v := wrInt (rdInt t (BitVec.ofNat 64 x))
  if t.bits = 64 then v.toNat else v.toNat % 2 ^ 32

/-- The register writes of a load of `x` (R267, R269, R297). -/
def loadWrites (s : State) (st : MemStep) (f : LForm) (x : Nat) : List RW :=
  match f, st.d with
  | .ext t, some d | .uni t, some d => regWrites s st.w st.lanes d (if t.bits = 64 then 2 else 1) (extBits t x)
  | .chan t, some d =>
      regWrites s st.w st.lanes d (if tyBytes t = 8 then 2 else 1) (if t.isInt then extBits t x else x)
  | .words, some d => ({ w := st.w, lanes := st.lanes } :: st.more).flatMap fun m => regWrites s m.w m.lanes d (st.n / 4) x
  | .pred p, _ => [RW.pred st.w p st.lanes (if s.absentAt st.side st.off 1 then 0 else st.lanes)]
  | _, _ => []

/-- The pending part of a copy, of whichever core, that will write a byte, if any, with the core. -/
def State.pendingByte (s : State) (sd : Side) (off : Nat) : Option (Nat × Copy × CopyPart) :=
  s.cores.findSome? fun ck => ck.2.copies.findSome? fun k => if k.dstSide == sd then
    (k.todo.find? fun p => decide (p.dst ≤ off) && decide (off < p.dst + p.len)).map fun p => (ck.1, k, p) else none

/-- The bytes of a pending copy part, where they can be read now: a source line that is absent, or a source page that cannot be read, gives none (R256). -/
def State.partBytes (s : State) (core : Nat) (k : Copy) (p : CopyPart) : Option (List Byte) :=
  match p.src, k.srcSide with
  | some o, some sd => if s.runGate core sd o p.len false false false == .ok then some (s.readN sd o p.len) else none
  | _, _ => some p.bytes

/-- Changes a copy of a core. -/
def State.modCopy (s : State) (core id : Nat) (f : Copy → Copy) : State :=
  s.modCore core fun k => { k with copies := k.copies.map fun x => if x.id == id then f x else x }

/-- A pending part of a copy has read its source: these are its bytes. -/
def Copy.readPart (k : Copy) (p : CopyPart) (bs : List Byte) : Copy :=
  { k with todo := k.todo.map fun x => if x == p then { p with src := none, here := false, bytes := bs } else x }

/-- LDNP of a byte of an absent line under a copy: its value before the copy or the copy's value, a free choice (R267, log entry 5). Where it is the copy's, the
copy has read its part of the source, and the byte is written, so no later load sees the older value (R364). -/
def npByte (sd : Side) (off : Nat) (s : State) : State × Byte :=
  let old := s.readByte sd off
  let (i, s1) := s.takeFree
  let new := Config.freeNat i % 2 == 1
  match s.pendingByte sd off with
  | some (core, k, p) => match s.partBytes core k p with
    | some bs =>
      if new then ((s1.modCopy core k.id fun k => k.readPart p bs).writeN sd off [bs.getD (off - p.dst) 0], bs.getD (off - p.dst) 0) else (s1, old)
    | none => (s1, old)
  | none => match s.cores.findSome? fun ck => ck.2.copies.findSome? fun k =>
      if k.dstSide == sd then (k.kept.find? fun e => e.1 == off).map fun e => (ck.1, k, e.2) else none with
    | some (core, k, before) => if new then (s1.modCopy core k.id fun k => { k with kept := k.kept.filter fun e => e.1 != off }, old) else (s1, before)
    | none => (s, old)

/-- LDNP of `n` bytes. -/
def npBytes (sd : Side) (off : Nat) : Nat → State → State × List Byte
  | 0, s => (s, [])
  | n + 1, s =>
    let (s1, b) := npByte sd off s
    let (s2, bs) := npBytes sd (off + 1) n s1
    (s2, b :: bs)

/-- Adds a copy to a core, under a number of its own. -/
def addCopy (core : Nat) (c : Copy) (s : State) : State :=
  { s.modCore core (fun k => { k with copies := k.copies ++ [{ c with id := s.nextId }] }) with nextId := s.nextId + 1 }

/-- An instruction writes a capability register: at once, or, while several slices issue in one clock, after they have all read theirs (R76). -/
def State.putCap (s : State) (core seq c : Nat) (v : Cap) : State :=
  match (s.core core).capw with
  | none => s.modBlock core seq fun b => b.setCap c v
  | some l => s.modCore core fun k => { k with capw := some (l ++ [(seq, c, v)]) }

/-- Performs the access of a memory step: the state after it, and the register writes it gives. -/
def performAct (core op : Nat) (st : MemStep) (s : State) : State × List RW :=
  match st.act with
  | .load f =>
    if st.np && s.absentAt st.side st.off st.n then
      let (s1, bs) := npBytes st.side st.off st.n s
      (s1, loadWrites s st f (leNat bs))
    else (s, loadWrites s st f (s.readNat st.side st.off st.n))
  | .store bs => (s.writeN st.side st.off bs, [])
  | .rmw op t sat v =>
    let old := s.readNat st.side st.off st.n
    (s.writeNat st.side st.off st.n (atomOp op t sat (BitVec.ofNat 64 old) v).toNat,
      match st.d with | some d => regWrites s st.w st.lanes d (if st.n = 8 then 2 else 1) old | none => [])
  | .cas wide cmp new =>
    let old := s.readNat st.side st.off st.n
    (if BitVec.ofNat 64 old = cmp then s.writeNat st.side st.off st.n new.toNat else s,
      match st.d with | some d => regWrites s st.w st.lanes d (if wide then 2 else 1) old | none => [])
  | .adds t sat vals =>
    ((vals.zipIdx).foldl (fun s vi =>
      let o := st.off + tyBytes t * vi.2
      s.writeNat st.side o (tyBytes t) (vsum t sat (BitVec.ofNat 64 (s.readNat st.side o (tyBytes t))) vi.1).toNat) s, [])
  | .capld blk c =>
    (match st.side with
      | .obj oid => match s.obj? oid with
        | some o => s.putCap blk.1 blk.2 c (smGetD o.slots (st.off / 16) {})
        | none => s
      | .shm _ _ => s, [])
  | .capst v =>
    (match st.side with
      | .obj oid => s.modObj oid fun o => { o with slots := smPut o.slots (st.off / 16) v {} }
      | .shm _ _ => s, [])
  | .copyOut dst doff =>
    (addCopy core
      { id := 0, seq := st.w.seq, uid := (s.block st.w.core st.w.seq).uid, entry := false, srcSide := none, dstSide := dst
        todo := [{ dst := doff, len := 64, bytes := s.readN st.side st.off 64 }], op := some op, sets := false } s, [])

/-- Performs one memory step; an acquire at die scope or wider is recorded in its thread (R288). -/
def performStep (core op : Nat) (st : MemStep) (s : State) : State × List RW :=
  let x := performAct core op st s
  (if st.acq then x.1.modThreads st.w st.lanes fun _ th => { th with acq := x.1.clock } else x.1, x.2)

/-- A step writes memory. -/
def MemStep.writes (st : MemStep) : Bool := match st.act with | .load _ | .capld _ _ | .copyOut _ _ => false | _ => true

/-- A volume write of an outstanding instruction that has been sent and not performed (R289). -/
def LongOp.volWrite (o : LongOp) : Bool :=
  match o.work with | .vol r => r.sent && [1, 2, 6].contains r.op | _ => false

/-- A remote store of a thread of the members. -/
def State.storeOf (s : State) (r : RStore) (ms : List Member) : Bool :=
  ms.any fun m => r.w == m.w && r.lanes &&& m.lanes != 0 && (s.block m.w.core m.w.seq).uid == r.uid

/-- R289, R370: a release of the members at die scope or wider waits until their earlier stores, and the volume writes that their core has sent, have been performed. -/
def State.unreleased (s : State) (core : Nat) (ms : List Member) : Bool :=
  s.rstores.any (fun r => s.storeOf r ms) || s.ops.any fun o => o.core == core && o.volWrite

/-- A release at die scope or wider waits for its threads' earlier stores, but for a write to a LOOSE page (R289, R368). -/
def State.relWait (s : State) (core : Nat) (rel : Bool) (ms : List Member) (sd : Side) (off : Nat) : Bool :=
  rel && !s.looseAt sd off && s.unreleased core ms

/-- The members that a step accesses memory for. -/
def MemStep.members (st : MemStep) : List Member := { w := st.w, lanes := st.lanes } :: st.more

/-- The gate of a memory step. A row is performed at its home, not when it issues (R305, R312); CPOUT's gate also waits for the core's earlier stores to the line
that it writes (R250, R277). -/
def State.stepGate (s : State) (core : Nat) (arrive seqd : Bool) (st : MemStep) : Gate :=
  if s.relWait core st.rel st.members st.side st.off then .wait
  else match st.act with
    | .load (.pred _) => s.gate core st.side st.off 1 false true arrive seqd
    | .copyOut dst doff => if s.sending core dst doff 64 then .wait else s.gate core st.side st.off st.n st.writes st.np arrive seqd
    | _ => if st.row then
        let g := s.runGate core st.side st.off st.n st.writes st.np seqd
        if g == .ok && !arrive then .wait else g
      else s.gate core st.side st.off st.n st.writes st.np arrive seqd

/-- A step touches bytes of a write that has not been performed. -/
def MemStep.behind (st : MemStep) (t : MemStep) : Bool :=
  t.writes && t.side == st.side && overlaps (t.off, t.off + t.n) (st.off, st.off + st.n)

/-- The lanes of a warp that a step accesses memory for. -/
def MemStep.lanesOn (st : MemStep) (w : WRef) : Mask :=
  ({ w := st.w, lanes := st.lanes } :: st.more).foldl (fun a m => if m.w == w then a ||| m.lanes else a) 0

/-- A Conjunction request changes its object. -/
def CjReq.changes (r : CjReq) : Bool := !(r.kind == 3 || r.kind == 5)

/-- The members of a Conjunction request with its active lanes only. -/
def CjReq.acting (r : CjReq) (ms : List Member) : List Member :=
  (ms.map fun m => { m with lanes := m.lanes &&& maskOf fun l => r.vals.any fun v => v.1 == l }).filter fun m => m.lanes != 0

/-- The lanes of a warp for which an outstanding instruction has accesses or results to come. -/
def LongOp.lanesOn (o : LongOp) (w : WRef) : Mask :=
  let all := fun (ms : List Member) => ms.foldl (fun a m => if m.w == w then a ||| m.lanes else a) 0
  match o.work with
  | .mem l => if l.any fun st => match st.act with | .copyOut _ _ => true | _ => false then all o.mems
      else l.foldl (fun a st => a ||| st.lanesOn w) 0
  | .conj r => all (r.acting o.mems)
  | _ => all o.mems

/-- An outstanding instruction of some thread of the members. -/
def LongOp.touches (o : LongOp) (ms : List Member) : Bool := ms.any fun m => o.lanesOn m.w &&& m.lanes != 0

/-- Some thread of the members is one that a step accesses memory for, or, when `warp`, a thread of its warp. -/
def MemStep.shares (st : MemStep) (warp : Bool) (ms : List Member) : Bool :=
  ms.any fun m => if warp then st.lanesOn m.w != 0 else st.lanesOn m.w &&& m.lanes != 0

/-- An outstanding instruction has a write to a range to perform, or a read of a thread of the members, or, for their write, of their warps. -/
def LongOp.hits (o : LongOp) (ms : List Member) (sd : Side) (r : Nat × Nat) (write : Bool) : Bool :=
  match o.work with
  | .mem l => l.any fun t => t.side == sd && overlaps (t.off, t.off + t.n) r && (t.writes || t.shares write ms)
  | .conj q => q.changes && q.side == sd && overlaps (q.off, q.off + 64) r
  | _ => false

/-- An access of some members waits behind what the core's older instructions still have to do to its bytes: one thread's accesses to a byte take
effect in program order (R250, R364). -/
def State.behindOlder (s : State) (core op : Nat) (ms : List Member) (sd : Side) (r : Nat × Nat) (write : Bool) : Bool :=
  s.ops.any fun o => decide (o.id < op) && o.core == core && o.hits ms sd r write

/-- A step is behind the core's older instructions. -/
def State.stepBehind (s : State) (core op : Nat) (st : MemStep) : Bool :=
  s.behindOlder core op st.members st.side (st.off, st.off + st.n) st.writes

/-- An outstanding instruction whose loads have not completed. -/
def LongOp.loading (o : LongOp) : Bool :=
  !o.fp && (o.marks != [] || match o.work with
    | .mem l => l.any fun st => !st.writes
    | .conj r => !r.changes
    | _ => false)

/-- The lanes of a warp for which an outstanding instruction has accesses that have not been performed; those to LOOSE pages count only when
`loose` (R368). -/
def LongOp.pendingOn (o : LongOp) (s : State) (loose : Bool) (w : WRef) : Mask :=
  let copying := (s.core o.core).copies.any fun k => k.op == some o.id
  match o.work with
  | .results | .fence _ | .join => if copying then o.lanesOn w else 0
  | .mem l => if copying then o.lanesOn w else l.foldl (fun a st => if loose || !s.looseAt st.side st.off then a ||| st.lanesOn w else a) 0
  | .conj r => if loose || !s.looseAt r.side r.off then o.lanesOn w else 0
  | _ => o.lanesOn w

/-- Some access that threads made before instruction `id` has not been performed (R370); those to LOOSE pages count only when `loose`. -/
def State.ownBefore (s : State) (loose : Bool) (id : Nat) (ms : List Member) : Bool :=
  s.ops.any fun o => decide (o.id < id) && ms.any fun m => o.pendingOn s loose m.w &&& m.lanes != 0

/-- Some access of the threads to a STRONG page, made before instruction `id`, has not been performed (R367). -/
def State.strongBefore (s : State) (id : Nat) (ms : List Member) : Bool :=
  s.ops.any fun o => decide (o.id < id) && (match o.work with
    | .mem l => l.any fun st => s.strongAt st.side st.off && st.shares false ms
    | .conj r => s.strongAt r.side r.off && (r.acting o.mems).any fun x => ms.any fun m => x.w == m.w && x.lanes &&& m.lanes != 0
    | _ => false)

/-- A write of the members' warps to SRAM of their own core, made before instruction `id`, has not been performed: warp order (R365; log entry 90). -/
def State.warpBefore (s : State) (id : Nat) (ms : List Member) : Bool :=
  s.ops.any fun o => decide (o.id < id) && (match o.work with
    | .mem l => l.any fun st => st.writes && s.homeOf st.side == some o.core && st.shares true ms
    | .conj r => r.changes && s.homeOf r.side == some o.core && (r.acting o.mems).any fun x => ms.any fun m => x.w == m.w
    | _ => false)

/-- An access of the members to a place may not be performed yet because of an earlier one: a release of RELEASE or STRONG bytes, an access to a
STRONG page, or one to SRAM of the core (R365, R367, R368, R370). -/
def State.orderedAfter (s : State) (core id : Nat) (release : Bool) (ms : List Member) (sd : Side) (off : Nat) : Bool :=
  (release && !s.looseAt sd off && s.ownBefore false id ms) || (s.strongAt sd off && s.strongBefore id ms) ||
    (s.homeOf sd == some core && s.warpBefore id ms)

/-- The condition of a fence issued as number `id` (R370, R389): its kind modulo 4 is 0 full, 1 acq, 2 rel; 4 is added at die scope
or wider, where its threads' stores and the core's volume writes must have been performed too (R289); 8 for a release that is no FENCE, which does not
order accesses to LOOSE pages (R368); and 16 for what keeps warp order (R365), which alone is 19. -/
def fenceMet (core id kind : Nat) (ms : List Member) (s : State) : Bool :=
  (kind.testBit 1 || (s.ops.filter fun o => decide (o.id < id) && o.touches ms).all fun o => !o.loading) &&
    (kind.testBit 0 || (!s.ownBefore (!kind.testBit 3) id ms && !(kind.testBit 2 && s.unreleased core ms))) &&
    !(kind.testBit 4 && s.warpBefore id ms)

/-- An instruction that cannot take effect yet: the group is held until what precedes it, as the kind of a fence says, has been performed (R370). -/
def holdKind (kind : Nat) (act : Mask) (s : State) : Option State :=
  let id := s.nextId
  if fenceMet s.cur.core id kind (s.cur.acting act) s then none
  else
    let o : LongOp := { id := id, core := s.cur.core, mems := s.cur.mems, obj := s.cur.obj, pc := s.cur.pc, work := .fence kind }
    some (holdReissue (.answer id) { s with nextId := id + 1, ops := s.ops ++ [o] })

/-- A release at device scope or at a scope within its die (R370). -/
def holdUntil (device : Bool) (act : Mask) (s : State) : Option State := holdKind (if device then 14 else 10) act s

/-- A release at device scope (R370). -/
def holdRelease (act : Mask) (s : State) : Option State := holdUntil true act s

/-- A release at device scope that reads records too, which follow its warps' earlier writes to SRAM (R365, R370). -/
def holdRecord (act : Mask) (s : State) : Option State := holdKind 30 act s

/-- An engine command, whose accesses follow every earlier one of its threads, and their warps' earlier ones to SRAM (R259, R365). -/
def holdEngine (act : Mask) (s : State) : Option State := holdKind 22 act s

/-- What reads or writes lines of its threads' core is held while an older instruction of its warp has still to reach one of them (R250, R365). -/
def holdLines (act : Mask) (places : Nat → List (Side × Nat)) (s : State) : Option State :=
  let behind := (lanesOf act).any fun l => (places l).any fun p => s.ops.any fun o =>
    let ms := s.cur.acting (laneBit l)
    o.touches ms && o.hits ms p.1 (p.2, p.2 + 64) true
  holdKind (if behind then 26 else 19) act s

/-- The group waits until some steps have been performed, and then issues its instruction again. -/
def holdOn (wprot : Bool) (steps : List MemStep) (s : State) : State :=
  let id := s.nextId
  let o : LongOp := { id := id, core := s.cur.core, mems := s.cur.mems, obj := s.cur.obj, pc := s.cur.pc, work := .mem steps }
  holdReissue (if wprot then .wprot id else .load id) { s with nextId := id + 1, ops := s.ops ++ [o] }

/-- Some place that the instruction writes, or reads, may not be reached now: the group waits until it may, and issues again (R80, R83,
R85, R253). -/
def holdPlaces (write : Bool) (places : List (Side × Nat × Nat)) (s : State) : Option State :=
  let core := s.cur.core
  let gate := fun (p : Side × Nat × Nat) => s.runGate core p.1 p.2.1 p.2.2 write write true
  let bad := places.filter fun p => p.2.2 != 0 && gate p != .ok
  if bad.isEmpty then none
  else
    let steps : List MemStep := s.cur.mems.flatMap fun m => bad.map fun p =>
      { w := m.w, lanes := m.lanes, side := p.1, off := p.2.1, n := p.2.2, act := if write then .store [] else .load .pres }
    let s' := bad.foldl (fun t p => if gate p == .abort then s.cur.mems.foldl (fun t m => abortAccess m.w p.1 p.2.1 p.2.2 t) t else t) s
    some (holdOn (bad.any fun p => gate p == .wprot) steps s')

/-- A step may not be performed yet because of an older instruction. -/
def State.stepAfter (s : State) (core op : Nat) (st : MemStep) : Bool :=
  s.stepBehind core op st || s.orderedAfter core op st.ord st.members st.side st.off

/-- Some step of an instruction that must be performed in the clock of its issue may not be performed now, for its page or for an older access: the group waits until
it may, and issues again (R76). -/
def holdSteps (steps : List MemStep) (s : State) : Option State :=
  let core := s.cur.core
  let gate := fun (st : MemStep) => if s.stepAfter core s.nextId st then Gate.wait else s.stepGate core false false st
  let bad := steps.filter fun st => gate st != .ok
  if bad.isEmpty then none
  else
    let s' := bad.foldl (fun t st => if gate st == .abort then abortAccess st.w st.side st.off st.n t else t) s
    some (holdOn (bad.any fun st => gate st == .wprot) (bad.map fun st => { st with act := if st.writes then .store [] else .load .pres }) s')

/-- A step that has reached the home of its line, and finds it absent, waits there for it (R253). -/
def MemStep.found (st : MemStep) (s : State) (core : Nat) (arrive : Bool) : MemStep :=
  { st with here := st.here || (!st.np && !st.writes && (s.homeOf st.side).any (fun h => h == core || arrive) && s.absentAt st.side st.off st.n) }

/-- Performs every step whose gate is open, in order, with `prev` the steps passed over; the steps that are left, and the register writes. -/
def runSteps (core op : Nat) (arrive seqd : Bool) : List MemStep → List MemStep → State → State × List MemStep × List RW
  | _, [], s => (s, [], [])
  | prev, st :: r, s =>
    let g := if prev.any st.behind || s.stepAfter core op st then Gate.wait else s.stepGate core arrive seqd st
    if g == .ok then
      let (s1, rw) := performStep core op st s
      let (s2, left, rws) := runSteps core op arrive seqd prev r s1
      (s2, left, rw ++ rws)
    else
      let s1 := if g == .abort then st.members.foldl (fun s m => abortAccess m.w st.side st.off st.n s) s else s
      let (s2, left, rws) := runSteps core op arrive seqd (prev ++ [st]) r s1
      (s2, st.found s core arrive :: left, rws)

/-- How the lanes of a step wait at its page, whatever else the step waits for: one that must be expanded or resumed parks them (R80, R85), and a write to an RDUP
page parks for its collapse (R83). -/
def pagePark (s : State) (core id : Nat) (st : MemStep) : Wait :=
  if (s.homeOf st.side).isSome then .none
  else match s.runGate core st.side st.off st.n st.writes true true with
    | .wprot => .wprot id
    | .abort | .wait => .load id
    | _ => .none

/-- How the lanes of a blocked step wait: at its page; a load of SRAM data parks (R248), an atomic that is an acquire holds the thread until it has been performed
(R370), and any other access leaves the thread running. -/
def parkOf (s : State) (core id : Nat) (st : MemStep) : Wait :=
  let p := pagePark s core id st
  if p != .none || st.row then p
  else match st.act with
    | .load _ | .copyOut _ _ => .load id
    | .rmw .. | .cas .. => if st.ord then .answer id else .none
    | _ => .none

/-- Changes the threads that a step accesses memory for. -/
def State.modStep (s : State) (st : MemStep) (f : Thread → Thread) : State :=
  s.modMembers st.members fun m w => w.modThreads m.lanes fun _ th => f th

/-- Parks the threads of the blocked steps of an instruction that wait for nothing yet. -/
def parkSteps (core id : Nat) (steps : List MemStep) (s : State) : State :=
  steps.foldl (fun s st =>
    let p := parkOf s core id st
    if p == .none then s else s.modStep st fun th => if th.wait == .none && !th.ended then { th with wait := p } else th) s

/-- A thread waits for the outstanding instruction `id`. -/
def Thread.waitsFor (th : Thread) (id : Nat) : Bool :=
  th.wait == .load id || th.wait == .wprot id || th.wait == .answer id || th.wait == .conj id || th.wait == .copy id

/-- Wakes the parked lanes of an instruction that no step is left for. -/
def wakeDone (id : Nat) (mems : List Member) (left : List MemStep) (s : State) : State :=
  let s := { s with clock := s.clock + 1 }
  s.modMembers mems fun m w => w.modThreads m.lanes fun l th =>
    if th.waitsFor id && !(left.any fun st => (st.lanesOn m.w).getLsbD l)
    then { th with wait := .none, stamp := s.clock } else th

/-- Some steps of an outstanding instruction have been run: these are left, and these registers are written. The lanes that no step is left for wake, and
those whose step has met a page that parks them wait there (R80, R83, R85). -/
def leaveSteps (o : LongOp) (left : List MemStep) (rws : List RW) (s : State) : State :=
  let s1 := parkSteps o.core o.id left (wakeDone o.id o.mems left (rws.foldl deliver s))
  s1.modOp o.id fun o => { o with work := if left.isEmpty then .results else .mem left }

/-- Performs what can be performed of an outstanding instruction's memory steps. `arrive`: its accesses have reached their homes;
`seqd`: at the replication sequencer. -/
def resumeMem (arrive seqd : Bool) (o : LongOp) (s : State) : State :=
  match o.work with
  | .mem steps =>
    let (s1, left, rws) := runSteps o.core o.id arrive seqd [] steps s
    leaveSteps o left rws s1
  | _ => s

/-- Performs step `j` alone of an outstanding instruction, if it can be performed. -/
def resumeStep (j : Nat) (o : LongOp) (s : State) : State :=
  match o.work with
  | .mem steps =>
    let (s1, left, rws) := runSteps o.core o.id true false (steps.take j) (steps.drop j |>.take 1) s
    leaveSteps o (steps.take j ++ left ++ steps.drop (j + 1)) rws s1
  | _ => s

/-- Starts a long-latency instruction of memory steps: what can be performed is performed at issue, and the rest waits. -/
def startMem (c : Ctl) (act : Mask) (d : Option Fld) (preds : List Nat) (steps : List MemStep) (s : State) : State :=
  let id := s.nextId
  let core := s.cur.core
  let s := s.startOp c { id := 0, core := 0, mems := [], obj := 0, pc := 0, marks := marksOf s.cur act d preds }
  let (s1, left, rws) := runSteps core id false false [] steps s
  parkSteps core id left (s1.modOp id fun o => { o with rws := rws, work := if left.isEmpty then .results else .mem left })

/-- Runs the memory steps of an instruction that is not long-latency: what is left is outstanding, without a lookahead budget; with
`hold`, the thread's next instruction waits for the answer (R385). -/
def startShort (hold : Bool) (marks : List Mark) (steps : List MemStep) (s : State) : State :=
  let id := s.nextId
  let core := s.cur.core
  let (s1, left, rws) := runSteps core id false false [] steps s
  if left.isEmpty then rws.foldl deliver s1
  else
    let o : LongOp := { id := id, core := core, mems := s.cur.mems, obj := s.cur.obj, pc := s.cur.pc, marks := marks, work := .mem left }
    let s2 := rws.foldl deliver { s1 with nextId := id + 1, ops := s1.ops ++ [o] }
    let s3 := parkSteps core id left s2
    if hold then left.foldl (fun s st => s.modStep st fun th =>
      if th.wait == .none then { th with wait := .answer id } else th) s3 else s3

/-! ### A presence bit is set (R253, R256) -/

/-- The accesses of an outstanding instruction that wait at the home of a line are performed. -/
def resumeHere (sd : Side) (l : Nat) (o : LongOp) (s : State) : State :=
  match o.work with
  | .mem steps =>
    let mine := fun (st : MemStep) => st.here && st.side == sd && (linesOf st.off st.n).contains l
    if !steps.any mine then s
    else
      let (s1, left, rws) := runSteps o.core o.id true false [] (steps.filter mine) s
      leaveSteps o (steps.filter fun st => !mine st || left.contains st) rws s1
  | _ => s

/-- The copies that wait for a source line read it as it stands (R256). -/
def readSources (sd : Side) (l : Nat) (s : State) : State :=
  let read := fun (k : Copy) (p : CopyPart) => match p.src with
    | some o => if p.here && k.srcSide == some sd && o / 64 == l then { p with src := none, here := false, bytes := s.readN sd o p.len } else p
    | none => p
  if !(s.cores.any fun ck => ck.2.copies.any fun k => k.todo.any (·.here)) then s
  else { s with cores := s.cores.map fun ck => (ck.1, { ck.2 with copies := ck.2.copies.map fun k => { k with todo := k.todo.map (read k) } }) }

/-- A line becomes present: its bit is set, and the loads and the copies that wait for it read it as it stands at that moment (R253, R256). -/
def markPresent (sd : Side) (l : Nat) (s : State) : State :=
  let s := readSources sd l (setPresence sd l s)
  s.ops.foldl (fun s o => match s.op? o.id with | some o => resumeHere sd l o s | none => s) s

/-- The member's warp of a lane. -/
def State.wrefAt (s : State) (l : Nat) : WRef :=
  match s.cur.member? l with | some m => m.w | none => { core := 0, seq := 0, warp := 0 }

/-- The first register of a destination field, or none for 2047. -/
def dstReg : VReg → Option Nat
  | .v n => some n.val
  | _ => none

/-! ### Conjunction objects (R378 to R382) -/

/-- The fields of a Conjunction object (Table 16.4). -/
structure Cj where
  count  : Nat
  expect : Nat
  phase  : Word
  bytes  : Bool
  ovf   : Bool
  deriving DecidableEq, Repr

/-- Reads a Conjunction object. -/
def State.cj (s : State) (sd : Side) (off : Nat) : Cj :=
  let f := s.readNat sd (off + 20) 1
  { count := s.readNat sd off 8, expect := s.readNat sd (off + 8) 8, phase := BitVec.ofNat 32 (s.readNat sd (off + 16) 4)
    bytes := f.testBit 0, ovf := f.testBit 1 }

/-- Writes a Conjunction object; its reserved bits become zero (R5). -/
def State.putCj (s : State) (sd : Side) (off : Nat) (o : Cj) : State :=
  s.writeN sd off (packN 64 [(0, o.count % 2 ^ 64), (64, o.expect % 2 ^ 64), (128, o.phase.toNat), (160, o.bytes.toNat + 2 * o.ovf.toNat)])

/-- An arrival-mode object with EXPECT = 0 is spent (R379). -/
def Cj.spent (o : Cj) : Bool := !o.bytes && o.expect == 0

/-- R379: the completion of a phase. -/
def Cj.complete (o : Cj) : Cj := { o with phase := o.phase + 1, count := if o.bytes then 0 else o.expect }

/-- A count-down by `k` of a thread's arrival. -/
def Cj.arrive (o : Cj) (k : Nat) : Cj :=
  let o' := { o with count := o.count - k }
  if 0 < k ∧ o'.count = 0 then o'.complete else o'

/-- R380: an engine's count-down by `k`. -/
def Cj.engine (o : Cj) (k : Nat) : Cj :=
  if o.count < k then
    let o' := { o with ovf := true, count := 0 }
    if o.count = 0 then o' else o'.complete
  else o.arrive k

/-- The wake condition of R381 for a token. -/
def Cj.wakes (o : Cj) (token : Word) : Bool := o.phase != token || o.spent || o.ovf

/-- A Conjunction instruction's trap: the failing lanes and the code of the lowest (R391). -/
def cjTrap (fails : List (Nat × Nat)) : Option TrapReq :=
  let z := maskOf fun l => fails.any fun f => f.1 == l
  if fails.isEmpty then none
  else some { cause := .cjover, lanes := z, info := BitVec.ofNat 32 (smGetD fails ((lanesOf z).headD 0) 0) }

/-- R391: each lane in turn, each check seeing the lanes before it: the failures, the phases written to D, and the object. -/
def cjLanes (kind : Nat) : List (Nat × Word) → Cj → List (Nat × Nat) × List (Nat × Word) × Cj
  | [], o => ([], [], o)
  | (l, v) :: r, o =>
    let fail := fun (c : Nat) => let x := cjLanes kind r o; ((l, c) :: x.1, x.2.1, x.2.2)
    let go := fun (o' : Cj) => let x := cjLanes kind r o'; (x.1, (l, o.phase) :: x.2.1, x.2.2)
    match kind with
    | 1 => if o.count < v.toNat then fail 0 else go (o.arrive v.toNat)
    | 2 => if o.bytes then fail 3 else if o.count = 0 then fail 2
           else
             let o' := { o with count := o.count - 1, expect := o.expect - 1 }
             go (if o'.count = 0 then o'.complete else o')
    | _ => if !o.bytes then fail 3 else if 2 ^ 64 - 1 < o.count + v.toNat then fail 4
           else go { o with count := o.count + v.toNat }

/-- The value of CJTEST (R393). -/
def cjTest (sub : Nat) (o : Cj) : Word :=
  match sub with
  | 0 => o.phase
  | 1 => BitVec.ofNat 32 (min o.count (2 ^ 32 - 1))
  | 2 => BitVec.ofNat 32 (min o.expect (2 ^ 32 - 1))
  | _ => BitVec.ofNat 32 (o.ovf.toNat + 2 * o.bytes.toNat + 4 * o.spent.toNat)

/-- The object that CJINIT writes (R390). -/
def cjNew (bytes : Bool) (n : Nat) : Cj :=
  { count := n, expect := if bytes then 0 else n, phase := if n = 0 then 1 else 0, bytes := bytes, ovf := false }

/-- Writes values by lane to D in each member (general registers), or one value to a uniform register. -/
def laneWrites (s : State) (ms : List Member) (d : VReg) (vals : List (Nat × Word)) : List RW :=
  match dstReg d with
  | none => []
  | some n => ms.flatMap fun m =>
      match (s.warp m.w).cls n with
      | .uni => match vals.find? fun v => m.lanes.getLsbD v.1 with | some v => [RW.uni m.w n v.2] | none => []
      | .gen => (vals.filter fun v => m.lanes.getLsbD v.1).map fun v => RW.gen m.w n v.1 v.2
      | _ => []

/-- What performing a Conjunction instruction answers: it waits, it traps, or it is done with its result by lane. -/
inductive CjAns where
  | wait (s : State)
  | trap (t : TrapReq)
  | done (s : State) (vals : List (Nat × Word))

/-- Performs a Conjunction instruction on its object (R390 to R393). -/
def performCj (r : CjReq) (s : State) : CjAns :=
  let o := s.cj r.side r.off
  let first := (r.vals.headD (0, 0)).2
  match r.kind with
  | 0 =>
    .done (s.putCj r.side r.off (cjNew (r.sub == 1) first.toNat)) []
  | 3 =>
    if o.ovf then .trap { cause := .cjover, lanes := maskOf fun l => r.vals.any fun v => v.1 == l, info := 1 }
    else if r.sub == 1 || o.wakes first then .done s (r.vals.map fun v => (v.1, o.phase))
    else .wait s
  | 5 => .done s (r.vals.map fun v => (v.1, cjTest r.sub o))
  | k =>
    let (fails, outs, o') := cjLanes k r.vals o
    match cjTrap fails with
    | some t => .trap t
    | none => .done (s.putCj r.side r.off o') (if k = 4 then [] else outs)

/-- A Conjunction instruction of number `id` may not be sent yet: a release waits for what its threads did before (R370). -/
def State.cjAfter (s : State) (core id : Nat) (ms : List Member) (r : CjReq) : Bool :=
  s.relWait core r.rel ms r.side r.off || s.orderedAfter core id r.changes ms r.side r.off ||
    s.behindOlder core id ms r.side (r.off, r.off + 64) r.changes

/-- The gate of a Conjunction instruction of number `id`. -/
def cjGate (s : State) (core id : Nat) (ms : List Member) (arrive seqd : Bool) (r : CjReq) : Gate :=
  if s.cjAfter core id ms r then .wait
  else s.gate core r.side r.off 64 r.changes false arrive seqd

/-- Marks the acquire of the lanes of a request (R288, R370). -/
def acquireLanes (ms : List Member) (acq : Bool) (s : State) : State :=
  if acq then s.modMembers ms fun m w => w.modThreads m.lanes fun _ th => { th with acq := s.clock } else s

/-- The threads that wait for an outstanding instruction wake. -/
def wakeOp (id : Nat) (ms : List Member) (s : State) : State :=
  let s := { s with clock := s.clock + 1 }
  s.modMembers ms fun m w => w.modThreads m.lanes fun _ th =>
    if th.waitsFor id then { th with wait := .none, stamp := s.clock } else th

/-- Performs an outstanding Conjunction instruction if its gate is open: it completes, traps, or waits on. The whole group traps (R427); of one that has
parked, the threads that wait. -/
def stepCj (arrive seqd : Bool) (o : LongOp) (s : State) : State :=
  match o.work with
  | .conj r =>
    let ms := r.acting o.mems
    if cjGate s o.core o.id ms arrive seqd r != .ok then s
    else match performCj r s with
      | .wait s =>
        let s := wakeOp o.id o.mems (s.modOp o.id fun o => { o with work := .conj { r with parked := true } })
        s.modMembers ms fun m w => w.modThreads m.lanes fun _ th => { th with wait := .conj o.id }
      | .trap t => takeDeferred (raiseAt t { o.group s with mems := if r.parked then ms else o.mems } ((wakeOp o.id o.mems s).dropOp o))
      | .done s vals =>
        let s := acquireLanes ms r.acq (((laneWrites s ms r.d vals).foldl deliver s).latchResult o.core r.hold vals)
        (wakeOp o.id o.mems s).modOp o.id fun o => { o with work := .results, rws := [] }
  | _ => s

/-- After a Conjunction object changed: every CJWAIT parked on it whose condition holds completes (R379, R381, R390). `all` wakes
every one of them, and the WAITCJ commands on it; those of saved blocks complete when they are restored. -/
def wakeWaiters (sd : Side) (off : Nat) (all : Bool) (s : State) : State :=
  let object := match sd with | .obj _ => true | .shm _ _ => false
  let woken := fun (o : LongOp) => match o.work with
    | .conj r => if r.kind == 3 && object && r.side == sd && r.off == off then { o with work := .conj { r with sub := 1 } } else o
    | _ => o
  let ended := fun (c : Cmd) => match c.wait with
    | .conj oid o _ => if sd == .obj oid && o == off then { c with wait := .done } else c
    | _ => c
  let s := if all then { s with saved := s.saved.map (fun x => { x with ops := x.ops.map woken }), cmds := s.cmds.map ended } else s
  s.ops.foldl (fun s o =>
    match o.work with
    | .conj r =>
      if r.kind == 3 && r.parked && r.side == sd && r.off == off then
        if all then
          let ph := (s.cj sd off).phase
          let s := (laneWrites s o.mems r.d (r.vals.map fun v => (v.1, ph))).foldl deliver s
          (wakeOp o.id o.mems (acquireLanes (r.acting o.mems) r.acq s)).modOp o.id fun o => { o with work := .results }
        else if (s.cj sd off).ovf || (s.cj sd off).wakes (r.vals.headD (0, 0)).2 then stepCj true false o s else s
      else s
    | _ => s) s

/-- A Conjunction instruction that changed its object wakes the waiters on it. -/
def afterCj (r : CjReq) (s : State) : State :=
  if !r.changes then s else wakeWaiters r.side r.off (r.kind == 0) s

/-- Performs an outstanding Conjunction instruction if it can, and wakes the waiters on its object. -/
def resumeCj (arrive seqd : Bool) (o : LongOp) (s : State) : State :=
  match o.work with
  | .conj r =>
    let s1 := stepCj arrive seqd o s
    if (s1.op? o.id).elim false (fun x => x.work == .results) then afterCj r s1 else s1
  | _ => s

/-- R258, R380: an engine counts `k` bytes on a Conjunction object. -/
def engineCount (sd : Side) (off k : Nat) (s : State) : State :=
  wakeWaiters sd off false (s.putCj sd off ((s.cj sd off).engine k))

end Sys2Proof.Machine
end

