-- ==== Sys2Proof/Machine/LocalMem.lean ====
section
/-!
DEFINITION. Group 5, loads and stores of block shared memory, scratch objects and the spill stack (chapter 11, R265 to R271).
-/
set_option autoImplicit false

namespace Sys2Proof.Machine

/-- The memory operand of a class-M instruction whose space bit is `shm`. -/
def opdM (o : OpsM) (shm : Bool) : MemOpd := { shm := shm, cap := o.cap.toNat, b := o.b, imm := o.m.imm }

/-- The memory operand of a class-M instruction with a predicate in D. -/
def opdP (o : OpsMP) (shm : Bool) : MemOpd := { shm := shm, cap := o.cap.toNat, b := o.b, imm := o.m.imm }

/-- One memory step for each active lane (R266). -/
def laneSteps (s : State) (act : Mask) (o : MemOpd) (n : Nat) (d : Option Nat) (np : Bool) (f : Nat → MAct) : List MemStep :=
  (lanesOf act).map fun l =>
    { w := s.wrefAt l, lanes := laneBit l, side := o.side s l, off := o.ea s l, n := n, act := f l, d := d, np := np }

/-- A store of a thread (R248, R254): performed at once where the issuing core is the home, and otherwise sent to the home. -/
def storeAt (core uid : Nat) (w : WRef) (lanes : Mask) (sd : Side) (off : Nat) (bs : List Byte) (s : State) : State :=
  match sd, s.homeOf sd with
  | .obj oid, some h =>
    if h = core then s.writeN sd off bs else { s with rstores := s.rstores ++ [{ core := core, uid := uid, w := w, lanes := lanes, oid := oid, off := off, bytes := bs }] }
  | _, _ => s.writeN sd off bs

/-- A load of one access per lane (R266, R267). -/
def loadOp (c : Ctl) (u : Uses) (o : MemOpd) (k : Nat) (d : VReg) (np : Bool) (f : LForm) : State → Out :=
  issueT c u (fun act s => do
    s.reachChk d (match f with | .words => k / 4 | _ => 1) [.gen] (match f with | .words => act | _ => 0)
    s.shapeChk u act fun _ => .gen
    o.check s act k k [0] [.scratch]
    .ok (startMem c act u.d [] (laneSteps s act o k (dstReg d) np fun _ => .load f) s))

/-- LD (R267). -/
def execLd (c : Ctl) (o : OpsM) : State → Out :=
  loadOp c (usesOf (.ld c o)) (opdM o (o.m.sub == 1)) (tyBytes o.m.ty) o.d false (.ext o.m.ty)

/-- LDNP: as LD, without parking on presence (R267). -/
def execLdnp (c : Ctl) (o : OpsM) : State → Out :=
  loadOp c (usesOf (.ldnp c o)) (opdM o (o.m.sub == 1)) (tyBytes o.m.ty) o.d true (.ext o.m.ty)

/-- Bytes per lane of LDV and STV (R269). -/
def vecBytes (m : Mods) : Nat := if m.sub.toNat < 2 then 8 else 16

/-- LDV (R269). -/
def execLdv (c : Ctl) (o : OpsM) : State → Out :=
  loadOp c (usesOf (.ldv c o)) (opdM o (o.m.sub.getLsbD 0)) (vecBytes o.m) o.d false .words

/-- LDU: one access for each warp, at the address of its lowest active lane; its result is uniform (R267). -/
def execLdu (c : Ctl) (o : OpsM) : State → Out :=
  let u := usesOf (.ldu c o)
  let op := opdM o (o.m.sub == 1)
  let k := tyBytes o.m.ty
  issueT c u (fun act s => do
    s.shapeChk u act fun _ => .uni
    s.uniformChk o.b act
    op.check s act k k [0] [.scratch]
    .ok (startMem c act u.d [] ((s.cur.acting act).map fun m =>
      let l := (lanesOf m.lanes).headD 0
      { w := m.w, lanes := m.lanes, side := op.side s l, off := op.ea s l, n := k, act := .load (.uni o.m.ty), d := dstReg o.d }) s))

/-- The stores of a group, as memory steps: each active lane in ascending order, so that the highest lane's bytes remain (R268). -/
def storeSteps (s : State) (act : Mask) (o : MemOpd) (k : Nat) (f : State → Nat → List Byte) : List MemStep :=
  (lanesOf act).map fun l =>
    { w := s.wrefAt l, lanes := laneBit l, side := o.side s l, off := o.ea s l, n := k, act := .store (f s l) }

/-- A store of a group is accepted at once (R248), unless it must follow what an older instruction has still to do to its bytes (R250). -/
def storeOp (c : Ctl) (u : Uses) (o : MemOpd) (k : Nat) (reach : Nat) (d : VReg) (f : State → Nat → List Byte) : State → Out :=
  issueT c u (fun act s => do
    s.reachChk d reach [.gen] (if reach == 0 then 0 else act)
    s.shapeChk u act fun _ => .gen
    o.check s act k k [1] [.scratch]
    o.storeChk s act k
    let steps := storeSteps s act o k f
    if steps.any (s.stepAfter s.cur.core s.nextId) then .ok (startMem c act none [] steps s)
    else .ok (((lanesOf act).foldl (fun t l => storeAt s.cur.core (s.blockAt l).uid (s.wrefAt l) (laneBit l) (o.side s l) (o.ea s l) (f s l) t) s).startResults
      c act none []))

/-- ST: the low k bytes of D (R268). -/
def execSt (c : Ctl) (o : OpsM) : State → Out :=
  let u := usesOf (.st c o)
  storeOp c u (opdM o (o.m.sub == 1)) (tyBytes o.m.ty) 0 o.d fun s l => leBytes (tyBytes o.m.ty) (s.src? u.ds l).toNat

/-- STV (R269). -/
def execStv (c : Ctl) (o : OpsM) : State → Out :=
  let k := vecBytes o.m
  storeOp c (usesOf (.stv c o)) (opdM o (o.m.sub.getLsbD 0)) k (k / 4) o.d fun s l =>
    (List.range (k / 4)).flatMap fun j => leBytes 4 (s.srcMore o.d j l).toNat

/-! ### The spill stack (R153, R270) -/

/-- The signed start of a spill access in a warp: SP plus imm16 (R270). -/
def spillOff (m : Mods) (w : Warp) : Int := w.sp + m.imm.toInt

/-- The lanes of the members that fail a test of their warp. -/
def State.memberFail (s : State) (act : Mask) (c : Cause) (info : Word) (p : Member → Bool) : Chk Unit :=
  let z := ((s.cur.acting act).filter p).foldl (fun a m => a ||| m.lanes) 0
  trapIf (z != 0) c z info

/-- The checks of R270. -/
def spillChk (m : Mods) (s : State) (act : Mask) : Chk Unit := do
  let k := tyBytes m.ty
  s.memberFail act .misalign 0 fun mm => spillOff m (s.warp mm.w) % (k : Int) != 0
  s.memberFail act .spillovf 3 fun mm =>
    decide (spillOff m (s.warp mm.w) < 0) ||
      decide (((s.block mm.w.core mm.w.seq).image.spill : Int) < spillOff m (s.warp mm.w) + 32 * k)

/-- LDSP and LDSP.SP (R270). -/
def execLdsp (c : Ctl) (o : OpsM) : State → Out :=
  let u := usesOf (.ldsp c o)
  issueT c u (fun act s =>
    let write := fun (f : Nat → BitVec 64) => match u.d with
      | some d => s.startResults c act (some d) ((s.cur.acting act).flatMap fun m => fieldWrites d f m (s.warp m.w))
      | none => s.startResults c act none []
    if o.m.sub == 1 then do
      s.shapeChk u act fun _ => .uni
      .ok (write fun l => BitVec.ofNat 64 (s.warpAt l).sp)
    else do
      s.shapeChk u act fun _ => .gen
      spillChk o.m s act
      let k := tyBytes o.m.ty
      .ok (write fun l => BitVec.ofNat 64
        (extBits o.m.ty (memNat (s.warpAt l).spill ((spillOff o.m (s.warpAt l)).toNat + k * l) k))))

/-- STSP and STSP.ADJ (R270). -/
def execStsp (c : Ctl) (o : OpsM) : State → Out :=
  let u := usesOf (.stsp c o)
  issueT c u (fun act s =>
    if o.m.sub == 1 then do
      let sp := fun (w : Warp) => (w.sp : Int) + o.m.imm.toInt
      s.memberFail act .spillovf 4 fun m =>
        decide (sp (s.warp m.w) < 0) || decide (((s.block m.w.core m.w.seq).image.spill : Int) < sp (s.warp m.w))
      .ok ((s.modMembers (s.cur.acting act) fun _ w => { w with sp := (sp w).toNat }).startResults c act none [])
    else do
      s.shapeChk u act fun _ => .gen
      spillChk o.m s act
      let k := tyBytes o.m.ty
      .ok ((s.modMembers (s.cur.acting act) fun m w =>
        { w with spill := (lanesOf m.lanes).foldl (fun sp l =>
            memPutNat sp ((spillOff o.m w).toNat + k * l) k (s.src? u.ds l).toNat) w.spill }).startResults c act none []))

/-! ### Presence (R271) -/

/-- PRTEST: the presence bit of the line of each lane's address (R271). -/
def execPrtest (c : Ctl) (o : OpsMP) : State → Out :=
  let u := usesOf (.prtest c o)
  let op := opdP o (o.m.sub == 1)
  issueT c u (fun act s => do
    s.shapeChk u act fun _ => .gen
    op.check s act 1 1 [0] [.scratch]
    .ok (startShort false (marksOf s.cur act none [o.p.val])
      (laneSteps s act op 1 none true fun _ => .load (.pred o.p.val)) s))

/-- PRWAIT: the lanes whose line is absent park until its bit is set (R271). -/
def execPrwait (c : Ctl) (o : OpsM) : State → Out :=
  let u := usesOf (.prwait c o)
  let op := opdM o (o.m.sub == 1)
  issueT c u (fun act s => do
    s.shapeChk u act fun _ => .gen
    op.check s act 1 1 [0] [.scratch]
    .ok (startMem c act none [] (laneSteps s act op 1 none false fun _ => .load .pres) s))

end Sys2Proof.Machine
end

