-- ==== Sys2Proof/Machine/Copy.lean ====
section
/-!
DEFINITION. Group 6, copies and range locks (chapter 11, R255 to R264, R272 to R277), and the copy engine's own steps.
-/
set_option autoImplicit false

namespace Sys2Proof.Machine

/-- The `w` bits of a number from bit `lo`. -/
def bitsAt (v lo w : Nat) : Nat := v / 2 ^ lo % 2 ^ w

/-- A copy request record (Table 11.2): the numbers of its fields. -/
structure CopyRec where
  fillv   : Nat
  ordered : Bool
  fill    : Bool
  cjnone  : Bool
  cjshm   : Bool
  cjcap   : Nat
  cjoff   : Nat
  dps     : Nat
  sps     : Nat
  drs     : Nat
  srs     : Nat
  planes  : Nat
  rows    : Nat
  rowb    : Nat
  dshm    : Bool
  dcap    : Nat
  doff    : Nat
  sshm    : Bool
  scap    : Nat
  soff    : Nat
  res     : Bool
  deriving DecidableEq, Repr

/-- Reads a record from its 512 bits; `res` says that a reserved bit is set (Table 11.2). -/
def CopyRec.ofNat (v : Nat) : CopyRec :=
  { fillv := bitsAt v 384 8, ordered := v.testBit 369, fill := v.testBit 368, cjnone := v.testBit 358, cjshm := v.testBit 357
    cjcap := bitsAt v 352 5, cjoff := bitsAt v 320 32, dps := bitsAt v 288 32, sps := bitsAt v 256 32, drs := bitsAt v 224 32
    srs := bitsAt v 192 32, planes := bitsAt v 176 16, rows := bitsAt v 160 16, rowb := bitsAt v 128 32
    dshm := v.testBit 117, dcap := bitsAt v 112 5, doff := bitsAt v 64 48, sshm := v.testBit 53, scap := bitsAt v 48 5
    soff := bitsAt v 0 48
    res := bitsAt v 392 120 != 0 || bitsAt v 370 14 != 0 || bitsAt v 359 9 != 0 || bitsAt v 118 10 != 0 || bitsAt v 54 10 != 0 }

/-- The extents of the two bounding ranges (R256). -/
def CopyRec.dstExt (r : CopyRec) : Nat := (r.planes - 1) * r.dps + (r.rows - 1) * r.drs + r.rowb
/-- The extent of the source's bounding range (R256). -/
def CopyRec.srcExt (r : CopyRec) : Nat := (r.planes - 1) * r.sps + (r.rows - 1) * r.srs + r.rowb

/-- The place that a record's side names: the object's byte, or the byte of the block's shared memory. -/
def sidePlace (w : WRef) (b : Block) (shm : Bool) (cap off : Nat) : Side × Nat :=
  if shm then (.shm w.core w.seq, off) else (.obj (b.cap cap).oid, (b.cap cap).lower.toNat + off)

/-- R75 for one side of a record; a side in shared memory raises only CAPBOUND (R257). -/
def sideChk (s : State) (b : Block) (shm : Bool) (cap off ext right : Nat) (info : Word) : Chk Unit :=
  if shm then trapIf (decide (b.image.shared < off + ext)) .capbound 0 info
  else do
    let c := b.cap cap
    trapIf (!s.usable b.part c) .capinvalid 0 info
    trapIf (!c.right right || !(match s.capObj c with | some o => o.kind == .data || o.kind == .scratch | none => false))
      .capright 0 info
    trapIf (decide (c.upper.toNat < c.lower.toNat + off + ext)) .capbound 0 info

/-- SHAPEREC 0x47: a field that must be zero is not. -/
def CopyRec.reserved (r : CopyRec) : Bool :=
  r.res || (r.fill && (r.soff != 0 || r.scap != 0 || r.sshm || r.srs != 0 || r.sps != 0)) ||
    (r.cjnone && (r.cjoff != 0 || r.cjcap != 0 || r.cjshm)) || (r.cjshm && r.cjcap != 0) || (r.dshm && r.dcap != 0) ||
    (r.sshm && r.scap != 0)

/-- SHAPEREC 0x44: both sides are in shared memory, or in one object that both capabilities name, and their ranges overlap. -/
def CopyRec.selfOverlap (r : CopyRec) (s : State) (w : WRef) (b : Block) : Bool :=
  let p := sidePlace w b r.sshm r.scap r.soff
  let q := sidePlace w b r.dshm r.dcap r.doff
  !r.fill && (r.sshm || s.usable b.part (b.cap r.scap)) && (r.dshm || s.usable b.part (b.cap r.dcap)) &&
    p.1 == q.1 && overlaps (p.2, p.2 + r.srcExt) (q.2, q.2 + r.dstExt)

/-- Table 11.3, orders 1 to 7: the subcode of the first failing check. -/
def CopyRec.shapeErr (r : CopyRec) (s : State) (w : WRef) (b : Block) : Option Nat :=
  if r.reserved then some 0x47
  else if r.rowb = 0 ∨ 2 ^ 30 < r.rowb then some 0x40
  else if r.rows = 0 ∨ r.planes = 0 then some 0x41
  else if 2 ^ 32 - 1 < r.rowb * r.rows * r.planes then some 0x42
  else if (1 < r.rows ∧ r.drs < r.rowb) ∨ (1 < r.planes ∧ r.dps < (r.rows - 1) * r.drs + r.rowb) then some 0x43
  else if r.selfOverlap s w b then some 0x44
  else if r.cjoff % 64 ≠ 0 then some 0x46
  else none

/-- The parts of a run of destination bytes, each inside one destination line and one source line; `fuel` bounds their number. -/
def runParts (fill : Byte) : Nat → Nat → Option Nat → Nat → List CopyPart
  | 0, _, _, _ => []
  | fuel + 1, dst, src, len =>
    if len = 0 then [] else
      let n := min (min len (64 - dst % 64)) (src.elim 64 fun o => 64 - o % 64)
      { dst := dst, len := n, src := src, bytes := if src.isNone then List.replicate n fill else [] } ::
        runParts fill fuel (dst + n) (src.map (· + n)) (len - n)

/-- The parts of a record (R256), from the first byte of each side. -/
def CopyRec.parts (r : CopyRec) (src : Option Nat) (dst : Nat) : List CopyPart :=
  (List.range r.planes).flatMap fun p => (List.range r.rows).flatMap fun q =>
    runParts (BitVec.ofNat 8 r.fillv) (r.rowb / 32 + 3) (dst + p * r.dps + q * r.drs)
      (src.map (· + p * r.sps + q * r.srs)) r.rowb

/-- The copy that a record starts. -/
def CopyRec.copy (r : CopyRec) (w : WRef) (b : Block) : Copy :=
  let p := sidePlace w b r.sshm r.scap r.soff
  let q := sidePlace w b r.dshm r.dcap r.doff
  { id := 0, seq := w.seq, uid := b.uid, entry := true
    srcSide := if r.fill then none else some p.1
    dstSide := q.1
    srcR := if r.fill then (0, 0) else (p.2, p.2 + r.srcExt)
    dstR := (q.2, q.2 + r.dstExt)
    todo := r.parts (if r.fill then none else some p.2) q.2
    cj := if r.cjnone then none else some (sidePlace w b r.cjshm r.cjcap r.cjoff)
    started := !r.ordered, kick := true }

/-- Two registered ranges conflict (R260): `k` is registered and `c` is new. -/
def conflicts (k c : Copy) : Bool :=
  k.entry && ((k.dstSide == c.dstSide && overlaps k.dstR c.dstR) ||
    (k.srcSide == some c.dstSide && overlaps k.srcR c.dstR) || (c.srcSide == some k.dstSide && overlaps k.dstR c.srcR))

/-- R257: the checks of one record in the order of Table 11.3; its copy. -/
def recordChk (s : State) (w : WRef) (b : Block) (i v : Nat) (earlier : List Copy) : Chk Copy := do
  let r := CopyRec.ofNat v
  let info := fun (x : Nat) => BitVec.ofNat 32 (65536 * i + x)
  match r.shapeErr s w b with
  | some x => .error { cause := .shaperec, lanes := 0, info := info x }
  | none => .ok ()
  if !r.fill then sideChk s b r.sshm r.scap r.soff r.srcExt 4 (info 0)
  sideChk s b r.dshm r.dcap r.doff r.dstExt 3 (info 1)
  if !r.cjnone then sideChk s b r.cjshm r.cjcap r.cjoff 64 1 (info 2)
  let c := r.copy w b
  trapIf (((s.core w.core).copies ++ earlier).any fun k => conflicts k c) .rangelock 0 (info 0)
  .ok c

/-- The records of a kick, in index order. -/
def recordsChk (s : State) (w : WRef) (b : Block) (sd : Side) : Nat → Nat → Nat → List Copy → Chk (List Copy)
  | 0, _, _, acc => .ok acc
  | n + 1, i, off, acc => do
    let c ← recordChk s w b i (s.readNat sd off 64) acc
    recordsChk s w b sd n (i + 1) (off + 64) (acc ++ [c])

/-- Free entries of a core's range-lock table (R260). -/
def freeEntries (s : State) (core : Nat) : Nat := 64 - ((s.core core).copies.filter (·.entry)).length

/-- Clears the presence bits of the destination lines of a copy (R252). -/
def clearDst (c : Copy) (s : State) : State :=
  clearPresence c.dstSide (c.todo.map fun p => p.dst / 64).eraseDups s

/-- Registers the records of a kick: each takes an entry, and an ordered one starts after the one before it (R273). -/
def registerCopies (core : Nat) : List Copy → Option Nat → State → State
  | [], _, s => s
  | c :: r, prev, s =>
    let id := s.nextId
    let c := { c with started := c.started || prev.isNone, after := if c.started then none else prev }
    registerCopies core r (some id) (clearDst c (addCopy core c s))

/-- CPKICK's address, in the lowest active lane: the records must be local (R273). -/
def kickAddr (o : MemOpd) (s : State) (l n : Nat) : Chk Unit := do
  if !o.shm then
    capChk s (laneBit l) o.cap [0] [.scratch]
    trapIf (s.homeOf (o.side s l) != some s.cur.core) .capright 0
  o.place s (laneBit l) (64 * n) 64

/-- CPKICK (R255 to R263, R273). Its accesses, the reading of its records among them, follow the earlier accesses of its thread (R259), so it is
held until those have been performed, and until the lines of its records are present (R247). -/
def execCpkick (c : Ctl) (o : OpsM) : State → Out :=
  let u := usesOf (.cpkick c o)
  let op := opdM o (o.m.sub == 1)
  issueT c u (fun act s => do
    s.shapeChk u act fun _ => .gen
    let l := (lanesOf act).headD 0
    let n := (s.src? u.ds l).toNat % 2 ^ 32
    trapIf (n == 0 || decide (16 < n)) .shaperec act 0x48
    onLanes act (kickAddr op s l n)
    match (holdEngine act s).or (holdPlaces false [(op.side s l, op.ea s l, 64 * n)] s) with
    | some s' => .ok s'
    | none =>
      let cs ← onLanes act (recordsChk s (s.wrefAt l) (s.blockAt l) (op.side s l) n 0 (op.ea s l) [])
      if cs.length ≤ freeEntries s s.cur.core then
        .ok ((registerCopies s.cur.core cs none s).startResults c act none [])
      else
        let id := s.nextId
        let s' := s.startOp c { id := 0, core := 0, mems := [], obj := 0, pc := 0, work := .kick cs }
        .ok (s'.modMembers (s'.cur.acting act) fun m w => w.modThreads m.lanes fun _ th => { th with wait := .copy id }))

/-- CPKICK_REGISTER: enough entries are free, so a parked kick registers its records (R263), after its threads' earlier stores and the core's volume
writes (R259); ranges that conflict by then raise RANGELOCK (R260). -/
def execCpkickRegister (k : Nat) (s : State) : Out :=
  .next (match s.op? k with
    | none => s
    | some o => match o.work with
      | .kick cs =>
        if freeEntries s o.core < cs.length || s.unreleased o.core o.mems then s
        else match cs.findIdx? fun c => (s.core o.core).copies.any fun x => conflicts x c with
          | some i =>
            let z := maskOf fun l => o.mems.any fun m => m.lanes.getLsbD l && ((s.warp m.w).thread l).wait == .copy k
            takeDeferred (raiseAt { cause := .rangelock, lanes := z, info := BitVec.ofNat 32 (65536 * i) } (o.group s)
              ((wakeOp k o.mems s).dropOp o))
          | none => (wakeOp k o.mems (registerCopies o.core cs none s)).modOp k fun o => { o with work := .results }
      | _ => s)

/-- The registered records that a block kicked, with the cores that they are registered on: the block may have moved since (R274, R275). -/
def kickedBy (s : State) (uid : Nat) : List (Nat × Copy) :=
  s.cores.flatMap fun ck => (ck.2.copies.filter fun k => k.entry && k.kick && k.uid == uid).map fun k => (ck.1, k)

/-- CPSTAT (R274): sampled at issue, and uniform. -/
def execCpstat (c : Ctl) (o : OpsV) : State → Out :=
  let u := usesOf (.cpstat c o)
  issueT c u (fun act s => do
    s.shapeChk u act fun _ => .uni
    let v := fun l => BitVec.ofNat 64 (if o.m.sub == 0 then freeEntries s s.cur.core else (kickedBy s (s.blockAt l).uid).length)
    .ok (s.startResults c act u.d (u.d.toList.flatMap fun d =>
      (s.cur.acting act).flatMap fun m => fieldWrites d v m (s.warp m.w))))

/-- The bytes that a cancelled part leaves: each keeps its old value or takes the copy's, a free choice where the copy could have read its source (R275, log
entry 5). -/
def cancelPart (core : Nat) (c : Copy) (p : CopyPart) (s : State) : State :=
  let old := s.readN c.dstSide p.dst p.len
  let new := (s.partBytes core c p).getD old
  let bs := (List.range p.len).map fun i => if Config.freeNat (s.free + i) % 2 = 0 then old.getD i 0 else new.getD i 0
  let s := if c.started then { s.writeN c.dstSide p.dst bs with free := s.free + p.len } else s
  let s := if c.sets then markPresent c.dstSide (p.dst / 64) s else s
  match c.cj with
  | some (sd, off) => engineCount sd off p.len s
  | none => s

/-- Stops one registered record of a core (R275). -/
def cancelCopy (core : Nat) (c : Copy) (s : State) : State :=
  let s := c.todo.foldl (fun s p => cancelPart core c p s) s
  s.modCore core fun k => { k with copies := k.copies.filter fun x => x.id != c.id }

/-- CPCANCEL (R275): the number of records stopped, uniform. -/
def execCpcancel (c : Ctl) (o : OpsV) : State → Out :=
  let u := usesOf (.cpcancel c o)
  issueT c u (fun act s => do
    s.shapeChk u act fun _ => .uni
    let v := fun l => BitVec.ofNat 64 (kickedBy s (s.blockAt l).uid).length
    let s' := (blocksOf (s.cur.acting act)).foldl (fun t cq =>
      (kickedBy t (t.block cq.1 cq.2).uid).foldl (fun t k => cancelCopy k.1 k.2 t) t) s
    .ok (s'.startResults c act u.d (u.d.toList.flatMap fun d =>
      (s.cur.acting act).flatMap fun m => fieldWrites d v m (s.warp m.w))))

/-- RLTEST (R276): a store there would raise RANGELOCK now; a lane that fails a check of R75 receives 0. -/
def execRltest (c : Ctl) (o : OpsMP) : State → Out :=
  let u := usesOf (.rltest c o)
  let op := opdP o (o.m.sub == 1)
  let k := tyBytes o.m.ty
  issueT c u (fun act s => do
    s.shapeChk u act fun _ => .gen
    let v := maskOf fun l => act.getLsbD l &&
      (match op.check s (laneBit l) k k [1] [.scratch] with | .ok () => true | .error _ => false) &&
      s.storeLocked s.cur.core (op.side s l) (op.ea s l) k
    .ok (s.startOp c { id := 0, core := 0, mems := [], obj := 0, pc := 0, marks := marksOf s.cur act none [o.p.val]
                       rws := (s.cur.acting act).map fun m => .pred m.w o.p.val m.lanes v }))

/-! ### CPIN and CPOUT (R277) -/

/-- The shared offset of a lane. -/
def lineOff (u : Uses) (s : State) (l : Nat) : Nat := (s.src? u.ds l).toNat % 2 ^ 32

/-- The checks of R277 in their order. -/
def lineChk (u : Uses) (op : MemOpd) (right : Nat) (dst : Nat → Side × Nat) (s : State) (act : Mask) : Chk Unit := do
  s.shapeChk u act fun _ => .gen
  op.check s act 64 64 [right] [.data, .scratch]
  failIn act .misalign fun l => lineOff u s l % 64 != 0
  failIn act .capbound fun l => decide ((s.blockAt l).image.shared < lineOff u s l + 64)
  failIn act .rangelock fun l => s.locked s.cur.core true (dst l).1 ((dst l).2, (dst l).2 + 64)

/-- The active lanes that are the highest to name their destination. -/
def lastLanes (act : Mask) (dst : Nat → Side × Nat) : List Nat :=
  (lanesOf act).filter fun l => !((lanesOf act).any fun k => decide (l < k) && dst k == dst l)

/-- CPIN (R277): complete when every lane's request is accepted. -/
def execCpin (c : Ctl) (o : OpsM) : State → Out :=
  let u := usesOf (.cpin c o)
  let op := opdM o false
  issueT c u (fun act s => do
    let dst := fun l => (({ shm := true, cap := 0, b := .zero, imm := 0 } : MemOpd).side s l, lineOff u s l)
    lineChk u op 4 dst s act
    match holdLines act (fun l => [dst l, (op.side s l, op.ea s l)]) s with
    | some s' => .ok s'
    | none =>
    let s' := (lastLanes act dst).foldl (fun t l =>
      let k : Copy := { id := 0, seq := (s.wrefAt l).seq, uid := (s.blockAt l).uid, entry := false, srcSide := some (op.side s l)
                        dstSide := (dst l).1, todo := [{ dst := (dst l).2, len := 64, src := some (op.ea s l) }] }
      clearDst k (addCopy s.cur.core k t)) s
    .ok (s'.startResults c act none []))

/-- CPOUT (R277): it reads its source lines as loads do, and completes when every write has been performed. -/
def execCpout (c : Ctl) (o : OpsM) : State → Out :=
  let u := usesOf (.cpout c o)
  let op := opdM o false
  issueT c u (fun act s => do
    let dst := fun l => (op.side s l, op.ea s l)
    lineChk u op 3 dst s act
    match holdLines act (fun l => [dst l]) s with
    | some s' => .ok s'
    | none =>
    .ok (startMem c act none [] ((lastLanes act dst).map fun l =>
      { w := s.wrefAt l, lanes := laneBit l, side := ({ shm := true, cap := 0, b := .zero, imm := 0 } : MemOpd).side s l
        off := lineOff u s l, n := 64, act := .copyOut (dst l).1 (dst l).2 }) s))

/-! ### The copy engine (R256 to R258, R262) -/

/-- The gate of a part of a copy: its source, its destination and its Conjunction object. A destination in SRAM is written at its home, before
the stores that its home holds until the line is present; a CPOUT's write waits there as a store does (R254, R277). -/
def partGate (s : State) (core : Nat) (c : Copy) (p : CopyPart) (seqd : Bool) : Gate :=
  let sram := fun (sd : Side) => (s.homeOf sd).isSome
  (match p.src, c.srcSide with
    | some o, some sd => s.runGate core sd o p.len false false seqd
    | _, _ => .ok).andThen
  ((if sram c.dstSide then (if !c.sets && s.absentAt c.dstSide p.dst p.len then Gate.wait else Gate.ok) else s.runGate core c.dstSide p.dst p.len true true seqd).andThen
  (match c.cj with
    | some (sd, off) => if sram sd then Gate.ok else s.gate core sd off 64 true true true seqd
    | none => .ok))

/-- Reports the page that a part of a copy cannot reach (R123). -/
def partAbort (core : Nat) (c : Copy) (p : CopyPart) (s : State) : State :=
  let w : WRef := { core := core, seq := c.seq, warp := 0 }
  match p.src, c.srcSide with
  | some o, some sd =>
    if s.runGate core sd o p.len false false false == .abort then abortAccess w sd o p.len s else abortAccess w c.dstSide p.dst p.len s
  | _, _ => abortAccess w c.dstSide p.dst p.len s

/-- Performs part `n` of a copy: the bytes are written, the presence bit of the line is set after the last of the copy's bytes
in it, the Conjunction object is counted down, and a record with no byte left completes (R252, R258, R262, R273). Of a copy with no count, nothing tells that the bytes of
a line still absent have arrived, so LDNP may read them as they were (R267). -/
def performPart (core : Nat) (c : Copy) (n : Nat) (p : CopyPart) (s : State) : State :=
  let bs := match p.src, c.srcSide with
    | some o, some sd => s.readN sd o p.len
    | _, _ => p.bytes
  let rest := c.todo.eraseIdx n
  let filled := !rest.any fun q => q.dst / 64 == p.dst / 64
  let kept := if filled then c.kept.filter fun e => e.1 / 64 != p.dst / 64
    else if c.sets && c.cj.isNone then c.kept ++ (s.readN c.dstSide p.dst p.len).mapIdx fun i b => (p.dst + i, b) else c.kept
  let s := s.writeN c.dstSide p.dst bs
  let left := fun (cs : List Copy) =>
    if rest.isEmpty then cs.filter fun x => x.id != c.id else cs.map fun x => if x.id == c.id then { x with todo := rest, kept := kept } else x
  let s := s.modCore core fun k => { k with copies := left k.copies }
  let s := if !c.sets || !filled then s else markPresent c.dstSide (p.dst / 64) s
  match c.cj with
  | some (sd, off) => engineCount sd off p.len s
  | none => s

/-- A part of a copy has come to its source line; where that is absent, the part waits for it (R256). -/
def findSource (core : Nat) (c : Copy) (n : Nat) (p : CopyPart) (s : State) : State :=
  match p.src, c.srcSide with
  | some o, some sd =>
    if (s.homeOf sd).isSome && s.absentAt sd o p.len then
      s.modCore core fun k => { k with copies := k.copies.map fun x => if x.id == c.id then { x with todo := x.todo.set n { p with here := true } } else x }
    else s
  | _, _ => s

/-- A part of a copy arrives, if its accesses may be performed. -/
def arrivePart (core k n : Nat) (seqd : Bool) (s : State) : State :=
  match (s.core core).copies.find? fun x => x.id == k with
  | none => s
  | some c =>
    match c.todo[n]? with
    | none => s
    | some p =>
      if !c.started then s
      else match partGate s core c p seqd with
        | .ok => performPart core c n p s
        | .abort => partAbort core c p s
        | _ => findSource core c n p s

/-- COPY_LINE_ARRIVAL (R252, R256, R258). -/
def execCopyLineArrival (core k n : Nat) (s : State) : Out := .next (arrivePart core k n false s)

/-- COPY_RECORD_START: an ordered record starts once the record before it has completed (R273). -/
def execCopyRecordStart (core k : Nat) (s : State) : Out :=
  let start := fun (cs : List Copy) (c : Copy) =>
    if c.id == k && (match c.after with | some a => !(cs.any fun y => y.id == a) | none => true) then { c with started := true } else c
  .next (s.modCore core fun x => { x with copies := x.copies.map (start x.copies) })

end Sys2Proof.Machine
end

