-- ==== Sys2Proof/Machine/Volume.lean ====
section
/-!
DEFINITION. Group 7, coordinate volumes (chapter 12): the layout of a volume and its pool, the walk, allocation and removal by the home
tile engine, each core's translations and tile lines, and the ten instructions with the engine's own steps.
-/
set_option autoImplicit false

namespace Sys2Proof.Machine

/-! ### Coordinates and layout (R279 to R283) -/

/-- A tile coordinate (R279). -/
structure TileAt where
  x : Nat
  y : Nat
  z : Nat
  deriving DecidableEq, Repr

/-- An axis is inside the range of R279. -/
def axisOk (x : Int) : Bool := decide (-524288 ≤ x) && decide (x ≤ 524287)
/-- The offset coordinate of an axis (R279). -/
def axisU (x : Int) : Nat := (x + 524288).toNat
/-- The tile of a coordinate (R279). -/
def tileAt (x y z : Int) : TileAt := { x := axisU x / 8, y := axisU y / 8, z := axisU z / 8 }
/-- The voxel index of a coordinate (R279). -/
def voxelAt (x y z : Int) : Nat := axisU x % 8 + 8 * (axisU y % 8) + 64 * (axisU z % 8)

/-- A 32-bit field of a volume's descriptor, by its first byte (Table 12.1). -/
def State.volField (s : State) (vol : BitVec 24) (off : Nat) : Nat := s.readNat (.obj vol) off 4
/-- Writes a 32-bit field of a volume's descriptor. -/
def State.putVolField (s : State) (vol : BitVec 24) (off v : Nat) : State := s.writeNat (.obj vol) off 4 v
/-- VSHIFT (Table 12.1). -/
def State.vshift (s : State) (vol : BitVec 24) : Nat := s.readNat (.obj vol) 7 1 % 8
/-- ETYPE (Table 12.1). -/
def State.etype (s : State) (vol : BitVec 24) : Nat := s.readNat (.obj vol) 6 1 % 16
/-- NCH (Table 12.1). -/
def State.nch (s : State) (vol : BitVec 24) : Nat := s.readNat (.obj vol) 6 1 / 16 + 1
/-- The tile pool of a volume (Table 12.1). -/
def State.poolOf (s : State) (vol : BitVec 24) : BitVec 24 := BitVec.ofNat 24 (s.readNat (.obj vol) 17 3)
/-- SLOT (Table 12.1). -/
def State.slotSize (s : State) (vol : BitVec 24) : Nat := s.volField vol 20

/-- The descriptor's byte offsets of the node and tile counts: free stack, high-water mark, count, total (Table 12.1). -/
structure CountAt where
  free  : Nat
  hwm   : Nat
  cnt   : Nat
  total : Nat
  deriving DecidableEq, Repr
/-- The counts of nodes. -/
def nodeCounts : CountAt := { free := 48, hwm := 40, cnt := 32, total := 24 }
/-- The counts of tiles. -/
def tileCounts : CountAt := { free := 52, hwm := 44, cnt := 36, total := 28 }

/-- The pool byte of node `n` (R282). -/
def nodeByte (n : Nat) : Nat := 4096 * n
/-- The pool byte of tile `t` (R282). -/
def State.tileByte (s : State) (vol : BitVec 24) (t : Nat) : Nat := 4096 * s.volField vol 24 + s.slotSize vol * t

/-- A node entry: VALID, BUSY and the child's pool byte (Table 12.2). -/
structure NodeEntry where
  valid : Bool
  busy  : Bool
  child : Nat
  deriving DecidableEq, Repr
/-- Reads a node entry. -/
def State.nodeEntry (s : State) (sd : Side) (off : Nat) : NodeEntry :=
  let v := s.readNat sd off 8
  { valid := v.testBit 63, busy := v.testBit 62, child := v % 2 ^ 32 * 64 }
/-- Writes a node entry. -/
def State.putNodeEntry (s : State) (sd : Side) (off : Nat) (e : NodeEntry) : State :=
  s.writeNat sd off 8 (e.child / 64 % 2 ^ 32 + (if e.busy then 2 ^ 62 else 0) + (if e.valid then 2 ^ 63 else 0))

/-! ### The walk (R284) -/

/-- The entry index of a tile coordinate at a level (R284). -/
def entryIndex (level : Nat) (t : TileAt) : Nat :=
  if level = 0 then bitsAt t.x 15 2 + 4 * bitsAt t.y 15 2 + 16 * bitsAt t.z 15 2
  else bitsAt t.x (15 - 3 * level) 3 + 8 * bitsAt t.y (15 - 3 * level) 3 + 64 * bitsAt t.z (15 - 3 * level) 3

/-- An access to the place meets PAGEABORT (R80). -/
def State.dead (s : State) (sd : Side) (off : Nat) : Bool :=
  match sd with
  | .obj oid => (s.obj? oid).any fun o => (o.page (o.pageKey off)).aborts
  | .shm _ _ => false

/-- Where a walk stops: the depth, the place of the entry it stopped at, whether it waits there (the entry is BUSY, or its page aborts), and the tile's
pool byte at depth 6. -/
structure Walk where
  depth : Nat
  side  : Side
  off   : Nat
  busy  : Bool
  tile  : Nat := 0
  deriving DecidableEq, Repr

/-- The walk from level `6 - fuel`, whose entries begin at byte `base` of a side, down to level `stop`. -/
def walkFrom (s : State) (pool : BitVec 24) (t : TileAt) (stop : Nat) : Nat → Side → Nat → Walk
  | 0, sd, base => { depth := 6, side := sd, off := base, busy := false, tile := base }
  | fuel + 1, sd, base =>
    let level := 5 - fuel
    let off := base + 8 * entryIndex level t
    let e := s.nodeEntry sd off
    if e.busy || s.dead sd off then { depth := level, side := sd, off := off, busy := true }
    else if !e.valid || level == stop then
      { depth := if e.valid then level + 1 else level, side := sd, off := off, busy := false, tile := e.child }
    else walkFrom s pool t stop fuel (.obj pool) e.child

/-- The walk of a tile coordinate of a volume (R284). -/
def State.walk (s : State) (vol : BitVec 24) (t : TileAt) : Walk := walkFrom s (s.poolOf vol) t 5 6 (.obj vol) 512
/-- The walk to the entry of one level. -/
def State.walkTo (s : State) (vol : BitVec 24) (t : TileAt) (level : Nat) : Walk := walkFrom s (s.poolOf vol) t level 6 (.obj vol) 512

/-! ### Allocation (R292) -/

/-- The slots left of a kind. -/
def State.slotsLeft (s : State) (vol : BitVec 24) (k : CountAt) : Nat := s.volField vol k.total - s.volField vol k.cnt

/-- Takes a slot: from the top of the free stack, or above the high-water mark; `byte` gives a slot's place (R292). The stack's links lie
in the first four bytes of the freed slots (log entry 6). -/
def takeSlot (vol : BitVec 24) (k : CountAt) (byte : Nat → Nat) (s : State) : Nat × State :=
  let f := s.volField vol k.free
  let s' := s.putVolField vol k.cnt (s.volField vol k.cnt + 1)
  if f = 0 then (s.volField vol k.hwm, s'.putVolField vol k.hwm (s.volField vol k.hwm + 1))
  else (f - 1, s'.putVolField vol k.free (s.readNat (.obj (s.poolOf vol)) (byte (f - 1)) 4))

/-- Pushes a freed slot on its free stack (R294). -/
def freeSlot (vol : BitVec 24) (k : CountAt) (byte : Nat → Nat) (n : Nat) (s : State) : State :=
  let s' := s.writeNat (.obj (s.poolOf vol)) (byte n) 4 (s.volField vol k.free)
  (s'.putVolField vol k.free (n + 1)).putVolField vol k.cnt (s.volField vol k.cnt - 1)

/-- The background voxel (R281). -/
def State.background (s : State) (vol : BitVec 24) : List Byte := s.readN (.obj vol) 64 (2 ^ s.vshift vol)

/-- A tile slot filled with the background and a zero mask (R292). -/
def freshTile (s : State) (vol : BitVec 24) : List Byte :=
  (List.replicate 512 (s.background vol)).flatten ++ List.replicate 64 0

/-- Allocates from level `5 - fuel` down, starting at the missing entry; the new tile's pool byte (R292). -/
def allocFrom (vol : BitVec 24) (t : TileAt) : Nat → Side → Nat → State → Nat × State
  | 0, sd, off, s =>
    let (n, s1) := takeSlot vol tileCounts (s.tileByte vol) s
    let b := s.tileByte vol n
    let s2 := s1.writeN (.obj (s.poolOf vol)) b (freshTile s vol)
    (b, s2.putNodeEntry sd off { valid := true, busy := false, child := b })
  | fuel + 1, sd, off, s =>
    let (n, s1) := takeSlot vol nodeCounts nodeByte s
    let pool := Side.obj (s.poolOf vol)
    let s2 := s1.writeN pool (nodeByte n) (List.replicate 4096 0)
    let s3 := s2.putNodeEntry sd off { valid := true, busy := false, child := nodeByte n }
    allocFrom vol t fuel pool (nodeByte n + 8 * entryIndex (5 - fuel) t) s3

/-- What the home engine answers for a tile (R291, R292): it waits on BUSY, fails with a TRINFO code, or gives the tile's pool
byte and whether it has been allocated now. -/
inductive AllocAns where
  | wait
  | fail (code : Nat)
  | tile (byte : Nat) (new : Bool) (s : State)

/-- The home engine finds or allocates a tile. -/
def homeTile (vol : BitVec 24) (t : TileAt) (s : State) : AllocAns :=
  let w := s.walk vol t
  if w.busy then .wait
  else if w.depth = 6 then .tile w.tile false s
  else if s.slotsLeft vol nodeCounts < 5 - w.depth then .fail 0
  else if s.slotsLeft vol tileCounts < 1 then .fail 1
  else
    let (b, s') := allocFrom vol t (5 - w.depth) w.side w.off s
    .tile b true s'

/-! ### Removal (R294) -/

/-- Frees the slots under an entry whose child lies at pool byte `child`: depth first, in ascending entry index; `h` levels of
nodes lie below. The count of tiles freed. -/
def freeUnder (vol : BitVec 24) : Nat → Nat → State → Nat × State
  | 0, child, s =>
    (1, freeSlot vol tileCounts (s.tileByte vol) ((child - s.tileByte vol 0) / s.slotSize vol) s)
  | h + 1, child, s =>
    let (n, s1) := (List.range 512).foldl (fun (a : Nat × State) i =>
      let e := a.2.nodeEntry (.obj (a.2.poolOf vol)) (child + 8 * i)
      if e.valid then
        let r := freeUnder vol h e.child a.2
        (a.1 + r.1, r.2)
      else a) (0, s)
    (n, freeSlot vol nodeCounts nodeByte (child / 4096) s1)

/-- A tile lies in the cube of the entry at a level of a coordinate's path (R284). -/
def inCube (level : Nat) (a b : TileAt) : Bool :=
  let d := 2 ^ (15 - 3 * level)
  a.x / d == b.x / d && a.y / d == b.y / d && a.z / d == b.z / d

/-! ### A core's translations and lines (R285 to R289) -/

/-- The tile of a CLB entry. -/
def Clb.at3 (e : Clb) : TileAt := { x := e.tx, y := e.ty, z := e.tz }

/-- A CLB entry that an access may use: one to a tile, or one to background filled after the thread's latest acquire (R288). -/
def State.clbFor (s : State) (core : Nat) (vol : BitVec 24) (t : TileAt) (acq : Nat) : Option Clb :=
  (s.core core).clb.find? fun e => e.vol == vol && e.at3 == t && (e.tile.isSome || decide (acq < e.at_))

/-- Two CLB entries lie in one of the 64 sets (R285). -/
def Clb.sameSet (a b : Clb) : Bool := Config.clbHash a.vol a.tx a.ty a.tz % 64 == Config.clbHash b.vol b.tx b.ty b.tz % 64

/-- Fills a CLB entry: in a full set of 8 ways the least recently used one is replaced (R285). -/
def fillClb (core : Nat) (e : Clb) (s : State) : State :=
  s.modCore core fun k =>
    let l := k.clb.filter fun x => !(x.vol == e.vol && x.at3 == e.at3)
    { k with clb := (if decide (l.length < 8) || decide ((l.filter e.sameSet).length < 8) then l
        else match l.findIdx? e.sameSet with | some i => l.eraseIdx i | none => l) ++ [e] }

/-- A CLB entry is used: it becomes the most recently used one. -/
def useClb (core : Nat) (e : Clb) (s : State) : State :=
  s.modCore core fun k => if k.clb.contains e then { k with clb := k.clb.filter (fun x => !(x == e)) ++ [e] } else k

/-- The slots that stay of a tile cache, with room for `n` bytes: the least recently used ones go. -/
def keepSlots (n : Nat) : List TSlot → List TSlot
  | [] => []
  | x :: r => if ((x :: r).map (·.size)).foldl (· + ·) 0 ≤ n then x :: r else keepSlots n r

/-- The bytes of a core's tile cache (R286). -/
def State.tcacheBytes (s : State) (core : Nat) : Nat :=
  match (s.core core).part with | some p => 65536 * (smGetD s.parts p {}).c | none => 1048576

/-- The slot of a tile in a core's tile cache: the one that caches it, which becomes the most recently used, or a new one; the CLB entries that name a
replaced slot are invalid (R286). -/
def giveSlot (core : Nat) (vol : BitVec 24) (t : TileAt) (tile : Nat) (s : State) : Nat × State :=
  match (s.core core).tcache.find? fun x => x.vol == vol && x.tile == tile with
  | some x => (x.id, s.modCore core fun k => { k with tcache := k.tcache.filter (fun y => y.id != x.id) ++ [x] })
  | none =>
    let x : TSlot := { id := s.nextId, vol := vol, tx := t.x, ty := t.y, tz := t.z, tile := tile, size := s.slotSize vol }
    let stay := keepSlots (s.tcacheBytes core - x.size) (s.core core).tcache
    (x.id, { s.modCore core (fun k => { k with
      tcache := stay ++ [x]
      clb := k.clb.filter fun e => e.slot.all fun i => stay.any fun y => y.id == i }) with nextId := s.nextId + 1 })

/-- Fills a CLB entry; one to a tile names the tile's slot (R285, R286). -/
def enterClb (core : Nat) (e : Clb) (s : State) : State :=
  match e.tile with
  | none => fillClb core e s
  | some b =>
    let x := giveSlot core e.vol e.at3 b s
    fillClb core { e with slot := some x.1 } x.2

/-- A slot holds a pool byte. -/
def TSlot.holds (x : TSlot) (vol : BitVec 24) (off : Nat) : Bool := x.vol == vol && decide (x.tile ≤ off) && decide (off < x.tile + x.size)

/-- A cached line, or the background voxel, that is present and fresh (R288). -/
def State.cachedLine (s : State) (core : Nat) (vol : BitVec 24) (off : Option Nat) (acq : Nat) : Option (List Byte) :=
  (match off with
    | none => smGet? (s.core core).bgs vol.toNat
    | some off => ((s.core core).tcache.find? fun (x : TSlot) => x.holds vol off).bind fun x => smGet? x.lines ((off - x.tile) / 64)).bind fun l =>
  if acq < l.at_ then some l.bytes else none

/-- The bytes of a pool line, or of the background voxel. -/
def State.lineBytes (s : State) (vol : BitVec 24) : Option Nat → List Byte
  | some off => s.readN (.obj (s.poolOf vol)) off 64
  | none => s.background vol

/-- The translation to the tile that holds a pool line, of those that a lane has. -/
def VLane.holder (ln : VLane) (size off : Nat) : Option (Clb × Nat) :=
  ln.tr.findSome? fun e => e.tile.bind fun b => if decide (b ≤ off) && decide (off < b + size) then some (e, b) else none

/-- Fetches a line for a lane: into the tile's slot, or the background voxel (R286, R288). A write that the core sends to an allocated tile is performed at once,
so no fetch waits for one. -/
def fetchLine (core : Nat) (ln : VLane) (off : Option Nat) (s : State) : State :=
  let s := { s with clock := s.clock + 1 }
  let l : TLine := { bytes := s.lineBytes ln.vol off, at_ := s.clock }
  match off with
  | none => s.modCore core fun k => { k with bgs := smSet k.bgs ln.vol.toNat l }
  | some off => match ln.holder (s.slotSize ln.vol) off with
    | none => s
    | some (e, b) =>
      let x := giveSlot core ln.vol e.at3 b s
      x.2.modCore core fun k => { k with tcache := k.tcache.map fun y =>
        if y.id == x.1 then { y with lines := smSet y.lines ((off - b) / 64) l } else y }

/-- A write of the core updates the line of the volume if it caches it (R289). -/
def refreshLine (core : Nat) (vol : BitVec 24) (off : Nat) (s : State) : State :=
  let b := s.lineBytes vol (some off)
  let new := fun (y : TSlot) =>
    if y.holds vol off then { y with lines := y.lines.map fun l => if l.1 == (off - y.tile) / 64 then (l.1, { l.2 with bytes := b }) else l } else y
  s.modCore core fun k => { k with tcache := k.tcache.map new }

/-- The slots that hold some pool bytes become the most recently used. -/
def useSlots (core : Nat) (vol : BitVec 24) (offs : List Nat) (s : State) : State :=
  if offs.isEmpty then s else s.modCore core fun k =>
    let used : TSlot → Bool := fun x => offs.any fun o => x.holds vol o
    { k with tcache := k.tcache.filter (fun x => !used x) ++ k.tcache.filter used }

/-! ### What a lane needs and does (R287, R299 to R304) -/

/-- The neighbours of a coordinate inside the range, with their bit numbers (R301). -/
def neighbours (ln : VLane) : List (Nat × Int × Int × Int) :=
  (List.range 27).filterMap fun b =>
    let x := ln.x + ((b % 3 : Nat) : Int) - 1
    let y := ln.y + ((b / 3 % 3 : Nat) : Int) - 1
    let z := ln.z + ((b / 9 : Nat) : Int) - 1
    if axisOk x && axisOk y && axisOk z then some (b, x, y, z) else none

/-- The tiles whose translation a lane needs. -/
def VReq.tiles (r : VReq) (ln : VLane) : List TileAt :=
  if r.op = 4 then ((neighbours ln).map fun b => tileAt b.2.1 b.2.2.1 b.2.2.2).eraseDups
  else if r.op = 7 ∨ r.op = 8 ∨ r.op = 9 ∨ r.op = 10 then []
  else [tileAt ln.x ln.y ln.z]

/-- The first lane and tile of a request whose translation has not been found. -/
def firstMiss (r : VReq) : Option (VLane × TileAt) :=
  r.todo.findSome? fun ln => ((r.tiles ln).find? fun t => !(ln.tr.any fun e => e.at3 == t)).map fun t => (ln, t)

/-- The translation that a lane holds for a tile: the tile's pool byte, or none for background. -/
def VLane.tile (ln : VLane) (t : TileAt) : Option Nat :=
  match ln.tr.find? fun e => e.at3 == t with | some e => e.tile | none => none

/-- The line of the occupancy mask of a tile (R282). -/
def maskLine (s : State) (vol : BitVec 24) (tile : Nat) : Nat := tile + 512 * 2 ^ s.vshift vol
/-- The first byte of a voxel in its tile (R282). -/
def voxelByte (s : State) (ln : VLane) (tile : Nat) : Nat := tile + 2 ^ s.vshift ln.vol * voxelAt ln.x ln.y ln.z

/-- The lines that a lane reads. -/
def VReq.lines (r : VReq) (s : State) (ln : VLane) : List (Option Nat) :=
  match r.op with
  | 0 => match ln.tile (tileAt ln.x ln.y ln.z) with
    | some t => [some (voxelByte s ln t / 64 * 64)]
    | none => [none]
  | 4 => ((neighbours ln).filterMap fun b => (ln.tile (tileAt b.2.1 b.2.2.1 b.2.2.2)).map fun t => some (maskLine s ln.vol t)).eraseDups
  | 10 => [none]
  | _ => []

/-- A line as a lane reads it: fetched for it, or cached and fresh. -/
def State.laneLine (s : State) (core : Nat) (ln : VLane) (line : Option Nat) : Option (List Byte) :=
  ((ln.got.find? fun x => x.1 == line).map (·.2)).or (s.cachedLine core ln.vol line ln.acq)

/-- The first line that a lane of a request lacks. -/
def laneLacks (s : State) (core : Nat) (r : VReq) (ln : VLane) : Option (Option Nat) :=
  (r.lines s ln).find? fun o => (s.laneLine core ln o).isNone

/-- The first line that a lane of a request lacks, with the lane. -/
def firstLine (s : State) (core : Nat) (r : VReq) : Option (VLane × Option Nat) :=
  r.todo.findSome? fun ln => (laneLacks s core r ln).map fun o => (ln, o)

/-- The number of a run of a line's bytes, as a lane reads it. -/
def State.fromLine (s : State) (core : Nat) (ln : VLane) (line : Option Nat) (off n : Nat) : Nat :=
  leNat ((((s.laneLine core ln line).getD []).drop off).take n)

/-- The places that a request accesses next: of its walk, of a line that a lane reads or writes, or of the home engine's walk. -/
def volPlaces (s : State) (r : VReq) : List (Side × Nat) :=
  let walked := fun (w : Walk) => if w.busy then [(w.side, w.off)] else []
  let lane := fun (ln : VLane) =>
    let t := tileAt ln.x ln.y ln.z
    match r.op, ln.tile t with
    | 1, some b | 2, some b => [(Side.obj (s.poolOf ln.vol), voxelByte s ln b), (Side.obj (s.poolOf ln.vol), maskLine s ln.vol b)]
    | 1, none | 2, none | 6, none => walked (s.walk ln.vol t)
    | 7, _ | 8, _ => walked (s.walkTo ln.vol t r.level)
    | 9, _ => [(Side.obj ln.vol, 64)]
    | _, _ => (r.lines s ln).map fun o => match o with | some off => (Side.obj (s.poolOf ln.vol), off) | none => (Side.obj ln.vol, 64)
  match firstMiss r with
  | some (ln, t) => walked (s.walk ln.vol t)
  | none => r.todo.flatMap lane

/-- The place of an access of a request that meets PAGEABORT. -/
def volStuck (s : State) (r : VReq) : Option (Side × Nat) := (volPlaces s r).find? fun p => s.dead p.1 p.2

/-- The register writes of channels `c` onward, whose values are `v` (R297). -/
def chanWrites (s : State) (r : VReq) (ln : VLane) (v : Nat → Nat) : List RW :=
  match dstReg r.d with
  | none => []
  | some d => (List.range r.n).flatMap fun j =>
    let k := if tyBytes r.ty = 8 then 2 else 1
    regWrites s ln.w (laneBit ln.lane) (d + j * k) k (if r.ty.isInt then extBits r.ty (v j) else v j)

/-- A one-word result of a lane. -/
def wordWrite (s : State) (r : VReq) (ln : VLane) (v : Nat) : List RW :=
  match dstReg r.d with
  | none => []
  | some d => regWrites s ln.w (laneBit ln.lane) d 1 v

/-- VST and VADD of one lane into its tile: the channels and the occupancy bit, in one step (R293, R299, R300). -/
def writeVoxel (core : Nat) (r : VReq) (ln : VLane) (tile : Nat) (s : State) : State :=
  let pool := Side.obj (s.poolOf ln.vol)
  let e := tyBytes r.ty
  let vb := voxelByte s ln tile
  let s1 := (List.range r.n).foldl (fun t j =>
    let a := vb + (r.c + j) * e
    let x := ln.vals.getD j 0
    t.writeNat pool a e (if r.op = 2 then vsum r.ty r.sat (BitVec.ofNat 64 (t.readNat pool a e)) x else x).toNat) s
  let v := voxelAt ln.x ln.y ln.z
  let mb := maskLine s ln.vol tile + v / 8
  let s2 := s1.writeNat pool mb 1 (s1.readNat pool mb 1 ||| 2 ^ (v % 8))
  refreshLine core ln.vol (maskLine s ln.vol tile) (refreshLine core ln.vol (vb / 64 * 64) s2)

/-- VNBR's mask (R301). -/
def nbrMask (s : State) (core : Nat) (ln : VLane) : Nat :=
  (neighbours ln).foldl (fun m b =>
    let v := voxelAt b.2.1 b.2.2.1 b.2.2.2
    match ln.tile (tileAt b.2.1 b.2.2.1 b.2.2.2) with
    | some t => if (s.fromLine core ln (some (maskLine s ln.vol t)) (v / 8) 1).testBit (v % 8) then m + 2 ^ b.1 else m
    | none => m) 0

/-- The copy of a VTLD: the tile's lines, or the background and a zero mask (R302). -/
def tileCopy (s : State) (ln : VLane) (off : Nat) : Copy :=
  let slot := s.slotSize ln.vol
  let uid := (s.block ln.w.core ln.w.seq).uid
  let dst := Side.shm ln.w.core ln.w.seq
  let bg := freshTile s ln.vol
  match ln.tile (tileAt ln.x ln.y ln.z) with
  | some t =>
    { id := 0, seq := ln.w.seq, uid := uid, entry := false, srcSide := some (.obj (s.poolOf ln.vol)), dstSide := dst
      todo := (List.range (slot / 64)).map fun i => { dst := off + 64 * i, len := 64, src := some (t + 64 * i) } }
  | none =>
    { id := 0, seq := ln.w.seq, uid := uid, entry := false, srcSide := none, dstSide := dst
      todo := (List.range (slot / 64)).map fun i => { dst := off + 64 * i, len := 64, bytes := (bg.drop (64 * i)).take 64 } }

/-- A result named uniform, in the lanes of the mask that the request carries (R303). -/
def uniWrites (s : State) (o : LongOp) (r : VReq) (ln : VLane) (v : Nat) : List RW :=
  match dstReg r.d with
  | none => []
  | some d => (o.mems.map fun m => ({ m with lanes := m.lanes &&& (ln.vals.getD 0 0).setWidth 32 } : Member)).flatMap fun m =>
      if m.lanes == 0 then [] else regWrites s m.w m.lanes d 1 v

/-- Performs a lane of a request whose translations are resolved, if nothing is missing: the state and the register writes. A lane that only the home engine can perform is left (R287, R291). -/
def performLane (core : Nat) (r : VReq) (ln : VLane) (s : State) : Option (State × List RW) :=
  if (laneLacks s core r ln).isSome || (volStuck s { r with todo := [ln] }).isSome then none else
  let s := useSlots core ln.vol ((r.lines s ln).filterMap id) s
  let t := tileAt ln.x ln.y ln.z
  let e := tyBytes r.ty
  match r.op with
  | 0 => match ln.tile t with
    | some b =>
      let vb := voxelByte s ln b
      some (s, chanWrites s r ln fun j => s.fromLine core ln (some (vb / 64 * 64)) (vb % 64 + (r.c + j) * e) e)
    | none => some (s, chanWrites s r ln fun j => s.fromLine core ln none ((r.c + j) * e) e)
  | 1 | 2 => (ln.tile t).map fun b => (writeVoxel core r ln b (useSlots core ln.vol [voxelByte s ln b] s), [])
  | 3 => some (s, wordWrite s r ln (match ln.tr.find? fun x => x.at3 == t with | some x => x.depth | none => 0))
  | 4 => some (s, wordWrite s r ln (nbrMask s core ln))
  | 5 => some (addCopy core (tileCopy s ln (ln.vals.getD 0 0).toNat) s, [])
  | 6 => (ln.tile t).map fun _ => (s, wordWrite s r ln 0)
  | 10 => some (s, chanWrites s r ln fun j => s.fromLine core ln none ((r.c + j) * e) e)
  | _ => none

/-- Performs the lanes of a request in ascending order, but for those that wait for a line or for the home engine: the lanes left, and the register
writes. A lane that finds its tile allocated waits for no other lane's allocation; those that name one voxel hold one translation, and stay in order (R291,
R293). -/
def runLanes (core : Nat) (r : VReq) : List VLane → State → State × List VLane × List RW
  | [], s => (s, [], [])
  | ln :: rest, s =>
    match performLane core r ln s with
    | none =>
      let x := runLanes core r rest s
      (x.1, ln :: x.2.1, x.2.2)
    | some (s1, rw) =>
      let x := runLanes core r rest s1
      (x.1, x.2.1, rw ++ x.2.2)

/-- The translations that the CLB has for the tiles of a lane. -/
def laneClb (s : State) (core : Nat) (r : VReq) (ln : VLane) : List Clb := (r.tiles ln).filterMap fun t => s.clbFor core ln.vol t ln.acq

/-- Takes the translations that the CLB has; once every lane's are there, the request's accesses are sent (R287). -/
def resolve (s : State) (core : Nat) (r : VReq) : VReq :=
  if r.sent then r
  else
    let r := { r with todo := r.todo.map fun ln =>
      let l := laneClb s core r ln
      { ln with tr := l ++ ln.tr.filter fun e => !(l.any fun x => x.at3 == Clb.at3 e) } }
    { r with sent := (firstMiss r).isNone }

/-- A volume request that has no lane left: its results are formed, or VOLFULL is raised in the lanes that failed, after every older instruction
(R61, R298). -/
def finishVol (o : LongOp) (r : VReq) (s : State) : State :=
  match r.fails with
  | [] => (wakeOp o.id o.mems s).modOp o.id fun o => { o with work := .results }
  | f :: _ =>
    let t : TrapReq := { cause := .volfull, lanes := maskOf fun l => r.fails.any fun x => x.1 == l, info := BitVec.ofNat 32 f.2 }
    takeDeferred (raiseAt t (o.group s) ((o.rws.foldl deliver (wakeOp o.id o.mems s)).dropOp o))

/-- Carries a volume request on as far as it goes. -/
def runVol (id : Nat) (s : State) : State :=
  match s.op? id with
  | none => s
  | some o => match o.work with
    | .vol r0 =>
      let r := resolve s o.core r0
      let s := if r.sent && !r0.sent then wakeOp id o.mems s else s
      let s := if r0.sent then s else (r0.todo.flatMap (laneClb s o.core r0)).foldl (fun s e => useClb o.core e s) s
      let x := if r.sent then runLanes o.core r r.todo s else (s, r.todo, [])
      let r1 := { r with todo := x.2.1 }
      let s2 := x.1.modOp id fun o => { o with work := .vol r1, rws := o.rws ++ x.2.2 }
      if r1.todo.isEmpty then (match s2.op? id with | some o => finishVol o r1 s2 | none => s2) else s2
    | _ => s

/-! ### Issue (R296 to R298) -/

/-- The coordinate of a lane: B, B + 1, B + 2 read as i32 (R296). -/
def coordOf (s : State) (b : VReg) (l : Nat) : Int × Int × Int :=
  ((s.srcMore b 0 l).toInt, (s.srcMore b 1 l).toInt, (s.srcMore b 2 l).toInt)

/-- Checks 2 of R298: the capability names a whole volume with the rights. -/
def volCapChk (s : State) (act : Mask) (cap : Nat) (rights : List Nat) : Chk Unit := do
  capChk s act cap rights [.volume]
  failIn act .capbound fun l =>
    let c := (s.blockAt l).cap cap
    c.lower != 0 || (match s.capObj c with | some o => c.upper.toNat != o.size | none => true)

/-- Check 3 of R298. -/
def coordChk (s : State) (act : Mask) (b : VReg) : Chk Unit :=
  failIn act .volcoord (fun l =>
    let p := coordOf s b l
    !(axisOk p.1 && axisOk p.2.1 && axisOk p.2.2)) 1

/-- The volume that a lane names. -/
def volAt (s : State) (cap l : Nat) : BitVec 24 := ((s.blockAt l).cap cap).oid

/-- Check 4 of R298. -/
def typeChk (s : State) (act : Mask) (cap : Nat) (t : Ty) (c n : Nat) : Chk Unit := do
  failIn act .volcoord (fun l => s.etype (volAt s cap l) != t.enc.toNat) 3
  failIn act .volcoord (fun l => decide (s.nch (volAt s cap l) < c + n)) 2

/-- The thread of a lane. -/
def State.threadAt (s : State) (l : Nat) : Thread := (s.warpAt l).thread l

/-- The lanes of a request, with their data. -/
def volLanes (s : State) (act : Mask) (cap : Nat) (b : VReg) (vals : Nat → List (BitVec 64)) : List VLane :=
  (lanesOf act).map fun l =>
    let p := coordOf s b l
    { w := s.wrefAt l, lane := l, vol := volAt s cap l, x := p.1, y := p.2.1, z := p.2.2, vals := vals l, acq := (s.threadAt l).acq }

/-- Starts a volume request: LA is 0 (R296), and the threads park until every translation is resolved (R287). -/
def startVol (c : Ctl) (act : Mask) (d : Option Fld) (r : VReq) (s : State) : State :=
  let id := s.nextId
  let s := s.startOp { c with la := 0 } { id := 0, core := 0, mems := [], obj := 0, pc := 0, marks := marksOf s.cur act d [], work := .vol r }
  let s := s.modMembers (s.cur.acting act) fun m w => w.modThreads m.lanes fun _ th => { th with wait := .load id }
  runVol id s

/-- Registers for each channel of a type. -/
def chanRegs (m : Mods) : Nat := (m.sub.toNat + 1) * (if tyBytes m.ty = 8 then 2 else 1)

/-- The data of channel `j` of a lane; a special value of the field stands for every channel (R297, R497). -/
def chanVal (s : State) (m : Mods) (d : VReg) (l j : Nat) : BitVec 64 :=
  match d with
  | .v _ => if tyBytes m.ty = 8 then s.srcMore d (2 * j + 1) l ++ s.srcMore d (2 * j) l else (s.srcMore d j l).setWidth 64
  | _ => s.src { r := d, wide := decide (tyBytes m.ty = 8) } l

/-- The data of every channel of a lane. -/
def chanVals (s : State) (m : Mods) (d : VReg) (l : Nat) : List (BitVec 64) := (List.range (m.sub.toNat + 1)).map (chanVal s m d l)

/-- The lowest active lane alone, for an instruction that acts once for the group. -/
def lowest (act : Mask) : Mask := match lanesOf act with | l :: _ => laneBit l | [] => 0

/-- The group 7 instructions that act on each active lane. -/
def volOp (c : Ctl) (u : Uses) (o : OpsM) (op : Nat) (rights : List Nat) (typed : Bool) : State → Out :=
  issueT c u (fun act s => do
    let n := o.m.sub.toNat + 1
    let ch := o.m.imm.toNat % 16
    s.reachChk o.b 3 [.gen, .aff, .uni] act
    s.reachChk o.d (if typed then chanRegs o.m else 1) [.gen] act
    s.shapeChk u act fun _ => .gen
    volCapChk s act o.cap.toNat rights
    coordChk s act o.b
    if typed then typeChk s act o.cap.toNat o.m.ty ch n
    .ok (startVol c act u.d
      { op := op, ty := o.m.ty, sat := o.m.sat, c := ch, n := n, d := o.d
        todo := volLanes s act o.cap.toNat o.b fun l => if op = 1 ∨ op = 2 then chanVals s o.m o.d l else [] } s))

/-- VLD (R299). -/
def execVld (c : Ctl) (o : OpsM) : State → Out := volOp c (usesOf (.vld c o)) o 0 [0, 6] true
/-- VST (R299). -/
def execVst (c : Ctl) (o : OpsM) : State → Out := volOp c (usesOf (.vst c o)) o 1 [1, 6] true
/-- VADD (R299, R300). -/
def execVadd (c : Ctl) (o : OpsM) : State → Out := volOp c (usesOf (.vadd c o)) o 2 [0, 1, 6] true
/-- VPROBE (R301). -/
def execVprobe (c : Ctl) (o : OpsM) : State → Out := volOp c (usesOf (.vprobe c o)) o 3 [0, 6] false
/-- VNBR (R301). -/
def execVnbr (c : Ctl) (o : OpsM) : State → Out := volOp c (usesOf (.vnbr c o)) o 4 [0, 6] false
/-- VALLOC (R303). -/
def execValloc (c : Ctl) (o : OpsM) : State → Out := volOp c (usesOf (.valloc c o)) o 6 [1, 6] false
/-- VFREE (R303). -/
def execVfree (c : Ctl) (o : OpsM) : State → Out := volOp c (usesOf (.vfree c o)) o 7 [1, 6] false

/-- VTLD (R302): once for the group; the presence bits of its lines are cleared at issue, once what its warp did before has reached them (R250, R365). -/
def execVtld (c : Ctl) (o : OpsM) : State → Out :=
  let u := usesOf (.vtld c o)
  issueT c u (fun act s => do
    s.reachChk o.b 3 [.gen, .aff, .uni] act
    s.shapeChk u act fun _ => .gen
    let a := lowest act
    volCapChk s a o.cap.toNat [0, 6]
    coordChk s a o.b
    let off := fun l => (s.src? u.ds l).toNat % 2 ^ 32
    let slot := fun l => s.slotSize (volAt s o.cap.toNat l)
    let shm := fun l => Side.shm (s.wrefAt l).core (s.wrefAt l).seq
    failIn a .misalign fun l => off l % 64 != 0
    failIn a .capbound fun l => decide ((s.blockAt l).image.shared < off l + slot l)
    failIn a .rangelock fun l => s.locked s.cur.core true (shm l) (off l, off l + slot l)
    let l := (lanesOf act).headD 0
    match holdLines a (fun l => (linesOf (off l) (slot l)).map fun n => (shm l, 64 * n)) s with
    | some s' => .ok s'
    | none =>
    let s' := clearPresence (shm l) (linesOf (off l) (slot l)) s
    .ok (startVol c act none
      { op := 5, ty := o.m.ty, d := .zero, todo := volLanes s a o.cap.toNat o.b fun l => [BitVec.ofNat 64 (off l)] } s'))

/-- VSHOOT (R303): once for the group; its result is uniform. -/
def execVshoot (c : Ctl) (o : OpsM) : State → Out :=
  let u := usesOf (.vshoot c o)
  issueT c u (fun act s => do
    s.reachChk o.b 3 [.gen, .aff, .uni] act
    s.shapeChk u act fun _ => .uni
    let a := lowest act
    volCapChk s a o.cap.toNat [1, 6]
    coordChk s a o.b
    .ok (startVol c act u.d
      { op := 8, ty := o.m.ty, d := o.d, level := o.m.imm.toNat % 8, todo := volLanes s a o.cap.toNat o.b fun _ => [act.setWidth 64] } s))

/-- R297, R304: the destinations of VBGRD.GET are all general or all uniform. -/
def bgShapes (s : State) (act : Mask) (d : VReg) (n : Nat) : Chk Unit :=
  match d with
  | .v r => trapIf (!(s.cur.acting act).all fun m => (List.range n).all fun j =>
      (s.warp m.w).cls (r.val + j) == (s.warp m.w).cls r.val) .regshape act
  | _ => .ok ()

/-- VBGRD.GET and VBGRD.SET (R304). SET is a release at device scope, so it waits for what its thread and its core did before (R370). -/
def execVbgrd (c : Ctl) (o : OpsM) : State → Out :=
  let u := usesOf (.vbgrd c o)
  let set := o.m.imm.getLsbD 8
  issueT c u (fun act s => do
    let n := o.m.sub.toNat + 1
    let ch := o.m.imm.toNat % 16
    s.reachChk o.d (chanRegs o.m) (if set then [.gen] else [.gen, .uni]) act
    s.shapeChk u act fun _ => .uni
    if !set then bgShapes s act o.d (chanRegs o.m)
    let a := if set then lowest act else act
    volCapChk s a o.cap.toNat (if set then [1, 6] else [0, 6])
    typeChk s a o.cap.toNat o.m.ty ch n
    .ok (match if set then holdRelease act s else none with
    | some s' => s'
    | none => startVol c act u.d
      { op := if set then 9 else 10, ty := o.m.ty, c := ch, n := n, d := o.d
        todo := volLanes s a o.cap.toNat o.b fun l => if set then chanVals s o.m o.d l else [] } s))

/-! ### The engines' steps -/

/-- The volume request of an outstanding instruction. -/
def State.volReq? (s : State) (k : Nat) : Option (LongOp × VReq) :=
  match s.op? k with
  | some o => match o.work with | .vol r => some (o, r) | _ => none
  | none => none

/-- Replaces the request of an outstanding instruction and carries it on. -/
def putVol (k : Nat) (r : VReq) (rws : List RW) (s : State) : State :=
  runVol k (s.modOp k fun o => { o with work := .vol r, rws := o.rws ++ rws })

/-- The CLB entry that a finished walk gives. -/
def clbOf (vol : BitVec 24) (t : TileAt) (w : Walk) (clock : Nat) : Clb :=
  { vol := vol, tx := t.x, ty := t.y, tz := t.z, tile := if w.depth = 6 then some w.tile else none, depth := w.depth, at_ := clock }

/-- An engine's step for a volume request; a request that meets PAGEABORT reports it, and waits (R80, R432). -/
def volStep (k : Nat) (f : LongOp → VReq → State → State) (s : State) : Out :=
  .next (match s.volReq? k with
    | none => s
    | some (o, r) => match volStuck s r with
      | none => f o r s
      | some p => match o.mems with
        | m :: _ => abortAccess m.w p.1 p.2 1 s
        | [] => s)

/-- CLB_WALK (R285): the walk for the first translation that a request lacks; it waits on BUSY (R284). -/
def execClbWalk (k : Nat) : State → Out := volStep k fun o r s =>
  if r.sent then runVol k s else
  match firstMiss (resolve s o.core r) with
  | none => runVol k s
  | some (ln, t) =>
    let w := s.walk ln.vol t
    if w.busy then s else
      let s := { s with clock := s.clock + 1 }
      runVol k (enterClb o.core (clbOf ln.vol t w s.clock) s)

/-- TILE_LINE_FETCH (R287): the first line that a lane of a request lacks. -/
def execTileLineFetch (k : Nat) : State → Out := volStep k fun o r s =>
  if !r.sent then s else
  match firstLine s o.core r with
  | none => runVol k s
  | some (ln, off) =>
    putVol k { r with todo := r.todo.map fun x => if x == ln then { x with got := x.got ++ [(off, s.lineBytes ln.vol off)] } else x } []
      (fetchLine o.core ln off s)

/-- The home engine's answer is entered in the core's CLB, so that its later accesses see the tile (R289). -/
def noteTile (core : Nat) (vol : BitVec 24) (t : TileAt) (byte : Nat) (s : State) : State :=
  let s := { s with clock := s.clock + 1 }
  enterClb core { vol := vol, tx := t.x, ty := t.y, tz := t.z, tile := some byte, depth := 6, at_ := s.clock } s

/-- The home engine of a volume has no removal under way: it makes its changes one at a time (R291). -/
def engineFree (s : State) (vol : BitVec 24) : Bool :=
  s.ops.all fun o => match o.work with
    | .vol r => !r.busy || (match r.todo with | ln :: _ => ln.vol != vol | [] => true)
    | _ => true

/-- The first lane of a request that only the home engine can perform (R291). -/
def engineLane (r : VReq) : Option VLane := r.todo.find? fun ln => (ln.tile (tileAt ln.x ln.y ln.z)).isNone

/-- The lanes of a request that name the tile of a lane, that lane the first. -/
def VReq.mates (r : VReq) (ln : VLane) : List VLane :=
  r.todo.filter fun x => x.vol == ln.vol && tileAt x.x x.y x.z == tileAt ln.x ln.y ln.z

/-- A word to `ln`, and 0 to the other lanes of a list: of those that name one tile, only the lowest may receive 1 (R303). -/
def mateWrites (s : State) (r : VReq) (ln : VLane) (v : Nat) (l : List VLane) : List RW :=
  l.flatMap fun x => wordWrite s r x (if x == ln then v else 0)

/-- TILE_ALLOCATION (R291, R292): the home engine handles the next lane of a VST, VADD or VALLOC; the lanes of a VALLOC that name one tile together
(R303). -/
def execTileAllocation (k : Nat) : State → Out := volStep k fun o r s =>
  match engineLane r with
  | none => s
  | some ln =>
    let t := tileAt ln.x ln.y ln.z
    if !r.sent || !([1, 2, 6].contains r.op) || !(engineFree s ln.vol) then s else
    let l := if r.op = 6 then r.mates ln else [ln]
    let r' := { r with todo := r.todo.filter fun x => !l.contains x }
    match homeTile ln.vol t s with
    | .wait => s
    | .fail code => putVol k { r' with fails := r.fails ++ l.map fun x => (x.lane, code) } [] s
    | .tile b new s' =>
      let s' := noteTile o.core ln.vol t b s'
      if r.op = 6 then putVol k r' (mateWrites s r ln (if new then 1 else 0) l) s'
      else putVol k r' [] (writeVoxel o.core r ln b s')

/-- The cores whose CLB must acknowledge a mark: every core of the module that may hold an entry, as one of a partition or as one that has run (R294). -/
def State.enabledCores (s : State) : List Nat :=
  ((s.parts.flatMap fun p => p.2.cores) ++ s.cores.map (·.1)).eraseDups

/-- TILE_REMOVAL (R294): the home engine takes the next lane of a VFREE or VSHOOT: it sets BUSY and clears VALID, or the lane, and those that name
its tile, are done where nothing is allocated. -/
def execTileRemoval (k : Nat) : State → Out := volStep k fun o r s =>
  match r.todo with
  | [] => s
  | ln :: _ =>
    if !(r.op == 7 || r.op == 8) || !(engineFree s ln.vol) then s else
    let w := s.walkTo ln.vol (tileAt ln.x ln.y ln.z) r.level
    if w.busy then s
    else if w.depth ≤ r.level then
      putVol k { r with todo := r.todo.filter fun x => !(r.mates ln).contains x }
        (if r.op = 7 then mateWrites s r ln 0 (r.mates ln) else uniWrites s o r ln 0) s
    else
      (s.putNodeEntry w.side w.off { valid := false, busy := true, child := w.tile }).modOp k fun o =>
        { o with work := .vol { r with busy := true, acks := [] } }

/-- An access of the core that translated through an entry in the cube has not been performed (R294). Writes that wait at the home
engine are not held against the mark. -/
def drains (s : State) (core : Nat) (vol : BitVec 24) (level : Nat) (t : TileAt) : Bool :=
  (s.ops.all fun o => o.core != core || (match o.work with
    | .vol r => !r.sent || r.todo.all fun ln => ln.vol != vol ||
        (ln.tr.all fun e => !(inCube level e.at3 t) || (e.tile.isNone && [1, 2, 6].contains r.op))
    | _ => true)) &&
  !((s.core core).copies.any fun c => c.srcSide == some (.obj (s.poolOf vol)))

/-- The last acknowledgement: the freed slots are pushed and BUSY is cleared (R294, SHOOTDOWN_COMPLETE). -/
def completeRemoval (k : Nat) (o : LongOp) (r : VReq) (ln : VLane) (s : State) : State :=
  let pool := s.poolOf ln.vol
  let place := (List.range r.level).foldl (fun (a : Side × Nat) lv =>
    (Side.obj pool, (s.nodeEntry a.1 (a.2 + 8 * entryIndex lv (tileAt ln.x ln.y ln.z))).child)) (Side.obj ln.vol, 512)
  let off := place.2 + 8 * entryIndex r.level (tileAt ln.x ln.y ln.z)
  let e := s.nodeEntry place.1 off
  let (n, s1) := freeUnder ln.vol (5 - r.level) e.child s
  putVol k { r with todo := r.todo.filter (fun x => !(r.mates ln).contains x), busy := false, acks := [] }
    (if r.op = 7 then mateWrites s r ln 1 (r.mates ln) else uniWrites s o r ln n)
    (s1.putNodeEntry place.1 off { e with busy := false })

/-- A CLB drops the entries of a cube, and the slots of their tiles (R294). -/
def Core.dropCube (c : Core) (vol : BitVec 24) (level : Nat) (t : TileAt) : Core :=
  { c with
    clb := c.clb.filter fun e => !(e.vol == vol && inCube level e.at3 t)
    tcache := c.tcache.filter fun x => !(x.vol == vol && inCube level { x := x.tx, y := x.ty, z := x.tz } t) }

/-- The requests of a core that have not been sent translate again what they have found in a cube. -/
def dropFound (core : Nat) (vol : BitVec 24) (level : Nat) (t : TileAt) (s : State) : State :=
  { s with ops := s.ops.map fun o => match o.work with
    | .vol r => if o.core == core && !r.sent then
        { o with work := .vol { r with todo := r.todo.map fun ln =>
          if ln.vol == vol then { ln with tr := ln.tr.filter fun e => !(inCube level e.at3 t) } else ln } }
      else o
    | _ => o }

/-- SHOOTDOWN_MARK (R294): the core's CLB drops the cube's entries and slots once its accesses through them are performed, and
acknowledges. -/
def execShootdownMark (k core : Nat) (s : State) : Out :=
  .next (match s.volReq? k with
    | none => s
    | some (o, r) =>
      match r.todo with
      | [] => s
      | ln :: _ =>
        let t := tileAt ln.x ln.y ln.z
        if !r.busy || r.acks.contains core || !(s.enabledCores.contains core) || !(drains s core ln.vol r.level t) then s else
        let s := dropFound core ln.vol r.level t (s.modCore core fun c => c.dropCube ln.vol r.level t)
        let r := { r with acks := r.acks ++ [core] }
        if s.enabledCores.all fun c => r.acks.contains c then completeRemoval k o r ln s
        else s.modOp k fun o => { o with work := .vol r })

/-- BACKGROUND_WRITE (R304): the home engine performs a VBGRD.SET. -/
def execBackgroundWrite (k : Nat) : State → Out := volStep k fun o r s =>
  match r.todo with
  | [] => s
  | ln :: rest =>
    if r.op != 9 || !(engineFree s ln.vol) then s else
    let e := tyBytes r.ty
    let s' := (List.range r.n).foldl (fun t j => t.writeNat (.obj ln.vol) (64 + (r.c + j) * e) e (ln.vals.getD j 0).toNat) s
    let s' := s'.modCore o.core fun c => { c with bgs := smDel c.bgs ln.vol.toNat }
    putVol k { r with todo := rest } [] s'

end Sys2Proof.Machine
end

