-- ==== Sys2Proof/Machine/Gather.lean ====
section
/-!
DEFINITION. Group 8, gathers and scatters by the Lexicon, conflicts and combining, and the item queues (chapter 13).
-/
set_option autoImplicit false

namespace Sys2Proof.Machine

/-! ### The Lexicon (R305 to R312) -/

/-- The active lanes in group order: ascending warp slot, then ascending lane (R305). -/
def State.groupLanes (s : State) (act : Mask) : List Nat := (s.cur.acting act).flatMap fun m => lanesOf m.lanes

/-- The index of a lane's row (R307). -/
def rowIndex (s : State) (o : OpsM) (l : Nat) : Nat := (s.src { r := o.b } l).toNat % 2 ^ 32

/-- The side and first byte of a lane's row (R309). -/
def rowAt (s : State) (o : OpsM) (l : Nat) : Side × Nat :=
  let c := (s.blockAt l).cap o.cap.toNat
  (.obj c.oid, c.lower.toNat + rowIndex s o l * o.m.imm.toNat)

/-- The words of a row (Table 13.1). -/
def rowWords (m : Mods) : Nat := m.sub.toNat + 1

/-- The checks of R307 in their order. -/
def rowChk (u : Uses) (o : OpsM) (rights : List Nat) (store : Bool) (s : State) (act : Mask) : Chk Unit := do
  let n := rowWords o.m
  s.reachChk o.d n [.gen] act
  s.shapeChk u act fun _ => .gen
  capChk s act o.cap.toNat rights [.data]
  let cap := fun l => (s.blockAt l).cap o.cap.toNat
  failIn act .misalign fun l => (cap l).lower.toNat % 4 != 0
  let ix := fun l => decide ((cap l).upper.toNat < (cap l).lower.toNat + rowIndex s o l * o.m.imm.toNat + 4 * n)
  if lanesBy act ix != 0 then
    .error { cause := .gatherix, lanes := lanesBy act ix, infos := (lanesOf (lanesBy act ix)).map fun l => (l, BitVec.ofNat 32 (rowIndex s o l)) }
  failIn act .rangelock fun l => store && s.locked s.cur.core true (rowAt s o l).1 ((rowAt s o l).2, (rowAt s o l).2 + 4 * n)

/-- The distinct rows of a batch in the group order of their first lanes, each with its lanes in group order (R305). -/
def batchRows (s : State) (o : OpsM) (act : Mask) : List ((Side × Nat) × List Nat) :=
  let ls := s.groupLanes act
  ((ls.map (rowAt s o)).eraseDups).map fun r => (r, ls.filter fun l => rowAt s o l == r)

/-- The members that some lanes belong to. -/
def State.membersOf (s : State) (ls : List Nat) : List Member := s.cur.acting (maskOf fun l => ls.contains l)

/-- The first `k` bytes of an act on a row, or those after them. -/
def MAct.rowPart (first : Bool) (k : Nat) : MAct → MAct
  | .store bs => .store (if first then bs.take k else bs.drop k)
  | .adds t sat vs => .adds t sat (if first then vs.take (k / 4) else vs.drop (k / 4))
  | a => a

/-- A row over two pages of different kinds is split into one part for each (R369). -/
def splitKinds (s : State) (st : MemStep) : List MemStep :=
  let k := 65536 - st.off % 65536
  if st.n ≤ k ∨ s.kindAt st.side st.off = s.kindAt st.side (st.off + k) then [st]
  else [{ st with n := k, act := st.act.rowPart true k },
    { st with off := st.off + k, n := st.n - k, act := st.act.rowPart false k, d := st.d.map (· + k / 4) }]

/-- A step at a row: for the members of its lanes. -/
def rowStep (s : State) (o : OpsM) (r : (Side × Nat) × List Nat) (act : MAct) : MemStep :=
  let ms := s.membersOf r.2
  let m := ms.headD { w := { core := 0, seq := 0, warp := 0 }, lanes := 0 }
  { w := m.w, lanes := m.lanes, more := ms.drop 1, side := r.1.1, off := r.1.2, n := 4 * rowWords o.m, act := act
    d := dstReg o.d, row := true }

/-- GTHR (R309): each distinct row is read once. -/
def execGthr (c : Ctl) (o : OpsM) : State → Out :=
  let u := usesOf (.gthr c o)
  issueT c u (fun act s => do
    rowChk u o [0] false s act
    .ok (startMem c act u.d [] ((batchRows s o act).flatMap fun r => splitKinds s (rowStep s o r (.load .words))) s))

/-- SCTR (R310): each distinct row takes the words of its last lane, and is written once. -/
def execSctr (c : Ctl) (o : OpsM) : State → Out :=
  let u := usesOf (.sctr c o)
  issueT c u (fun act s => do
    rowChk u o [1] true s act
    .ok (startMem c act none [] ((batchRows s o act).flatMap fun r =>
      let l := r.2.getLastD 0
      splitKinds s (rowStep s o r (.store ((List.range (rowWords o.m)).flatMap fun j => leBytes 4 (s.srcMore o.d j l).toNat)))) s))

/-- The combined word `j` of the lanes of one row, in group order (R311). -/
def foldWord (s : State) (o : OpsM) (ls : List Nat) (j : Nat) : BitVec 64 :=
  match ls with
  | [] => 0
  | l :: r => r.foldl (fun a k => vsum o.m.ty o.m.sat a ((s.srcMore o.d j k).setWidth 64)) ((s.srcMore o.d j l).setWidth 64)

/-- SCTRA (R311): the lanes of a row are combined, then added to memory in one read-modify-write. -/
def execSctra (c : Ctl) (o : OpsM) : State → Out :=
  let u := usesOf (.sctra c o)
  issueT c u (fun act s => do
    rowChk u o [0, 1] true s act
    .ok (startMem c act none [] ((batchRows s o act).flatMap fun r =>
      splitKinds s (rowStep s o r (.adds o.m.ty o.m.sat ((List.range (rowWords o.m)).map (foldWord s o r.2))))) s))

/-- The rows that outstanding gathers and scatters have still to have performed, each as its instruction and its place in that one's list (R305). -/
def State.rowsLeft (s : State) : List (LongOp × Nat) :=
  s.ops.flatMap fun o => match o.work with
    | .mem l => ((List.range l.length).filter fun j => (l[j]?).any (·.row)).map fun j => (o, j)
    | _ => []

/-- LEXICON_ROW_PERFORMED (R312): the `k`th of the rows still to be performed is performed, if its page and the order of R364 to R370 allow. Rows of different
places are performed in any order (R496). -/
def execLexiconRowPerformed (k : Nat) (s : State) : Out :=
  .next (match s.rowsLeft[k]? with
    | some (o, j) => resumeStep j o s
    | none => s)

/-! ### Conflicts and combining (R313, R314) -/

/-- The key of a lane. -/
def keyOf (s : State) (u : Uses) (l : Nat) : Nat := (s.src? u.a l).toNat % 2 ^ 32

/-- The lanes of a lane's warp in the active mask (R199). -/
def warpLanes (s : State) (act : Mask) (l : Nat) : List Nat :=
  match s.cur.member? l with
  | some m => lanesOf (m.lanes &&& act)
  | none => []

/-- CONFL (R313). -/
def execConfl (c : Ctl) (o : OpsV) : State → Out :=
  let u := usesOf (.confl c o)
  issueT c u (fun act s => do
    s.shapeChk u act fun _ => .gen
    match u.d with
    | some d => .ok (s.putD c d act fun l =>
        let q := (warpLanes s act l).filter fun j => keyOf s u j == keyOf s u l && (o.m.sub == 0 || decide (j < l))
        (maskOf fun j => q.contains j).setWidth 64)
    | none => .ok s)

/-- The identity of CMBN's op in a type (R314). -/
def cmbnIdentity (op : Nat) (t : Ty) : BitVec 64 :=
  match op, t with
  | 0, .f32 => 0x80000000
  | 0, _ => 0
  | 1, .f32 => 0x7F800000
  | 1, .n32 => 0xFFFFFFFF
  | 1, _ => 0x7FFFFFFF
  | _, .f32 => 0xFF800000
  | _, .n32 => 0
  | _, _ => 0x80000000

/-- CMBN's op (R314). -/
def cmbnOp (op : Nat) (t : Ty) (sat : Bool) (a b : BitVec 64) : BitVec 64 :=
  match op with
  | 0 => vsum t sat a b
  | 1 => minMaxBits t false a b
  | _ => minMaxBits t true a b

/-- CMBN (R314). -/
def execCmbn (c : Ctl) (o : OpsV) : State → Out :=
  let u := usesOf (.cmbn c o)
  let op := o.m.sub.toNat
  issueT c u (fun act s => do
    s.shapeChk u act fun _ => .gen
    match u.d with
    | some d => .ok (s.putD c d act fun l =>
        match (warpLanes s act l).filter fun j => keyOf s u j == keyOf s u l with
        | q :: r => if q = l then r.foldl (fun a k => cmbnOp op o.m.ty o.m.sat a (s.src? u.b k)) (s.src? u.b q)
          else cmbnIdentity op o.m.ty
        | [] => 0)
    | none => .ok s)

/-! ### Item queues (R316 to R323) -/

/-- The queue of a class on a core, if a block owns it. -/
def State.itemQ (s : State) (core k : Nat) : Option ItemQ := smGet? (s.core core).items k

/-- Replaces the queue of a class. -/
def putItemQ (core k : Nat) (q : ItemQ) (s : State) : State := s.modCore core fun x => { x with items := smSet x.items k q }

/-- R316: the class is owned, by the first block of the group where it was unowned. -/
def ownClass (core k : Nat) (act : Mask) (s : State) : State :=
  match s.itemQ core k, s.cur.acting act with
  | none, m :: _ => putItemQ core k { owner := m.w.seq } s
  | _, _ => s

/-- The lanes of the group whose block owns the class. -/
def ownerLanes (core k : Nat) (s : State) (act : Mask) : Mask :=
  match s.itemQ core k with
  | some q => (s.cur.acting act).foldl (fun a m => if m.w.seq == q.owner then a ||| m.lanes else a) 0
  | none => 0

/-- R316: the members of other blocks park at the instruction until the owner retires; a group of other blocks alone is held back whole. -/
def parkOthers (core k : Nat) (s : State) : State :=
  match s.itemQ core k with
  | some q =>
    if s.cur.mems.all fun m => m.w.seq != q.owner then holdReissue (.itemOwn k) s
    else (s.cur.mems.filter fun m => m.w.seq != q.owner).foldl (fun s m =>
      s.modThreads m.w m.lanes fun _ th => { th with wait := .itemOwn k, pc := s.cur.pc }) s
  | none => s

/-- An instruction that names a class: ownership, then its body over the owner's active lanes. -/
def onClass (k : Nat) (act : Mask) (body : Mask → State → State) (s : State) : State :=
  let core := s.cur.core
  let s := parkOthers core k (ownClass core k act s)
  body (ownerLanes core k s act) s

/-- SPAWNI for the lanes of a list, in group order: each lane's status (R318). -/
def spawnLanes (core k : Nat) (a : VReg) (s0 : State) : List Nat → State → State × List (Nat × Word)
  | [], s => (s, [])
  | l :: r, s =>
    let q := (s.itemQ core k).getD { owner := 0 }
    let full := decide (1024 ≤ q.items.length)
    let it : Item := { cls := BitVec.ofNat 4 k, arg0 := s0.srcMore a 0 l, arg1 := s0.srcMore a 1 l, arg2 := s0.srcMore a 2 l }
    let x := spawnLanes core k a s0 r (if full then s else putItemQ core k { q with items := q.items ++ [it], o := q.o + 1 } s)
    (x.1, (l, if full then 0 else 1) :: x.2)

/-- The value listed for a lane. -/
def laneVal (vals : List (Nat × Word)) (l : Nat) : BitVec 64 :=
  match vals.find? fun v => v.1 == l with | some v => v.2.setWidth 64 | none => 0

/-- SPAWNI (R318). A release at core scope (R323). -/
def execSpawni (c : Ctl) (o : OpsV) : State → Out :=
  let u := usesOf (.spawni c o)
  let k := o.m.imm.toNat % 16
  issueT c u (fun act s => do
    s.reachChk o.a 3 [.gen, .aff, .uni] act
    s.shapeChk u act fun _ => .gen
    match holdUntil false act s with
    | some s' => .ok s'
    | none => .ok (onClass k act (fun own t =>
      if own == 0 then t else
        let x := spawnLanes s.cur.core k o.a s (t.groupLanes own) t
        x.1.putD c { r := o.d } own (laneVal x.2)) s))

/-- The value of one lane in the latch slot that an ITEMLOOP has written, unless the slot has been written again (R62). -/
def latchItem (core l : Nat) (v : Word) (hold : Option (Nat × Nat)) (s : State) : State :=
  match hold with
  | none => s
  | some h => s.modCore core fun k => { k with latches := k.latches.map fun x => (x.1,
      x.2.map fun (y : Latch) => if x.1 == h.1 && y.at_ == h.2 then { y with vals := y.vals.map fun p => if p.1 == l then (l, v.setWidth 64) else p } else y) }

/-- Gives an item to a lane: its arguments, the first of them to the latch slot as well, and the lane holds it (R62, R319). -/
def takeItem (w : WRef) (l : Nat) (d : VReg) (hold : Option (Nat × Nat)) (it : Item) (s : State) : State :=
  let put := fun (x : Warp) => match d with
    | .v n => ((x.putGen n l it.arg0).putGen (n + 1) l it.arg1).putGen (n + 2) l it.arg2
    | _ => x
  ((latchItem w.core l it.arg0 hold s).modWarp w put).modThreads w (laneBit l) fun _ th => { th with item := some it }

/-- Takes the oldest item of a class. -/
def popItem (core k : Nat) (s : State) : Option (Item × State) :=
  match s.itemQ core k with
  | some q => (match q.items with
    | it :: r => some (it, putItemQ core k { q with items := r } s)
    | [] => none)
  | none => none

/-- ITEMLOOP for the lanes of a list, in group order (R319). -/
def loopLanes (core k : Nat) (d : VReg) (exit : BitVec 32) (hold : Option (Nat × Nat)) : List Nat → State → State
  | [], s => s
  | l :: r, s =>
    let w := s.wrefAt l
    let s' := match popItem core k s with
      | some (it, s1) => takeItem w l d hold it s1
      | none =>
        if ((s.itemQ core k).map (·.o)).getD 0 = 0 then s.modThreads w (laneBit l) fun _ th => { th with pc := exit }
        else s.modThreads w (laneBit l) fun _ th => { th with wait := .itemq k d exit hold }
    loopLanes core k d exit hold r s'

/-- Ends the items that some lanes hold (R319, R322). -/
def endLaneItems (act : Mask) (s : State) : State := (s.cur.acting act).foldl (fun s m => endItems m s) s

/-- HOLD = 3 of an ITEMLOOP: the slot takes the first argument of each lane that has an item; of a lane that has none yet, or that leaves the loop, it holds a free
value (log entry 114). -/
def loopLatch (c : Ctl) (own : Mask) (s : State) : State × Option (Nat × Nat) :=
  match s.resultSlot c with
  | some key =>
    ({ s.setLatch s.cur.core key false own (fun l => (Config.freeWord (s.free + l)).setWidth 64) with free := s.free + 32 }, some (key, s.clock))
  | none => (s, none)

/-- ITEMLOOP (R319). -/
def execItemloop (c : Ctl) (k : BitVec 4) (d : VReg) (off : BitVec 32) : State → Out :=
  let u := usesOf (.itemloop c k d off)
  issueT c u (fun act s => do
    s.reachChk d 3 [.gen] act
    s.shapeChk u act fun _ => .gen
    .ok (onClass k.toNat act (fun own t =>
      if own == 0 then t else
        let (t, hold) := loopLatch c own (endLaneItems own t)
        loopLanes s.cur.core k.toNat d (s.target off) hold (t.groupLanes own) t) s))

/-- ITEMGET for the lanes of a list, in group order: the register writes (R321). -/
def getLanes (core k : Nat) (d : VReg) : List Nat → State → State × List RW
  | [], s => (s, [])
  | l :: r, s =>
    let w := s.wrefAt l
    let word := fun (n j : Nat) (v : Word) => RW.gen w (n + j) l v
    let (s1, rw) := match popItem core k s with
      | some (it, s1) =>
        (s1.modThreads w (laneBit l) (fun _ th => { th with item := some it }),
          match d with | .v n => [word n 0 it.arg0, word n 1 it.arg1, word n 2 it.arg2, word n 3 1] | _ => [])
      | none => (s, match d with | .v n => [word n 3 0] | _ => [])
    let (s2, rws) := getLanes core k d r s1
    (s2, rw ++ rws)

/-- ITEMGET (R321). -/
def execItemget (c : Ctl) (o : OpsV) : State → Out :=
  let u := usesOf (.itemget c o)
  let k := o.m.imm.toNat % 16
  issueT c u (fun act s => do
    s.reachChk o.d 4 [.gen] act
    s.shapeChk u act fun _ => .gen
    .ok (onClass k act (fun own t =>
      if own == 0 then t else
        let t := endLaneItems own t
        let (t1, rws) := getLanes s.cur.core k o.d (t.groupLanes own) t
        t1.startResults c own u.d rws) s))

/-- ITEMEND (R322). -/
def execItemend (c : Ctl) (m : Mods) : State → Out :=
  issueT c (usesOf (.itemend c m)) (fun act s => .ok (endLaneItems act s))

/-- The lanes of a warp that wait at ITEMLOOP of a class. -/
def Warp.itemLanes (w : Warp) (k : Nat) : List Nat :=
  (List.range 32).filter fun l => match (w.thread l).wait with | .itemq j _ _ _ => j == k | _ => false

/-- The order of the packing unit: more parked lanes first, then the lower warp slot (R320). -/
def packInsert (x : Nat × Nat × WRef) : List (Nat × Nat × WRef) → List (Nat × Nat × WRef)
  | [] => [x]
  | y :: r => if y.1 < x.1 ∨ (y.1 = x.1 ∧ x.2.1 < y.2.1) then x :: y :: r else y :: packInsert x r

/-- Refills parked lanes with items, in the packing unit's order (R320). -/
def refillLanes (core k stamp : Nat) : List (WRef × Nat) → State → State
  | [], s => s
  | (w, l) :: r, s =>
    match popItem core k s with
    | none => s
    | some (it, s1) =>
      match ((s1.warp w).thread l).wait with
      | .itemq _ d _ hold =>
        let s2 := takeItem w l d hold it s1
        refillLanes core k stamp r (s2.modThreads w (laneBit l) fun _ th => { th with wait := .none, stamp := stamp })
      | _ => refillLanes core k stamp r s

/-- ITEM_REFILL (R320). -/
def execItemRefill (core cls : Nat) (s : State) : Out :=
  .next (match s.itemQ core cls with
    | none => s
    | some q =>
      let b := s.block core q.owner
      let ws := b.warps.foldr (fun iw a => packInsert ((iw.2.itemLanes cls).length, 8 * iw.2.slice + iw.2.slot, { core := core, seq := q.owner, warp := iw.1 }) a) []
      let lanes := ws.flatMap fun x => ((s.warp x.2.2).itemLanes cls).map fun l => (x.2.2, l)
      if lanes.isEmpty || q.items.isEmpty then s else refillLanes core cls (s.clock + 1) lanes { s with clock := s.clock + 1 })

/-- A queue whose owner retires or is evicted is given up; the threads that wait for its class issue again (R316). -/
def dropClasses (core seq : Nat) (s : State) : State :=
  let mine := (s.core core).items.filter fun x => x.2.owner == seq
  let s := s.modCore core fun x => { x with items := x.items.filter fun q => q.2.owner != seq }
  let s := { s with clock := s.clock + 1 }
  let wake := fun (th : Thread) => match th.wait with
    | .itemOwn k => if mine.any fun q => q.1 == k then { th with wait := .none, stamp := s.clock } else th
    | _ => th
  s.modCore core fun x => { x with blocks := x.blocks.map fun qb => (qb.1, qb.2.mapWarps fun w => w.mapThreads wake) }

end Sys2Proof.Machine
end

