-- ==== Sys2Proof/Machine/Matrix.lean ====
section
/-!
DEFINITION. Group 9, the matrix unit (chapter 14): claims, reservations and shapes, operand loads, the arithmetic of MXMAC, versions and readers,
barriers, single-owner mode, and the unit's own steps.
-/
set_option autoImplicit false

namespace Sys2Proof.Machine

/-! ### Formats (R326) -/

/-- The bits that an element takes in a row: 4 for the low plane of a six-bit format (R329). -/
def mxBits (f : Nat) : Nat :=
  match f with
  | 0 | 1 => 16
  | 2 | 3 | 4 | 5 | 8 => 8
  | 12 => 64
  | _ => 4
/-- The class of a format (Table 14.2). -/
def mxClass (f : Nat) : Nat :=
  match f with
  | 0 | 1 => 16
  | 9 | 10 | 11 => 4
  | 12 => 64
  | _ => 8
/-- B slots of a macro (Table 14.2). -/
def mxSlots (f : Nat) : Nat := match mxClass f with | 8 => 2 | 4 => 4 | _ => 1
/-- The format has block scales (Table 14.2). -/
def mxScaled (f : Nat) : Bool := decide (4 ≤ f) && decide (f ≤ 11)
/-- The format is a six-bit one. -/
def mxSix (f : Nat) : Bool := f == 6 || f == 7
/-- A row's bytes (R329). -/
def rowBytesOf (f cols : Nat) : Nat := (cols * mxBits f + 7) / 8

/-- The value of an element code; a q4o slot needs its partner's code (R215, R329). -/
def mxElem (f : Nat) (odd : Bool) (x other : Nat) : FVal :=
  match f with
  | 0 => fmtBF16.read x
  | 1 => fmtF16.read x
  | 2 | 4 => fmtE4M3.read x
  | 3 | 5 => fmtE5M2.read x
  | 6 => fmtE3M2.read x
  | 7 => fmtE2M3.read x
  | 8 => intElem 8 x
  | 9 => fmtE2M1.read x
  | 10 => intElem 4 x
  | 11 => q4oElem odd x other
  | _ => fmtF64.read x

/-- The code of an element of a loaded operand. -/
def Operand.code (o : Operand) (i k : Nat) : Nat := (smGetD o.elems (128 * i + k) 0).toNat
/-- The scale code of an element. -/
def Operand.scale (o : Operand) (i k : Nat) : Nat := (smGetD o.scales (128 * i + k) 0).toNat

/-- An element times its scale; an element of a block whose scale is 0xFF is a NaN (R214, R331). -/
def Operand.val (o : Operand) (i k : Nat) : FVal :=
  let v := mxElem o.fmt (k % 2 == 1) (o.code i k) (if decide ((k ^^^ 1) < o.cols) then o.code i (k ^^^ 1) else 0)
  if mxScaled o.fmt then (if o.scale i k = 255 then .nan false else scaleV v ((o.scale i k : Int) - 127)) else v

/-- The elements of a row inside the extent (R330). -/
def Operand.row (o : Operand) (i : Nat) : List FVal := if i < o.rows then (List.range o.cols).map (o.val i) else []

/-! ### Arithmetic (R331 to R333) -/

/-- ieee_dot over the products of a row and a column (R332). -/
def ieeeDot (ps : List (FVal × FVal)) : FVal × FpFlags :=
  let xs := ps.map fun p => mulV p.1 p.2
  let pos := xs.contains (.inf false)
  let neg := xs.contains (.inf true)
  let fl := if xs.any FVal.isSig || (pos && neg) then flNV else 0
  if xs.any FVal.isNan || (pos && neg) then (.nan false, fl) else (.inf neg, fl)

/-- The exact sum of products. -/
def exactSum (ps : List (FVal × FVal)) : FVal := ps.foldl (fun s p => addV 0 s (mulV p.1 p.2)) (.num false 0 0)

/-- floor(log2 |a|) of the largest element of a row, if any is nonzero (R331). -/
def alignExp (as : List FVal) : Option Int :=
  as.foldl (fun e a => match a, e with
    | .num _ m k, none => if m = 0 then none else some (k + m.log2)
    | .num _ m k, some x => if m = 0 then some x else some (max x (k + m.log2))
    | _, x => x) none

/-- The aligned value of an element, and whether it differs (R331). -/
def alignVal (q : Int) : FVal → FVal × Bool
  | .num neg m e => let x := roundAt 0 neg m e q; (.num neg x.1 q, x.2)
  | v => (v, false)

/-- Rounds a sum to the accumulator's format; a zero is +0 (R331). -/
def roundSum (f : Fmt) (v : FVal) : FRes :=
  let x := f.write 0 false v
  if x.v % 2 ^ (f.bits - 1) = 0 then { x with v := 0 } else x

/-- x of R331 for one element, with its flags; `wide` is class 64. -/
def macTerm (wide : Bool) (ps : List (FVal × FVal)) : FVal × FpFlags :=
  if ps.any fun p => !p.1.isFin || !p.2.isFin then ieeeDot ps
  else if wide then let x := roundSum fmtF64 (exactSum ps); (fmtF64.read x.v, x.fl)
  else
    let al : List ((FVal × Bool) × FVal) := match alignExp (ps.map (·.1)) with
      | none => ps.map fun p => ((FVal.num false 0 0, false), p.2)
      | some e => ps.map fun p => (alignVal (e - 14) p.1, p.2)
    let x := roundSum fmtF32 (exactSum (al.map fun p => (p.1.1, p.2)))
    (fmtF32.read x.v, x.fl ||| (if al.any fun p => p.1.2 then flNX else 0))

/-- The new value of one accumulator element (R331). -/
def macElem (wide : Bool) (as bs : List FVal) (acc : Nat) : FRes :=
  let f := if wide then fmtF64 else fmtF32
  let x := macTerm wide (as.zip bs)
  let y := f.write 0 false (addV 0 (f.read acc) x.1)
  { y with fl := y.fl ||| x.2 }

/-- MXMAC and MXMACS on a tile: the new elements, and the flags (R331 to R334). -/
def macTile (a b : Operand) (t : Tile) : Tile × FpFlags :=
  let wide := mxClass a.fmt == 64
  let rows := (List.range 64).map a.row
  let cols := (List.range 128).map b.row
  let out := (rows.zipIdx).foldl (fun (acc : SMap (BitVec 64) × FpFlags) ri =>
    (cols.zipIdx).foldl (fun (acc : SMap (BitVec 64) × FpFlags) cj =>
      let k := 128 * ri.2 + cj.2
      let x := macElem wide ri.1 cj.1 (smGetD t.elems k 0).toNat
      (smPut acc.1 k (BitVec.ofNat 64 x.v) 0, acc.2 ||| x.fl)) acc) (t.elems, 0)
  ({ t with elems := out.1 }, out.2)

/-! ### Accessors -/

/-- A block's matrix resources. -/
def State.mx (s : State) (w : WRef) : Mx := (s.block w.core w.seq).mx
/-- Changes a block's matrix resources. -/
def modMx (core seq : Nat) (f : Mx → Mx) (s : State) : State := s.modBlock core seq fun b => { b with mx := f b.mx }
/-- The claim of a block: tiles and macros (R325). -/
def Mx.tileCount (m : Mx) : Nat := (m.claim.getD (0, 0)).1
/-- Claimed macros. -/
def Mx.cimCount (m : Mx) : Nat := (m.claim.getD (0, 0)).2
/-- A tile of the block. -/
def Mx.tile (m : Mx) (t : Nat) : Tile := smGetD m.tiles t {}
/-- The two tiles of the pair that a tile belongs to (R331). -/
def pairOf (t : Nat) : List Nat := [t / 2 * 2, t / 2 * 2 + 1]
/-- The kind that a tile has once the block's operations have completed, in order: true is FP64 (R335, R337). -/
def Mx.kind64 (m : Mx) (t : Nat) : Bool :=
  m.ops.foldl (fun k o => if o.kind == 0 && (o.tile == t || ((k || o.f64) && (pairOf t).contains o.tile)) then o.f64 else k) (m.tile t).k64
/-- The tiles that an operation reads or writes: an FP64 pair is two; a load has none. -/
def Mx.opTiles (m : Mx) (o : MxOp) : List Nat := if o.kind == 3 then [] else if o.f64 || m.kind64 o.tile || (m.tile o.tile).k64 then pairOf o.tile else [o.tile]
/-- The class of the operand in an operation's slot. -/
def Mx.opClass (m : Mx) (o : MxOp) : Nat := ((smGet? (smGetD m.cims o.cim []) o.slot).map fun x => mxClass x.fmt).getD 0
/-- Two operations cannot run on their macros at once: one macro runs one operation at a time, and in class 4 one on each slot (R326). -/
def Mx.clash (m : Mx) (x o : MxOp) : Bool :=
  x.kind != 0 && o.kind != 0 && x.cim == o.cim && (m.opClass o != 4 || x.slot == o.slot)
/-- An operation that has started touches a tile of this one, or runs on its macro. -/
def Mx.busy (m : Mx) (o : MxOp) : Bool := m.ops.any fun x => x.started && ((m.opTiles x).any (m.opTiles o).contains || m.clash x o)
/-- F of R335: operations on a tile that have started and not completed. -/
def Mx.started (m : Mx) (t : Nat) : Nat := (m.ops.filter fun o => o.started && o.tile == t).length

/-- What a stream instruction does: it faults with a subcode, or it goes on. -/
inductive MxAns where
  | fault (c : Cause) (sub : BitVec 8)
  | next (s : State)

/-! ### Loads (R329, R330, R345) -/

/-- The lines that a load reads: data, the high plane, and scales; `base` is the shape's base with the load's offset, from the
window's. -/
def mxLines (r : Resv) (h : Shape) (base : Nat) : List Nat :=
  let b := mxBits r.fmt
  ((List.range h.rows).flatMap fun i =>
    let row := base + i * h.stride
    let e0 := row * 8 / b
    linesOf (r.base + row) (rowBytesOf r.fmt h.cols) ++
      (if mxSix r.fmt then linesOf (r.base + r.planeoff * 64 + e0 / 4) ((e0 + h.cols - 1) / 4 - e0 / 4 + 1) else []) ++
      (if mxScaled r.fmt then linesOf (r.base + r.scaleoff + e0 / 32) ((e0 + h.cols - 1) / 32 - e0 / 32 + 1) else [])).eraseDups

/-- Check 0x54: a byte of the extent lies outside the window (Table 14.4). -/
def outsideExtent (r : Resv) (h : Shape) (base : Nat) : Bool :=
  let row := base + (h.rows - 1) * h.stride
  let e := row * 8 / mxBits r.fmt + h.cols - 1
  decide (r.extent < row + rowBytesOf r.fmt h.cols) ||
    (mxSix r.fmt && decide (r.extent ≤ r.planeoff * 64 + e / 4)) || (mxScaled r.fmt && decide (r.extent ≤ r.scaleoff + e / 32))

/-- The code of element `k` of row `i` (R329). -/
def readCode (shm : Memory) (r : Resv) (h : Shape) (base i k : Nat) : Nat :=
  let row := base + i * h.stride
  match mxBits r.fmt with
  | 4 =>
    let lo := (memRead shm (r.base + row + k / 2)).toNat / 16 ^ (k % 2) % 16
    let e := 2 * row + k
    if mxSix r.fmt then lo + 16 * ((memRead shm (r.base + r.planeoff * 64 + e / 4)).toNat / 4 ^ (e % 4) % 4) else lo
  | b => memNat shm (r.base + row + k * (b / 8)) (b / 8)

/-- The scale code of element `k` of row `i`: that of the element's index in the reservation (R329). -/
def readScale (shm : Memory) (r : Resv) (h : Shape) (base i k : Nat) : Byte :=
  memRead shm (r.base + r.scaleoff + ((base + i * h.stride) * 8 / mxBits r.fmt + k) / 32)

/-- The operand that a load forms, with its non-finite flags (R330, R334). -/
def loadOperand (shm : Memory) (r : Resv) (h : Shape) (base : Nat) : Operand :=
  let elems := (List.range h.rows).foldl (fun m i => (List.range h.cols).foldl (fun m k =>
    smPut m (128 * i + k) (BitVec.ofNat 64 (readCode shm r h base i k)) 0) m) ([] : SMap (BitVec 64))
  let scales := if mxScaled r.fmt then (List.range h.rows).foldl (fun m i => (List.range h.cols).foldl (fun m k =>
    smPut m (128 * i + k) (readScale shm r h base i k) 0) m) ([] : SMap Byte) else []
  let o : Operand := { fmt := r.fmt, rows := h.rows, cols := h.cols, elems := elems, scales := scales }
  let bad := fun (g : Nat) => (List.range h.rows).any fun i => ((o.row i).drop (32 * g)).take 32 |>.any fun v => !v.isFin
  { o with nonfin := BitVec.ofNat 4 ((bad 0).toNat + 2 * (bad 1).toNat + 4 * (bad 2).toNat + 8 * (bad 3).toNat) }

/-- An operation that has not completed reads a row buffer. -/
def Mx.usesRb (m : Mx) (n : Nat) : Bool := m.ops.any fun o => (o.kind == 1 || o.kind == 2) && o.rb == n
/-- An operation that has not completed reads a macro. -/
def Mx.usesCim (m : Mx) (c : Nat) : Bool := m.ops.any fun o => (o.kind == 1 || o.kind == 2) && o.cim == c

/-- Puts an operand in a row buffer; an f64 tile takes all four (R345). -/
def Mx.putRb (m : Mx) (n : Nat) (o : Operand) : Mx :=
  if o.fmt = 12 then { m with rbufs := [(0, o)] }
  else
    let rb := match smGet? m.rbufs 0 with | some x => if x.fmt = 12 then smDel m.rbufs 0 else m.rbufs | none => m.rbufs
    { m with rbufs := smSet rb n o }

/-- Puts an operand in a macro's slot; slots of another class are emptied (R326). -/
def Mx.putCim (m : Mx) (c slot : Nat) (o : Operand) : Mx :=
  let old := (smGetD m.cims c []).filter fun x => mxClass x.2.fmt == mxClass o.fmt
  { m with cims := smSet m.cims c (smSet old slot o) }

/-- The load of a block that waits: a line that it reads is absent, or an operation still reads what its destination holds (R337, R341). -/
def Mx.loadWaits (m : Mx) (b : Block) (o : MxOp) (x : MxSrc) : Bool :=
  (mxLines x.resv x.shape x.base).any b.absent.contains ||
    (if x.ldb then m.usesCim o.cim
     else m.usesRb o.rb || (x.resv.fmt == 12 && m.ops.any fun y => y.kind == 1 || y.kind == 2) || (o.rb != 0 && m.usesRb 0))

/-- The load reads its operand into its destination (R345). -/
def Mx.load (m : Mx) (b : Block) (o : MxOp) (x : MxSrc) : Mx :=
  let v := loadOperand b.shared x.resv x.shape x.base
  if x.ldb then m.putCim o.cim o.slot v else m.putRb o.rb v

/-- MXLDA and MXLDB on a block's resources, with the offset that A gives (R345): the checks are made once, and a load that waits keeps what it has read of
its shape and reservation (R344). -/
def mxLoad (core seq : Nat) (ldb : Bool) (imm off : Nat) (s : State) : MxAns :=
  let b := s.block core seq
  let m := b.mx
  let k := if ldb then imm / 128 % 16 else imm / 4 % 16
  match smGet? m.shapes k with
  | none => .fault .shaperec 0x51
  | some h =>
    if !ldb && decide (64 < h.rows) then .fault .shaperec 0x50
    else match smGet? m.resv h.resv with
    | none => .fault .shaperec 0x51
    | some r =>
      let base := h.base + off
      let c := imm % 32
      let slot := imm / 32 % 4
      let n := imm % 4
      if base % 64 ≠ 0 then .fault .shaperec 0x52
      else if outsideExtent r h base then .fault .shaperec 0x54
      else if ldb ∧ m.cimCount ≤ c then .fault .shaperec 0x55
      else if ldb ∧ mxSlots r.fmt ≤ slot then .fault .shaperec 0x56
      else if !ldb ∧ r.fmt = 12 ∧ n ≠ 0 then .fault .shaperec 0x56
      else
        let x : MxSrc := { ldb := ldb, resv := r, shape := h, base := base }
        let o : MxOp := { kind := 3, tile := 0, rb := if ldb then 0 else n, cim := if ldb then c else 0, slot := if ldb then slot else 0, ver := 0, src := some x }
        .next (modMx core seq (fun m => if m.loadWaits b o x then { m with ops := m.ops ++ [o] } else m.load b o x) s)

/-! ### Operations and versions (R335, R346) -/

/-- The checks of MXMAC and MXMACS before the version (R346); the kind is the one that the operations before it leave (R337). -/
def macChk (m : Mx) (t rb c slot : Nat) : Option (BitVec 8) :=
  if m.tileCount ≤ t then some 0x55
  else if m.cimCount ≤ c then some 0x55
  else match smGet? m.rbufs rb, smGet? (smGetD m.cims c []) slot with
    | some a, some b =>
      if mxClass a.fmt ≠ mxClass b.fmt then some 0x57
      else if mxClass a.fmt = 64 then (if t % 2 = 1 then some 0x55 else if m.kind64 t then none else some 0x57)
      else if m.kind64 t then some 0x57 else none
    | _, _ => some 0x56

/-- Enters an operation: an unreachable version faults; it starts when F is 0 and nothing touches its tiles, and otherwise waits (R335, R337). -/
def enterOp (core seq : Nat) (o : MxOp) (s : State) : MxAns :=
  let m := (s.block core seq).mx
  let f := m.started o.tile
  if o.ver ≠ (m.tile o.tile).ver + BitVec.ofNat 16 f then .fault .mxversion 0
  else .next (modMx core seq (fun m => { m with ops := m.ops ++ [{ o with started := !(m.busy o) }] }) s)

/-- MXMAC and MXMACS on a block's resources (R346). -/
def mxMac (core seq : Nat) (skip : Bool) (t imm : Nat) (ver : Word) (s : State) : MxAns :=
  let m := (s.block core seq).mx
  let rb := imm % 4
  let c := imm / 4 % 32
  let slot := imm / 128 % 4
  match macChk m t rb c slot with
  | some x => .fault .shaperec x
  | none => enterOp core seq { kind := if skip then 2 else 1, tile := t, rb := rb, cim := c, slot := slot, ver := ver.setWidth 16 } s

/-- MXZERO on a block's resources (R335, R346). -/
def mxZero (core seq : Nat) (f64 : Bool) (t : Nat) (ver : Word) (s : State) : MxAns :=
  let m := (s.block core seq).mx
  if m.tileCount ≤ t ∨ (f64 ∧ (t % 2 = 1 ∨ m.tileCount ≤ t + 1)) then .fault .shaperec 0x55
  else enterOp core seq { kind := 0, tile := t, f64 := f64, ver := ver.setWidth 16 } s

/-- Elements that nothing defines, for a tile whose FP64 pair has been broken up (log entry 7). -/
def freeElems (n : Nat) : SMap (BitVec 64) :=
  ((List.range 8192).map fun i => (i, (Config.freeWord (n + i)).setWidth 64)).filter fun x => x.2 != 0

/-- What MXZERO leaves: +0 and the kind. The other half of an FP64 pair that is broken up keeps no defined element. -/
def zeroTiles (o : MxOp) (free : Nat) (m : Mx) : Mx :=
  let other := if o.tile % 2 = 0 then o.tile + 1 else o.tile - 1
  let v := (m.tile o.tile).ver + 1
  if o.f64 then
    { m with tiles := smSet (smSet m.tiles o.tile { ver := v, k64 := true }) other { (m.tile other) with k64 := true, elems := [] } }
  else
    let m' := if (m.tile o.tile).k64 then
        { m with tiles := smSet m.tiles other { (m.tile other) with k64 := false, elems := freeElems free } } else m
    { m' with tiles := smSet m'.tiles o.tile { ver := v } }

/-- A completed operation: the elements, MXF, then the version (R333, R335). -/
def finishOp (o : MxOp) (free : Nat) (m : Mx) : Mx :=
  match o.kind with
  | 0 => zeroTiles o free m
  | _ =>
    match smGet? m.rbufs o.rb, smGet? (smGetD m.cims o.cim []) o.slot with
    | some a, some b =>
      let r := macTile a b (m.tile o.tile)
      { m with tiles := smSet m.tiles o.tile { r.1 with ver := r.1.ver + 1 }, mxf := m.mxf ||| r.2 }
    | _, _ => m

/-! ### Readers (R336, R347) -/

/-- How a reader stands to its tile. -/
inductive ReadAns where
  | start | wait | past
  deriving DecidableEq, Repr

/-- R336: the reader starts, waits, or has missed its version. -/
def MxRead.ready (r : MxRead) (m : Mx) : ReadAns :=
  let d := (r.ver - (m.tile r.tile).ver).toNat
  if d = 0 then (if m.started r.tile = 0 then .start else .past) else if d < 2 ^ 15 then .wait else .past

/-- Converts one element of a reader: its code, its flags and its new companion (R347). -/
def MxRead.conv (r : MxRead) (m : Mx) (i j : Nat) : FRes × Word :=
  let x := (smGetD (m.tile r.tile).elems (128 * i + j) 0).toNat
  if !r.cvt then ({ v := x }, 0)
  else
    let v := (if (m.tile r.tile).k64 then fmtF64 else fmtF32).read x
    match r.comp with
    | some c => cvtefV (fmtOf r.ty) r.sat v (fmtF32.read ((smGetD (m.tile c).elems (128 * i + j) 0).toNat))
    | none => (cvtV (fmtOf r.ty) r.rnd r.sat v, 0)

/-- The bytes of one row of a reader. -/
def MxRead.rowData (r : MxRead) (m : Mx) (i : Nat) : List Byte :=
  (List.range 128).flatMap fun j => leBytes (r.rowBytes / 128) (r.conv m i j).1.v

/-- The flags of a reader. -/
def MxRead.flags (r : MxRead) (m : Mx) : FpFlags :=
  if !r.cvt then 0 else (List.range r.n).foldl (fun f i => (List.range 128).foldl (fun f j => f ||| (r.conv m i j).1.fl) f) 0

/-- The companion tile after a reader with error feedback. -/
def MxRead.feed (r : MxRead) (m : Mx) : Mx :=
  match r.comp with
  | some c =>
    let e := (List.range r.n).foldl (fun e i => (List.range 128).foldl (fun e j =>
      smPut e (128 * i + j) ((r.conv m i j).2.setWidth 64) 0) e) (m.tile c).elems
    { m with tiles := smSet m.tiles c { (m.tile c) with elems := e } }
  | none => m

/-- The copy that writes a reader's rows (R347). -/
def MxRead.copy (r : MxRead) (s : State) (op : Nat) : Copy :=
  let b := s.block r.w.core r.w.seq
  let parts := (List.range r.n).flatMap fun i =>
    let data := r.rowData b.mx i
    (List.range (r.rowBytes / 64)).map fun j => ({ dst := r.off + i * r.stride + 64 * j, len := 64, bytes := (data.drop (64 * j)).take 64 } : CopyPart)
  { id := 0, seq := r.w.seq, uid := b.uid, entry := false, srcSide := none, dstSide := .shm r.w.core r.w.seq, todo := parts, op := some op }

/-- The flags of a reader, in the lanes of its warp. -/
def MxRead.laneFlags (r : MxRead) (m : Mx) : List (WRef × Nat × BitVec 6) :=
  let f := r.flags m
  if f = 0 then [] else (lanesOf r.lanes).map fun l => (r.w, l, f)

/-- Starts a reader whose version is there: the rows go out as copies; an FPTRAP leaves no effect (R221, R347). -/
def startReader (o : LongOp) (rs : List MxRead) (r : MxRead) (s : State) : State :=
  let m := s.mx r.w
  let fl := r.laneFlags m
  match fpTrapOf o.fpten fl with
  | some t => trapReaders o rs (fun x => x == r) t.cause t.info s
  | none =>
    let s1 := orFlags fl (addCopy o.core (r.copy s o.id) s)
    let s2 := modMx r.w.core r.w.seq r.feed s1
    let s3 := { s2 with clock := s2.clock + 1 }
    let s4 := s3.modThreads r.w r.lanes fun _ th => match th.wait with
      | .mxver _ _ => { th with wait := .none, stamp := s3.clock }
      | _ => th
    let left := rs.filter (· != r)
    s4.modOp o.id fun o => { o with work := if left.isEmpty then .results else .mxrd left }

/-- Tries the readers of an outstanding instruction, each once. -/
def tryReaders (id : Nat) : List MxRead → State → State
  | [], s => s
  | r :: rest, s =>
    match s.op? id with
    | none => s
    | some o => match o.work with
      | .mxrd rs =>
        if !(rs.contains r) then tryReaders id rest s
        else match r.ready (s.mx r.w) with
          | .start => tryReaders id rest (startReader o rs r s)
          | .wait => tryReaders id rest s
          | .past => trapReaders o rs (fun x => x == r) .mxversion 0 s
      | _ => s

/-- The readers of a block are tested again whenever a version advances (R336). -/
def retryReaders (core seq : Nat) (s : State) : State :=
  s.ops.foldl (fun s o => match o.work with
    | .mxrd rs => tryReaders o.id (rs.filter fun r => r.w.core == core && r.w.seq == seq) s
    | _ => s) s

/-! ### Running on the stream or for an owner (R337, R340, R343) -/

/-- A warp owns the matrix unit of its core (R340). -/
def ownsUnit (s : State) (w : WRef) : Bool := (s.core w.core).owned && (s.core w.core).owners.head? == some (w.seq, w.warp)

/-- A matrix instruction of a stream: held while a warp owns the unit, and behind an operation or a load that waits (R335, R337, R340). -/
def streamMx (seq : Nat) (c : Ctl) (body : Mx → State → MxAns) (s : State) : Out :=
  let core := s.cur.core
  let mx := (s.block core seq).mx
  .next (if c.gp != 15 || c.gn || c.hold != 0 || c.hslot != 0 then streamFault core seq .illop 0 s
    else if (s.core core).owned || mx.ops.any (fun o => !o.started) then s
    else match body mx (modMx core seq (fun m => { m with pc := s.cur.pc + 1, st := .running }) { s with clock := s.clock + 1 }) with
      | .fault cause sub => streamFault core seq cause sub s
      | .next s' => if c.pf == 0 then s' else prefetch core s.cur.obj (s.cur.pc.toNat + 64 * c.pf.toNat) s')

/-- MXVERSION with a subcode, in the active lanes. -/
def mxVersion (act : Mask) (sub : Word) : TrapReq := { cause := .mxversion, lanes := act, info := sub }

/-- R343: the group holds, active, every thread of each acting warp that has not ended. -/
def wholeChk (s : State) (act : Mask) : Chk Unit :=
  trapIf (!(s.cur.acting act).all fun m => (s.warp m.w).alive &&& ~~~m.lanes == 0) .mxversion act 4

/-- R343: a register operand is uniform, with `n` registers, or 2047 where the table allows it. -/
def uniOperand (s : State) (r : VReg) (n : Nat) (zero : Bool) (act : Mask) : Chk Unit :=
  match r with
  | .v _ => s.reachChk r n [.uni] act
  | .zero => trapIf (!zero) .regshape act
  | _ => trapIf true .regshape act

/-- A uniform operand's register `j` in a member's warp. -/
def uniVal (s : State) (m : Member) (r : VReg) (j : Nat) : Word :=
  match r with
  | .v n => (s.warp m.w).readReg (n + j) 0
  | _ => 0

/-- A stream instruction that an owner warp issues: its checks are precise traps, and an operation or a load that waits parks it at a matrix wait (R340,
R341, R343). -/
def ownerMx (c : Ctl) (u : Uses) (a : VReg) (tile : Nat) (body : Word → Nat → Nat → State → MxAns) : State → Out :=
  issue c u (fun act s => do
    uniOperand s a 1 true act
    s.shapeChk u act fun _ => .uni
    wholeChk s act
    trapIf (!(s.cur.acting act).all fun m => ownsUnit s m.w) .mxversion act 1
    (s.cur.acting act).foldlM (fun t m =>
      match body (uniVal s m a 0) m.w.core m.w.seq t with
      | .fault cause sub => .error { cause := cause, lanes := act, info := sub.setWidth 32 }
      | .next t' => .ok (if (t'.block m.w.core m.w.seq).mx.ops.any fun o => !o.started then
          t'.modThreads m.w m.lanes fun _ th => { th with wait := .mxver tile ((uniVal s m a 0).setWidth 16) } else t')) s)

/-- A load, on the stream or for an owner (R345). -/
def mxLoadOp (c : Ctl) (u : Uses) (ldb : Bool) (a : VReg) (m : Mods) (s : State) : Out :=
  let imm := m.imm.toNat
  match s.cur.unit with
  | .stream seq => streamMx seq c (fun mx s => match streamSrc mx 0 a with
      | some off => mxLoad s.cur.core seq ldb imm off.toNat s
      | none => .fault .illop 0) s
  | _ => ownerMx c u a 0 (fun off core seq t => mxLoad core seq ldb imm off.toNat t) s

/-- An operation, on the stream or for an owner; an owner parks until its operation has started (R340, R346). -/
def mxOpOp (c : Ctl) (u : Uses) (a : VReg) (run : Word → Nat → Nat → State → MxAns) (tile : Nat) (s : State) : Out :=
  match s.cur.unit with
  | .stream seq => streamMx seq c (fun mx s => match streamSrc mx 0 a with
      | some v => run v s.cur.core seq s
      | none => .fault .illop 0) s
  | _ => ownerMx c u a tile run s

/-- MXLDB (R345). -/
def execMxldb (c : Ctl) (a : VReg) (m : Mods) : State → Out := mxLoadOp c (usesOf (.mxldb c a m)) true a m
/-- MXLDA (R345). It takes no capability operand, so Table 4.2's matrix-operand right is not checked here (R74, log entry 93). -/
def execMxlda (c : Ctl) (a : VReg) (m : Mods) : State → Out := mxLoadOp c (usesOf (.mxlda c a m)) false a m
/-- MXMAC (R346). -/
def execMxmac (c : Ctl) (t : BitVec 4) (a : VReg) (m : Mods) : State → Out :=
  mxOpOp c (usesOf (.mxmac c t a m)) a (fun v core seq s => mxMac core seq false t.toNat m.imm.toNat v s) t.toNat
/-- MXMACS: the same results as MXMAC, in fewer clocks (R334, R346). -/
def execMxmacs (c : Ctl) (t : BitVec 4) (a : VReg) (m : Mods) : State → Out :=
  mxOpOp c (usesOf (.mxmacs c t a m)) a (fun v core seq s => mxMac core seq true t.toNat m.imm.toNat v s) t.toNat
/-- MXZERO (R335, R346). -/
def execMxzero (c : Ctl) (t : BitVec 4) (a : VReg) (m : Mods) : State → Out :=
  mxOpOp c (usesOf (.mxzero c t a m)) a (fun v core seq s => mxZero core seq (m.ty == .f64) t.toNat v s) t.toNat

/-! ### Warp instructions (R343, R344, R347 to R349) -/

/-- An instruction that a warp issues, once for each acting warp in ascending slot; `f` gives the new state and the uniform
result. -/
def warpMx (c : Ctl) (u : Uses) (regs : State → Mask → Chk Unit) (f : Mask → State → Member → State → Chk (State × Word)) : State → Out :=
  issueT c u (fun act s => do
    regs s act
    s.shapeChk u act fun _ => .uni
    wholeChk s act
    let r ← (s.cur.acting act).foldlM (fun (a : State × List (Mask × Word)) m => do
      let x ← f act s m a.1
      pure (x.1, a.2 ++ [(m.lanes, x.2)])) (s, [])
    match u.d with
    | some d => .ok (r.1.putD c d act fun l => match r.2.find? fun x => x.1.getLsbD l with
        | some x => x.2.setWidth 64
        | none => 0)
    | none => .ok r.1)

/-- OBRES.WIN's record in a reservation slot (R328). -/
def obresWin (act : Mask) (k shared : Nat) (base ext scale w3 : Word) (m : Mx) : Chk Mx := do
  let fmt := w3.toNat % 16
  let blk := w3.getLsbD 4
  let plane := w3.toNat / 256
  trapIf (decide (12 < fmt) || blk != mxScaled fmt || w3.toNat / 32 % 8 != 0 || (plane != 0 && !mxSix fmt)) .shaperec act 0x58
  trapIf (smGet? m.resv k).isSome .obextent act 1
  trapIf (base.toNat % 64 != 0 || ext.toNat % 64 != 0 || ext == 0) .obextent act 2
  trapIf (decide (shared < base.toNat + ext.toNat)) .obextent act 0
  .ok { m with resv := smSet m.resv k { base := base.toNat, extent := ext.toNat, scaleoff := scale.toNat, planeoff := plane, fmt := fmt, blk := blk } }

/-- Tiles and macros that the resident blocks of a core have claimed. -/
def claimed (k : Core) : Nat × Nat :=
  k.blocks.foldl (fun a qb => let c := qb.2.mx.claim.getD (0, 0); (a.1 + c.1, a.2 + c.2)) (0, 0)

/-- OBRES (R328, R344). It takes no capability operand, so Table 4.2's matrix-operand right is not checked here (R74, log entry 93). -/
def execObres (c : Ctl) (d a : VReg) (m : Mods) : State → Out :=
  warpMx c (usesOf (.obres c d a m)) (fun s act => uniOperand s a (if m.sub == 0 then 4 else 1) false act)
    (fun act s mm t => do
      let b := t.block mm.w.core mm.w.seq
      let v := fun j => uniVal s mm a j
      if m.sub == 0 then do
        let x ← obresWin act (m.imm.toNat % 16) b.image.shared (v 0) (v 1) (v 2) (v 3) b.mx
        pure (modMx mm.w.core mm.w.seq (fun _ => x) t, 1)
      else do
        let tiles := (v 0).toNat % 32
        let cims := (v 0).toNat / 256 % 64
        trapIf b.mx.claim.isSome .mxversion act 5
        trapIf (decide (16 < tiles) || decide (32 < cims) || v 0 &&& 0xFFFFC0E0 != 0) .shaperec act 0x58
        let used := claimed (t.core mm.w.core)
        if used.1 + tiles ≤ 16 ∧ used.2 + cims ≤ 32 then
          pure (modMx mm.w.core mm.w.seq (fun x => { x with claim := some (tiles, cims), tiles := [], cims := [] }) t, 1)
        else pure (t, 0))

/-- OBREL (R344). -/
def execObrel (c : Ctl) (m : Mods) : State → Out :=
  warpMx c (usesOf (.obrel c m)) (fun _ _ => .ok ())
    (fun act _ mm t => do
      let b := t.block mm.w.core mm.w.seq
      if m.sub == 0 then
        pure (modMx mm.w.core mm.w.seq (fun x => { x with resv := smDel x.resv (m.imm.toNat % 16) }) t, 0)
      else do
        let live := match b.mx.st with | .running | .waiting _ => true | _ => false
        let own := (t.core mm.w.core).owned && (match (t.core mm.w.core).owners with | o :: _ => o.1 == mm.w.seq | [] => false)
        trapIf (b.mx.claim.isNone || live || !b.mx.ops.isEmpty || own) .mxversion act 5
        pure (modMx mm.w.core mm.w.seq (fun x => { x with claim := none, tiles := [], cims := [] }) t, 0))

/-- SHAPE (R329, R344). -/
def execShape (c : Ctl) (a b : VReg) (m : Mods) : State → Out :=
  warpMx c (usesOf (.shape c a b m)) (fun s act => do uniOperand s a 2 false act; uniOperand s b 1 false act)
    (fun act s mm t => do
      let mx := t.mx mm.w
      let v := (uniVal s mm b 0).toNat
      let h : Shape := { resv := v / 65536 % 16, base := (uniVal s mm a 0).toNat, stride := (uniVal s mm a 1).toNat
                         rows := v % 256, cols := v / 256 % 256 }
      trapIf (h.rows == 0 || decide (128 < h.rows) || h.cols == 0 || decide (128 < h.cols)) .shaperec act 0x50
      match smGet? mx.resv h.resv with
      | none => .error { cause := .shaperec, lanes := act, info := 0x51 }
      | some r => do
        trapIf (h.base % 64 != 0) .shaperec act 0x52
        trapIf (decide (h.stride < rowBytesOf r.fmt h.cols) || h.stride % 16 != 0 ||
          (mxScaled r.fmt && mxBits r.fmt == 8 && h.stride % 32 != 0)) .shaperec act 0x53
        trapIf (outsideExtent r h h.base) .shaperec act 0x54
        pure (modMx mm.w.core mm.w.seq (fun x => { x with shapes := smSet x.shapes (m.imm.toNat % 16) h }) t, 0))

/-- The recorded stream fault of a block, as a trap (R338). -/
def recordedFault (act : Mask) (mx : Mx) : Chk Unit :=
  match mx.st with
  | .faulted cause sub =>
    match [Cause.illop, .shaperec, .mxversion, .capbound].find? fun x => x.code == cause with
    | some x => .error { cause := x, lanes := act, info := 0x80000000 + sub.setWidth 32 }
    | none => .ok ()
  | _ => .ok ()

/-- The checks 3 to 7 of R347 for one warp. -/
def readChk (act : Mask) (s : State) (core : Nat) (r : MxRead) : Chk Unit := do
  let b := s.block r.w.core r.w.seq
  recordedFault act b.mx
  let n := b.mx.tileCount
  let k64 := (b.mx.tile r.tile).k64
  let badC := match r.comp with | some c => decide (n ≤ c) | none => false
  let kindC := match r.comp with | some c => (b.mx.tile c).k64 || c == r.tile | none => false
  let wide := if r.cvt then r.ty == .f32 else r.ty == .f64
  trapIf (decide (n ≤ r.tile) || badC || (wide && k64 && r.tile % 2 == 1)) .shaperec act 0x55
  trapIf (k64 != wide || kindC) .shaperec act 0x57
  trapIf (decide (r.stride < r.rowBytes) || r.stride % 64 != 0) .shaperec act 0x53
  trapIf (r.off % 64 != 0) .misalign act
  let last := r.off + (r.n - 1) * r.stride + r.rowBytes
  trapIf (decide (b.image.shared < last)) .capbound act
  trapIf ((List.range r.n).any fun i => s.locked core true (.shm r.w.core r.w.seq) (r.off + i * r.stride, r.off + i * r.stride + r.rowBytes)) .rangelock act
  trapIf (r.ready b.mx == .past) .mxversion act

/-- MXST and MXCVT (R336, R347): LA is 0; the lines become absent at issue, once what the warp did before has reached them (R250, R365), and a reader whose version
is not there parks. -/
def readOp (c : Ctl) (u : Uses) (t : BitVec 4) (a b : VReg) (m : Mods) (cvt : Bool) : State → Out :=
  issueT c u (fun act s => do
    uniOperand s a 1 false act
    uniOperand s b 1 false act
    wholeChk s act
    let rs := (s.cur.acting act).map fun mm =>
      let bv := uniVal s mm b 0
      ({ w := mm.w, lanes := mm.lanes, tile := t.toNat, ver := bv.setWidth 16, off := (uniVal s mm a 0).toNat
         stride := bv.toNat / 65536, n := m.imm.toNat % 64 + 1, ty := m.ty, cvt := cvt, rnd := rndMode m.rnd (s.warp mm.w), sat := m.sat
         comp := if cvt && m.rnd == .ef then some (m.imm.toNat / 64 % 16) else none } : MxRead)
    rs.forM (readChk act s s.cur.core)
    match holdLines act (fun l => (rs.filter fun r => r.w == s.wrefAt l).flatMap fun r => r.lines.map fun n => (.shm r.w.core r.w.seq, 64 * n)) s with
    | some s' => .ok s'
    | none =>
    let id := s.nextId
    let s1 := rs.foldl (fun s r => clearPresence (.shm r.w.core r.w.seq) r.lines s) s
    let s2 := s1.startOp { c with la := 0 } { id := 0, core := 0, mems := [], obj := 0, pc := 0, work := .mxrd rs }
    let s3 := rs.foldl (fun s r => s.modThreads r.w r.lanes fun _ th => { th with wait := .mxver r.tile r.ver }) s2
    .ok (tryReaders id rs s3))

/-- MXST (R347). -/
def execMxst (c : Ctl) (t : BitVec 4) (a b : VReg) (m : Mods) : State → Out := readOp c (usesOf (.mxst c t a b m)) t a b m false
/-- MXCVT (R347). -/
def execMxcvt (c : Ctl) (t : BitVec 4) (a b : VReg) (m : Mods) : State → Out := readOp c (usesOf (.mxcvt c t a b m)) t a b m true

/-- MXVER (R348). -/
def execMxver (c : Ctl) (d : VReg) (t : BitVec 4) : State → Out :=
  warpMx c (usesOf (.mxver c d t)) (fun _ _ => .ok ())
    (fun act _ mm s => do
      let mx := s.mx mm.w
      trapIf (decide (mx.tileCount ≤ t.toNat)) .shaperec act 0x55
      let x := mx.tile t.toNat
      pure (s, x.ver.setWidth 32 + (if x.k64 then 0x10000 else 0)))

/-- MXFLAGS (R348). -/
def execMxflags (c : Ctl) (d : VReg) (m : Mods) : State → Out :=
  warpMx c (usesOf (.mxflags c d m)) (fun _ _ => .ok ())
    (fun _ _ mm s =>
      let mx := s.mx mm.w
      match m.sub.toNat with
      | 0 => .ok (s, mx.mxf.setWidth 32)
      | 1 => .ok (modMx mm.w.core mm.w.seq (fun x => { x with mxf := 0 }) s, mx.mxf.setWidth 32)
      | 2 => .ok (s, match mx.st with
        | .running => 1
        | .waiting _ => 3
        | .faulted cause sub => 4 + 256 * cause.setWidth 32 + 65536 * sub.setWidth 32
        | _ => 0)
      | _ => .ok (s, mx.pc))

/-- The team's mask of a block, and its arrivals at a barrier with the retired members (R339). -/
def teamMask (b : Block) : Mask := maskOf fun i => decide (i < b.image.team)
/-- The arrivals at a barrier; a retired team warp counts as arrived (R339). -/
def arrivals (b : Block) (k : Nat) : Mask := smGetD b.mx.bars k 0 ||| maskOf fun i => b.retired.contains i

/-- MXBAR (R338, R339, R349): the stream sees what the warp did before it (R341). -/
def execMxbar (c : Ctl) (k : BitVec 4) : State → Out :=
  issueT c (usesOf (.mxbar c k)) (fun act s => do
    wholeChk s act
    (s.cur.acting act).forM fun m => do
      let b := s.block m.w.core m.w.seq
      recordedFault act b.mx
      trapIf (b.image.team == 0) .mxversion act 3
      trapIf (decide (b.image.team ≤ m.w.warp)) .mxversion act 2
    match holdUntil false act s with
    | some s' => .ok s'
    | none => .ok ((s.cur.acting act).foldl (fun t m =>
      let bar := smGetD (t.mx m.w).bars k.toNat 0
      if bar.getLsbD m.w.warp then
        t.modThreads m.w m.lanes fun _ th => { th with wait := .mxbar k.toNat, pc := s.cur.pc }
      else modMx m.w.core m.w.seq (fun x => { x with bars := smSet x.bars k.toNat (bar ||| laneBit m.w.warp) }) t) s))

/-- MXWAIT (R339); issued by a warp it raises MXVERSION 0x03 (R343). -/
def execMxwait (c : Ctl) (k : BitVec 4) (s : State) : Out :=
  match s.cur.unit with
  | .stream seq => streamMx seq c (fun _ t =>
      let core := s.cur.core
      let b := t.block core seq
      if teamMask b &&& ~~~(arrivals b k.toNat) == 0 then
        .next (wakeWhere core seq (fun w => w == .mxbar k.toNat)
          (modMx core seq (fun m => { m with bars := smDel m.bars k.toNat }) t))
      else .next (modMx core seq (fun m => { m with pc := s.cur.pc, st := .waiting k.toNat }) t)) s
  | _ => issue c (usesOf (.mxwait c k)) (fun act s => do
      wholeChk s act
      .error (mxVersion act 3)) s

/-- MXACQ (R340, R349). -/
def execMxacq (c : Ctl) (m : Mods) : State → Out :=
  issueT c (usesOf (.mxacq c m)) (fun act s => do
    wholeChk s act
    let core := s.cur.core
    trapIf (!(s.core core).mxsolo) .mxversion act 1
    trapIf ((s.cur.acting act).any fun m => (s.core core).owners.contains (m.w.seq, m.w.warp)) .mxversion act 5
    .ok (grantOwner core ((s.cur.acting act).foldl (fun t m =>
      (t.modCore core fun k => { k with owners := k.owners ++ [(m.w.seq, m.w.warp)] }).modThreads m.w m.lanes
        fun _ th => { th with wait := .mxacq }) s)))

/-- MXREL (R340, R349). -/
def execMxrel (c : Ctl) (m : Mods) : State → Out :=
  issueT c (usesOf (.mxrel c m)) (fun act s => do
    wholeChk s act
    trapIf (!(s.cur.acting act).all fun m => ownsUnit s m.w) .mxversion act 1
    .ok ((s.cur.acting act).foldl (fun t m => dropOwner m.w t) s))

/-! ### The unit's steps -/

/-- Wakes an owner's threads that wait for an operation or a load to start; a reader of its own keeps its threads waiting. -/
def wakeOwner (core seq : Nat) (s : State) : State :=
  match (s.core core).owners with
  | (q, w) :: _ =>
    let reads := s.ops.any fun o => match o.work with | .mxrd rs => rs.any fun r => r.w == { core := core, seq := seq, warp := w } | _ => false
    if q == seq && !reads then
      let s := { s with clock := s.clock + 1 }
      s.modWarp { core := core, seq := q, warp := w } fun x => x.mapThreads fun th => match th.wait with
        | .mxver _ _ => { th with wait := .none, stamp := s.clock }
        | _ => th
    else s
  | [] => s

/-- MATRIX_OP_START (R335): a waiting operation starts once F is 0 and nothing touches its tiles or runs on its macro; a load that waits is performed
once its lines are present (R341, R345). -/
def execMatrixOpStart (core seq k : Nat) (s : State) : Out :=
  .next (let b := s.block core seq
    let m := b.mx
    match m.ops[k]? with
    | some o => match o.src with
      | some x =>
        if m.loadWaits b o x then s
        else grantOwner core (wakeOwner core seq (modMx core seq (fun m => ({ m with ops := m.ops.eraseIdx k } : Mx).load b o x) s))
      | none =>
        if !o.started && !(m.busy o) then
          wakeOwner core seq (modMx core seq (fun m => { m with ops := m.ops.set k { o with started := true } }) s)
        else s
    | none => s)

/-- MATRIX_OP_COMPLETE (R333, R335, R336): the tile, MXF, the version; then the readers are tested again, and an owner may wake (R340). -/
def execMatrixOpComplete (core seq k : Nat) (s : State) : Out :=
  .next (match (s.block core seq).mx.ops[k]? with
    | some o =>
      if o.started then
        grantOwner core (retryReaders core seq (modMx core seq (fun m => finishOp o s.free { m with ops := m.ops.eraseIdx k })
          { s with free := s.free + 8192, clock := s.clock + 1 }))
      else s
    | none => s)

end Sys2Proof.Machine
end

