-- ==== Sys2Proof/Machine/Solver.lean ====
section
/-!
DEFINITION. Group 10, solver support (chapter 15): schedules, division and square roots, pivots and triangular steps.
-/
set_option autoImplicit false

namespace Sys2Proof.Machine

/-! ### Schedules (R350 to R352, R356) -/

/-- OP of a step record (Table 15.1). -/
def stepOp (e : BitVec 64) : Nat := bitsAt e.toNat 62 2
/-- DST of a step record. -/
def stepDst (e : BitVec 64) : Nat := bitsAt e.toNat 40 20
/-- SA of a step record. -/
def stepA (e : BitVec 64) : Nat := bitsAt e.toNat 20 20
/-- SB of a step record. -/
def stepB (e : BitVec 64) : Nat := bitsAt e.toNat 0 20
/-- The largest index that a step names. -/
def stepMax (e : BitVec 64) : Nat := max (stepDst e) (max (stepA e) (stepB e))

/-- One step on the window in a memory: the memory after it, and the flags (R351). -/
def runStep (r : SchedRun) (e : BitVec 64) (mem : Memory) : Memory × FpFlags :=
  let f := if r.f64 then fmtF64 else fmtF32
  let k := f.bits / 8
  let w := fun (i : Nat) => f.read (memNat mem (r.base + i * k) k)
  let p := mulV (w (stepA e)) (w (stepB e))
  let v := match stepOp e with
    | 0 => addV r.rnd (w (stepDst e)) p
    | 1 => addV r.rnd (w (stepDst e)) (negV p)
    | _ => p
  let x := f.write r.rnd false v
  (memPutNat mem (r.base + stepDst e * k) k x.v, x.fl)

/-- Every step in record order: the memory after the last, and the flags (R351). -/
def runSched (r : SchedRun) : List (BitVec 64) → Memory → FpFlags → Memory × FpFlags
  | [], mem, fl => (mem, fl)
  | e :: es, mem, fl => let x := runStep r e mem; runSched r es x.1 (fl ||| x.2)

/-- The first failing step check of R356: the subcode and the step's index. -/
def schedErr (k base shared : Nat) : Nat → List (BitVec 64) → Option (Nat × Nat)
  | _, [] => none
  | i, e :: es =>
    if stepOp e = 3 ∨ bitsAt e.toNat 60 2 ≠ 0 then some (0x61, i)
    else if shared < base + k * (stepMax e + 1) then some (0x62, i)
    else schedErr k base shared (i + 1) es

/-- Registers the window of a SCHRUN: an entry, and its lines become absent (R352). -/
def registerSched (core op : Nat) (r : SchedRun) (s : State) : State :=
  let sd := Side.shm r.w.core r.w.seq
  let c : Copy := { id := 0, seq := r.w.seq, uid := (s.block r.w.core r.w.seq).uid, entry := true, srcSide := none, dstSide := sd
                    dstR := (r.base, r.base + r.len), todo := [], op := some op }
  (clearPresence sd (linesOf r.base r.len) (addCopy core c s)).modOp op fun o => { o with work := .sched { r with going := true } }

/-- SCHRUN (R356): ordered after the thread's earlier accesses as CPKICK is (R259), so it is held until those are performed, and then reads its records. -/
def execSchrun (c : Ctl) (o : OpsM) : State → Out :=
  let u := usesOf (.schrun c o)
  let op := opdM o (o.m.sub == 1)
  issueT c u (fun act s => do
    s.reachChk o.d 2 [.gen, .aff, .uni] act
    s.shapeChk u act fun _ => .gen
    let l := (lanesOf act).headD 0
    let w := s.wrefAt l
    let base := (s.srcMore o.d 0 l).toNat
    let n := (s.srcMore o.d 1 l).toNat
    let k := tyBytes o.m.ty
    onLanes act (do
      if !op.shm then
        capChk s (laneBit l) op.cap [0] [.scratch]
        trapIf (s.homeOf (op.side s l) != some s.cur.core) .capright 0
      op.place s (laneBit l) (8 * n) 8)
    trapIf (n == 0 || base % k != 0) .shaperec act 0x60
    match (holdEngine act s).or (holdPlaces false [(op.side s l, op.ea s l, 8 * n)] s) with
    | some s' => .ok s'
    | none =>
    let es := (List.range n).map fun i => BitVec.ofNat 64 (s.readNat (op.side s l) (op.ea s l + 8 * i) 8)
    match schedErr k base (s.blockAt l).image.shared 0 es with
    | some (sub, i) => .error { cause := .shaperec, lanes := act, info := BitVec.ofNat 32 (65536 * i + sub) }
    | none => .ok ()
    let len := k * (es.foldl (fun m e => max m (stepMax e)) 0 + 1)
    trapIf (s.locked s.cur.core true (.shm w.core w.seq) (base, base + len)) .rangelock act
    let id := s.nextId
    let r : SchedRun := { w := w, f64 := o.m.ty == .f64, rnd := rndMode o.m.rnd (s.warpAt l), base := base, len := len, entries := es }
    let s1 := s.startOp { c with la := 0 } { id := 0, core := 0, mems := [], obj := 0, pc := 0, work := .sched r }
    if 0 < freeEntries s s.cur.core then .ok (registerSched s.cur.core id r s1)
    else .ok (s1.modMembers (s1.cur.acting act) fun m x => x.modThreads m.lanes fun _ th => { th with wait := .copy id }))

/-- SCHRUN_REGISTER (R356): a parked SCHRUN gets an entry; a window that conflicts by then raises RANGELOCK (R352). -/
def execSchrunRegister (k : Nat) (s : State) : Out :=
  .next (match s.op? k with
    | none => s
    | some o => match o.work with
      | .sched r =>
        if r.going || freeEntries s o.core == 0 then s
        else if s.locked o.core true (.shm r.w.core r.w.seq) (r.base, r.base + r.len) then
          let z := maskOf fun l => o.mems.any fun m => m.lanes.getLsbD l && ((s.warp m.w).thread l).wait == .copy k
          takeDeferred (raiseAt { cause := .rangelock, lanes := z } (o.group s) ((wakeOp k o.mems s).dropOp o))
        else wakeOp k o.mems (registerSched o.core k r s)
      | _ => s)

/-- The completion of a SCHRUN: its steps are performed, presence is set, the entry is released, and the flags enter FPFLAGS without a
trap (R351, R352, R356). -/
def completeSched (o : LongOp) (r : SchedRun) (s : State) : State :=
  let sd := Side.shm r.w.core r.w.seq
  let x := runSched r r.entries (s.sideMem sd) 0
  let s1 := s.modBlock r.w.core r.w.seq fun b => { b with shared := x.1 }
  let s2 := (linesOf r.base r.len).foldl (fun s l => markPresent sd l s) s1
  let s3 := s2.modCore o.core fun k => { k with copies := k.copies.filter fun c => c.op != some o.id }
  takeDeferred (orFlags [(r.w, 0, x.2)] (s3.dropOp o))

/-! ### DDIV and DSQRT (R353, R357) -/

/-- DDIV (R357). -/
def execDdiv (c : Ctl) (o : OpsV) : State → Out :=
  let u := usesOf (.ddiv c o)
  fpLong c u (autoRule u) fun s l =>
    let q := divV (s.fsrc o.m.ty u.a l) (s.fsrc o.m.ty u.b l)
    let x := (fmtOf o.m.ty).write (s.mode o.m l) o.m.sat q.1
    { x with fl := x.fl ||| q.2 }

/-- DSQRT (R357). -/
def execDsqrt (c : Ctl) (o : OpsV) : State → Out :=
  let u := usesOf (.dsqrt c o)
  fpLong c u (autoRule u) fun s l => (fmtOf o.m.ty).write (s.mode o.m l) o.m.sat (sqrtV (s.fsrc o.m.ty u.a l))

/-! ### PIVCHK, TRSTEP and SCHSTAT (R354, R358 to R360) -/

/-- The magnitude of a value. -/
def absV : FVal → FVal
  | .num _ m e => .num false m e
  | .inf _ => .inf false
  | v => v

/-- PIVCHK in one lane: the result, the NV flag, and whether the pivot is replaced (R358). -/
def pivot (f : Fmt) (x y : Nat) : FRes × Bool :=
  let a := f.read x
  let b := f.read y
  let fl : FpFlags := if a.isSig || b.isSig then flNV else 0
  if a.isNan then ({ v := f.nan, fl := fl }, false)
  else if !b.isNan && decide (cmpV (absV a) b < 0) then ({ v := y + f.signBit a.neg, fl := fl }, true)
  else ({ v := x, fl := fl }, false)

/-- PIVCHK (R354, R358). -/
def execPivchk (c : Ctl) (o : OpsV) : State → Out :=
  let u := usesOf (.pivchk c o)
  issueT c u (fun act s => do
    s.shapeChk u act fun _ => .gen
    let f := fmtOf o.m.ty
    let x := fun l => pivot f ((s.src? u.a l).toNat % 2 ^ f.bits) ((s.src? u.b l).toNat % 2 ^ f.bits)
    let fl := laneFlags s act fun l => (x l).1.fl
    fpChk s fl
    let s1 := match u.d with
      | some d => s.putD c d act fun l => BitVec.ofNat 64 (x l).1.v
      | none => s
    .ok ((orFlags fl s1).modMembers (s.cur.acting act) fun m w =>
      let n := ((lanesOf m.lanes).filter fun l => (x l).2).length
      if n = 0 then w else { w with fpflags := w.fpflags ||| flPV, pvcnt := BitVec.ofNat 32 (min (w.pvcnt.toNat + n) (2 ^ 32 - 1)) }))

/-- TRSTEP (R359). -/
def execTrstep (c : Ctl) (o : OpsV) : State → Out :=
  arithF c (usesOf (.trstep c o)) o.m fun r a b d => mulV (addV r d (negV a)) b

/-- SCHSTAT (R360): sampled at issue, and uniform. -/
def execSchstat (c : Ctl) (o : OpsV) : State → Out :=
  let u := usesOf (.schstat c o)
  issueT c u (fun act s => do
    s.shapeChk u act fun _ => .uni
    let runs := fun (w : WRef) => (s.ops.filter fun p => match p.work with | .sched r => r.w == w | _ => false).length
    let s1 := match u.d with
      | some d => s.putD c d act fun l =>
          if o.m.sub == 0 then BitVec.ofNat 64 (runs (s.wrefAt l)) else ((s.warpAt l).pvcnt).setWidth 64
      | none => s
    .ok (if o.m.sub == 2 then s1.modMembers (s.cur.acting act) fun _ w => { w with pvcnt := 0 } else s1))

end Sys2Proof.Machine
end

