-- ==== Sys2Proof/Machine/Sync.lean ====
section
/-!
DEFINITION. Group 11, atomics, fences, acquires and releases, and the Conjunction instructions (chapter 16, R384 to R393).
-/
set_option autoImplicit false

namespace Sys2Proof.Machine

/-- A scope of die or wider (Table 16.1). -/
def scopeDie (m : Mods) : Bool := match m.scope with | .die | .dev | .sys => true | _ => false

/-- A scope other than thread: an ATOM or ATOMC is an acquire and a release there (R370). -/
def scopeWide (m : Mods) : Bool := match m.scope with | .thr => false | _ => true

/-- The memory operand of a group 11 instruction: x19 is the space (R384). -/
def opdS (o : OpsM) : MemOpd := opdM o (o.m.sub.getLsbD 3)

/-- One step for each active lane, in group order (R386). -/
def syncSteps (s : State) (act : Mask) (o : OpsM) (n : Nat) (d : Option Nat) (rel acq : Bool) (f : Nat → MAct) : List MemStep :=
  (s.groupLanes act).map fun l =>
    { w := s.wrefAt l, lanes := laneBit l, side := (opdS o).side s l, off := (opdS o).ea s l, n := n, act := f l, d := d
      ord := rel && scopeWide o.m, rel := rel && scopeDie o.m, acq := acq && scopeDie o.m }

/-- ATOM (R386). -/
def execAtom (c : Ctl) (o : OpsM) : State → Out :=
  let u := usesOf (.atom c o)
  let k := tyBytes o.m.ty
  issueT c u (fun act s => do
    s.shapeChk u act fun _ => .gen
    (opdS o).check s act k k [0, 1] [.data, .scratch]
    (opdS o).storeChk s act k
    .ok (startMem c act u.d [] (syncSteps s act o k (dstReg o.d) true true fun l =>
      .rmw (o.m.sub.toNat % 8) o.m.ty o.m.sat (s.src? u.ds l)) s))

/-- The new value of ATOMC: the register or pair after the compare value (R387). -/
def casNew (s : State) (o : OpsM) (l : Nat) : BitVec 64 :=
  if o.m.ty.is64 then s.srcMore o.d 3 l ++ s.srcMore o.d 2 l else (s.srcMore o.d 1 l).setWidth 64

/-- ATOMC (R387): its access size for the checks is twice the type's (R385). -/
def execAtomc (c : Ctl) (o : OpsM) : State → Out :=
  let u := usesOf (.atomc c o)
  let k := tyBytes o.m.ty
  issueT c u (fun act s => do
    s.reachChk o.d (k / 2) (if k = 8 then [.gen, .uni] else [.gen, .aff, .uni]) act
    s.shapeChk u act fun _ => .gen
    (opdS o).check s act (2 * k) (2 * k) [0, 1] [.data, .scratch]
    (opdS o).storeChk s act (2 * k)
    .ok (startMem c act u.d [] (syncSteps s act o k (dstReg o.d) true true fun l =>
      .cas o.m.ty.is64 (s.src? u.ds l) (casNew s o l)) s))

/-- LDACQ (R388). -/
def execLdacq (c : Ctl) (o : OpsM) : State → Out :=
  let u := usesOf (.ldacq c o)
  let k := tyBytes o.m.ty
  issueT c u (fun act s => do
    s.shapeChk u act fun _ => .gen
    (opdS o).check s act k k [0] [.data, .scratch]
    .ok (startMem c act u.d [] (syncSteps s act o k (dstReg o.d) false true fun _ => .load (.ext o.m.ty)) s))

/-- STREL (R388): where lanes write one byte, the highest lane's value remains. -/
def execStrel (c : Ctl) (o : OpsM) : State → Out :=
  let u := usesOf (.strel c o)
  let k := tyBytes o.m.ty
  issueT c u (fun act s => do
    s.shapeChk u act fun _ => .gen
    (opdS o).check s act k k [1] [.data, .scratch]
    (opdS o).storeChk s act k
    .ok (startShort false [] ((lanesOf act).map fun l =>
      { w := s.wrefAt l, lanes := laneBit l, side := (opdS o).side s l, off := (opdS o).ea s l, n := k
        act := .store (leBytes k (s.src? u.ds l).toNat), ord := true, rel := scopeDie o.m }) s))

/-! ### Fences (R389) -/

/-- A fence that is an acquire at die scope or wider is recorded in its threads (R288). -/
def fenceDone (kind : Nat) (ms : List Member) (s : State) : State := acquireLanes ms (decide (4 ≤ kind) && decide (kind < 8) && kind % 4 != 2) s

/-- FENCE (R389): each active thread is held until the condition is met. -/
def execFence (c : Ctl) (m : Mods) : State → Out :=
  let u := usesOf (.fence c m)
  issueT c u (fun act s =>
    let ms := s.cur.acting act
    let kind := m.sub.toNat + (if scopeDie m then 4 else 0)
    let id := s.nextId
    .ok (if fenceMet s.cur.core id kind ms s then fenceDone kind ms s
      else
        let o : LongOp := { id := id, core := s.cur.core, mems := ms, obj := s.cur.obj, pc := s.cur.pc, work := .fence kind }
        { s with nextId := id + 1, ops := s.ops ++ [o] }.modMembers ms fun mm w =>
          w.modThreads mm.lanes fun _ th => { th with wait := .answer id }))

/-- An outstanding fence is met: its threads go on. -/
def resumeFence (o : LongOp) (s : State) : State :=
  match o.work with
  | .fence kind =>
    if fenceMet o.core o.id kind o.mems s then (fenceDone kind o.mems (wakeOp o.id o.mems s)).dropOp o else s
  | _ => s

/-! ### Conjunction instructions (R390 to R393) -/

/-- How the active lanes wait while a Conjunction instruction's step has not been performed: at a COMPRESSED page they park (R85). -/
def parkCj (core id : Nat) (ms : List Member) (r : CjReq) (s : State) : Wait :=
  match cjGate s core id ms true false r with
  | .wprot => .wprot id
  | .abort => .load id
  | _ => if (s.homeOf r.side).isNone && s.gate core r.side r.off 64 r.changes false true true == .wait then .load id
    else if (r.kind == 3 || r.kind == 5) && s.absentAt r.side r.off 64 then .load id
    else if r.kind == 0 then .none else if r.kind == 3 then .load id else .answer id

/-- Starts a Conjunction instruction: performed at once if its gate is open, and otherwise outstanding; one that may still trap holds its whole group, which
would enter the handler (R427). -/
def startCj (c : Ctl) (act : Mask) (d : Option Fld) (r : CjReq) (s : State) : Chk State :=
  let ms := s.cur.acting act
  let id := s.nextId
  let base : LongOp := { id := id, core := s.cur.core, mems := s.cur.mems, obj := s.cur.obj, pc := s.cur.pc
                         marks := marksOf s.cur act d [] }
  let start := fun (o : LongOp) (s : State) =>
    if r.kind == 3 then s.startOp c o else { s with nextId := id + 1, ops := s.ops ++ [o] }
  let hold := fun (ms : List Member) (x : Wait) (s : State) =>
    if x == .none then s else s.modMembers ms fun m w => w.modThreads m.lanes fun _ th => { th with wait := x }
  if cjGate s s.cur.core id ms false false r == .ok then
    match performCj r s with
    | .trap t => .error t
    | .wait s => .ok (hold ms (.conj id) (start { base with work := .conj { r with parked := true } } s))
    | .done s' vals =>
      let rws := laneWrites s' ms r.d vals
      let s' := acquireLanes ms r.acq (s'.latchResult s.cur.core r.hold vals)
      .ok (afterCj r (if r.kind == 3 then s'.startOp c { base with rws := rws } else rws.foldl deliver s'))
  else
    let p := parkCj s.cur.core id ms r s
    let s' := start { base with work := .conj r } s
    .ok (hold (if r.kind == 5 then ms else s.cur.mems) p (if cjGate s s.cur.core id ms true false r == .abort then abortAccess (s.wrefAt ((lanesOf act).headD 0)) r.side r.off 64 s' else s'))

/-- The checks of a Conjunction instruction, its address taken from the lowest active lane (R384, R385), and its start. -/
def cjOp (c : Ctl) (u : Uses) (o : OpsM) (kind : Nat) (sh : Shp) : State → Out :=
  let store := !(kind == 3 || kind == 5)
  issueT c u (fun act s => do
    let l := (lanesOf act).headD 0
    s.shapeChk u act fun _ => sh
    (opdS o).check s (laneBit l) 64 64 [if store then 1 else 0] (if store then [.data, .scratch] else [.data, .scratch, .report])
    if store then (opdS o).storeChk s (laneBit l) 64
    let order := if kind == 1 || kind == 2 || kind == 4 then s.groupLanes act else lanesOf act
    startCj c act u.d
      { kind := kind, sub := o.m.sub.toNat % 8, side := (opdS o).side s l, off := (opdS o).ea s l, d := o.d
        vals := order.map fun l => (l, (s.src? u.ds l).setWidth 32)
        rel := store && scopeDie o.m, acq := !store && scopeDie o.m, hold := s.resultSlot c } s)

/-- CJINIT (R390). -/
def execCjinit (c : Ctl) (o : OpsM) : State → Out := cjOp c (usesOf (.cjinit c o)) o 0 .gen
/-- CJARR (R391). -/
def execCjarr (c : Ctl) (o : OpsM) : State → Out := cjOp c (usesOf (.cjarr c o)) o 1 .gen
/-- CJDROP (R391). -/
def execCjdrop (c : Ctl) (o : OpsM) : State → Out := cjOp c (usesOf (.cjdrop c o)) o 2 .gen
/-- CJWAIT (R392). -/
def execCjwait (c : Ctl) (o : OpsM) : State → Out := cjOp c (usesOf (.cjwait c o)) o 3 .uni
/-- CJBYTE (R391). -/
def execCjbyte (c : Ctl) (o : OpsM) : State → Out := cjOp c (usesOf (.cjbyte c o)) o 4 .gen
/-- CJTEST (R393). -/
def execCjtest (c : Ctl) (o : OpsM) : State → Out := cjOp c (usesOf (.cjtest c o)) o 5 .uni

end Sys2Proof.Machine
end

