-- ==== Sys2Proof/Machine/Capability.lean ====
section
/-!
DEFINITION. Group 13, the capability instructions (chapter 4, R88 to R93).
-/
set_option autoImplicit false

namespace Sys2Proof.Machine

/-- Each block with an active lane, in ascending order of its lowest warp slot in the group, with its lowest active lane (R88). -/
def State.actingBlocks (s : State) (act : Mask) : List ((Nat × Nat) × Nat) :=
  let ms := s.cur.acting act
  (blocksOf ms).map fun cq =>
    (cq, (lanesOf ((ms.filter fun m => (m.w.core, m.w.seq) == cq).foldl (fun a m => a ||| m.lanes) 0)).headD 0)

/-- A vector register read as an unsigned 32-bit number in a lane. -/
def State.u32 (s : State) (r : VReg) (l : Nat) : Nat := (s.src { r := r } l).toNat % 2 ^ 32

/-- The slot number of CAPLD and CAPST (R89). -/
def slotNo (s : State) (b : VReg) (m : Mods) (l : Nat) : Nat := s.u32 b l + m.imm.toNat

/-- The checks of R89 for one block. -/
def slotChk (s : State) (act : Mask) (right : Nat) (ca : Nat) (b : VReg) (m : Mods) (x : (Nat × Nat) × Nat) : Chk Unit := do
  let k := s.block x.1.1 x.1.2
  let c := k.cap ca
  trapIf (!s.usable k.part c) .capinvalid act
  trapIf (match s.capObj c with | some o => o.kind != .capStore | none => true) .capright act
  trapIf (!c.right right) .capright act
  trapIf (decide (c.upper.toNat < c.lower.toNat + 16 * slotNo s b m x.2 + 16)) .capbound act
  trapIf (c.lower.toNat % 16 != 0) .misalign act

/-- Makes a check for each block in turn. -/
def forBlocks (f : (Nat × Nat) × Nat → Chk Unit) : List ((Nat × Nat) × Nat) → Chk Unit
  | [] => .ok ()
  | x :: r => do
    f x
    forBlocks f r

/-- The memory step of a CAPLD or CAPST of one block. -/
def slotStep (s : State) (ca : Nat) (b : VReg) (m : Mods) (act : Mask) (f : Block → MAct) (x : (Nat × Nat) × Nat) : MemStep :=
  let k := s.block x.1.1 x.1.2
  let mem := ((s.cur.acting act).find? fun mm => mm.w.core == x.1.1 && mm.w.seq == x.1.2).getD
    { w := { core := x.1.1, seq := x.1.2, warp := 0 }, lanes := 0 }
  { w := mem.w, lanes := mem.lanes, side := .obj (k.cap ca).oid, off := (k.cap ca).lower.toNat + 16 * slotNo s b m x.2, n := 16
    act := f k }

/-- CAPLD (R89): it writes its register in the clock of its issue (R76), so it is held until its slots can be read. -/
def execCapld (c : Ctl) (cd ca : BitVec 5) (b : VReg) (m : Mods) : State → Out :=
  issueT c (usesOf (.capld c cd ca b m)) (fun act s => do
    s.uniformChk b act
    forBlocks (slotChk s act 0 ca.toNat b m) (s.actingBlocks act)
    let steps := (s.actingBlocks act).map fun x => slotStep s ca.toNat b m act (fun _ => .capld x.1 cd.toNat) x
    match holdSteps steps s with
    | some s' => .ok s'
    | none => .ok (startMem c act none [] steps s))

/-- CAPST (R89): it stores the register with its valid bit. -/
def execCapst (c : Ctl) (cd ca : BitVec 5) (b : VReg) (m : Mods) : State → Out :=
  issueT c (usesOf (.capst c cd ca b m)) (fun act s => do
    s.uniformChk b act
    forBlocks (slotChk s act 1 ca.toNat b m) (s.actingBlocks act)
    .ok (startShort false [] ((s.actingBlocks act).map fun x =>
      slotStep s ca.toNat b m act (fun k => .capst (k.cap cd.toNat)) x) s))

/-- Derives a capability (R90): its source is usable and may be derived, and the bounds do not widen. -/
def derive (s : State) (act : Mask) (k : Block) (c : Cap) (lo hi : Nat) (rights : BitVec 8) : Chk Cap := do
  trapIf (!s.usable k.part c) .capinvalid act
  trapIf (!c.right 5) .capright act
  trapIf (decide (c.upper.toNat < hi) || decide (hi < lo)) .capbound act
  .ok { valid := true, oid := c.oid, rights := rights, upper := BitVec.ofNat 48 hi, lower := BitVec.ofNat 48 lo }

/-- Writes a capability register of each block, or traps with no block changed (R88). -/
def capWrite (cd : Nat) (f : (Nat × Nat) × Nat → Chk Cap) (s : State) : List ((Nat × Nat) × Nat) → Chk State
  | [] => .ok s
  | x :: r => do
    let v ← f x
    let s' ← capWrite cd f s r
    .ok (s'.putCap x.1.1 x.1.2 cd v)

/-- CAPNAR (R90). -/
def execCapnar (c : Ctl) (cd ca : BitVec 5) (b : VReg) (m : Mods) : State → Out :=
  issueT c (usesOf (.capnar c cd ca b m)) (fun act s => do
    s.reachChk b 2 [.uni] act
    s.uniformChk b act
    capWrite cd.toNat (fun x =>
      let k := s.block x.1.1 x.1.2
      let v := k.cap ca.toNat
      let lo := v.lower.toNat + s.u32 b x.2
      if b == .zero then derive s act k v v.lower.toNat v.upper.toNat (v.rights &&& m.imm.setWidth 8)
      else derive s act k v lo (lo + (s.srcMore b 1 x.2).toNat) (v.rights &&& m.imm.setWidth 8)) s (s.actingBlocks act))

/-- CAPOFF (R90). -/
def execCapoff (c : Ctl) (cd ca : BitVec 5) (m : Mods) : State → Out :=
  issueT c (usesOf (.capoff c cd ca m)) (fun act s =>
    capWrite cd.toNat (fun x =>
      let k := s.block x.1.1 x.1.2
      let v := k.cap ca.toNat
      derive s act k v (v.lower.toNat + 64 * m.imm.toNat) v.upper.toNat v.rights) s (s.actingBlocks act))

/-- The code of the trap that an access of `n` bytes at an offset would raise (R91). -/
def capCode (s : State) (k : Block) (c : Cap) (rights : BitVec 8) (off n : Nat) : Word :=
  if !s.usable k.part c then 6
  else if rights &&& ~~~c.rights != 0 || (match s.capObj c with | some o => o.kind == .capStore | none => true) then 5
  else if c.upper.toNat < c.lower.toNat + off + n then 4
  else 0

/-- CAPTST (R91). Its result goes to D, as Table 4.5 and the assembly form give it; R91's text names vB (log entry 94). -/
def execCaptst (c : Ctl) (d : VReg) (ca : BitVec 5) (b : VReg) (m : Mods) : State → Out :=
  let u := usesOf (.captst c d ca b m)
  issueT c u (fun act s => do
    s.shapeChk u act fun mm => autoShp u (s.warp mm.w)
    .ok (s.putD c { r := d } act fun l =>
      let k := s.blockAt l
      (capCode s k (k.cap ca.toNat) (m.imm.setWidth 8) (s.u32 b l) (2 ^ m.sub.toNat)).setWidth 64))

/-- The field of CAPGET (R92). -/
def capField (s : State) (k : Block) (c : Cap) (f : Nat) : Word :=
  match f with
  | 0 => c.lower.setWidth 32
  | 1 => (c.lower >>> 32).setWidth 32
  | 2 => c.upper.setWidth 32
  | 3 => (c.upper >>> 32).setWidth 32
  | 4 => c.oid.setWidth 32
  | 5 => c.rights.setWidth 32
  | _ => if s.usable k.part c then 1 else 0

/-- CAPGET (R92): an invalid register reads all fields as zero; its result is uniform. -/
def execCapget (c : Ctl) (d : VReg) (ca : BitVec 5) (m : Mods) : State → Out :=
  let u := usesOf (.capget c d ca m)
  issueT c u (fun act s => do
    s.shapeChk u act fun _ => .uni
    .ok (s.putD c { r := d } act fun l =>
      let k := s.blockAt l
      (if (k.cap ca.toNat).valid then capField s k (k.cap ca.toNat) m.sub.toNat else 0).setWidth 64))

/-- CAPMOV and CAPMOV.CLR (R93). -/
def execCapmov (c : Ctl) (cd ca : BitVec 5) (m : Mods) : State → Out :=
  issueT c (usesOf (.capmov c cd ca m)) (fun act s =>
    capWrite cd.toNat (fun x => .ok (if m.sub == 1 then {} else
      let v := (s.block x.1.1 x.1.2).cap ca.toNat
      if v.valid then v else {})) s (s.actingBlocks act))

end Sys2Proof.Machine
end

