-- ==== Sys2Proof/Machine/Placement.lean ====
section
/-!
DEFINITION. Placement (chapter 7, R139 to R146, R154): a partition's numbering of its cores and dies, whether a block fits on a core, and the
start of a block on it (R131, R395).
-/
set_option autoImplicit false

namespace Sys2Proof.Machine

/-! ### Partitions (R9, R113) -/

/-- The compute die of a core (R9). -/
def dieOf (core : Nat) : Nat := core / 48
/-- A partition, or an empty one. -/
def State.part (s : State) (p : Nat) : Part := smGetD s.parts p {}
/-- Changes a partition that exists. -/
def State.modPart (s : State) (p : Nat) (f : Part → Part) : State :=
  match smGet? s.parts p with
  | some x => { s with parts := smSet s.parts p (f x) }
  | none => s
/-- The module dies that hold a core of the partition, ascending (R113). -/
def Part.dies (p : Part) : List Nat := (List.range 4).filter fun d => p.cores.any fun c => dieOf c == d
/-- A core's number in its partition (R113). -/
def Part.coreNo (p : Part) (core : Nat) : Nat := p.cores.idxOf core
/-- A die's number in a partition (R113). -/
def Part.dieNo (p : Part) (core : Nat) : Nat := p.dies.idxOf (dieOf core)
/-- The partition of a core, or 16 for none. -/
def State.partOf (s : State) (core : Nat) : Nat := (s.core core).part.getD 16

/-! ### Objects and their frames (R73, R78, R80, R81) -/

/-- The 64 KiB frames that one copy of an object maps; a scratch object lies in SRAM. -/
def Obj.copyFrames (o : Obj) : Nat :=
  if o.kind == .scratch then 0 else if o.large then (o.size + 2097151) / 2097152 * 32 else (o.size + 65535) / 65536

/-- The frames that an object maps: a copy for every compute die of an RDUP or MREP object. -/
def Obj.frames (o : Obj) : Nat := o.copyFrames * (if o.proto.repl == 0 then 1 else 4)

/-- The frames that nothing holds: of a partition's share, or, for what firmware owns, of the module. -/
def State.room (s : State) (owner : Nat) : Frames := if owner = 16 then s.hbm else (s.part owner).room
/-- Replaces the frames that nothing holds. -/
def State.setRoom (s : State) (owner : Nat) (l : Frames) : State :=
  if owner = 16 then { s with hbm := l } else s.modPart owner fun p => { p with room := l }
/-- Gives frames back to an owner. -/
def State.giveFrames (s : State) (owner : Nat) (l : Frames) : State := s.setRoom owner (l.foldl (fun r x => putFrames x r) (s.room owner))

/-- Takes an object's frames out of free ones, the lowest first (log entry 95): one run list, or one for each compute die from that die's stacks; and the
frames left. An object for which they do not suffice gets what there is. -/
def Obj.take (o : Obj) (room : Frames) : List Frames × Frames :=
  let unit := if o.large then 32 else 1
  if o.copyFrames = 0 then ([], room)
  else if o.proto.repl == 0 then
    let x := takeFrames unit room o.copyFrames
    ([x.1], x.2)
  else
    (List.range 4).foldl (fun a d =>
      let x := takeFrames unit (a.2.filter fun e => frameDie e.1 == d) o.copyFrames
      (a.1 ++ [x.1], a.2.filter (fun e => frameDie e.1 != d) ++ x.2)) ([], room)

/-- The owner's free frames do not suffice for an object (R81). -/
def State.lacks (s : State) (o : Obj) : Bool := (o.take (s.room o.owner)).1.any fun l => decide (frameCount l < o.copyFrames)

/-- An id that names no object may name a new one (Table 4.1). -/
def State.oidFree (s : State) (id : BitVec 24) : Bool := id != 0 && id != 0xFFFFFF && (s.obj? id).isNone

/-- The next id that names no object, from the fresh numbers. -/
def pickOid : Nat → State → BitVec 24 × State
  | 0, s => (BitVec.ofNat 24 s.nextId, { s with nextId := s.nextId + 1 })
  | n + 1, s =>
    if s.oidFree (BitVec.ofNat 24 s.nextId) then (BitVec.ofNat 24 s.nextId, { s with nextId := s.nextId + 1 })
    else pickOid n { s with nextId := s.nextId + 1 }

/-- Capabilities but for those that name an id. -/
def dropCaps (id : BitVec 24) (m : SMap Cap) : SMap Cap := m.filter fun c => c.2.oid != id

/-- The capabilities of a saved block's area that name an id are cleared in its bytes as well: 32 of 32 bytes each, from byte 256 of the block section (R78,
R440). -/
def forgetSaved (id : BitVec 24) (s : State) (x : Saved) : State :=
  let places := (List.range 32).map fun j => x.off + 256 + 32 * j
  (places.filter fun p => x.whole && s.readNat (.obj x.area) (p + 13) 3 == id.toNat).foldl (fun s p => s.writeNat (.obj x.area) p 17 0) s

/-- Every capability register, slot and snapshot that names an id is cleared (R78). -/
def forgetOid (id : BitVec 24) (s : State) : State :=
  let inBlock := fun (b : Block) => { b with caps := dropCaps id b.caps }
  let s := s.saved.foldl (forgetSaved id) s
  { s with
    cores := s.cores.map fun ck => (ck.1, { ck.2 with blocks := ck.2.blocks.map fun qb => (qb.1, inBlock qb.2) })
    saved := s.saved.map fun (x : Saved) => { x with blk := inBlock x.blk }
    objs := s.objs.map fun ko => (ko.1, { ko.2 with slots := dropCaps id ko.2.slots })
    jobs := s.jobs.map fun kj => (kj.1, { kj.2 with caps := dropCaps id kj.2.caps })
    grids := s.grids.map fun kg => (kg.1, { kg.2 with caps := dropCaps id kg.2.caps })
    progs := s.progs.map fun kp => (kp.1, { kp.2 with caps := dropCaps id kp.2.caps }) }

/-- The first index above an owner's entries of the replica array. -/
def State.nextAux (s : State) (owner : Nat) : Nat :=
  s.replicas.foldl (fun a e => if e.1 / 2 ^ 24 = owner then max a (e.1 % 2 ^ 24 + 1) else a) 0

/-- The pages of an object. -/
def Obj.pageCount (o : Obj) : Nat := o.copyFrames / (if o.large then 32 else 1)

/-- Puts a new object into the object table under an id that names nothing (R73, R78), on frames of its owner (R81); an RDUP or MREP object's
replicas go into the owner's replica array (R80). -/
def addObj (o : Obj) (s : State) : BitVec 24 × State :=
  let x := pickOid (s.objs.length + 2) s
  let t := o.take (s.room o.owner)
  let aux := s.nextAux o.owner
  let o' : Obj := { o with ext := t.1, held := t.1.flatten, aux0 := aux }
  let s := forgetOid x.1 (x.2.setRoom o.owner t.2)
  let reps := if o.proto.repl == 0 then s.replicas else
    (List.range o.pageCount).foldl (fun m k =>
      smSet m (replicaKey o.owner (aux + k)) (t.1.map fun l => frameAt l (k * (if o.large then 32 else 1)))) s.replicas
  (x.1, { s with objs := smSet s.objs x.1.toNat o', replicas := reps })

/-- Takes an object out of the object table; its frames and its places in the replica array become free. -/
def dropObj (oid : BitVec 24) (s : State) : State :=
  match s.obj? oid with
  | some o =>
    let reps := if o.proto.repl == 0 then s.replicas else
      (List.range o.pageCount).foldl (fun m k => smDel m (replicaKey o.owner (o.aux0 + k))) s.replicas
    { s with objs := smDel s.objs oid.toNat, replicas := reps }.giveFrames o.owner o.held
  | none => s

/-- A job. -/
def State.modJob (s : State) (j : Nat) (f : Job → Job) : State :=
  match smGet? s.jobs j with
  | some x => { s with jobs := smSet s.jobs j (f x) }
  | none => s

/-! ### Fitting a block (R141, R142, R145) -/

/-- The register bytes that a warp of an image costs (R145). -/
def Image.cost (i : Image) : Nat := 128 * i.gen + 8 * i.aff + 4 * i.unif
/-- The block-region bytes that a block of an image takes (R141). -/
def Image.region (i : Image) : Nat := i.shared + i.warps * i.spill

/-- The resident blocks of a core, without the agent's own. -/
def Core.resident (k : Core) : List Block := (k.blocks.filter fun qb => decide (qb.1 < agentSeq)).map (·.2)

/-- The warp slots of a slice that are taken, with the register bytes of each. -/
def sliceTaken (bs : List Block) (slice : Nat) : List (Nat × Nat) :=
  bs.flatMap fun b => b.warps.filterMap fun iw => if iw.2.slice = slice then some (iw.2.slot, b.image.cost) else none

/-- The lowest number below 8 that is not in a list. The model's choice (log entry 14): a warp takes the lowest free slot of its slice, of which R142 says nothing. -/
def freeWarpSlot (used : List Nat) : Option Nat := (List.range 8).find? fun i => !used.contains i

/-- R142: the slice that the next warp takes, with its slot, when the block's earlier warps are at `mine`. -/
def nextPlace (bs : List Block) (cost : Nat) (mine : List (Nat × Nat)) : Option (Nat × Nat) :=
  let own := fun (k : Nat) => mine.filter fun p => p.1 == k
  let key := fun (k : Nat) =>
    let t := sliceTaken bs k
    ((own k).length, t.length + (own k).length, t.foldl (fun a x => a + x.2) 0 + cost * (own k).length)
  let fit := (List.range 8).filter fun k => decide ((key k).2.1 < 8) && decide ((key k).2.2 + cost ≤ 524288)
  let better := fun (j k : Nat) =>
    decide ((key j).1 < (key k).1) || ((key j).1 == (key k).1 && (decide ((key j).2.1 < (key k).2.1) ||
      ((key j).2.1 == (key k).2.1 && decide ((key j).2.2 < (key k).2.2))))
  match fit with
  | [] => none
  | k :: r =>
    let k := r.foldl (fun a b => if better b a then b else a) k
    (freeWarpSlot ((sliceTaken bs k).map (·.1) ++ (own k).map (·.2))).map fun i => (k, i)

/-- R142: the places of `n` more warps, each a slice and a slot, or none when some warp finds no slice. -/
def placeWarps (bs : List Block) (cost : Nat) : Nat → List (Nat × Nat) → Option (List (Nat × Nat))
  | 0, mine => some mine
  | n + 1, mine =>
    match nextPlace bs cost mine with
    | none => none
    | some p => placeWarps bs cost n (mine ++ [p])

/-- The bytes of the block region of a core of the partition (R140). -/
def Part.region (p : Part) : Nat := 8388608 - 65536 * p.s

/-- R141 and R325: a block of an image fits beside the resident blocks, with a matrix claim of tiles and macros; its warps' places. -/
def placeBeside (p : Part) (bs : List Block) (used : Nat × Nat) (i : Image) (claim : Nat × Nat) : Option (List (Nat × Nat)) :=
  if 16 ≤ bs.length ∨ p.region < bs.foldl (fun a b => a + b.image.region) 0 + i.region ∨ 16 < used.1 + claim.1 ∨ 32 < used.2 + claim.2 then none
  else placeWarps bs i.cost i.warps []

/-- R141: the places of a block of an image on a core, if it fits now. -/
def State.fits (s : State) (core : Nat) (i : Image) (claim : Nat × Nat) : Option (List (Nat × Nat)) :=
  let k := s.core core
  if k.halted ∨ !((s.part (s.partOf core)).cores.contains core) then none else placeBeside (s.part (s.partOf core)) k.resident (claimed k) i claim

/-- A block of the image fits on an empty core of the partition (R126, R417, R425). -/
def Part.fitsEmpty (p : Part) (i : Image) : Bool := !p.cores.isEmpty && (placeBeside p [] (0, 0) i (0, 0)).isSome

/-- The lowest free sequencer of a core. -/
def Core.freeSeq (k : Core) : Option Nat := (List.range 16).find? fun q => (smGet? k.blocks q).isNone

/-! ### Starting a block (R131, R395) -/

/-- A warp of an image at its start (R131, R146). What its block follows, a command or a record, it sees as after an acquire (R117, R403). -/
def Image.warp (i : Image) (code : BitVec 24) (clock : Nat) (place : Nat × Nat) : Warp :=
  { slice := place.1, slot := place.2, g := i.gen, f := i.aff, q := i.unif, started := clock
    threads := List.replicate 32 { pc := i.entry.setWidth 32, obj := code, stamp := clock, acq := clock } }

/-- The matrix resources of a block at its start: with a team and a stream its sequencer runs from STREAM (R337). -/
def Image.mx (i : Image) : Mx :=
  if i.team ≠ 0 ∧ i.strm then { st := .running, pc := i.stream.setWidth 32 } else {}

/-- Starts a block on a core where its warps have places: the block is new, or one that R432 runs again. -/
def startBlock (core : Nat) (b : Block) (places : List (Nat × Nat)) (s : State) : State :=
  match (s.core core).freeSeq with
  | none => s
  | some q =>
    let (uid, s) := s.fresh
    let s := { s with clock := s.clock + 1 }
    let ws := (places.zipIdx).map fun pi => (pi.2, b.image.warp b.code s.clock pi.1)
    s.setBlock core q { b with uid := uid, warps := ws, mx := b.image.mx }

/-- The capability registers that a mask selects from a snapshot (R131). -/
def capsUnder (mask : Word) (caps : SMap Cap) : SMap Cap := caps.filter fun c => decide (c.1 < 32) && mask.getLsbD c.1

/-- Wakes a core's agent out of WFI (R450). -/
def notify (core : Nat) (s : State) : State := s.modCore core fun k => { k with waitfi := false }

/-- Notifies the agents of a partition's cores of some dies, or, for the mask 0, of all. -/
def notifyDies (p : Nat) (mask : BitVec 4) (s : State) : State :=
  ((s.part p).cores.filter fun c => mask == 0 || mask.getLsbD ((s.part p).dieNo c)).foldl (fun s c => notify c s) s

/-- Notifies the agents of every core of a partition. -/
def notifyPart (p : Nat) (s : State) : State := notifyDies p 0 s

/-! ### Blocks by identity -/

/-- The place of a resident block. -/
def State.blockOf (s : State) (uid : Nat) : Option (Nat × Nat) :=
  s.cores.findSome? fun ck => (ck.2.blocks.find? fun qb => qb.2.uid == uid && decide (qb.1 < agentSeq)).map fun qb => (ck.1, qb.1)

/-- Changes a block, resident or saved (R418). -/
def State.modUid (s : State) (uid : Nat) (f : Block → Block) : State :=
  match s.blockOf uid with
  | some cq => s.modBlock cq.1 cq.2 f
  | none => { s with saved := s.saved.map fun x => if x.blk.uid == uid then { x with blk := f x.blk } else x }

/-- Wakes the threads of the cores that wait as `p` says. -/
def wakeAll (p : Wait → Bool) (s : State) : State :=
  s.cores.foldl (fun s ck => ck.2.blocks.foldl (fun s qb =>
    if qb.2.warps.any fun iw => iw.2.threads.any fun t => p t.wait then wakeWhere ck.1 qb.1 p s else s) s) s

end Sys2Proof.Machine
end

