-- ==== Sys2Proof/Machine/Task.lean ====
section
/-!
DEFINITION. Group 12, tasks, joins, residuals, snapshots and child grids (chapter 17, R394 to R425), with the shared operations on
task records, deques, successor cells, posts and reports.
-/
set_option autoImplicit false

namespace Sys2Proof.Machine

/-! ### Task records (Table 17.1) -/

/-- The 512 bits of a record. -/
def TaskRec.toNat (r : TaskRec) : Nat :=
  r.pslot.toNat * 2 ^ 276 + r.eqblk.toNat * 2 ^ 256 + r.warps.toNat * 2 ^ 240 + r.settle.toNat * 2 ^ 239 + r.prio.toNat * 2 ^ 238 +
  r.idem.toNat * 2 ^ 237 + r.argcap.toNat * 2 ^ 232 + r.jobid.toNat * 2 ^ 200 + r.succobj.toNat * 2 ^ 176 +
  r.succoff.toNat * 2 ^ 128 + r.depth.toNat * 2 ^ 124 + r.tz.toNat * 2 ^ 104 + r.ty.toNat * 2 ^ 84 + r.tx.toNat * 2 ^ 64 +
  r.image.toNat * 2 ^ 48 + r.entry.toNat

/-- The record that 512 bits hold, with the block that spawned it. -/
def TaskRec.ofNat (v : Nat) (parent : Option Nat) : TaskRec :=
  let f := fun (lo w : Nat) => BitVec.ofNat w (bitsAt v lo w)
  { pslot := f 276 4, eqblk := f 256 20, warps := f 240 6, settle := v.testBit 239, prio := v.testBit 238, idem := v.testBit 237
    argcap := f 232 5, jobid := f 200 32, succobj := f 176 24, succoff := f 128 48, depth := f 124 4, tz := f 104 20
    ty := f 84 20, tx := f 64 20, image := f 48 16, entry := f 0 48, parent := parent }

/-! ### Deques and spill (R396, R397) -/

/-- Appends records to the spill regions of their own jobs. -/
def spillRecs (rs : List TaskRec) (s : State) : State :=
  rs.foldl (fun s r => s.modJob r.jobid.toNat fun j => { j with spill := j.spill ++ [r] }) s

/-- The spill region of a job has room for 128 records (R396). -/
def spillRoom (s : State) (r : TaskRec) : Bool :=
  match smGet? s.jobs r.jobid.toNat with | some j => decide (j.spill.length + 128 ≤ 4096) | none => true

/-- The starter's next record is chosen no more once it has left its source (R398). -/
def Core.rechosen (k : Core) : Core := { k with chosen := k.chosen.filter fun c => k.deque.contains c || k.settleq.contains c }

/-- A push at the bottom of a core's deque, which is the end of the list; none when it fails, and the deque is then unchanged (R396). -/
def pushDeque (core : Nat) (r : TaskRec) (s : State) : Option State :=
  let dq := (s.core core).deque
  if dq.length < 255 then some (s.modCore core fun k => { k with deque := k.deque ++ [r] })
  else
    let old := dq.take 128
    if old.all (spillRoom s) then
      some ((spillRecs old s).modCore core fun k => { k with deque := k.deque.drop 128 ++ [r] }.rechosen)
    else none

/-- Pushes records at the bottom of a core's deque in order, as far as they go, and says how many went (R396). -/
def pushMany (core : Nat) : List TaskRec → State → State × Nat
  | [], s => (s, 0)
  | r :: rs, s => match pushDeque core r s with
    | none => (s, 0)
    | some t => let x := pushMany core rs t; (x.1, x.2 + 1)

/-! ### Successor cells (R402 to R405) -/

/-- The cell's bytes lie in a live data or scratch object of the owner (R75, R403). -/
def cellOk (s : State) (part : Nat) (oid : BitVec 24) (off : Nat) : Bool :=
  match s.obj? oid with
  | some o => o.live && (o.owner == part || o.owner2 == some part) && (o.kind == .data || o.kind == .scratch) && decide (off + 128 ≤ o.size)
  | none => false

/-- COUNT of a cell. -/
def cellCount (s : State) (oid : BitVec 24) (off : Nat) : Nat := s.readNat (.obj oid) off 8
/-- Bit 0 ARMED, bit 1 UNDER, bit 2 PEND. -/
def cellFlag (s : State) (oid : BitVec 24) (off i : Nat) : Bool := (s.readNat (.obj oid) (off + 8) 1).testBit i
/-- Writes a flag of a cell; the reserved bits beside the flags become zero (R5). -/
def setCellFlag (oid : BitVec 24) (off i : Nat) (b : Bool) (s : State) : State :=
  let f := s.readNat (.obj oid) (off + 8) 1 % 8
  let f' := if f.testBit i then f - 2 ^ i else f
  s.writeNat (.obj oid) (off + 8) 2 (f' + (if b then 2 ^ i else 0))
/-- NEXTOBJ and NEXTOFF of a cell. -/
def cellNext (s : State) (oid : BitVec 24) (off : Nat) : BitVec 24 × Nat :=
  (BitVec.ofNat 24 (s.readNat (.obj oid) (off + 10) 3), s.readNat (.obj oid) (off + 14) 6)
/-- Writes NEXTOBJ and NEXTOFF of a cell; the reserved bits between them become zero (R5). -/
def setCellNext (oid : BitVec 24) (off : Nat) (n : BitVec 24 × Nat) (s : State) : State :=
  (s.writeNat (.obj oid) (off + 10) 4 n.1.toNat).writeNat (.obj oid) (off + 14) 6 n.2
/-- The record of a cell, with the block that deferred it. -/
def cellRec (s : State) (oid : BitVec 24) (off : Nat) : TaskRec :=
  TaskRec.ofNat (s.readNat (.obj oid) (off + 64) 64)
    ((s.armed.find? fun a => a.oid == oid && a.off == off).map (·.parent))
/-- Forgets which block deferred a cell's record. -/
def disarm (oid : BitVec 24) (off : Nat) (s : State) : State :=
  { s with armed := s.armed.filter fun a => !(a.oid == oid && a.off == off) }

/-- R405: the cell becomes pending on a core. -/
def pendCell (core : Nat) (oid : BitVec 24) (off : Nat) (s : State) : State :=
  let s1 := setCellNext oid off (0, 0) (setCellFlag oid off 2 true (setCellFlag oid off 0 false s))
  let s2 := match (s.core core).pend.getLast? with
    | some p => setCellNext p.1 p.2 (oid, off) s1
    | none => s1
  s2.modCore core fun k => { k with pend := k.pend ++ [(oid, off)] }

/-- Pushes a cell's record, or keeps it in the cell (R405). -/
def releaseCell (core : Nat) (oid : BitVec 24) (off : Nat) (s : State) : State :=
  match pushDeque core (cellRec s oid off) s with
  | some s' => disarm oid off (setCellFlag oid off 0 false s')
  | none => pendCell core oid off s

/-- R403: the successor step of a block that retires on a core. -/
def succStep (core part : Nat) (oid : BitVec 24) (off : Nat) (s : State) : State :=
  if !cellOk s part oid off then
    (match s.obj? oid with
      | some o => if (o.kind == .data || o.kind == .scratch) && decide (off + 128 ≤ o.size) then setCellFlag oid off 1 true s else s
      | none => s)
  else
    let n := cellCount s oid off
    if n = 0 then setCellFlag oid off 1 true s
    else
      let s := s.writeNat (.obj oid) off 8 (n - 1)
      if n = 1 ∧ cellFlag s oid off 0 then releaseCell core oid off s else s

/-- R404: writes a deferred record into a cell; none when the cell is armed already. -/
def armCell (core : Nat) (oid : BitVec 24) (off : Nat) (r : TaskRec) (s : State) : Option State :=
  if cellFlag s oid off 0 then none
  else
    let s := s.writeNat (.obj oid) (off + 64) 64 r.toNat
    let arms : List Armed := r.parent.toList.map fun p => { oid := oid, off := off, parent := p, job := r.jobid.toNat }
    let s := { disarm oid off s with armed := (disarm oid off s).armed ++ arms }
    let s := s.modJob r.jobid.toNat fun j => { j with count := j.count + 1 }
    some (if cellCount s oid off = 0 then releaseCell core oid off s else setCellFlag oid off 0 true s)

/-! ### Waiting for a release, and issuing again -/

/-- Some place that the instruction writes may not be written now. -/
def holdGate (places : List (Side × Nat × Nat)) (s : State) : Option State := holdPlaces true places s

/-- R433: the active lanes' blocks may no longer be aborted. -/
def makeSticky (act : Mask) (s : State) : State :=
  (blocksOf (s.cur.acting act)).foldl (fun s cq => s.modBlock cq.1 cq.2 fun b => { b with sticky := true }) s

/-! ### SPAWN (R417) -/

/-- The load of a job. -/
def State.loadOf (s : State) (job : Nat) : Option Load :=
  match smGet? s.jobs job with
  | some j => smGet? s.loads j.load
  | none => none

/-- The image numbered `i` of a job's load. -/
def State.imageOf (s : State) (job i : Nat) : Option Image :=
  match s.loadOf job with
  | some l => l.images[i]?
  | none => none

/-- The job of a block is being stopped or aborted (R417). -/
def jobEnding (s : State) (job : Nat) : Bool :=
  match smGet? s.jobs job with
  | some j => j.aborted.isSome || (match j.prog with
      | some p => (match smGet? s.progs p with | some x => x.stopping | none => true)
      | none => false)
  | none => true

/-- The memory operand of a class-M instruction of group 12. -/
def opdT (o : OpsM) : MemOpd := opdM o (o.m.sub.getLsbD 0)
/-- The memory operand of SPAWN and LAUNCH. -/
def opdTP (o : OpsMP) : MemOpd := opdP o (o.m.sub.getLsbD 0)

/-- The operand is in block shared memory or in a scratch object homed on the issuing core (R417, R425), for `n` bytes aligned to 64. -/
def localChk (o : MemOpd) (s : State) (act : Mask) (n : Nat) : Chk Unit := do
  if !o.shm then
    capChk s act o.cap [0] [.scratch]
    failIn act .capright fun l => s.homeOf (o.side s l) != some s.cur.core
  o.place s act n 64

/-- A cell that a request names: the capability and the offset. -/
def reqCells (v : Nat) (defer : Bool) : List (Nat × Nat) :=
  (if v.testBit 181 then [(bitsAt v 176 5, bitsAt v 128 48)] else []) ++
    (if defer then [(bitsAt v 336 5, bitsAt v 288 48)] else [])

/-- A reserved field of a spawn request (Table 17.6). -/
def reqReserved (v : Nat) (defer : Bool) : Bool :=
  bitsAt v 341 171 != 0 || bitsAt v 237 51 != 0 || bitsAt v 182 50 != 0 || bitsAt v 124 4 != 0 || bitsAt v 0 48 != 0 ||
    (!defer && bitsAt v 288 53 != 0)

/-- The checks of the cells of a lane's request. -/
def cellsChk (s : State) (act : Mask) (cells : Nat → List (Nat × Nat)) : Chk Unit := do
  let any := fun (l : Nat) (p : Cap → Nat → Bool) => (cells l).any fun x => p ((s.blockAt l).cap x.1) x.2
  failIn act .capinvalid fun l => any l fun c _ => !s.usable (s.blockAt l).part c
  failIn act .capright fun l => any l fun c _ =>
    !(c.right 0 && c.right 1) || !(match s.capObj c with | some o => o.kind == .data || o.kind == .scratch | none => false)
  failIn act .capbound fun l => any l fun c off => decide (c.upper.toNat < c.lower.toNat + off + 128)
  failIn act .misalign fun l => any l fun c off => off % 64 != 0 || (c.lower.toNat + off) % 64 != 0

/-- Every check of SPAWN, before any lane spawns. -/
def spawnChk (s : State) (act : Mask) (op : MemOpd) (defer : Bool) (req : Nat → Nat) : Chk Unit := do
  localChk op s act 64
  cellsChk s act fun l => reqCells (req l) defer
  let img := fun l => s.imageOf (s.blockAt l).job (bitsAt (req l) 48 16)
  failIn act .shaperec (fun l => reqReserved (req l) defer) 0x70
  failIn act .shaperec (fun l => !((img l).elim false (·.task))) 0x71
  failIn act .deqspill fun l => !((img l).elim false ((s.part (s.blockAt l).part).fitsEmpty))
  failIn act .deqspill (fun l => jobEnding s (s.blockAt l).job) 1

/-- The record that a request makes (R417). -/
def spawnRec (s : State) (l v : Nat) : TaskRec :=
  let b := s.blockAt l
  let i := (s.imageOf b.job (bitsAt v 48 16)).getD {}
  let c := b.cap (bitsAt v 176 5)
  let q := TaskRec.ofNat v (some b.uid)
  { q with
    pslot := 0, eqblk := 0, settle := false, warps := BitVec.ofNat 6 i.warps, prio := i.prio, idem := i.idem, entry := i.entry
    jobid := BitVec.ofNat 32 b.job, depth := BitVec.ofNat 4 b.depth
    succobj := if v.testBit 181 then c.oid else 0
    succoff := if v.testBit 181 then BitVec.ofNat 48 (c.lower.toNat + bitsAt v 128 48) else 0 }

/-- Counts a spawned record on its job and its block (R397, R418). -/
def countSpawn (job : Bool) (r : TaskRec) (s : State) : State :=
  let s := if job then s.modJob r.jobid.toNat fun j => { j with count := j.count + 1 } else s
  match r.parent with
  | some p => s.modUid p fun b => { b with kids := b.kids + 1 }
  | none => s

/-- Spawns one lane's record: the state, and whether it succeeded. -/
def spawnLane (s0 : State) (defer : Bool) (req : Nat → Nat) (l : Nat) (s : State) : State × Bool :=
  let v := req l
  let r := spawnRec s0 l v
  let core := s0.cur.core
  if defer then
    let c := (s0.blockAt l).cap (bitsAt v 336 5)
    match armCell core c.oid (c.lower.toNat + bitsAt v 288 48) r s with
    | some s' => (countSpawn false r s', true)
    | none => (s, false)
  else
    match pushDeque core r s with
    | some s' => (countSpawn true r s', true)
    | none => (s, false)

/-- Spawns the lanes in group order: the state and the lanes that succeeded. -/
def spawnAll (s0 : State) (defer : Bool) (req : Nat → Nat) : List Nat → State → State × Mask
  | [], s => (s, 0)
  | l :: r, s =>
    let x := spawnLane s0 defer req l s
    let y := spawnAll s0 defer req r x.1
    (y.1, if x.2 then y.2 ||| laneBit l else y.2)

/-- SPAWN (R396, R404, R417): held until its threads' earlier accesses have been performed (R370), before it reads its requests. -/
def execSpawn (c : Ctl) (o : OpsMP) : State → Out :=
  let u := usesOf (.spawn c o)
  let op := opdTP o
  let defer := o.m.sub.getLsbD 1
  issueT c u (fun act s => do
    s.shapeChk u act fun _ => .gen
    localChk op s act 64
    match (holdRecord act s).or (holdPlaces false ((lanesOf act).map fun l => (op.side s l, op.ea s l, 64)) s) with
    | some s' => .ok s'
    | none =>
    let req := fun l => s.readNat (op.side s l) (op.ea s l) 64
    spawnChk s act op defer req
    let cells := if defer then (lanesOf act).map fun l =>
        let k := (s.blockAt l).cap (bitsAt (req l) 336 5)
        (Side.obj k.oid, k.lower.toNat + bitsAt (req l) 288 48, 128)
      else []
    match holdGate cells s with
    | some s' => .ok s'
    | none =>
      let x := spawnAll s defer req (s.groupLanes act) (makeSticky act s)
      .ok (x.1.putP o.p.val act fun l => x.2.getLsbD l))

/-! ### TJOIN, LWAIT, TEND and TSELF (R418 to R420) -/

/-- A join: it answers a count of the lowest active lane's block when that is at most A, and parks until then, with its destination marked (R168, R418). -/
def joinOp (c : Ctl) (u : Uses) (o : OpsV) (count : Block → Nat) (wait : Nat → Nat → Wait) : State → Out :=
  issueT c u (fun act s => do
    s.uniformChk o.a act
    s.shapeChk u act fun _ => .uni
    let l := (lanesOf act).headD 0
    let b := s.blockAt l
    let t := s.u32 o.a l
    if count b ≤ t then
      let s' := acquireLanes (s.cur.acting act) true s
      .ok (s'.startResults c act u.d (u.d.toList.flatMap fun d =>
        (s.cur.acting act).flatMap fun m => fieldWrites d (fun _ => BitVec.ofNat 64 (count b)) m (s.warp m.w)))
    else
      let s' := s.startOp c { id := 0, core := 0, mems := [], obj := 0, pc := 0, marks := marksOf s.cur act u.d [], work := .join }
      .ok (s'.modMembers (s'.cur.acting act) fun m w => w.modThreads m.lanes fun _ th =>
        { th with wait := wait b.uid t, pc := s.cur.pc }))

/-- A thread waits at a join. -/
def Wait.isJoin : Wait → Bool
  | .tjoin .. | .lwait .. => true
  | _ => false

/-- The parked joins whose threads have woken issue again: the outstanding ones are given up. -/
def endJoins (s : State) : State :=
  s.ops.foldl (fun s o =>
    if o.work == .join && !(o.mems.any fun m => (lanesOf m.lanes).any fun l => ((s.warp m.w).thread l).wait.isJoin) then s.dropOp o else s) s

/-- TJOIN (R418). -/
def execTjoin (c : Ctl) (o : OpsV) : State → Out := joinOp c (usesOf (.tjoin c o)) o (·.kids) .tjoin
/-- LWAIT (R418). -/
def execLwait (c : Ctl) (o : OpsV) : State → Out := joinOp c (usesOf (.lwait c o)) o (·.grids) .lwait

/-- TEND (R419). -/
def execTend (c : Ctl) (m : Mods) : State → Out :=
  issueT c (usesOf (.tend c m)) (fun act s => .ok (endThreads act s))

/-- The standing program numbered `slot` of a partition. -/
def State.prog? (s : State) (part slot : Nat) : Option Prog := smGet? s.progs (16 * part + slot)
/-- Changes a standing program, named by its key. -/
def State.modProg (s : State) (key : Nat) (f : Prog → Prog) : State :=
  match smGet? s.progs key with
  | some p => { s with progs := smSet s.progs key (f p) }
  | none => s
/-- What the Settle unit keeps for a block (R407). -/
def Prog.blk (p : Prog) (i : Nat) : SBlk := smGetD p.blks i { res := 0 }
/-- A block of the program is declared. -/
def Prog.declared (p : Prog) (i : Nat) : Bool := (p.img.blocks[i]?).elim false (·.decl)

/-- The field of TSELF (R420). -/
def tselfField (s : State) (b : Block) (f : Nat) : Word :=
  match b.origin with
  | .task r =>
    let x := match s.prog? b.part r.pslot.toNat with | some p => p.blk r.eqblk.toNat | none => {}
    let born := fun (v : Word) => if r.settle then v else 0
    match f with
    | 0 => born (r.eqblk.setWidth 32)
    | 1 => born (r.pslot.setWidth 32)
    | 2 => born (BitVec.ofNat 32 (x.seqno - 1))
    | 3 => born x.capR
    | 4 => born (x.capG.setWidth 32)
    | 5 => BitVec.ofNat 32 (r.idem.toNat + 2 * r.prio.toNat + 4 * r.settle.toNat + 8 * (r.succobj != 0).toNat)
    | 6 => r.argcap.setWidth 32
    | _ => r.image.setWidth 32
  | .grid .. => 0

/-- TSELF (R420). -/
def execTself (c : Ctl) (o : OpsV) : State → Out :=
  let u := usesOf (.tself c o)
  issueT c u (fun act s => do
    s.shapeChk u act fun _ => .uni
    .ok (s.putD c { r := o.d } act fun l => (tselfField s (s.blockAt l) o.m.sub.toNat).setWidth 64))

/-! ### Residuals, posts and reports (R103, R107, R408, R412) -/

/-- A change or residual, normalised (R408): a NaN is +∞, and the sign is 0. -/
def normRes (x : Word) : Word := if (fmtF32.read x.toNat).isNan then 0x7F800000 else x &&& 0x7FFFFFFF

/-- The amount of a post, w·d exactly, with 0·∞ taken as +0. -/
def postAmount (w d : Word) : FVal :=
  let x := fmtF32.read w.toNat
  let y := fmtF32.read (normRes d).toNat
  if x.isZero || y.isZero then .num false 0 0 else mulV x y

/-- r + p, rounded once toward +∞ (R408). -/
def postAdd (r : Word) (p : FVal) : Word := BitVec.ofNat 32 (fmtF32.write 3 false (addV 3 (fmtF32.read r.toNat) p)).v

/-- A residual at or above a threshold: a pending block (R103). Such words order as numbers. -/
def Prog.pendingRes (p : Prog) (r : Word) : Bool := decide (p.img.thresh.toNat ≤ r.toNat)

/-- Adds to one of a program's counters. -/
def bump (m : SMap Nat) (k n : Nat) : SMap Nat := smPut m k (smGetD m k 0 + n) 0

/-- Counts an event on a die (R411). -/
def Prog.event (p : Prog) (die : Nat) : Prog := { p with events := bump p.events die 1 }

/-- The home die of a block, as the partition numbers its dies. -/
def Prog.home (p : Prog) (i : Nat) : Nat := (p.img.blocks[i]?).elim 0 (·.home)

/-- Applies an amount to a block's residual; an empty entry takes none (R408). -/
def Prog.apply (p : Prog) (i : Nat) (a : FVal) : Prog :=
  if p.declared i then { p with blks := smSet p.blks i { p.blk i with res := postAdd (p.blk i).res a } } else p

/-- The report object of a program exists. -/
def reportLive (s : State) (p : Prog) : Bool :=
  match s.obj? p.img.report with | some o => o.live && o.kind == .report | none => false

/-- R107: SEQ becomes odd, the fields are written, and SEQ becomes even. The model's choice (log entry 45): the three are one step, so no reader finds SEQ odd. -/
def writeReport (p : Prog) (f : State → State) (s : State) : State :=
  if !reportLive s p then s else
    let q := s.readNat (.obj p.img.report) 24 8
    (f (s.writeNat (.obj p.img.report) 24 8 (q + (1 - q % 2)))).writeNat (.obj p.img.report) 24 8 (q + (2 - q % 2))

/-- Supersedes a report whose STATE is 1 (R412). -/
def supersede (key : Nat) (s : State) : State :=
  match smGet? s.progs key with
  | none => s
  | some p =>
    let s := s.modProg key fun p => { p with recorded := false }
    if reportLive s p && s.readNat (.obj p.img.report) 12 4 == 1 then
      writeReport p (fun s => s.writeNat (.obj p.img.report) 12 4 2) s
    else s

/-- A snapshot of the program is being cut (R413). -/
def cutting? (s : State) (key : Nat) : Option LongOp :=
  s.ops.find? fun o => match o.work with | .snap k _ _ _ _ => k == key | _ => false

/-- The version bit of a block (R98). -/
def versionBit (s : State) (p : Prog) (i : Nat) : Bool := (s.readNat (.obj p.vmap) (i / 8) 1).testBit (i % 8)

/-- Flips a version bit. -/
def flipVersion (p : Prog) (i : Nat) (s : State) : State :=
  let x := s.readNat (.obj p.vmap) (i / 8) 1
  s.writeNat (.obj p.vmap) (i / 8) 1 (if x.testBit (i % 8) then x - 2 ^ (i % 8) else x + 2 ^ (i % 8))

/-- Sends the posts of a change to a block's dependents, in order; an empty dependent is ignored (R408, R109). -/
def sendPosts (key i : Nat) (d : Word) (s : State) : State :=
  match smGet? s.progs key with
  | none => s
  | some p =>
    let ds := ((p.img.blocks[i]?).elim [] (·.deps)).filter fun x => p.declared x.1
    let ps : List Post := ds.map fun x => { prog := key, blk := x.1, w := x.2, d := d }
    let s := { s with posts := s.posts ++ ps }
    s.modProg key fun p => { p with sent := bump p.sent (p.home i) ds.length }

/-- The program slot of an instruction, if a program stands there and is not being stopped (R125). -/
def State.slotProg (s : State) (act : Mask) (slot : Nat) : Option Prog :=
  match s.prog? (s.blockAt ((lanesOf act).headD 0)).part slot with
  | some p => if p.stopping then none else some p
  | none => none

/-- The key of a slot. -/
def State.slotKey (s : State) (act : Mask) (slot : Nat) : Nat := 16 * (s.blockAt ((lanesOf act).headD 0)).part + slot

/-- RPOST (R100, R421). DEDUCED (log entry 89): the commit's release waits for the active threads' own accesses and for the core's sent stores and volume writes, and
not for what other warps or inactive lanes have outstanding. In a group that holds threads of two dispatches it acts for the block of the lowest active lane alone (log entry 33). -/
def execRpost (c : Ctl) (o : OpsV) : State → Out :=
  let u := usesOf (.rpost c o)
  issueT c u (fun act s => do
    s.uniformChk o.a act
    s.shapeChk u act fun _ => .uni
    let l := (lanesOf act).headD 0
    let b := s.blockAt l
    match b.origin with
    | .grid .. => .error { cause := .shaperec, lanes := act, info := 0x78 }
    | .task r =>
      trapIf (!r.settle) .shaperec act 0x78
      let key := 16 * b.part + r.pslot.toNat
      let i := r.eqblk.toNat
      match holdRelease act s, (if b.done then none else cutting? s key) with
      | some s', _ => .ok s'
      | none, some cut => .ok (holdReissue (.answer cut.id) s)
      | none, none =>
        let s := makeSticky act s
        let s := match smGet? s.progs key with
          | some p => if b.done then s else flipVersion p i s
          | none => s
        let w := s.wrefAt l
        let s := s.modBlock w.core w.seq fun b => if b.done then b else { b.setCap 1 {} with done := true }
        let s := sendPosts key i (normRes (s.u32 o.a l)) s
        .ok (s.putD c { r := o.d } act fun _ => if b.done then 0 else 1))

/-- RREAD (R422). -/
def execRread (c : Ctl) (o : OpsV) : State → Out :=
  let u := usesOf (.rread c o)
  issueT c u (fun act s => do
    s.shapeChk u act fun _ => .gen
    match s.slotProg act (o.m.imm.toNat % 16) with
    | none => .error { cause := .shaperec, lanes := act, info := 0x76 }
    | some p =>
      failIn act .shaperec (fun l => decide (p.img.blocks.length ≤ s.u32 o.a l)) 0x7A
      .ok (s.startResults c act u.d (u.d.toList.flatMap fun d => (s.cur.acting act).flatMap fun m =>
        fieldWrites d (fun l => (if p.declared (s.u32 o.a l) then (p.blk (s.u32 o.a l)).res else 0).setWidth 64) m (s.warp m.w))))

/-- Writes a residual (R422): the state, and the old residual. -/
def setResidual (key i : Nat) (v : Word) (s : State) : State × Word :=
  match smGet? s.progs key with
  | none => (s, 0)
  | some p =>
    if !p.declared i then (s, 0) else
      let r := normRes v
      let s := s.modProg key fun p => ({ p with blks := smSet p.blks i { p.blk i with res := r } }).event (p.home i)
      (if p.pendingRes r then supersede key s else s, (p.blk i).res)

/-- The lanes of an RSET, in group order. -/
def rsetLanes (key : Nat) (s0 : State) (o : OpsV) : List Nat → State → State × List (Nat × Word)
  | [], s => (s, [])
  | l :: r, s =>
    let x := setResidual key (s0.u32 o.a l) (BitVec.ofNat 32 (s0.u32 o.b l)) s
    let y := rsetLanes key s0 o r x.1
    (y.1, (l, x.2) :: y.2)

/-- RSET (R422): a release at device scope. -/
def execRset (c : Ctl) (o : OpsV) : State → Out :=
  let u := usesOf (.rset c o)
  issueT c u (fun act s => do
    s.shapeChk u act fun _ => .gen
    match s.slotProg act (o.m.imm.toNat % 16) with
    | none => .error { cause := .shaperec, lanes := act, info := 0x76 }
    | some p =>
      failIn act .shaperec (fun l => decide (p.img.blocks.length ≤ s.u32 o.a l)) 0x7A
      match holdRelease act s with
      | some s' => .ok s'
      | none =>
        let x := rsetLanes (s.slotKey act (o.m.imm.toNat % 16)) s o (s.groupLanes act) (makeSticky act s)
        .ok (x.1.putD c { r := o.d } act fun l => (smGetD x.2 l 0).setWidth 64))

/-! ### INPOST (R423) -/

/-- The pairs of an input-post request, from the first byte of its space. -/
def postPairs (s : State) (sd : Side) (base off n : Nat) : List (Nat × Nat) :=
  (List.range n).map fun i => (s.readNat sd (base + off + 8 * i) 4, s.readNat sd (base + off + 8 * i + 4) 4)

/-- The checks of INPOST after those of its operand, in the lowest active lane. -/
def inpostChk (act : Mask) (p? : Option Prog) (v : Nat) (pairs : List (Nat × Nat)) : Chk Prog := do
  trapIf (bitsAt v 192 320 != 0 || bitsAt v 16 16 != 0 || bitsAt v 4 4 != 0 || pairs.any fun x => decide (2 ^ 20 ≤ x.1)) .shaperec act 0x70
  match p? with
  | none => .error { cause := .shaperec, lanes := act, info := 0x76 }
  | some p =>
    let inp := p.img.inputs[bitsAt v 8 8]?
    trapIf (inp.isNone || bitsAt v 32 32 % 4 != 0 || bitsAt v 64 32 % 4 != 0 ||
      decide ((inp.elim 0 (·.2)) < bitsAt v 32 32 + bitsAt v 64 32) || decide (4096 < bitsAt v 128 32)) .shaperec act 0x77
    trapIf (pairs.any fun x => decide (p.img.blocks.length ≤ x.1)) .shaperec act 0x7A
    .ok p

/-- INPOST's one event (R423): the input bytes, the generation, the report, and the posts, which the hub sends. -/
def inpostEvent (key : Nat) (p : Prog) (at_ : Nat) (bytes : List Byte) (pairs : List (Nat × Nat)) (s : State) : State :=
  let s := s.writeN (.obj p.inObj) at_ bytes
  let s := supersede key (s.modProg key fun p => { p with gen := p.gen + 1 })
  let live := pairs.filter fun x => p.declared x.1
  let s := live.foldl (fun s x => s.modProg key fun p =>
    let d := p.home x.1
    ({ p.apply x.1 (fmtF32.read (normRes (BitVec.ofNat 32 x.2)).toNat) with applied := bump p.applied d 1 }).event d) s
  s.modProg key fun p =>
    let dies := (live.map fun x => p.home x.1).eraseDups
    (dies.foldl (fun (p : Prog) d => p.event d) { p with sent := bump p.sent 16 live.length }).event 16

/-- INPOST (R423): held until the thread's earlier accesses have been performed and the places that it reads may be reached, before it reads its request and
its pairs, and then until its input may be written. -/
def execInpost (c : Ctl) (o : OpsM) : State → Out :=
  let u := usesOf (.inpost c o)
  let op := opdT o
  issueT c u (fun act s => do
    s.shapeChk u act fun _ => .uni
    let l := (lanesOf act).headD 0
    onLanes act (op.check s (laneBit l) 64 64 [0] [.data, .scratch])
    let sd := op.side s l
    match (holdRecord act s).or (holdPlaces false [(sd, op.ea s l, 64)] s) with
    | some s' => .ok s'
    | none =>
    let v := s.readNat sd (op.ea s l) 64
    let base := (op.bounds s l).1
    let room := fun (off n : Nat) => decide (base + off + n ≤ (op.bounds s l).2)
    trapIf (!(room (bitsAt v 96 32) (bitsAt v 64 32) && room (bitsAt v 160 32) (8 * bitsAt v 128 32))) .capbound act
    match holdPlaces false [(sd, base + bitsAt v 96 32, bitsAt v 64 32), (sd, base + bitsAt v 160 32, 8 * min (bitsAt v 128 32) 4096)] s with
    | some s' => .ok s'
    | none =>
    let pairs := postPairs s sd base (bitsAt v 160 32) (min (bitsAt v 128 32) 4096)
    let p ← inpostChk act (s.slotProg act (v % 16)) v pairs
    let key := s.slotKey act (v % 16)
    let at_ := ((p.img.inputs[bitsAt v 8 8]?).elim 0 (·.1)) + bitsAt v 32 32
    let len := bitsAt v 64 32
    match holdGate [(.obj p.inObj, at_, len)] s with
    | some s' => .ok s'
    | none =>
    let s' := inpostEvent key p at_ (s.readN sd (base + bitsAt v 96 32) (bitsAt v 64 32)) pairs (makeSticky act s)
    .ok (s'.putD c { r := o.d } act fun _ => ((p.gen + 1).setWidth 32).setWidth 64))

/-! ### Snapshots (R413 to R415, R424) -/

/-- The bytes of a program's version map (R98). -/
def Prog.mapBytes (p : Prog) : Nat := (p.img.blocks.length + 511) / 512 * 64

/-- The largest of some residuals; +0 for none (R414). -/
def maxRes (l : List Word) : Word := l.foldl (fun a b => if a.toNat < b.toNat then b else a) 0

/-- The snapshot record of a program at a cut (Table 17.3); `hold` is one more than the hold taken. -/
def snapRecord (s : State) (p : Prog) (hold : Nat) : Nat :=
  let bs := p.blks.map (·.2)
  let r := maxRes (bs.map (·.res))
  let c := maxRes ((bs.filter (·.flight)).map (·.capR))
  let conv := reportLive s p && s.readNat (.obj p.img.report) 12 4 == 1 && s.readNat (.obj p.img.report) 0 8 == p.gen.toNat
  p.gen.toNat + (maxRes [r, c]).toNat * 2 ^ 64 + (p.img.norm.toNat % 4) * 2 ^ 96 + conv.toNat * 2 ^ 98 +
    (if hold = 0 then 0 else 2 ^ 99 + (hold - 1) * 2 ^ 100) + c.toNat * 2 ^ 128 + r.toNat * 2 ^ 160 +
    (bs.filter fun b => p.pendingRes b.res).length * 2 ^ 192 + (bs.filter (·.flight)).length * 2 ^ 224 + p.disp * 2 ^ 256

/-- Sets or clears the bit of a hold in every declared block from the version map (R415). -/
def Prog.setHold (p : Prog) (s : State) (h : Nat) : Prog :=
  { p with blks := p.blks.map fun ib =>
      let b := ib.2.holds
      let m := BitVec.twoPow 4 h
      (ib.1, { ib.2 with holds := if versionBit s p ib.1 then b ||| m else b &&& ~~~m }) }

/-- Every post of a program has been applied (R413 step 3). -/
def postsDone (s : State) (key : Nat) : Bool := !(s.posts.any fun x => x.prog == key)

/-- R413: the cut, once the posts sent have been applied: the record and the map are written, the hold is taken, and dispatch and
commits resume. -/
def resumeSnap (o : LongOp) (s : State) : State :=
  match o.work with
  | .snap key hold sd off _ =>
    match smGet? s.progs key with
    | none => (wakeOp o.id o.mems s).dropOp o
    | some p =>
      let g := s.runGate o.core sd off (64 + p.mapBytes) true true true
      if !postsDone s key || !(g == .ok) then
        (if g == .abort then abortAccess ((o.mems.headD { w := { core := 0, seq := 0, warp := 0 }, lanes := 0 }).w) sd off (64 + p.mapBytes) s else s)
      else
        let s1 := (s.writeNat sd off 64 (snapRecord s p hold)).writeN sd (off + 64) (s.readN (.obj p.vmap) 0 p.mapBytes)
        let s2 := if hold = 0 then s1 else s1.modProg key fun q => q.setHold s (hold - 1)
        let s3 := acquireLanes o.mems true s2
        wakeAll (fun x => x == .answer o.id) ((wakeOp o.id o.mems s3).dropOp o)
  | _ => s

/-- SNAP (R413, R415, R424). -/
def execSnap (c : Ctl) (o : OpsM) : State → Out :=
  let u := usesOf (.snap c o)
  let op := opdT o
  let kind := o.m.sub.toNat / 2
  issueT c u (fun act s => do
    s.uniformChk o.d act
    let l := (lanesOf act).headD 0
    let d := s.u32 o.d l
    let b := s.blockAt l
    let key := s.slotKey act (d % 16)
    let p? := s.slotProg act (d % 16)
    if kind == 2 then
      match p? with
      | none => .error { cause := .shaperec, lanes := act, info := 0x76 }
      | some p => do
        let h := d / 256 % 4
        trapIf (smGet? p.holds h != some b.uid) .shaperec act 0x7C
        .ok ((s.modProg key fun p => { p with holds := smDel p.holds h }).startResults c act none [])
    else
      let n := 64 + (p?.elim 0 Prog.mapBytes)
      onLanes act (op.check s (laneBit l) n 64 [1] [.data, .scratch])
      match p? with
      | none => .error { cause := .shaperec, lanes := act, info := 0x76 }
      | some p => do
        let h := (List.range 4).find? fun h => (smGet? p.holds h).isNone
        trapIf (kind == 1 && h.isNone) .shaperec act 0x7C
        trapIf (op.shm && s.locked s.cur.core true (op.side s l) (op.ea s l, op.ea s l + n)) .rangelock act
        match holdGate [(op.side s l, op.ea s l, n)] s with
        | some s' => .ok s'
        | none =>
        let hold := if kind == 1 then h.getD 0 + 1 else 0
        let s := if kind == 1 then makeSticky act (s.modProg key fun p => { p with holds := smSet p.holds (h.getD 0) b.uid }) else s
        let id := s.nextId
        let s' := s.startOp c { id := 0, core := 0, mems := [], obj := 0, pc := 0
                                work := .snap key hold (op.side s l) (op.ea s l) b.uid }
        .ok (s'.modMembers (s'.cur.acting act) fun m w => w.modThreads m.lanes fun _ th => { th with wait := .copy id }))

/-! ### LAUNCH (R406, R425) -/

/-- The active lanes that are team leaders: lane 0 of warp 0 of their block. -/
def leaders (s : State) (act : Mask) : Mask :=
  lanesBy act fun l => l == 0 && (s.wrefAt l).warp == 0

/-- The checks of a child launch record, in the leader's lane. -/
def launchChk (s : State) (act lead : Mask) (op : MemOpd) (r : Nat → Nat) : Chk Unit := onLanes act do
  localChk op s lead 64
  let img := fun l => s.imageOf (s.blockAt l).job (bitsAt (r l) 0 16)
  let dims := fun l => bitsAt (r l) 64 32 * bitsAt (r l) 96 32 * bitsAt (r l) 128 32
  failIn lead .shaperec (fun l => bitsAt (r l) 160 352 != 0 || bitsAt (r l) 20 12 != 0) 0x70
  failIn lead .shaperec (fun l => (img l).elim true (·.task)) 0x74
  failIn lead .shaperec (fun l => dims l == 0 || decide (2 ^ 32 - 1 < dims l)) 0x75
  failIn lead .deqspill fun l => !((img l).elim false ((s.part (s.blockAt l).part).fitsEmpty))

/-- The child grid that a launch record starts (R406). -/
def childGrid (s : State) (l v : Nat) : Grid :=
  let b := s.blockAt l
  { job := b.job, part := b.part, load := b.load, image := (s.imageOf b.job (bitsAt v 0 16)).getD {}, code := b.code
    dim := (BitVec.ofNat 32 (bitsAt v 64 32), BitVec.ofNat 32 (bitsAt v 96 32), BitVec.ofNat 32 (bitsAt v 128 32))
    n := bitsAt v 64 32 * bitsAt v 96 32 * bitsAt v 128 32
    caps := capsUnder (BitVec.ofNat 32 (bitsAt v 32 32)) b.caps, depth := b.depth + 1, parent := some b.uid
    diemask := BitVec.ofNat 4 (bitsAt v 16 4) }

/-- Starts a child grid. -/
def startChild (g : Grid) (s : State) : State :=
  let (id, s) := s.fresh
  let s := { s with grids := smSet s.grids id { g with order := id } }
  let s := s.modJob g.job fun j => { j with count := j.count + 1 }
  let s := match g.parent with | some p => s.modUid p fun b => { b with grids := b.grids + 1 } | none => s
  notifyDies g.part g.diemask s

/-- LAUNCH (R406, R425): held until its threads' earlier accesses have been performed (R370), before it reads its record. -/
def execLaunch (c : Ctl) (o : OpsMP) : State → Out :=
  let u := usesOf (.launch c o)
  let op := opdTP o
  issueT c u (fun act s => do
    s.shapeChk u act fun _ => .gen
    let lead := leaders s act
    onLanes act (localChk op s lead 64)
    match (if lead == 0 then none else
      (holdRecord act s).or (holdPlaces false ((lanesOf lead).map fun l => (op.side s l, op.ea s l, 64)) s)) with
    | some s' => .ok s'
    | none =>
      let recOf := fun l => s.readNat (op.side s l) (op.ea s l) 64
      launchChk s act lead op recOf
      let go := (lanesOf lead).filter fun l => decide ((s.blockAt l).depth < 10)
      let s' := go.foldl (fun t l => startChild (childGrid s l (recOf l)) t) (makeSticky lead s)
      .ok (s'.putP o.p.val act fun l => go.contains l))

end Sys2Proof.Machine
end

