-- ==== Sys2Proof/Machine/Evict.lean ====
section
/-!
DEFINITION. Eviction and restore (chapter 18, R434 to R441): when a block may be evicted, the save layout to the byte, and saving a block and placing it again.
-/
set_option autoImplicit false

namespace Sys2Proof.Machine

/-! ### Save sections (R439, R440) -/

/-- The code of a wait (Table 18.2); 0 for what is no blocking point (R434). -/
def Wait.kind : Wait → Nat
  | .conj _ => 1
  | .itemq .. | .itemOwn _ | .tjoin .. | .lwait .. => 2
  | .load _ => 3
  | .copy _ => 4
  | .mxver .. | .mxbar _ | .mxacq => 5
  | _ => 0

/-- The outstanding instruction that a wait names. -/
def Wait.opId (w : Wait) : Option Nat :=
  match w with
  | .conj id | .load id | .copy id => some id
  | _ => Option.none

/-- The reader that a thread of a warp parks for (R336). -/
def readerOf (s : State) (w : WRef) (l : Nat) : Option LongOp :=
  s.ops.find? fun o => match o.work with
    | .mxrd rs => rs.any fun r => r.w == w && r.lanes.getLsbD l
    | _ => false

/-- The index at which a parked thread issues its instruction again after a restore (Table 18.2), or the thread's own where it waits on. -/
def resumePc (s : State) (w : WRef) (l : Nat) (th : Thread) : BitVec 32 :=
  match th.wait with
  | .load id => ((s.op? id).map (·.pc)).getD th.pc
  | .copy id => match s.op? id with
      | some o => (match o.work with | .snap .. => th.pc | _ => o.pc)
      | none => th.pc
  | .mxver .. => ((readerOf s w l).map (·.pc)).getD th.pc
  | .itemq .. => th.pc - 1
  | _ => th.pc

/-- The instruction that a parked thread waits at (Table 18.4). -/
def waitPc (s : State) (w : WRef) (l : Nat) (th : Thread) : BitVec 32 :=
  match th.wait with
  | .mxacq => th.pc - 1
  | .copy id => ((s.op? id).map (·.pc)).getD th.pc
  | _ => resumePc s w l th

/-- WAITARG of a thread: of a conjunction wait the object, offset and token; else the instruction to issue again (Table 18.4). -/
def waitArg (s : State) (w : WRef) (l : Nat) (th : Thread) : Nat :=
  match th.wait with
  | .conj id => match s.op? id with
      | some o => (match o.work with
        | .conj r =>
          (match r.side with | .obj oid => oid.toNat | .shm _ _ => 0) + r.off * 2 ^ 24 + (r.vals.headD (0, 0)).2.toNat * 2 ^ 72
        | _ => 0)
      | none => 0
  | _ => if th.wait.kind = 0 then 0 else ((s.fetch th.obj (waitPc s w l th)).getD 0).toNat

/-- An item as 128 bits (Table 13.2). -/
def Item.toNat (i : Item) : Nat := i.cls.toNat + i.arg0.toNat * 2 ^ 32 + i.arg1.toNat * 2 ^ 64 + i.arg2.toNat * 2 ^ 96

/-- A thread record (Table 18.4). -/
def threadBytes (s : State) (w : WRef) (l : Nat) (th : Thread) : List Byte :=
  packN 256 ([(0, (resumePc s w l th).toNat), (32, th.obj.toNat), (64, th.rstack.length), (72, th.wait.kind), (76, th.ended.toNat),
      (77, th.inH.toNat), (96, th.cychi.toNat), (128, waitArg s w l th), (256, th.item.elim 0 Item.toNat), (384, th.item.isSome.toNat)] ++
    (th.rstack.reverse.zipIdx.flatMap fun ei => [(1024 + 64 * ei.2, ei.1.2.toNat), (1056 + 64 * ei.2, ei.1.1.toNat)]))

/-- A warp section (R439, Table 18.3). -/
def warpSection (s : State) (w : WRef) : List Byte :=
  let x := s.warp w
  let t := x.trap.getD { cause := 0, pc := 0, obj := 0, lanes := 0, info := 0 }
  let ended := maskOf fun l => (x.thread l).ended
  packN 256 [(0, 0x4E5A4358), (32, 1), (64, x.g), (80, x.f), (96, x.q), (128, x.sp), (160, x.fpflags.toNat), (192, x.fpten.toNat),
    (224, x.fprnd.toNat), (256, x.pvcnt.toNat), (288, ended.toNat), (320, t.lanes.toNat), (352, t.pc.toNat), (384, t.info.toNat),
    (416, t.cause.toNat), (424, t.obj.toNat), (448, w.warp)] ++
  ((List.range (32 * x.g)).flatMap fun k => leBytes 4 (smGetD x.gen k 0).toNat) ++
  ((List.range x.f).flatMap fun k => leBytes 4 (smGetD x.aff (x.g + k) (0, 0)).1.toNat ++ leBytes 4 (smGetD x.aff (x.g + k) (0, 0)).2.toNat) ++
  ((List.range x.q).flatMap fun k => leBytes 4 (smGetD x.uni (x.g + x.f + k) 0).toNat) ++
  ((List.range 16).flatMap fun k => leBytes 4 (x.clause k).1.toNat ++ leBytes 4 (x.clause k).2.toNat) ++
  ((List.range 16).flatMap fun k => if k < 15 then leBytes 4 (x.pred k).toNat else leBytes 4 0) ++
  ((List.range 256).flatMap fun k => leBytes 4 (smGetD x.efs k 0).toNat) ++
  (List.range 32).flatMap fun l => threadBytes s w l (x.thread l)

/-- The bytes of a warp section (R439). -/
def sectionBytes (x : Warp) : Nat := 128 * x.g + 8 * x.f + 4 * x.q + 9664

/-- Bytes rounded up to a multiple of 64. -/
def pad64 (l : List Byte) : List Byte := l ++ List.replicate ((64 - l.length % 64) % 64) 0

/-- The 32 KiB of an accumulator tile: 32-bit elements, or one half of an FP64 pair. -/
def tileBytes (m : Mx) (t : Nat) : List Byte :=
  let k64 := (smGetD m.tiles t {}).k64
  let els := (smGetD m.tiles (if k64 then t / 2 * 2 else t) {}).elems
  if k64 then (List.range 4096).flatMap fun i => leBytes 8 (smGetD els (4096 * (t % 2) + i) 0).toNat
  else (List.range 8192).flatMap fun i => leBytes 4 (smGetD els i 0).toNat

/-- The bytes that an element of a format takes in a saved macro. -/
def mxBytes (f : Nat) : Nat := if mxBits f = 64 then 8 else if mxBits f = 16 then 2 else 1

/-- The 128 KiB of a claimed macro and its slots' classes and flags (R440): a header of 64 bytes for each of the four slots, then 32 KiB for each slot, its
elements and then, of a format with scales, theirs; an FP64 operand takes the place of all four (log entry 96). -/
def macroBytes (slots : SMap Operand) : List Byte :=
  ((List.range 4).flatMap fun k => match smGet? slots k with
    | some o => packN 64 [(0, 1), (32, o.fmt), (64, o.rows), (96, o.cols), (128, o.nonfin.toNat)]
    | none => packN 64 []) ++
  (List.range 4).flatMap fun k =>
    match smGet? slots k, smGet? slots 0 with
    | some o, _ =>
      if mxBytes o.fmt = 8 then (List.range 4096).flatMap fun i => leBytes 8 (smGetD o.elems i 0).toNat
      else
        let els := (List.range 16384).flatMap fun i => leBytes (mxBytes o.fmt) (smGetD o.elems i 0).toNat
        if mxBytes o.fmt = 1 then els ++ (List.range 16384).map fun i => smGetD o.scales i 0 else els
    | none, some o =>
      if mxBytes o.fmt = 8 then (List.range 4096).flatMap fun i => leBytes 8 (smGetD o.elems (4096 * k + i) 0).toNat
      else List.replicate 32768 0
    | none, none => List.replicate 32768 0

/-- The state of a sequencer's stream as a number. -/
def StreamSt.toNat : StreamSt → Nat
  | .idle => 0
  | .running => 1
  | .waiting b => 2 + 256 * b
  | .ended => 3
  | .faulted c x => 4 + 65536 * c.toNat + 2 ^ 24 * x.toNat

/-- What marks the item classes and the matrix state in a block section, which may follow its spill regions or not (R440, log entry 96). -/
def itemMagic : Nat := 0x4E5A4349
/-- What marks the matrix state (log entry 96). -/
def matrixMagic : Nat := 0x4E5A434D

/-- The matrix state of a block that claims resources (R342, R440): sixteen reservations and shapes, an absent one of zeros. -/
def matrixBytes (m : Mx) : List Byte :=
  match m.claim with
  | none => []
  | some (t, n) =>
    packN 64 [(0, m.st.toNat), (32, m.pc.toNat), (64, t), (96, n), (128, matrixMagic)] ++
    ((List.range 64).flatMap fun i => leBytes 4 (smGetD m.regs i 0).toNat) ++
    ((List.range 16).flatMap fun i => leBytes 4 (smGetD m.bars i 0).toNat) ++
    ((List.range 16).flatMap fun i => (smGet? m.resv i).elim (packN 32 []) fun r =>
      packN 32 [(0, r.base), (32, r.extent), (64, r.scaleoff), (96, r.planeoff), (128, r.fmt), (160, r.blk.toNat), (192, 1)]) ++
    ((List.range 16).flatMap fun i => (smGet? m.shapes i).elim (packN 32 []) fun h =>
      packN 32 [(0, h.resv), (32, h.base), (64, h.stride), (96, h.rows), (128, h.cols), (192, 1)]) ++
    packN 64 [(0, m.mxf.toNat)] ++
    ((List.range t).flatMap fun i => packN 64 [(0, (smGetD m.tiles i {}).ver.toNat), (16, (smGetD m.tiles i {}).k64.toNat)] ++ tileBytes m i) ++
    ((List.range n).flatMap fun i => macroBytes (smGetD m.cims i []))

/-- The origin of a block (R440). -/
def Origin.code : Origin → Nat
  | .grid .. => 0
  | .task r => if r.settle then 2 else 1

/-- The task record or the grid block index (R440). -/
def Origin.toNat : Origin → Nat
  | .grid _ x y z => x.toNat + y.toNat * 2 ^ 32 + z.toNat * 2 ^ 64
  | .task r => r.toNat

/-- The bytes of a capability (Table 4.1). -/
def Cap.toNat (c : Cap) : Nat := c.lower.toNat + c.upper.toNat * 2 ^ 48 + c.rights.toNat * 2 ^ 96 + c.oid.toNat * 2 ^ 104

/-- The block section up to its items: the header, capabilities, shared memory and spill regions (R440). -/
def blockHead (s : State) (b : Block) : List Byte :=
  let holds : SMap Nat := match b.origin with
    | .task r => (match s.prog? b.part r.pslot.toNat with | some p => p.holds.filter fun h => h.2 == b.uid | none => [])
    | .grid .. => []
  packN 256 [(0, 0x4E5A4342), (32, 1), (48, b.image.warps), (54, b.origin.code), (64, b.kids), (96, b.grids),
    (128, holds.foldl (fun a h => a + 2 ^ h.1) 0), (512, b.origin.toNat)] ++
  ((List.range 32).flatMap fun i => leBytes 16 (b.cap i).toNat ++ leBytes 16 (b.cap i).valid.toNat) ++
  pad64 (memReadN b.shared 0 b.image.shared) ++
  (List.range b.image.warps).flatMap fun i => pad64 (memReadN (smGetD b.warps i {}).spill 0 b.image.spill)

/-- A block section (R440). -/
def blockSection (s : State) (b : Block) (items : SMap ItemQ) : List Byte :=
  blockHead s b ++
  (items.flatMap fun kq => pad64 (packN 16 [(0, kq.1), (32, kq.2.o), (64, kq.2.items.length), (96, itemMagic)] ++ kq.2.items.flatMap fun i => leBytes 16 i.toNat)) ++
  pad64 (matrixBytes b.mx)

/-! ### When a block may be evicted (R435) -/

/-- A thread does not prevent an eviction: it has ended, is parked at a blocking point, or is held by its warp's trap mode. -/
def threadYields (x : Warp) (th : Thread) : Bool :=
  th.ended || th.wait.kind != 0 ||
    (x.trap.isSome && (th.ret || (!th.inH && th.wait == .none)) && x.threads.all fun t => !t.inH || t.ended || t.wait.kind != 0)

/-- The lanes of a block's warps for which an outstanding instruction has accesses to come are all parked at it, to issue it again. -/
def LongOp.parkedFor (o : LongOp) (s : State) (core seq : Nat) : Bool :=
  o.mems.all fun m => !(m.w.core == core && m.w.seq == seq) ||
    (lanesOf (o.lanesOn m.w)).all fun l => ((s.warp m.w).thread l).ended || ((s.warp m.w).thread l).wait == .load o.id

/-- The gate of a step lies at its page, which is COMPRESSED or aborts (R80, R85). -/
def MemStep.pageHeld (st : MemStep) (s : State) (core : Nat) : Bool :=
  (s.homeOf st.side).isNone && (let g := s.runGate core st.side st.off st.n st.writes st.np true; g == .wait || g == .abort)

/-- A step lets its block be evicted. A row is a request of the Lexicon (R312), and a CPOUT is a copy that touches the block's shared memory (R264). -/
def MemStep.yields (st : MemStep) : Bool := !st.row && (match st.act with | .copyOut _ _ => false | _ => true)

/-- An outstanding instruction that lets its block be evicted: its results do not trap, and no request of it is one that R287, R312 or R352 names. -/
def LongOp.yields (o : LongOp) : Bool :=
  match o.work with
  | .results => (fpTrapOf o.fpten o.flags).isNone
  | .kick _ | .snap .. | .mxrd _ | .join | .conj _ => true
  | .mem l => l.all (·.yields)
  | .vol r => !r.sent
  | .sched r => !r.going
  | .fence _ => false

/-- An outstanding instruction has a write on its way for a block, which is performed in time: not one whose threads are parked at its page, to issue it again. -/
def LongOp.sends (o : LongOp) (s : State) (core seq : Nat) : Bool :=
  match o.work with
  | .mem l => l.any fun st => st.writes && !(o.parkedFor s core seq && st.pageHeld s core)
  | .conj r => r.changes && !o.parkedFor s core seq
  | _ => false

/-- The block's outstanding instructions. -/
def opsOf (s : State) (core seq : Nat) : List LongOp := s.ops.filter fun o => o.mems.any fun m => m.w.core == core && m.w.seq == seq

/-- R264: a copy of the block that touches its shared memory, its Conjunction object's place included, is unfinished. -/
def copyBusy (s : State) (core seq : Nat) (b : Block) : Bool :=
  (s.core core).copies.any fun k => k.uid == b.uid && (!k.entry || k.dstSide == .shm core seq || k.srcSide == some (.shm core seq) ||
    k.cj.any fun x => x.1 == .shm core seq)

/-- A stream is held at a matrix instruction, the unit having an owner (R340). -/
def streamHeld (s : State) (core : Nat) (b : Block) : Bool :=
  (s.core core).owned && (match (s.fetch b.code b.mx.pc).map decodeWord with
    | some (.ok i) => (match i with | .mxlda .. | .mxldb .. | .mxmac .. | .mxmacs .. | .mxzero .. | .mxwait .. => true | _ => false)
    | _ => false)

/-- R342: the block's sequencer and its matrix resources let it be evicted. -/
def matrixYields (s : State) (core seq : Nat) (b : Block) : Bool :=
  let k := s.core core
  (match b.mx.st with | .running => streamHeld s core b | _ => true) && b.mx.ops.isEmpty &&
    !(k.owned && (match k.owners with | o :: _ => o.1 == seq | [] => false))

/-- R435: the block of a sequencer is evictable. -/
def evictable (s : State) (core seq : Nat) : Bool :=
  match s.block? core seq with
  | none => false
  | some b => b.stop.isNone && b.warps.any (fun iw => iw.2.alive != 0) &&
      b.warps.all (fun iw => iw.2.threads.all fun th => threadYields iw.2 th) &&
      (opsOf s core seq).all (·.yields) && !copyBusy s core seq b && matrixYields s core seq b

/-- A block's stores at other cores' scratch that have not been performed at their home. -/
def State.storing (s : State) (uid : Nat) : Bool := s.rstores.any fun r => r.uid == uid

/-- A block's writes that are on their way: its eviction ends when they have been performed (R377). -/
def State.writing (s : State) (core seq : Nat) : Bool :=
  s.storing (s.block core seq).uid || (opsOf s core seq).any fun o => o.sends s core seq

/-! ### Saving and placing again -/

/-- A thread as it is saved: it issues its instruction again, except where Table 18.2 has it wait on. -/
def savedThread (s : State) (w : WRef) (l : Nat) (th : Thread) : Thread :=
  let th' := { th with pc := resumePc s w l th, las := [], yld := [], yall := false, yclk := false }
  match th.wait with
  | .conj _ | .mxacq => { th' with pc := th.pc }
  | .copy id => if (s.op? id).elim false (fun o => match o.work with | .snap .. => true | _ => false) then th' else { th' with wait := .none }
  | _ => { th' with wait := .none }

/-- The outstanding instructions that wait again after a restore: conjunction waits and snapshots. -/
def waitsOn (o : LongOp) : Bool :=
  match o.work with | .conj r => r.parked | .snap .. => true | _ => false

/-- The warp that a register write goes to. -/
def RW.warp : RW → WRef
  | .gen w _ _ _ | .uni w _ _ | .aff w _ _ _ | .pred w _ _ _ => w

/-- A step for some of its warps only: a row that several share goes on for those that stay (R305). -/
def MemStep.restrict (keep : WRef → Bool) (st : MemStep) : Option MemStep :=
  match st.members.filter fun m => keep m.w with
  | [] => none
  | m :: r => some { st with w := m.w, lanes := m.lanes, more := r }

/-- What is left of an outstanding instruction for some of its warps, with the lanes of `lanes`: the instruction of a group of several blocks
goes on for the others when one leaves. What it does once for its group goes with the block of the group's lowest lane, one of those that `own` names (R356). -/
def Work.restrict (keep : WRef → Bool) (own : Nat → Bool) (lanes : Mask) : Work → Work
  | .mem l => (match l.filterMap (·.restrict keep) with | [] => .results | r => .mem r)
  | .conj r => .conj { r with vals := r.vals.filter fun v => lanes.getLsbD v.1 }
  | .vol r => .vol { r with todo := r.todo.filter fun l => keep l.w, fails := r.fails.filter fun f => lanes.getLsbD f.1 }
  | .mxrd rs => (match rs.filter fun r => keep r.w with | [] => .results | r => .mxrd r)
  | .kick cs => if cs.all fun c => own c.uid then .kick cs else .results
  | .sched r => if keep r.w then .sched r else .results
  | .snap k h sd off uid => if own uid then .snap k h sd off uid else .results
  | w => w

/-- An outstanding instruction with some of its warps only, if any is left. -/
def LongOp.restrict (keep : WRef → Bool) (own : Nat → Bool) (o : LongOp) : Option LongOp :=
  let ms := o.mems.filter fun m => keep m.w
  if ms.isEmpty then none else
    some { o with
      mems := ms
      marks := o.marks.filter fun k => match k with | .reg w _ | .pred w _ => keep w
      rws := o.rws.filter fun r => keep r.warp
      flags := o.flags.filter fun f => keep f.1
      work := o.work.restrict keep own (ms.foldl (fun a m => a ||| m.lanes) 0) }

/-- A warp is of the block of a sequencer. -/
def WRef.inBlock (core seq : Nat) (w : WRef) : Bool := w.core == core && w.seq == seq

/-- Takes a block's part out of the outstanding instructions. The others of its groups go on with an instruction of which nothing is left, and who waits for a snapshot
to end issues again. -/
def dropOps (core seq : Nat) (s : State) : State :=
  let os := opsOf s core seq
  let uid := (s.block core seq).uid
  let mine := fun (o : LongOp) => os.any fun x => x.id == o.id
  let s := { s with
    ops := s.ops.filterMap fun o => if mine o then o.restrict (fun w => !w.inBlock core seq) (· != uid) else some o
    deferred := s.deferred.filter fun d => !(d.grp.mems.any fun m => m.w.inBlock core seq) }
  os.foldl (fun (s : State) (o : LongOp) =>
    let s := match o.work with | .snap .. => wakeAll (fun (x : Wait) => x == Wait.answer o.id) s | _ => s
    match s.op? o.id with
    | some x => if x.work == Work.results && o.work != Work.results then wakeOp x.id x.mems s else s
    | none => s) s

/-- Delivers what an outstanding instruction has formed for a block: the results that have arrived, and of one that has formed them all its flags
(R222, Table 18.2). -/
def deliverFor (core seq : Nat) (o : LongOp) (s : State) : State :=
  let s := (o.rws.filter fun r => r.warp.inBlock core seq).foldl deliver s
  if o.work == .results then orFlags (o.flags.filter fun f => f.1.inBlock core seq) s else s

/-- Delivers what every outstanding instruction has formed for a block. -/
def deliverAll (core seq : Nat) (s : State) : State := (opsOf s core seq).foldl (fun s o => deliverFor core seq o s) s

/-- The operand latches of a block's slices are emptied (R62). -/
def clearSlices (core seq : Nat) (s : State) : State :=
  (s.block core seq).warps.foldl (fun s iw => clearLatch { core := core, slice := iw.2.slice } s) s

/-- Detaches a block from its core's engines: results that have arrived are written, the readers' lines become present again, and what
the block waits for is given up but for what waits on. -/
def detach (core seq : Nat) (s : State) : State :=
  let os := opsOf s core seq
  let s := clearSlices core seq (deliverAll core seq s)
  let s := os.foldl (fun s o => match o.work with
    | .mxrd rs => rs.foldl (fun s r => if r.w.inBlock core seq then unclear r s else s) s
    | _ => s) s
  let s := s.modBlock core seq fun b => { b with
    warps := b.warps.map fun iw =>
      (iw.1, { iw.2 with threads := iw.2.threads.mapIdx fun l th => savedThread s { core := core, seq := seq, warp := iw.1 } l th }) }
  dropOps core seq s

/-- The outstanding instructions of a block that wait again after a restore, for its own warps. -/
def keptOps (s : State) (core seq : Nat) : List LongOp :=
  ((opsOf s core seq).filterMap fun o => o.restrict (fun w => w.inBlock core seq) (· == (s.block core seq).uid)).filter waitsOn

/-- The item queues that a sequencer's block owns (R316). -/
def ownedItems (s : State) (core seq : Nat) : SMap ItemQ := (s.core core).items.filter fun kq => kq.2.owner == seq

/-- PREEMPT clears when no marked block remains (R436). -/
def settlePreempt (core : Nat) (s : State) : State :=
  if (s.core core).preempt && !((s.core core).resident.any (·.mark)) then s.modCore core fun k => { k with preempt := false } else s

/-- A block of a partition has retired or been evicted: the gangs with a part there may be tried again (R134). -/
def freeGangs (part : Nat) (s : State) : State :=
  let mine := fun (g : GangPart) => decide (((smGet? s.vis g.hdr.vi).bind (·.part)).getD 17 = part)
  { s with gangs := s.gangs.map fun g => if mine g then { g with tried := false } else g }

/-- Frees a block's place on its core: its sequencer, its item classes and its places in the queue of owners; with its operations gone, the owner at the
head may take the unit (R143, R316, R340). -/
def freePlace (core seq : Nat) (s : State) : State :=
  let s := s.modCore core fun k => { k with blocks := smDel k.blocks seq }
  let s := ((s.core core).owners.filter fun o => o.1 == seq).foldl (fun s o => dropOwner { core := core, seq := seq, warp := o.2 } s) s
  dropClasses core seq (grantOwner core s)

/-- A save area of some bytes (R438). -/
def areaOf (part : Nat) (bytes : List Byte) : Obj := { kind := .data, owner := part, size := bytes.length, mem := memWriteN [] 0 bytes }

/-- Writes the sections of a block into a new save area of the partition's owner, which no capability names (R438). -/
def newArea (part : Nat) (bytes : List Byte) (s : State) : BitVec 24 × State := addObj (areaOf part bytes) s

/-- The sections of a block: its block section, then its warp sections. -/
def allSections (s : State) (core seq : Nat) : List Byte :=
  let b := s.block core seq
  blockSection s b (ownedItems s core seq) ++
    b.warps.flatMap fun iw => pad64 (warpSection s { core := core, seq := seq, warp := iw.1 })

/-- Evicts a block: the results that have arrived are in its registers, and its sections in a new save area (R168, R377, R435, R438, R451). DESIGN CHOICE (log entry
115): where its owner's share has no frames for the save area, the block is not evicted; the spec does not say what is done then (R13, R81). -/
def evict (core seq : Nat) (s0 : State) : State :=
  let s := deliverAll core seq s0
  let bytes := allSections s core seq
  if s.lacks (areaOf (s.block core seq).part bytes) then s0 else
  let keep := keptOps s core seq
  let items := ownedItems s core seq
  let s := detach core seq s
  let b := s.block core seq
  let x := newArea b.part bytes s
  let s := freeGangs b.part (settlePreempt core (freePlace core seq x.2))
  notifyPart b.part { s with saved := s.saved ++ [{ blk := { b with mark := false, quanta := 0, absent := [] }, area := x.1, items := items, ops := keep }] }

/-- An outstanding instruction of a block that moves to another place. -/
def LongOp.moved (o : LongOp) (src dst : Nat × Nat) : LongOp :=
  let mv := fun (w : WRef) => if w.core == src.1 && w.seq == src.2 then { w with core := dst.1, seq := dst.2 } else w
  let side := fun (sd : Side) => if sd == .shm src.1 src.2 then Side.shm dst.1 dst.2 else sd
  { o with
    core := dst.1
    mems := o.mems.map fun m => { m with w := mv m.w }
    marks := o.marks.map fun k => match k with | .reg w n => .reg (mv w) n | .pred w p => .pred (mv w) p
    work := match o.work with
      | .conj r => .conj { r with side := side r.side }
      | .snap k h sd off u => .snap k h (side sd) off u
      | x => x }

/-- The place that a saved block's outstanding instructions name. -/
def Saved.origin (x : Saved) : Nat × Nat :=
  match x.ops.flatMap (·.mems) with
  | m :: _ => (m.w.core, m.w.seq)
  | [] => (0, 0)

/-- Each class of a saved block is unowned on a core (R316). -/
def classesFree (s : State) (core : Nat) (x : Saved) : Bool := x.items.all fun kq => (smGet? (s.core core).items kq.1).isNone

/-- A saved block's outstanding instruction waits again under a number of its own. -/
def reattach (core seq : Nat) (x : Saved) (o : LongOp) (s : State) : State :=
  let id := s.nextId
  let s := { s with nextId := id + 1, ops := s.ops ++ [{ o.moved x.origin (core, seq) with id := id }] }
  s.modBlock core seq fun b => b.mapWarps fun w => w.mapThreads fun th =>
    if th.wait == .conj o.id then { th with wait := .conj id } else if th.wait == .copy o.id then { th with wait := .copy id } else th

/-- Puts a saved block's items, waits and owners back once its warps are in place (R316, R377, Table 18.2). -/
def attach (core seq : Nat) (x : Saved) (s : State) : State :=
  let s := clearSlices core seq (s.modBlock core seq fun b => { b with stop := none })
  let s := s.modCore core fun k => { k with items := x.items.foldl (fun m kq => smSet m kq.1 { kq.2 with owner := seq }) k.items }
  let s := x.ops.foldl (fun s o => reattach core seq x o s) s
  let s := (s.block core seq).warps.foldl (fun s iw =>
    if iw.2.threads.any fun th => th.wait == .mxacq then
      s.modCore core fun k => { k with owners := k.owners ++ [(seq, iw.1)] } else s) s
  let s := grantOwner core s
  (opsOf s core seq).foldl (fun s o => match s.op? o.id with | some o => resumeCj true true o s | none => s) s

/-- A saved warp at a new place: its threads take the clock as their age stamp and as their latest acquire (R160, R377). -/
def Warp.placed (w : Warp) (clock : Nat) (p : Nat × Nat) : Warp :=
  { w with slice := p.1, slot := p.2, started := clock, threads := w.threads.map fun th => { th with stamp := clock, acq := clock } }

/-- Removes a save area that no other saved block is kept in. -/
def dropArea (x : Saved) (s : State) : State :=
  if s.saved.any fun y => y.blk.uid != x.blk.uid && y.whole && y.area == x.area then s else dropObj x.area s

/-- Places saved block `k` on a core again, if it fits (R141, R142, R143, R316, R325). -/
def restore (k core : Nat) (s : State) : State :=
  match s.saved[k]? with
  | none => s
  | some x =>
    if !x.whole || (s.core core).part != some x.blk.part || !classesFree s core x then s
    else match s.fits core x.blk.image (x.blk.mx.claim.getD (0, 0)), (s.core core).freeSeq with
      | some ps, some seq =>
        let s := { s with clock := s.clock + 1, saved := s.saved.eraseIdx k }
        let ws := x.blk.warps.zipIdx.map fun wi => (wi.1.1, wi.1.2.placed s.clock (ps.getD wi.2 (0, 0)))
        attach core seq x (dropArea x (s.setBlock core seq { x.blk with warps := ws }))
      | _, _ => s

/-! ### The agent's events (R435, R451) -/

/-- A record waits at its source for room on a core (R398): a landed one, or the chosen one while it is there. -/
def recordWaits (s : State) (core : Nat) : Bool :=
  let k := s.core core
  (match k.landing with
    | some r => some r
    | none => k.chosen.filter fun r => k.deque.contains r || k.settleq.contains r).any fun (r : TaskRec) =>
      ((s.imageOf r.jobid.toNat r.image.toNat).bind fun i => s.fits core i (0, 0)).isNone

/-- R129, R398: something waits for room on the core: the starter's record, or an unclaimed ticket of an open grid. -/
def roomWanted (s : State) (core : Nat) : Bool :=
  recordWaits s core ||
    s.grids.any fun g => !g.2.done && decide (g.2.ticket < g.2.n) && (s.core core).part == some g.2.part && (s.fits core g.2.image (0, 0)).isNone

/-- R436: while PREEMPT is set, the agent marks a block that it evicts to make room. -/
def markForRoom (core seq : Nat) (s : State) : State :=
  if (s.core core).preempt && !(s.block core seq).mark && decide (seq < agentSeq) && roomWanted s core then
    s.modBlock core seq fun b => { b with mark := true, quanta := 0 }
  else s

/-- EVICTION (R377, R435, R436): the agent marks the block, if it is in the way of what waits for room, and evicts a marked block once it is evictable and its own
writes have been performed; PREEMPT clears when no marked block remains. -/
def execEviction (core seq : Nat) (s : State) : Out :=
  .next (let s := markForRoom core seq s
    if (s.block core seq).mark && evictable s core seq && !s.writing core seq then evict core seq s else settlePreempt core s)

end Sys2Proof.Machine
end

