-- ==== Sys2Proof/Machine/Context.lean ====
section
/-!
DEFINITION. The agent's CTXSV and CTXLD (R451): the sections of a block written one by one, and a block placed and loaded from the bytes of its sections.
-/
set_option autoImplicit false

namespace Sys2Proof.Machine

/-! ### Saving (R451) -/

/-- A resident warp by its core's warp slot: slice and slot in the slice. -/
def warpInSlot (b : Block) (slot : Nat) : Option Nat := (b.warps.find? fun iw => 8 * iw.2.slice + iw.2.slot == slot).map (·.1)

/-- Status of CTXSV and CTXLD (R451), and the state. -/
abbrev CtxAns := State × Nat

/-- CTXSV.W: with the first warp the block is detached, and every warp's section is what it is then. -/
def saveWarp (core seq slot : Nat) (oid : BitVec 24) (off : Nat) (s : State) : CtxAns :=
  match s.block? core seq with
  | none => (s, 1)
  | some b =>
    let part := s.saved.find? fun x => x.blk.uid == b.uid && !x.whole && x.loading.isEmpty
    match warpInSlot b slot with
    | none => (s, 1)
    | some i =>
      if part.isNone && !evictable s core seq then (s, 1)
      else
        let s := if part.isSome then s else deliverAll core seq s
        let secs := match part with
          | some x => x.secs
          | none => b.warps.map fun iw => (iw.1, warpSection s { core := core, seq := seq, warp := iw.1 })
        let s := s.writeN (.obj oid) off (smGetD secs i [])
        let s := if part.isSome then s else
          let keep := keptOps s core seq
          let s' := detach core seq s
          { s' with saved := s'.saved ++ [{ blk := s'.block core seq, ops := keep, items := ownedItems s core seq, whole := false, secs := secs }] }
        (s.modBlock core seq fun b => { b with warps := smDel b.warps i, stop := some (b.stop.getD .moving) }, 0)

/-- CTXSV.B. -/
def saveBlock (core seq : Nat) (oid : BitVec 24) (off : Nat) (s : State) : CtxAns :=
  match s.block? core seq with
  | none => (s, 1)
  | some b =>
    match s.saved.findIdx? fun x => x.blk.uid == b.uid && !x.whole && x.loading.isEmpty with
    | none => (s, 1)
    | some i =>
      match s.saved[i]? with
      | none => (s, 1)
      | some x =>
        if !b.warps.isEmpty then (s, 1)
        else
          let s := s.writeN (.obj oid) off (blockSection s { b with warps := x.blk.warps } x.items)
          let s := freePlace core seq s
          let y := { x with blk := { b with warps := x.blk.warps, mark := false, quanta := 0, absent := [], stop := none }, area := oid, off := off, whole := true
                            secs := [] }
          (freeGangs b.part (settlePreempt core { s with saved := s.saved.set i y }), 0)

/-- The status of a section's header at a place: its MAGIC, its LAYOUT and its reserved bits. -/
def headStatus (s : State) (oid : BitVec 24) (off magic : Nat) (reserved : Nat → Bool) : Nat :=
  let h := s.readNat (.obj oid) off 256
  if h % 2 ^ 32 ≠ magic ∨ reserved h then 2 else if bitsAt h 32 16 ≠ 1 then 4 else 0

/-- A reserved field of a block header is set. -/
def blockReserved (h : Nat) : Bool := bitsAt h 56 8 != 0 || bitsAt h 132 380 != 0 || bitsAt h 1024 1024 != 0

/-- A reserved field of a warp header is set (Table 18.3). -/
def warpReserved (h : Nat) : Bool :=
  bitsAt h 48 16 != 0 || bitsAt h 112 16 != 0 || bitsAt h 166 26 != 0 || bitsAt h 197 27 != 0 || bitsAt h 227 29 != 0 ||
    bitsAt h 453 27 != 0 || bitsAt h 480 1 != 0 || bitsAt h 481 1567 != 0

/-- A reserved field of a thread record is set (Table 18.4). -/
def threadReserved (v : Nat) : Bool := bitsAt v 385 639 != 0 || bitsAt v 78 18 != 0 || bitsAt v 69 3 != 0 || bitsAt v 56 8 != 0

/-- A capability from its 32 bytes in a block section. -/
def capFrom (v valid : Nat) : Cap :=
  { valid := valid.testBit 0, oid := BitVec.ofNat 24 (bitsAt v 104 24), rights := BitVec.ofNat 8 (bitsAt v 96 8)
    upper := BitVec.ofNat 48 (bitsAt v 48 48), lower := BitVec.ofNat 48 (bitsAt v 0 48) }

/-- Reads a number of some bytes of a section. -/
abbrev SecRead := Nat → Nat → Nat

/-- The bytes of an object from an offset. -/
def State.secRead (s : State) (oid : BitVec 24) (off : Nat) : SecRead := fun o n => s.readNat (.obj oid) (off + o) n

/-- Bytes rounded up to whole lines. -/
def up64 (n : Nat) : Nat := (n + 63) / 64 * 64

/-- An item from 128 bits (Table 13.2). -/
def Item.ofNat (v : Nat) : Item :=
  { cls := BitVec.ofNat 4 (bitsAt v 0 4), arg0 := BitVec.ofNat 32 (bitsAt v 32 32), arg1 := BitVec.ofNat 32 (bitsAt v 64 32), arg2 := BitVec.ofNat 32 (bitsAt v 96 32) }

/-- The item classes of a block section from a place on, and where they end (R440, log entry 96); `fuel` bounds their number. -/
def itemsFrom (rd : SecRead) (seq : Nat) : Nat → Nat → SMap ItemQ × Nat
  | 0, p => ([], p)
  | fuel + 1, p =>
    if rd (p + 12) 4 != itemMagic then ([], p)
    else
      let n := min (rd (p + 8) 4) 1024
      let x := itemsFrom rd seq fuel (p + up64 (16 + 16 * n))
      (smSet x.1 (rd p 4 % 16) { owner := seq, o := rd (p + 4) 4, items := (List.range n).map fun i => Item.ofNat (rd (p + 16 + 16 * i) 16) }, x.2)

/-- The stream's state from a number. -/
def StreamSt.ofNat (n : Nat) : StreamSt :=
  match n % 256 with
  | 0 => .idle
  | 1 => .running
  | 2 => .waiting (n / 256 % 16)
  | 3 => .ended
  | _ => .faulted (BitVec.ofNat 8 (n / 65536)) (BitVec.ofNat 8 (n / 2 ^ 24))

/-- `n` values of `w` bytes from a place, those that are not 0 keyed from `k`. -/
def valsFrom (rd : SecRead) (p w k n : Nat) : SMap (BitVec 64) :=
  ((List.range n).map fun i => (k + i, BitVec.ofNat 64 (rd (p + w * i) w))).filter fun x => x.2 != 0

/-- The bytes of a saved tile and of a saved macro, with their headers (log entry 96). -/
def tileLen : Nat := 64 + 32768
/-- The bytes of a saved macro, with its slots' headers. -/
def macroLen : Nat := 256 + 131072

/-- Tile `i` of a matrix state whose first tile is saved at `p`. -/
def tileFrom (rd : SecRead) (p i : Nat) : Tile :=
  let q := p + tileLen * i
  let k64 := rd (q + 2) 2 % 2 == 1
  { ver := BitVec.ofNat 16 (rd q 2), k64 := k64
    elems := if !k64 then valsFrom rd (q + 64) 4 0 8192
      else if i % 2 = 0 then valsFrom rd (q + 64) 8 0 4096 ++ valsFrom rd (q + tileLen + 64) 8 4096 4096 else [] }

/-- The slots of a macro saved at `p`. -/
def macroFrom (rd : SecRead) (p : Nat) : SMap Operand :=
  (List.range 4).filterMap fun k =>
    let h := p + 64 * k
    let fmt := rd (h + 4) 4
    let q := p + 256 + 32768 * k
    if rd h 4 = 0 then none else some (k,
      { fmt := fmt, rows := rd (h + 8) 4, cols := rd (h + 12) 4, nonfin := BitVec.ofNat 4 (rd (h + 16) 4)
        elems := valsFrom rd q (mxBytes fmt) 0 16384
        scales := if mxBytes fmt = 1 then (valsFrom rd (q + 16384) 1 0 16384).map fun x => (x.1, x.2.setWidth 8) else [] })

/-- The matrix state saved at `p`; what it does not carry is `old` (R342, R440). -/
def matrixFrom (rd : SecRead) (p : Nat) (old : Mx) : Mx :=
  let n := rd (p + 8) 4 % 32
  let m := rd (p + 12) 4 % 64
  let words := fun (q cnt : Nat) => ((List.range cnt).map fun i => (i, BitVec.ofNat 32 (rd (q + 4 * i) 4))).filter fun (x : Nat × Word) => x.2 != 0
  let at_ := p + 1472
  { old with
    claim := some (n, m), st := StreamSt.ofNat (rd p 4), pc := BitVec.ofNat 32 (rd (p + 4) 4), regs := words (p + 64) 64, bars := words (p + 320) 16
    resv := (List.range 16).filterMap fun i =>
      let v := rd (p + 384 + 32 * i) 32
      if bitsAt v 192 1 = 0 then none else some (i,
        { base := bitsAt v 0 32, extent := bitsAt v 32 32, scaleoff := bitsAt v 64 32, planeoff := bitsAt v 96 32, fmt := bitsAt v 128 32, blk := v.testBit 160 })
    shapes := (List.range 16).filterMap fun i =>
      let v := rd (p + 896 + 32 * i) 32
      if bitsAt v 192 1 = 0 then none else some (i,
        { resv := bitsAt v 0 32, base := bitsAt v 32 32, stride := bitsAt v 64 32, rows := bitsAt v 96 32, cols := bitsAt v 128 32 })
    mxf := BitVec.ofNat 6 (rd (p + 1408) 1)
    tiles := (List.range n).map fun i => (i, tileFrom rd at_ i)
    cims := (List.range m).map fun i => (i, macroFrom rd (at_ + tileLen * n + macroLen * i))
    ops := [] }

/-- A block that a section names by its origin alone: a record of a job, or a block of the oldest grid of the partition that has one of that index
(log entry 96). -/
def originBlock (s : State) (part code v : Nat) : Option Block :=
  let w := fun (i : Nat) => bitsAt v (32 * i) 32
  if code = 0 then
    s.grids.findSome? fun g =>
      if g.2.part == part && !g.2.done && decide (w 0 < g.2.dim.1.toNat) && decide (w 1 < g.2.dim.2.1.toNat) && decide (w 2 < g.2.dim.2.2.toNat) then
        some { origin := .grid g.1 (BitVec.ofNat 32 (w 0)) (BitVec.ofNat 32 (w 1)) (BitVec.ofNat 32 (w 2)), part := part, job := g.2.job, load := g.2.load
               code := g.2.code, image := g.2.image, depth := g.2.depth, gdim := g.2.dim }
      else none
  else
    let r := TaskRec.ofNat v none
    match smGet? s.jobs r.jobid.toNat, s.loadOf r.jobid.toNat, s.imageOf r.jobid.toNat r.image.toNat with
    | some j, some l, some i =>
      if j.part ≠ part then none else
        some { origin := .task r, part := part, job := r.jobid.toNat, load := j.load, code := l.code, image := { i with entry := r.entry }, depth := r.depth.toNat }
    | _, _, _ => none

/-- The place in the firmware's list, if any, and the record of the block whose section begins with a header: that of the same origin kept at the place itself, or
another of it, or one made from the origin alone (R440, log entry 96). -/
def recordAt (s : State) (part : Nat) (oid : BitVec 24) (off : Nat) : Option (Option Nat × Saved) :=
  let h := s.readNat (.obj oid) off 256
  let mine := fun (x : Saved) => x.whole && x.blk.part == part && x.blk.origin.code == bitsAt h 54 2 && x.blk.origin.toNat == bitsAt h 512 512
  match (s.saved.findIdx? fun x => mine x && x.area == oid && x.off == off).or (s.saved.findIdx? mine) with
  | some i => (s.saved[i]?).map fun x => (some i, x)
  | none => (originBlock s part (bitsAt h 54 2) (bitsAt h 512 512)).map fun b =>
      (none, { blk := { b with warps := (List.range b.image.warps).map fun i =>
        (i, ({ g := b.image.gen, f := b.image.aff, q := b.image.unif, threads := List.replicate 32 {} } : Warp)) } })

/-- The offset at which the spill regions of a section end. -/
def spillEnd (i : Image) : Nat := 1280 + up64 i.shared + i.warps * up64 i.spill

/-- The bytes of a block section. -/
def blockLen (s : State) (part : Nat) (oid : BitVec 24) (off : Nat) : Nat :=
  match recordAt s part oid off with
  | none => 256
  | some (_, x) =>
    let rd := s.secRead oid off
    let p := (itemsFrom rd 0 16 (spillEnd x.blk.image)).2
    if rd (p + 16) 4 != matrixMagic then p else p + 1472 + tileLen * (rd (p + 8) 4 % 32) + macroLen * (rd (p + 12) 4 % 64)

/-- A block that firmware has no record of begins anew as one of its grid or job. -/
def countLoaded (b : Block) (s : State) : State :=
  match b.origin with
  | .grid g .. => match smGet? s.grids g with
    | some x => { s with grids := smSet s.grids g { x with running := x.running + 1 } }
    | none => s
  | .task _ => s.modJob b.job fun j => { j with count := j.count + 1 }

/-- A block from its section, in the places of its warps, which are still to be loaded; the firmware's record gives what the layout does not carry (R440). -/
def blockFrom (rd : SecRead) (seq : Nat) (x : Block) (ps : List (Nat × Nat)) : Block × SMap ItemQ :=
  let i := x.image
  let caps := (List.range 32).foldl (fun m j => smPut m j (capFrom (rd (256 + 32 * j) 16) (rd (272 + 32 * j) 16)) {}) ([] : SMap Cap)
  let bytes := fun (p n : Nat) => memWriteN [] 0 (leBytes n (rd p n))
  let ws := x.warps.zipIdx.map fun wi =>
    (wi.1.1, ({ slice := (ps.getD wi.2 (0, 0)).1, g := wi.1.2.g, f := wi.1.2.f, q := wi.1.2.q, slot := (ps.getD wi.2 (0, 0)).2
                spill := bytes (1280 + up64 i.shared + wi.1.1 * up64 i.spill) i.spill } : Warp))
  let its := itemsFrom rd seq 16 (spillEnd i)
  ({ x with
     warps := ws, caps := caps, shared := bytes 1280 i.shared, kids := rd 8 4, grids := rd 12 4, stop := some .moving
     mx := if rd (its.2 + 16) 4 == matrixMagic then matrixFrom rd its.2 x.mx else { x.mx with claim := none, tiles := [], cims := [] } }, its.1)

/-- CTXLD.B: the block is placed on a core of its partition, with its warps still to be loaded; its item classes are its own from then on (R141, R143, R316). -/
def loadBlock (core seq : Nat) (oid : BitVec 24) (off : Nat) (s : State) : CtxAns :=
  let st := headStatus s oid off 0x4E5A4342 blockReserved
  if st ≠ 0 then (s, st)
  else match recordAt s (s.partOf core) oid off with
    | none => (s, 3)
    | some (i, x) =>
      let rd := s.secRead oid off
      let y := blockFrom rd seq x.blk []
      match s.fits core x.blk.image (y.1.mx.claim.getD (0, 0)) with
      | none => (s, 3)
      | some ps =>
        if (s.block? core seq).isSome || agentSeq ≤ seq || !(y.2.all fun kq => (smGet? (s.core core).items kq.1).isNone) then (s, 3)
        else
          let b := (blockFrom rd seq x.blk ps).1
          let b := if i.isSome then b else { b with uid := s.nextId }
          let s := if i.isSome then s else countLoaded b { s with nextId := s.nextId + 1 }
          let s := { s with clock := s.clock + 1 }.setBlock core seq b
          let s := s.modCore core fun k => { k with items := y.2.foldl (fun m kq => smSet m kq.1 kq.2) k.items }
          let z := { x with blk := { b with warps := x.blk.warps }, items := [], whole := false, loading := x.blk.warps.map (·.1) }
          ({ s with saved := match i with | some i => s.saved.set i z | none => s.saved ++ [z] }, 0)

/-- What a thread waits for after a restore, from WAITKIND and WAITARG: a CJWAIT is taken up afterwards, MXACQ and a SNAP of the firmware's record wait again, and any
other issues its instruction again (Table 18.2). -/
def waitFrom (kind arg : Nat) (old : Wait) : Wait :=
  match kind, decodeWord (BitVec.ofNat 96 arg) with
  | 4, .ok (.snap ..) => (match old with | .copy id => .copy id | _ => .none)
  | 5, .ok (.mxacq ..) => .mxacq
  | _, _ => .none

/-- A thread from its record (Table 18.4); what that does not carry is the firmware's record of it. -/
def threadFrom (v : Nat) (old : Thread) : Thread :=
  let f := fun (lo w : Nat) => BitVec.ofNat w (bitsAt v lo w)
  let n := bitsAt v 64 5
  { old with
    pc := f 0 32, obj := f 32 24, wait := waitFrom (bitsAt v 72 4) (bitsAt v 128 128) old.wait, ended := v.testBit 76, inH := v.testBit 77, cychi := f 96 32
    item := if v.testBit 384 then some { cls := f 256 4, arg0 := f 288 32, arg1 := f 320 32, arg2 := f 352 32 } else none
    rstack := ((List.range n).map fun e => (f (1056 + 64 * e) 24, f (1024 + 64 * e) 32)).reverse }

/-- A warp from its section; what the layout does not carry is the firmware's record of it. -/
def warpFrom (s : State) (oid : BitVec 24) (off : Nat) (old : Warp) : Warp :=
  let rd := fun (o n : Nat) => s.readNat (.obj oid) (off + o) n
  let h := rd 0 256
  let r := sectionBytes old - 9664
  let w4 := fun (base k : Nat) => BitVec.ofNat 32 (rd (base + 4 * k) 4)
  let gen := (List.range (32 * old.g)).foldl (fun m k => smPut m k (w4 256 k) 0) ([] : SMap Word)
  let aff := (List.range old.f).foldl (fun m k =>
    smPut m (old.g + k) (w4 (256 + 128 * old.g) (2 * k), w4 (256 + 128 * old.g) (2 * k + 1)) (0, 0)) ([] : SMap (Word × Word))
  let uni := (List.range old.q).foldl (fun m k => smPut m (old.g + old.f + k) (w4 (256 + 128 * old.g + 8 * old.f) k) 0) ([] : SMap Word)
  let cls := (List.range 16).foldl (fun m k => smPut m k (w4 (256 + r) (2 * k), w4 (256 + r) (2 * k + 1)) (0, 0)) ([] : SMap (Mask × Mask))
  let preds := (List.range 15).foldl (fun m k => smPut m k (w4 (384 + r) k) 0) ([] : SMap Mask)
  let efs := (List.range 256).foldl (fun m k => smPut m k (w4 (448 + r) k) 0) ([] : SMap Word)
  let trap : Option TrapInfo := if bitsAt h 416 8 = 0 then none else
    some { cause := BitVec.ofNat 8 (bitsAt h 416 8), pc := BitVec.ofNat 32 (bitsAt h 352 32), obj := BitVec.ofNat 24 (bitsAt h 424 24)
           lanes := BitVec.ofNat 32 (bitsAt h 320 32), info := BitVec.ofNat 32 (bitsAt h 384 32) }
  { old with
    gen := gen, aff := aff, uni := uni, clauses := cls, preds := preds, efs := efs, trap := trap
    sp := bitsAt h 128 32, fpflags := BitVec.ofNat 6 (bitsAt h 160 6), fpten := BitVec.ofNat 5 (bitsAt h 192 5)
    fprnd := BitVec.ofNat 3 (bitsAt h 224 3), pvcnt := BitVec.ofNat 32 (bitsAt h 256 32)
    threads := old.threads.mapIdx fun l th => threadFrom (rd (1472 + r + 256 * l) 256) th }

/-- Some thread record of a warp section has a reserved field set. -/
def recordsReserved (s : State) (oid : BitVec 24) (off : Nat) (x : Warp) : Bool :=
  (List.range 32).any fun l => threadReserved (s.readNat (.obj oid) (off + (sectionBytes x - 8192) + 256 * l) 256)

/-- The Conjunction wait of a thread record: the object, the offset and the token (Table 18.4). -/
def cjArg (rec : Nat) : Option (BitVec 24 × Nat × Word) :=
  if bitsAt rec 72 4 = 1 then some (BitVec.ofNat 24 (bitsAt rec 128 24), bitsAt rec 152 48, BitVec.ofNat 32 (bitsAt rec 200 32)) else none

/-- A saved CJWAIT of a lane, of the firmware's record, that waits for what a thread record says. -/
def keptCj (x : Saved) (i l : Nat) (a : BitVec 24 × Nat × Word) : Option Nat :=
  (x.ops.find? fun o => match o.work with
    | .conj r => o.mems.any (fun m => m.w.warp == i && m.lanes.getLsbD l) && r.off == a.2.1 && (r.vals.headD (0, 0)).2 == a.2.2 &&
        (match r.side with | .obj oid => oid == a.1 | .shm _ _ => a.1 == 0)
    | _ => false).map (·.id)

/-- Some lanes of a warp wait again at the CJWAIT before their index, on the saved token (R381, Table 18.2). -/
def waitCj (w : WRef) (lanes : Mask) (obj : BitVec 24) (pc : BitVec 32) (a : BitVec 24 × Nat × Word) (s : State) : State :=
  match (s.fetch obj (pc - 1)).map decodeWord with
  | some (.ok (.cjwait _ o)) =>
    let id := s.nextId
    let r : CjReq := { kind := 3, sub := o.m.sub.toNat % 8, side := if a.1 == 0 then .shm w.core w.seq else .obj a.1, off := a.2.1, d := o.d
                       vals := (lanesOf lanes).map fun l => (l, a.2.2), rel := false
                       acq := match o.m.scope with | .die | .dev | .sys => true | _ => false, parked := true }
    let op : LongOp := { id := id, core := w.core, mems := [{ w := w, lanes := lanes }], obj := obj, pc := pc - 1, long := true, work := .conj r
                         marks := match o.d with | .v n => [.reg w n.val] | _ => [] }
    { s with nextId := id + 1, ops := s.ops ++ [op] }.modThreads w lanes fun _ th => { th with wait := .conj id }
  | _ => s.modThreads w lanes fun _ th => { th with pc := pc - 1 }

/-- Takes up the Conjunction waits of a loaded warp: those of the firmware's record, and those that its thread records alone give. -/
def takeWaits (w : WRef) (rec : Nat → Nat) (x : Saved) (s : State) : State :=
  let s := (List.range 32).foldl (fun s l => match (cjArg (rec l)).bind (keptCj x w.warp l) with
    | some id => s.modThreads w (laneBit l) fun _ th => { th with wait := .conj id }
    | none => s) s
  let key := fun (l : Nat) => match cjArg (rec l) with
    | some a => if (keptCj x w.warp l a).isSome then none else some (((s.warp w).thread l).obj, ((s.warp w).thread l).pc, a)
    | none => none
  (((List.range 32).filterMap key).eraseDups).foldl (fun s k => waitCj w (maskOf fun l => key l == some k) k.1 k.2.1 k.2.2 s) s

/-- The outstanding instructions of a firmware's record that some thread of the loaded block waits for. -/
def Saved.waited (x : Saved) (b : Block) : Saved :=
  { x with ops := x.ops.filter fun o => b.warps.any fun iw => iw.2.threads.any fun th => th.wait == .conj o.id || th.wait == .copy o.id }

/-- CTXLD.W: the warp of a placed slot is loaded; with the last one the block resumes. -/
def loadWarp (core seq slot : Nat) (oid : BitVec 24) (off : Nat) (s : State) : CtxAns :=
  let st := headStatus s oid off 0x4E5A4358 warpReserved
  if st ≠ 0 then (s, st)
  else match s.block? core seq with
    | none => (s, 3)
    | some b =>
      match s.saved.findIdx? (fun x => x.blk.uid == b.uid && !x.whole && !x.loading.isEmpty), warpInSlot b slot with
      | some k, some i =>
        match s.saved[k]? with
        | none => (s, 3)
        | some x =>
          if !x.loading.contains i || bitsAt (s.readNat (.obj oid) off 256) 448 5 ≠ i || recordsReserved s oid off (smGetD b.warps i {}) then (s, 2)
          else
            let s := { s with clock := s.clock + 1 }
            let here := smGetD b.warps i {}
            let w := (warpFrom s oid off (smGetD x.blk.warps i {})).placed s.clock (here.slice, here.slot)
            let s := s.modBlock core seq fun b => { b with warps := smSet b.warps i { w with spill := here.spill } }
            let at_ := off + (sectionBytes here - 8192)
            let s := takeWaits { core := core, seq := seq, warp := i } (fun l => s.readNat (.obj oid) (at_ + 256 * l) 256) x s
            let left := x.loading.filter (· != i)
            if left.isEmpty then (attach core seq (x.waited (s.block core seq)) { s with saved := s.saved.eraseIdx k }, 0)
            else ({ s with saved := s.saved.set k { x with loading := left } }, 0)
      | _, _ => (s, 3)

/-- CTXSV and CTXLD: the selector is read from D, the address is checked, and the status is written to D (R451). The instruction issues again while `busy`:
a save ends no earlier than the block's own stores have been performed (R377). -/
def ctxOp (c : Ctl) (u : Uses) (o : OpsM) (right : Nat) (busy : State → Nat → Bool) (len : State → Nat → Nat → BitVec 24 → Nat → Nat)
    (run : Nat → Nat → Nat → BitVec 24 → Nat → State → CtxAns) : State → Out :=
  let op := opdM o false
  issueT c u (fun act s => do
    s.uniformChk o.d act
    s.shapeChk u act fun _ => .uni
    let l := (lanesOf act).headD 0
    let d := s.u32 o.d l
    let oid : BitVec 24 := match op.side s l with | .obj oid => oid | .shm _ _ => 0
    onLanes act (do
      capChk s (laneBit l) op.cap [right] [.data]
      op.place s (laneBit l) (len s (d / 256 % 16) (d % 64) oid (op.ea s l)) 64)
    if busy s (d / 256 % 16) then .ok (holdReissue .none s) else
    let x := run s.cur.core (d / 256 % 16) (d % 64) oid (op.ea s l) s
    .ok (x.1.startResults c act u.d (u.d.toList.flatMap fun f =>
      (s.cur.acting act).flatMap fun m => fieldWrites f (fun _ => BitVec.ofNat 64 x.2) m (s.warp m.w))))

/-- The bytes of the section of a warp slot. -/
def warpLen (s : State) (seq slot : Nat) : Nat :=
  match s.block? s.cur.core seq with
  | some b => (match warpInSlot b slot with | some i => sectionBytes (smGetD b.warps i {}) | none => 256)
  | none => 256

/-- The block of a sequencer may be saved but for writes of its own that are on their way. -/
def saveBusy (s : State) (seq : Nat) : Bool :=
  evictable s s.cur.core seq && s.writing s.cur.core seq

/-- CTXSV (R451). -/
def execCtxsv (c : Ctl) (o : OpsM) (s : State) : Out :=
  if o.m.sub == 0 then ctxOp c (usesOf (.ctxsv c o)) o 1 saveBusy (fun s q k _ _ => warpLen s q k) saveWarp s
  else
    ctxOp c (usesOf (.ctxsv c o)) o 1 saveBusy (fun s q _ _ _ => match s.block? s.cur.core q with
      | some b => (blockSection s b (ownedItems s s.cur.core q)).length
      | none => 256) (fun core q _ => saveBlock core q) s

/-- CTXLD (R451). -/
def execCtxld (c : Ctl) (o : OpsM) (s : State) : Out :=
  if o.m.sub == 0 then ctxOp c (usesOf (.ctxld c o)) o 0 (fun _ _ => false) (fun s q k _ _ => warpLen s q k) loadWarp s
  else
    ctxOp c (usesOf (.ctxld c o)) o 0 (fun _ _ => false) (fun s _ _ oid off => blockLen s (s.partOf s.cur.core) oid off) (fun core q _ => loadBlock core q) s

end Sys2Proof.Machine
end

