-- ==== Sys2Proof/Machine/Capture.lean ====
section
/-!
DEFINITION. The capture buffer (R444, R448, R462, Table 19.8): a block's state copied, in the layout of R439 and R440, as a capture record.
-/
set_option autoImplicit false

namespace Sys2Proof.Machine

/-- The units of 64 bytes that some capture records take. -/
def captUnits (l : List (List Byte)) : Nat := l.foldl (fun a r => a + r.length / 64) 0

/-- Overwrites the oldest records whole while `n` units are more than the buffer's 64 MiB: the records left and the units dropped. -/
def trimCapt : Nat → List (List Byte) → List (List Byte) × Nat
  | _, [] => ([], 0)
  | n, r :: rest =>
    if n ≤ 1048576 then (r :: rest, 0)
    else
      let x := trimCapt (n - r.length / 64) rest
      (x.1, x.2 + r.length / 64)

/-- Captures a block: the number of the record's first unit, and the state. -/
def capture (kind core seq : Nat) (s : State) : Nat × State :=
  let g := s.logs
  let first := g.captN + captUnits g.capt
  let body := allSections s core seq
  let len := 1 + body.length / 64
  let head := packN 64 [(0, 0x4E5A4350), (32, first), (64, len), (96, core), (128, (s.block core seq).uid), (160, kind)]
  let x := trimCapt (captUnits g.capt + len) (g.capt ++ [head ++ body])
  (first, { s with logs := { g with capt := x.1, captN := g.captN + x.2 } })

/-- Captures a block and records its stop in the fault log. -/
def recordStop (kind core seq : Nat) (t : TrapInfo) (s : State) : State :=
  let b := s.block core seq
  let x := capture kind core seq s
  logFault b.job (t.fault kind b.uid core x.1) x.2

end Sys2Proof.Machine
end

