-- ==== Sys2Proof/Machine/System.lean ====
section
/-!
DEFINITION. Group 14, system (chapter 18, R446 to R450; R69, R155, R156): special registers, TRAP, BRKPT, ERET, the agent's own instructions
and REGQ.
-/
set_option autoImplicit false

namespace Sys2Proof.Machine

/-! ### Special registers (R69, Table 3.8) -/

/-- The block index of a block (R129, R395). -/
def Block.index (b : Block) : Word × Word × Word :=
  match b.origin with
  | .grid _ x y z => (x, y, z)
  | .task r => (r.tx.signExtend 32, r.ty.signExtend 32, r.tz.signExtend 32)

/-- The value of a special register for a thread (Table 3.8), but for CYCLO. The agent, which belongs to no slice, reads SLICENO as 0 (log entry 97). -/
def sregVal (s : State) (m : Member) (l n : Nat) : Word :=
  let w := s.warp m.w
  let b := s.block m.w.core m.w.seq
  let k := s.core m.w.core
  let p := s.part (s.partOf m.w.core)
  let nat := BitVec.ofNat 32
  match n with
  | 0x01 => (w.thread l).cychi
  | 0x02 => nat (p.coreNo m.w.core)
  | 0x03 => nat (p.dieNo m.w.core)
  | 0x04 => nat s.cur.slice
  | 0x05 => nat m.w.warp
  | 0x06 => nat b.image.warps
  | 0x08 => b.index.1
  | 0x09 => b.index.2.1
  | 0x0A => b.index.2.2
  | 0x0B => b.gdim.1
  | 0x0C => b.gdim.2.1
  | 0x0D => b.gdim.2.2
  | 0x0E => nat b.depth
  | 0x0F => nat b.job
  | 0x10 => w.fpflags.setWidth 32
  | 0x11 => w.fpten.setWidth 32
  | 0x12 => w.fprnd.setWidth 32
  | 0x20 => w.trap.elim 0 fun t => t.cause.setWidth 32
  | 0x21 => w.trap.elim 0 (·.pc)
  | 0x22 => w.trap.elim 0 (·.lanes)
  | 0x23 => w.trap.elim 0 (·.info)
  | 0x8000 => k.agtctl
  | 0x8001 => k.quantum
  | 0x8002 => if k.preempt then 1 else 0
  | 0x8003 => if k.mxsolo then 1 else 0
  | 0x8004 => k.beatseq
  | _ => 0

/-- The core's cycle counter goes on by an unstated number of clocks (R15, R69). -/
def tick (core : Nat) (s : State) : State :=
  let (i, s) := s.takeFree
  s.modCore core fun k => { k with cycles := k.cycles + 1 + BitVec.ofNat 64 (Config.freeClocks i) }

/-- SRD (R69, R447): its result is uniform; a read of CYCLO captures the whole counter for each active thread. -/
def execSrd (c : Ctl) (d : VReg) (m : Mods) : State → Out :=
  let u := usesOf (.srd c d m)
  let n := m.imm.toNat
  issueT c u (fun act s => do
    s.shapeChk u act fun _ => .uni
    if n == 0 then
      let s1 := tick s.cur.core s
      let v := (s1.core s.cur.core).cycles
      let s2 := s1.modMembers (s1.cur.acting act) fun mm w => w.modThreads mm.lanes fun _ th => { th with cychi := (v >>> 32).setWidth 32 }
      .ok (s2.putD c { r := d } act fun _ => (v.setWidth 32).setWidth 64)
    else
      .ok (s.putD c { r := d } act fun l => match s.cur.member? l with
        | some mm => (sregVal s mm l n).setWidth 64
        | none => 0))

/-- A value that SWR may not write (R69, R441). -/
def swrBad (n : Nat) (v : Word) : Bool :=
  (n == 0x12 && decide (4 < v.toNat % 8)) || (n == 0x8000 && v.toNat / 256 % 256 != 1)

/-- What SWR writes, for one member's warp or its core (Table 3.8); fields that the table does not name are ignored (R5). -/
def swrPut (n : Nat) (v : Word) (m : Member) (s : State) : State :=
  let core := m.w.core
  match n with
  | 0x10 => s.modWarp m.w fun w => { w with fpflags := v.setWidth 6 }
  | 0x11 => s.modWarp m.w fun w => { w with fpten := v.setWidth 5 }
  | 0x12 => s.modWarp m.w fun w => { w with fprnd := v.setWidth 3 }
  | 0x8000 => s.modCore core fun k => { k with agtctl := (v &&& 3) ||| 0x100 }
  | 0x8001 => s.modCore core fun k => { k with quantum := v }
  | 0x8002 => s.modCore core fun k => { k with preempt := v.getLsbD 0 }
  | 0x8003 => s.modCore core fun k => { k with mxsolo := v.getLsbD 0 }
  | _ => s

/-- SWR (R69, R447). -/
def execSwr (c : Ctl) (a : VReg) (m : Mods) : State → Out :=
  let n := m.imm.toNat
  issueT c (usesOf (.swr c a m)) (fun act s => do
    s.uniformChk a act
    let v := fun (mm : Member) => BitVec.ofNat 32 (s.u32 a ((lanesOf mm.lanes).headD 0))
    trapIf ((s.cur.acting act).any fun mm => swrBad n (v mm)) .illop act
    .ok ((s.cur.acting act).foldl (fun t mm => swrPut n (v mm) mm t) s))

/-! ### TRAP, BRKPT and ERET (R430, R448, R449) -/

/-- TRAP (R448). -/
def execTrap (c : Ctl) (m : Mods) : State → Out :=
  issueT c (usesOf (.trap c m)) (fun act _ => .error { cause := .softtrap, lanes := act, info := m.imm.setWidth 32 })

/-- BRKPT (R448): with the debugger enabled, the blocks of the group stop for it, to resume at the next instruction. -/
def execBrkpt (c : Ctl) (m : Mods) : State → Out :=
  issueT c (usesOf (.brkpt c m)) (fun act s =>
    let t : TrapReq := { cause := .brkpt, lanes := act, info := m.imm.setWidth 32 }
    if !(s.core s.cur.core).agtctl.getLsbD 1 then .error t
    else .ok ((blocksOf s.cur.mems).foldl (fun t' cq =>
      match s.cur.mems.find? fun mm => mm.w.core == cq.1 && mm.w.seq == cq.2 with
      | some mm =>
        let x := t.infoFor s.cur mm
        if (t'.block cq.1 cq.2).stop.isSome then t'
        else recordStop 1 cq.1 cq.2 x (t'.modBlock cq.1 cq.2 fun b => { b with stop := some (.debug x (BitVec.ofNat 32 b.uid)) })
      | none => t') s))

/-- ERET (R430, R449): a thread that is in no handler raises ILLOP. -/
def execEret (c : Ctl) (m : Mods) : State → Out :=
  issueT c (usesOf (.eret c m)) (fun act s => do
    let z := s.lanesWith act fun _ th => !th.inH
    trapIf (z != 0) .illop z
    .ok (s.modMembers (s.cur.acting act) (returnTrap (m.sub == 1) s.clock)))

/-! ### The agent's own instructions (R450) -/

/-- BEAT: the management core receives BEATSEQ and n. -/
def execBeat (c : Ctl) (m : Mods) : State → Out :=
  issueT c (usesOf (.beat c m)) (fun _ s =>
    .ok (s.modCore s.cur.core fun k => { k with beatseq := k.beatseq + 1, beats := k.beats + 1, beat := some (k.beatseq + 1, m.imm) }))

/-- WFI. -/
def execWfi (c : Ctl) (m : Mods) : State → Out :=
  issueT c (usesOf (.wfi c m)) (fun _ s => .ok (s.modCore s.cur.core fun k => { k with waitfi := true }))

/-- ICINV: every line of the core's instruction cache. -/
def execIcinv (c : Ctl) (m : Mods) : State → Out :=
  issueT c (usesOf (.icinv c m)) (fun _ s => .ok (s.modCore s.cur.core fun k => { k with icache := [] }))

/-! ### REGQ (R155, R156) -/

/-- The value of REGQ in a warp (Table 7.2). -/
def regqVal (b : Block) (w : Warp) (sub i : Nat) : Nat :=
  match sub with
  | 0 => w.g
  | 1 => w.f
  | 2 => w.q
  | 3 => w.g
  | 4 => w.g + w.f
  | 5 => if i < w.g then 0 else if i < w.g + w.f then 1 else if i < w.total then 2 else 3
  | 6 => b.image.spill
  | _ => b.image.shared

/-- REGQ (R155, R156). -/
def execRegq (c : Ctl) (o : OpsV) : State → Out :=
  let u := usesOf (.regq c o)
  let sub := o.m.sub.toNat
  issueT c u (fun act s => do
    s.shapeChk u act fun mm => if sub == 5 && srcShp (s.warp mm.w) o.a != .uni then .gen else .uni
    .ok (s.putD c { r := o.d } act fun l => BitVec.ofNat 64 (regqVal (s.blockAt l) (s.warpAt l) sub (s.u32 o.a l))))

end Sys2Proof.Machine
end

