-- ==== Sys2Proof/Machine/Engine.lean ====
section
/-!
DEFINITION. The events of the memory system: instruction-cache fills, the end of a YIELD, the arrival of data and the completion of
long-latency instructions, remote stores, collapses of RDUP pages, the replication sequencer, and what firmware does to pages (chapters 4, 8
and 11).
-/
set_option autoImplicit false

namespace Sys2Proof.Machine

/-! ### The instruction cache (R157 to R159) -/

/-- The lines that a core's cache reads: those requested, then those waited for. -/
def cacheReads (s : State) (core : Nat) : List (BitVec 24 × Nat) :=
  ((s.core core).imiss ++ (wantedLines s core).map (·.2)).eraseDups

/-- ICACHE_FILL (R158): the `k`th line that the cache reads arrives; a line that a thread waits for brings a request for the line after it. -/
def execIcacheFill (core k : Nat) (s : State) : Out :=
  .next (match (cacheReads s core)[k]? with
    | none => s
    | some (obj, n) =>
      let want := (wantedLines s core).filter fun x => x.2 == (obj, n)
      match s.runGate core (.obj obj) (192 * n) 192 false true false with
      | .ok =>
        let s := s.modCore core fun c => c.addLine (((wantedLines s core).map (·.2)).eraseDups) (obj, n)
        if want.isEmpty then s else askLines core obj (16 * (n + 1) : Nat) 1 s
      | .abort => want.foldl (fun s x => abortAccess { core := core, seq := x.1, warp := 0 } (.obj obj) (192 * n) 192 s) s
      | _ => s)

/-- YIELD_EXPIRY (R180): the clocks of the YIELD that gave its threads this age stamp have passed. -/
def execYieldExpiry (core slice stamp : Nat) (s : State) : Out :=
  .next ((s.sliceWarps core slice).foldl (fun s w => s.modWarp w fun x => x.mapThreads fun th =>
    if th.yclk && th.stamp == stamp then { th with yclk := false } else th) s)

/-! ### Arrivals and completions (R168, R248) -/

/-- An outstanding instruction's accesses have reached their places; `seqd` at the replication sequencer. -/
def arriveOp (seqd : Bool) (o : LongOp) (s : State) : State :=
  match o.work with
  | .mem _ => resumeMem true seqd o s
  | .conj _ => resumeCj true seqd o s
  | .vol _ => runVol o.id s
  | _ => s

/-- LOAD_DATA_ARRIVAL (R248, R253). -/
def execLoadDataArrival (k : Nat) (s : State) : Out :=
  .next (match s.op? k with
    | some o => arriveOp false o s
    | none => s)

/-- LONG_LATENCY_COMPLETE (R168, R221, R389, R413): the instruction completes, its results and flags arriving; a fence or a snapshot whose
condition holds ends. -/
def execLongLatencyComplete (k : Nat) (s : State) : Out :=
  .next (match s.op? k with
    | some o => (match o.work with
      | .results => s.complete k
      | .sched r => if r.going then completeSched o r s else s
      | .fence _ => resumeFence o s
      | .snap .. => resumeSnap o s
      | _ => s)
    | none => s)

/-- REMOTE_STORE_PERFORMED (R248, R254): the `k`th remote store is performed, in order of its core's stores to the line, once the line is present. -/
def execRemoteStorePerformed (k : Nat) (s : State) : Out :=
  .next (match s.rstores[k]? with
    | none => s
    | some r =>
      let before := (s.rstores.take k).any fun x => x.core == r.core && x.oid == r.oid && x.off / 64 == r.off / 64
      if before || s.absentAt (.obj r.oid) r.off r.bytes.length then s
      else { s.writeN (.obj r.oid) r.off r.bytes with rstores := s.rstores.eraseIdx k })

/-! ### Collapses (R83) -/

/-- A copy in progress and its core. -/
def State.copy? (s : State) (k : Nat) : Option (Nat × Copy) :=
  s.cores.findSome? fun ck => (ck.2.copies.find? fun c => c.id == k).map fun c => (ck.1, c)

/-- An access to an object: the object, the first byte and the length, if the side is an object. -/
def placeOf (sd : Side) (off n : Nat) : Option (BitVec 24 × Nat × Nat) :=
  match sd with
  | .obj oid => some (oid, off, n)
  | .shm _ _ => none

/-- The writes of an outstanding instruction or copy `k`, with its core. -/
def writesOf (s : State) (k : Nat) : Nat × List (Side × Nat × Nat) :=
  match s.op? k with
  | some o => (o.core, match o.work with
    | .mem l => (l.filter (·.writes)).map fun st => (st.side, st.off, st.n)
    | .conj r => if r.kind == 3 || r.kind == 5 then [] else [(r.side, r.off, 64)]
    | .snap key _ sd off _ => [(sd, off, 64 + ((smGet? s.progs key).elim 0 Prog.mapBytes))]
    | _ => [])
  | none => match s.copy? k with
    | some (core, c) => (core, (c.todo.map fun p => (c.dstSide, p.dst, p.len)) ++ (c.cj.toList.map fun x => (x.1, x.2, 64)))
    | none => (0, [])

/-- The first byte that a write of `k` would write in an RDUP page: core, object, offset, and the end of the write. -/
def wprotPlace (s : State) (k : Nat) : Option (Nat × BitVec 24 × Nat × Nat) :=
  let w := writesOf s k
  w.2.findSome? fun x =>
    (placeOf x.1 x.2.1 x.2.2).bind fun p =>
      if s.gate w.1 x.1 p.2.1 1 true true true false == .wprot then some (w.1, p.1, p.2.1, p.2.1 + p.2.2)
      else if s.gate w.1 x.1 (p.2.1 + p.2.2 - 1) 1 true true true false == .wprot then some (w.1, p.1, p.2.1 + p.2.2 - 1, p.2.1 + p.2.2)
      else none

/-- COLLAPSE_REQUEST (R83): the writing core's agent sends the collapse to the home walker, which takes one at a time for a page. -/
def execCollapseRequest (k : Nat) (s : State) : Out :=
  .next (match wprotPlace s k with
    | none => s
    | some (core, oid, off, stop) => match s.obj? oid with
      | none => s
      | some o =>
        let page := o.pageKey off
        if s.collapses.any fun c => c.oid == oid && c.page == page then s
        else
          let last := if (o.page page).large then min ((stop - 1) / 65536) (page + 31) else off / 65536
          let c : Collapse := { req := k, oid := oid, page := page, lo := off / 65536, hi := last, die := dieOf core }
          { s with collapses := s.collapses ++ [c] })

/-- The pages of a collapse, by the place of each in the page that was one. -/
def Obj.collapsed (o : Obj) (c : Collapse) : List Nat := if (o.page c.page).large then List.range 32 else [0]

/-- A page of a collapse is written, so it becomes SINGLE. -/
def Collapse.wins (c : Collapse) (j : Nat) : Bool := decide (c.lo ≤ c.page + j) && decide (c.page + j ≤ c.hi)

/-- The page entries after a collapse (R83, R490): a 2 MiB page is split, the pages written become SINGLE on the winning die's replica frame, and the others
keep the entry with their own frame; `rep` gives a die's replica frame of the page that was one. -/
def Obj.collapse (o : Obj) (c : Collapse) (rep : Nat → Nat) : Obj :=
  let e := o.page c.page
  let entry := fun (j : Nat) => if c.wins j then { e with large := false, repl := 0, aux := 0 }.onFrame (rep c.die + j)
    else { e with large := false, frame := e.frame + BitVec.ofNat 24 j }
  { o with pages := (o.collapsed c).foldl (fun m j => smSet m (c.page + j) (entry j)) o.pages }

/-- The collapse commits: the entries change, and the other dies' replica frames of what became SINGLE return to the owner's free frames (R490). -/
def commitCollapse (c : Collapse) (s : State) : State :=
  match s.obj? c.oid with
  | none => s
  | some o =>
    let rep := fun (d : Nat) => s.replica o c.page d
    let gone : Frames := ((o.collapsed c).filter c.wins).flatMap fun j =>
      ((List.range 4).filter (· != c.die)).map fun d => (rep d + j, 1)
    let gone : Frames := gone.filter fun x => hasFrames x.1 1 o.held
    let o' := o.collapse c rep
    { s with objs := smSet s.objs c.oid.toNat { o' with held := cutAll gone o.held } }.giveFrames o.owner gone

/-- The pending part of a copy that may be performed at the replication sequencer, or after a collapse. -/
def pushCopy (seqd : Bool) (k : Nat) (s : State) : State :=
  match s.copy? k with
  | none => s
  | some (core, c) =>
    match c.todo.findIdx? fun p => partGate s core c p seqd == .ok && (!seqd || partGate s core c p false == .mrep) with
    | some n => arrivePart core k n seqd s
    | none => s

/-- COLLAPSE_ACK (R83): a die's walker has dropped its replica mapping; with the last of the four the collapse commits, and the parked write is
performed on the new entry. -/
def execCollapseAck (k die : Nat) (s : State) : Out :=
  .next (match s.collapses.find? fun c => c.req == k with
    | none => s
    | some c =>
      let c' := { c with acks := if c.acks.contains die then c.acks else c.acks ++ [die] }
      if (List.range 4).all c'.acks.contains then
        let s := { commitCollapse c s with collapses := s.collapses.filter fun x => x.req != k }
        match s.op? k with
        | some o => arriveOp false o s
        | none => pushCopy false k s
      else { s with collapses := s.collapses.map fun x => if x.req == k then c' else x })

/-- SEQUENCER_WRITE (R84): the replication sequencer gives the write of an instruction or a copy its place, and every copy applies it. -/
def execSequencerWrite (k : Nat) (s : State) : Out :=
  .next (match s.op? k with
    | some o => arriveOp true o s
    | none => pushCopy true k s)

/-! ### Accesses in flight -/

/-- A copy reads or writes an object. -/
def Copy.names (c : Copy) (oid : BitVec 24) : Bool :=
  c.srcSide == some (.obj oid) || c.dstSide == .obj oid || c.cj.any fun x => x.1 == .obj oid

/-- An outstanding instruction has accesses to an object. -/
def LongOp.names (o : LongOp) (s : State) (oid : BitVec 24) : Bool :=
  match o.work with
  | .mem l => l.any fun st => st.side == .obj oid || (match st.act with | .copyOut dst _ => dst == .obj oid | _ => false)
  | .conj r => r.side == .obj oid
  | .vol r => r.todo.any fun l => l.vol == oid || s.poolOf l.vol == oid
  | .kick cs => cs.any fun c => c.names oid
  | .snap _ _ sd _ _ => sd == .obj oid
  | _ => false

/-- A started command has an access to an object to make (R119, R120). -/
def Cmd.names (c : Cmd) (oid : BitVec 24) : Bool :=
  match c.wait with
  | .hcopy b => b.oid.setWidth 24 == oid
  | .conj o _ _ => o == oid
  | _ => false

/-- An access that passed its checks to an object has not been performed (R78, R82): of a thread, resident or saved, of a copy, or of a command. -/
def inFlight (s : State) (oid : BitVec 24) : Bool :=
  s.rstores.any (fun r => r.oid == oid) || s.ops.any (fun o => o.names s oid) || s.cores.any (fun ck => ck.2.copies.any fun c => c.names oid) ||
    s.saved.any (fun x => x.ops.any fun o => o.names s oid) || s.cmds.any fun c => c.names oid

/-- The accesses of the outstanding instructions that are parked on an object are issued again (R85, R123). -/
def resumeOn (oid : BitVec 24) (s : State) : State :=
  (s.ops.filter fun o => o.names s oid).foldl (fun s x => match s.op? x.id with
    | some o => arriveOp false o s
    | none => s) s

/-! ### Firmware and pages (R82, R85) -/

/-- Changes a page entry of an object. -/
def modPage (oid : BitVec 24) (page : Nat) (f : PageEntry → PageEntry) (s : State) : State :=
  s.modObj oid fun o => { o with pages := smPut o.pages page (f (o.page page)) (o.basePage page) }

/-- A 4 KiB slot of a stack's zone holds the image of some page. -/
def zoneTaken (s : State) (stack : BitVec 4) (slot : BitVec 24) : Bool :=
  s.objs.any fun o => o.2.pages.any fun p => p.2.comp && p.2.stack == stack && p.2.aux == slot

/-- The object of a number, live, with the key of the page entry that describes a 64 KiB page of it. -/
def pageOf (s : State) (oid page : Nat) : Option (BitVec 24 × Obj × Nat) :=
  let id := BitVec.ofNat 24 oid
  match s.obj? id with
  | some o => if o.live && decide (65536 * page < o.size) then some (id, o, o.pageKey (65536 * page)) else none
  | none => none

/-- PAGE_COMPRESS (R85, R278): a cold SINGLE page is written as an image to a free slot of its stack's zone, and its frames become free. -/
def execPageCompress (oid page : Nat) (slot : BitVec 24) (s : State) : Out :=
  .next (match pageOf s oid page with
    | none => s
    | some (id, o, k) =>
      let e := o.page k
      if e.aborts || e.comp || e.repl != 0 || o.kind == .scratch || o.kind == .volume || o.kind == .tilePool || inFlight s id || decide (1310720 ≤ slot.toNat) || zoneTaken s e.stack slot
      then s
      else
        let gone := [(e.unit, e.span)].filter fun x => hasFrames x.1 x.2 o.held
        let s := s.modObj id fun o => { o with held := cutAll gone o.held }
        modPage id k (fun e => { e with comp := true, aux := slot }) (s.giveFrames o.owner gone))

/-- An access of `n` bytes from `off` touches the page of an entry. -/
def Obj.touches (o : Obj) (k off n : Nat) : Bool := decide (o.pageKey off ≤ k) && decide (k ≤ o.pageKey (off + n - 1))

/-- An outstanding instruction's accesses, as places. -/
def LongOp.places (o : LongOp) (s : State) : List (Side × Nat × Nat) :=
  match o.work with
  | .mem l => l.map fun st => (st.side, st.off, st.n)
  | .conj r => [(r.side, r.off, 64)]
  | .snap key _ sd off _ => [(sd, off, 64 + ((smGet? s.progs key).elim 0 Prog.mapBytes))]
  | _ => []

/-- A copy's accesses that have not been performed, as places. -/
def Copy.places (c : Copy) : List (Side × Nat × Nat) :=
  (c.todo.flatMap fun p => (c.dstSide, p.dst, p.len) :: ((p.src.bind fun o => c.srcSide.map fun sd => (sd, o, p.len)).toList)) ++
    c.cj.toList.map fun x => (x.1, x.2, 64)

/-- Some place lies on a page of an object. -/
def onPage (o : Obj) (oid : BitVec 24) (k : Nat) (l : List (Side × Nat × Nat)) : Bool := l.any fun x => x.1 == .obj oid && o.touches k x.2.1 x.2.2

/-- The blocks whose accesses wait at a page: those of instructions, copies, and threads and streams that wait for a line of code (R85, R158). Each
is given with its job and its core. -/
def blocksOn (s : State) (o : Obj) (oid : BitVec 24) (k : Nat) : List (Nat × Nat × Nat) :=
  let of := fun (core seq : Nat) => ((s.block core seq).job, core, (s.block core seq).uid)
  let ops := (s.ops.filter fun x => onPage o oid k (x.places s)).flatMap fun x => x.mems.map fun m => of m.w.core m.w.seq
  let lines := s.cores.flatMap fun ck => ((wantedLines s ck.1).filter fun x => x.2.1 == oid && o.touches k (192 * x.2.2) 192).map fun x => of ck.1 x.1
  let copies := s.cores.flatMap fun ck => (ck.2.copies.filter fun c => onPage o oid k c.places).flatMap fun c =>
    match s.blockOf c.uid with
    | some cq => [of cq.1 cq.2]
    | none => (s.saved.filter fun x => x.blk.uid == c.uid).map fun x => (x.blk.job, ck.1, c.uid)
  (ops ++ lines ++ copies).eraseDups

/-- The commands whose own access meets a page that cannot be used complete PAGEABORT, with the page's index (R123). -/
def abortCmds (o : Obj) (oid : BitVec 24) (k : Nat) (s : State) : State :=
  let meets := fun (c : Cmd) => match c.wait with
    | .hcopy b => b.oid.setWidth 24 == oid && o.touches k b.off.toNat b.len.toNat
    | .conj x off _ => x == oid && o.touches k off 64
    | _ => false
  { s with cmds := s.cmds.map fun (c : Cmd) => if meets c then { c with wait := .done, code := 9, detail := BitVec.ofNat 32 k } else c }

/-- The frame that a compressed page is expanded into: the one named, on the page's stack, if it is free; or else the first that is free. -/
def expandFrame (s : State) (o : Obj) (e : PageEntry) : Option (BitVec 24) → Option Nat
  | some f =>
    let u := usable * e.stack.toNat + f.toNat
    if f.toNat < usable ∧ f.toNat % e.span = 0 ∧ hasFrames u e.span (s.room o.owner) then some u else none
  | none => (takeFrames e.span (s.room o.owner) e.span).1.head?.map (·.1)

/-- PAGE_EXPAND (R85): a compressed page is expanded into a free frame; when the share has none, PAGEABORT is reported for the accesses that wait, and
the page is expanded no more until a PAGERESUME names it (R80, R123). -/
def execPageExpand (oid page : Nat) (frame : Option (BitVec 24)) (s : State) : Out :=
  .next (match pageOf s oid page with
    | none => s
    | some (id, o, k) =>
      let e := o.page k
      if !e.comp || s.pagePending id k then s
      else match expandFrame s o e frame, frame with
        | some u, _ =>
          let s := (s.setRoom o.owner (cutFrames u e.span (s.room o.owner))).modObj id fun o => { o with held := putFrames (u, e.span) o.held }
          resumeOn id (modPage id k (fun e => { e with comp := false, aux := 0 }.onFrame u) s)
        | none, none => abortCmds o id k ((blocksOn s o id k).foldl (fun s j => reportAbort j.1 j.2.1 j.2.2 id k 4 s) s)
        | none, some _ => s)

/-- An owner of the object has work: a grid or a standing program, or a block that is resident or saved (R82). -/
def Obj.atWork (o : Obj) (s : State) : Bool :=
  let mine := fun (p : Nat) => p == o.owner || o.owner2 == some p
  s.jobs.any (fun j => mine j.2.part) || s.saved.any (fun x => mine x.blk.part) || s.cores.any fun ck => ck.2.resident.any fun b => mine b.part

/-- PAGE_KIND_CHANGE (R82): only while no access to the page is in flight, and between launches of the object's owners. -/
def execPageKindChange (oid page : Nat) (kind : BitVec 2) (s : State) : Out :=
  .next (match pageOf s oid page with
    | none => s
    | some (id, o, k) =>
      if o.kind != .data || kind == 3 || inFlight s id || o.atWork s then s else modPage id k (fun e => { e with kind := kind }) s)

end Sys2Proof.Machine
end

