-- ==== Sys2Proof/Machine/Retire.lean ====
section
/-!
DEFINITION. How work ends: objects given back, standing programs released (R125), jobs aborted (R431), blocks that leave their core, a block's
retirement (R179, R403, R407), pending cells (R405) and the completion of grids (R132, R406).
-/
set_option autoImplicit false

namespace Sys2Proof.Machine

/-! ### Objects and frames (R81, R120) -/

/-- Marks an object dead at every walker (R78). -/
def killObj (oid : BitVec 24) (s : State) : State := s.modObj oid fun o => { o with live := false }

/-! ### Jobs (R397) -/

/-- Releases a stopped standing program: its holds, its input object and version map, and its slot (R125). -/
def releaseProg (key : Nat) (s : State) : State :=
  match smGet? s.progs key with
  | none => s
  | some p =>
    let s := dropObj p.inObj (dropObj p.vmap s)
    { s with progs := smDel s.progs key, jobs := smDel s.jobs p.job, posts := s.posts.filter fun x => x.prog != key }

/-- A stopped program whose job count is zero is released (R125). -/
def drainProg (key : Nat) (s : State) : State :=
  match smGet? s.progs key with
  | some p => if p.stopping && (smGet? s.jobs p.job).all (fun j => j.count == 0) then releaseProg key s else s
  | none => s

/-- Counts an end on a job. -/
def endJobCount (job : Nat) (s : State) : State :=
  let s := s.modJob job fun j => { j with count := j.count - 1 }
  match (smGet? s.jobs job).bind (·.prog) with
  | some key => drainProg key s
  | none => s

/-- Stops a standing program: its units start no further dispatch (R125). -/
def stopProg (key : Nat) (s : State) : State := drainProg key (s.modProg key fun p => { p with stopping := true })

/-! ### Blocks that leave (R143, R415, R418) -/

/-- A retired or aborted block's snapshot holds are released (R415). -/
def releaseHolds (uid : Nat) (s : State) : State :=
  { s with progs := s.progs.map fun kp => (kp.1, { kp.2 with holds := kp.2.holds.filter fun h => h.2 != uid }) }

/-- The parent of a record has one record fewer that has not retired (R418). -/
def endKid (uid : Nat) (s : State) : State :=
  let s := s.modUid uid fun b => { b with kids := b.kids - 1 }
  match s.blockOf uid with
  | some cq => endJoins (wakeAll (fun w => match w with | .tjoin u t => u == uid && decide ((s.block cq.1 cq.2).kids ≤ t) | _ => false) s)
  | none => s

/-- The launching block of a child grid has one grid fewer that has not completed (R418). -/
def endGridOf (uid : Nat) (s : State) : State :=
  let s := s.modUid uid fun b => { b with grids := b.grids - 1 }
  match s.blockOf uid with
  | some cq => endJoins (wakeAll (fun w => match w with | .lwait u t => u == uid && decide ((s.block cq.1 cq.2).grids ≤ t) | _ => false) s)
  | none => s

/-- A dispatch of a block ends: its in-flight bit clears (R407). -/
def endDispatch (part : Nat) (r : TaskRec) (s : State) : State :=
  if r.settle then s.modProg (16 * part + r.pslot.toNat) fun p =>
    { p with blks := smSet p.blks r.eqblk.toNat { p.blk r.eqblk.toNat with flight := false } }.event (p.home r.eqblk.toNat)
  else s

/-- The count of a grid's blocks that run. -/
def endGridBlock (g : Nat) (s : State) : State :=
  match smGet? s.grids g with
  | some x => { s with grids := smSet s.grids g { x with running := x.running - 1 } }
  | none => s

/-- A block's accesses are given up: its copies are cancelled as CPCANCEL cancels, and its requests dropped (R431, R432, R444). -/
def cancelAll (core seq : Nat) (s : State) : State :=
  let b := s.block core seq
  let s := ((s.core core).copies.filter fun c => c.uid == b.uid).foldl (fun s c => cancelCopy core c s) s
  dropOps core seq s

/-- A block leaves its core without retiring: no successor step is performed (R431, R432). -/
def removeBlock (core seq : Nat) (s : State) : State :=
  let b := s.block core seq
  freeGangs b.part (settlePreempt core (freePlace core seq (releaseHolds b.uid (cancelAll core seq s))))

/-- Every access that a stopped block issued has completed, but for those that may be cancelled, such as one that its page does not let through (R431). -/
def drained (s : State) (core seq : Nat) : Bool :=
  !s.storing (s.block core seq).uid && (opsOf s core seq).all fun o => match o.work with
    | .mem l => l.all fun st => !st.writes || st.pageHeld s core
    | .sched r => !r.going
    | .vol r => !o.volWrite || (volStuck s r).isSome
    | .conj r => !r.changes || (s.gate core r.side r.off 64 true false true true == .abort)
    | _ => true

/-! ### Aborting a job (R431) -/

/-- Removes the records of a job from a core. -/
def Core.dropJob (k : Core) (job : Nat) : Core :=
  let keep := fun (r : TaskRec) => r.jobid.toNat != job
  { k with deque := k.deque.filter keep, settleq := k.settleq.filter keep, landing := k.landing.filter keep, chosen := k.chosen.filter keep }

/-- Links the cells of a pending list in order. -/
def linkCells (cs : List (BitVec 24 × Nat)) (s : State) : State :=
  (cs.zip (cs.drop 1 ++ [(0, 0)])).foldl (fun s x => setCellNext x.1.1 x.1.2 x.2 s) s

/-- Discards the deferred and pending records of a job from their cells; the lists that held them are linked anew. -/
def dropCells (job : Nat) (s : State) : State :=
  let mine := fun (c : BitVec 24 × Nat) => (cellRec s c.1 c.2).jobid.toNat == job
  let arms := (s.armed.filter fun a => mine (a.oid, a.off))
  let s := arms.foldl (fun s a => disarm a.oid a.off (setCellFlag a.oid a.off 0 false s)) s
  (s.cores.filter fun ck => ck.2.pend.any mine).foldl (fun s ck =>
    let keep := ck.2.pend.filter fun c => !mine c
    linkCells keep (s.modCore ck.1 fun k => { k with pend := keep })) s

/-- Discards the saved blocks of a job, those half saved or half loaded as well, with their save areas. -/
def dropSaved (job : Nat) (s : State) : State :=
  (s.saved.filter fun x => x.blk.job == job).foldl (fun s x =>
    { releaseHolds x.blk.uid (if x.whole then dropArea x s else s) with saved := s.saved.filter fun y => y.blk.uid != x.blk.uid }) s

/-- The resident blocks of a job: core and sequencer. -/
def blocksOfJob (s : State) (job : Nat) : List (Nat × Nat) :=
  s.cores.flatMap fun ck => (ck.2.blocks.filter fun qb => decide (qb.1 < agentSeq) && qb.2.job == job).map fun qb => (ck.1, qb.1)

/-- A job's LAUNCH ends with a code and a detail, once its blocks have gone. -/
def markLaunch (job : Nat) (code : BitVec 8) (detail : Word) (s : State) : State :=
  let mine := fun (c : Cmd) => match c.wait with
    | .launch g => (smGet? s.grids g).elim false fun x => x.job == job
    | _ => false
  { s with cmds := s.cmds.map fun c => if mine c then { c with code := code, detail := detail } else c }

/-- Ends a grid job at once: no ticket starts, its records are discarded, and its running blocks are stopped (R132, R431). -/
def endJob (job : Nat) (cause : BitVec 32) (code : BitVec 8) (s : State) : State :=
  let s := s.modJob job fun j => { j with aborted := some cause, spill := [], held := [] }
  let s := { s with
    grids := s.grids.map fun g => if g.2.job == job then (g.1, { g.2 with done := true }) else g
    cores := s.cores.map fun ck => (ck.1, ck.2.dropJob job) }
  let s := markLaunch job code cause (dropSaved job (dropCells job s))
  (blocksOfJob s job).foldl (fun s cq => s.modBlock cq.1 cq.2 fun b => b.stopBy .aborted) s

/-- A record that leaves without running counts as an end: its dispatch is over, and its parent and its job have one fewer (R397). -/
def endRecord (part : Nat) (r : TaskRec) (s : State) : State :=
  endJobCount r.jobid.toNat (match r.parent with | some p => endKid p (endDispatch part r s) | none => endDispatch part r s)

/-- Aborts a job (R431): a grid's at once; a standing program stops as STOP stops it, and the vector of its START's queue is raised. -/
def abortJob (job : Nat) (cause : BitVec 8) (s : State) : State :=
  match smGet? s.jobs job with
  | none => s
  | some j =>
    match j.prog with
    | some key => raiseQueue j.hdr.vi j.hdr.q (stopProg key s)
    | none => if j.aborted.isSome then s else endJob job (cause.setWidth 32) 8 s

/-! ### Retirement (R179, R403) -/

/-- The accounting of a block that has ended: its dispatch, its grid, its parent and its job. -/
def endWork (b : Block) (s : State) : State :=
  match b.origin with
  | .grid g _ _ _ => endGridBlock g s
  | .task r =>
    let s := endDispatch b.part r s
    let s := match r.parent with | some p => endKid p s | none => s
    endJobCount b.job s

/-- A block's warps have all retired and every access that they issued has completed; its child grids have completed (R154, R179). -/
def retirable (s : State) (core seq : Nat) : Bool :=
  match s.block? core seq with
  | some b => decide (seq < agentSeq) && b.stop.isNone && !b.warps.isEmpty && b.warps.all (fun iw => iw.2.alive == 0) && b.grids == 0 &&
      (opsOf s core seq).isEmpty && !s.storing b.uid && !((s.core core).copies.any fun c => c.uid == b.uid)
  | none => false

/-- BLOCK_RETIRE (R143, R179, R403, R407, R415). -/
def execBlockRetire (core seq : Nat) (s : State) : Out :=
  .next (if retirable s core seq then
      let b := s.block core seq
      let s := match b.origin with
        | .task r => if r.succobj = 0 then s else succStep core b.part r.succobj r.succoff.toNat s
        | .grid .. => s
      endWork b (freeGangs b.part (settlePreempt core (freePlace core seq (releaseHolds b.uid s))))
    else s)

/-- The record of a cell whose job is aborted is given up: a standing program, which only stops, counts its end. -/
def dropRecord (r : TaskRec) (s : State) : State :=
  if (smGet? s.jobs r.jobid.toNat).any (·.prog.isSome) then
    endJobCount r.jobid.toNat (match r.parent with | some p => endKid p s | none => s)
  else s

/-- A place holds a cell that is pending on some core, its PEND set (R405). -/
def pendingCell (s : State) (c : BitVec 24 × Nat) : Bool :=
  (s.obj? c.1).isSome && cellFlag s c.1 c.2 2 && s.cores.any fun ck => ck.2.pend.contains c

/-- The list that a link leads to, in a core's own list or, where a program has written it so, in another's (R405). -/
def listFrom (s : State) (rest : List (BitVec 24 × Nat)) (n : BitVec 24 × Nat) : List (BitVec 24 × Nat) :=
  if rest.contains n then rest.dropWhile (· != n)
  else (s.cores.findSome? fun ck => if ck.2.pend.contains n then some (ck.2.pend.dropWhile (· != n)) else none).getD []

/-- A grid's blocks have all retired. -/
def Grid.finished (g : Grid) : Bool := decide (g.n ≤ g.ticket) && g.running == 0

/-- GRID_COMPLETE (R132, R397, R406): a child grid ends for its parent and its job; a root grid once its job count is zero. -/
def execGridComplete (g : Nat) (s : State) : Out :=
  .next (match smGet? s.grids g with
    | none => s
    | some x =>
      if x.done || !x.finished then s
      else match x.parent with
        | some p => endJobCount x.job (endGridOf p { s with grids := smDel s.grids g })
        | none =>
          if (smGet? s.jobs x.job).all fun j => j.count == 0 then { s with grids := smSet s.grids g { x with done := true } } else s)

/-- UNHANDLED_TRAP_ABORT (R431): once a stopped block's accesses have completed, the fault is recorded and its job aborted; a block of an
aborted job, or of a halted core, leaves its core (R444). -/
def execUnhandledTrapAbort (core seq : Nat) (s : State) : Out :=
  .next (match s.block? core seq with
    | none => s
    | some b =>
      if !drained s core seq then s
      else match b.stop with
        | some (.trap t) =>
          let s := recordStop 0 core seq t s
          let s := abortJob b.job t.cause s
          let s := removeBlock core seq s
          if (smGet? s.jobs b.job).any (·.prog.isSome) then endWork b s else s
        | some .aborted | some .halted =>
          let s := removeBlock core seq s
          if (smGet? s.jobs b.job).any (·.prog.isSome) then endWork b s else s
        | _ => s)

end Sys2Proof.Machine
end

