-- ==== Sys2Proof/Machine/Launch.lean ====
section
/-!
DEFINITION. How blocks start: the agent's ticket claims (R128 to R131), the task starter, steals and the landing slot (R395, R398 to R400), and
what a saved block's restore needs (R451).
-/
set_option autoImplicit false

namespace Sys2Proof.Machine

/-! ### The queue of a job (R130, R136) -/

/-- The queue whose command began a job. -/
def State.jobQueue (s : State) (job : Nat) : Option Queue :=
  (smGet? s.jobs job).bind fun j => (smGet? s.vis j.hdr.vi).bind fun v => smGet? v.queues j.hdr.q

/-- A job's priority. -/
def State.jobPrio (s : State) (job : Nat) : Nat := (s.jobQueue job).elim 0 (·.prio)

/-- A job's work may start: its queue is resident; a standing program outlives its queue (R136, R455). -/
def State.workResident (s : State) (job : Nat) : Bool :=
  match s.jobQueue job, smGet? s.jobs job with
  | some q, some j => q.resident && j.aborted.isNone
  | none, some j => j.prog.isSome
  | _, none => false

/-- The jobs of some work, in the order of R130: higher priority first, then the earlier start. -/
def jobBefore (s : State) (a b : Nat × Nat) : Bool :=
  decide (s.jobPrio b.1 < s.jobPrio a.1) || (s.jobPrio a.1 == s.jobPrio b.1 && decide (a.2 < b.2))

/-! ### Tickets (R129 to R131) -/

/-- A core is eligible for a grid (R128). -/
def Grid.eligible (g : Grid) (p : Part) (core : Nat) : Bool := g.diemask == 0 || g.diemask.getLsbD (p.dieNo core)

/-- The open grids that a core's agent may claim from, with the places of their next block. -/
def claimable (s : State) (core : Nat) : List (Nat × Grid × List (Nat × Nat)) :=
  let k := s.core core
  s.grids.filterMap fun g =>
    if g.2.done || k.part != some g.2.part || k.closed.contains g.1 || !s.workResident g.2.job || !g.2.eligible (s.part g.2.part) core then none
    else (s.fits core g.2.image (0, 0)).map fun ps => (g.1, g.2, ps)

/-- The grid that the agent claims from (R130). -/
def chooseGrid (s : State) : List (Nat × Grid × List (Nat × Nat)) → Option (Nat × Grid × List (Nat × Nat))
  | [] => none
  | x :: r => match chooseGrid s r with
    | none => some x
    | some y => some (if jobBefore s (y.2.1.job, y.2.1.order) (x.2.1.job, x.2.1.order) then y else x)

/-- The block of a ticket (R129, R131). -/
def Grid.block (g : Grid) (id t : Nat) : Block :=
  let x := g.dim.1.toNat
  let y := g.dim.2.1.toNat
  { origin := .grid id (BitVec.ofNat 32 (t % x)) (BitVec.ofNat 32 (t / x % y)) (BitVec.ofNat 32 (t / (x * y)))
    part := g.part, job := g.job, load := g.load, code := g.code, image := g.image, depth := g.depth, gdim := g.dim, caps := g.caps }

/-- The placement unit's turn passes: to the agent's claims, or to the starter (R398). DEDUCED (log entry 112): the first turn after reset is the starter's. -/
def passTurn (core : Nat) (claims : Bool) (s : State) : State := s.modCore core fun k => { k with claims := claims }

/-- An atomic claim of a ticket (R129). -/
def claimTicket (core id : Nat) (g : Grid) (ps : List (Nat × Nat)) (s : State) : State :=
  let t := g.ticket
  let g' := { g with ticket := t + 1, running := if t < g.n then g.running + 1 else g.running }
  let s := { s with grids := smSet s.grids id g' }
  if t < g.n then startBlock core (g.block id t) ps s else s.modCore core fun k => { k with closed := k.closed ++ [id] }

/-! ### Records (R395, R99) -/

/-- The bytes of a slot of an argument capability (R97). -/
def Prog.slotBytes (p : Prog) (k : Nat) : Nat :=
  let c := smGetD p.caps k {}
  64 * ((c.upper.toNat - c.lower.toNat) / (128 * p.img.blocks.length))

/-- A capability of a whole object with some rights. -/
def wholeCap (s : State) (oid : BitVec 24) (rights : BitVec 8) : Cap :=
  { valid := true, oid := oid, rights := rights, upper := BitVec.ofNat 48 ((s.obj? oid).elim 0 (·.size)), lower := 0 }

/-- The capability registers of an update of block `i` (Table 5.2). -/
def updateCaps (s : State) (p : Prog) (i : Nat) : SMap Cap :=
  let k := (p.img.blocks[i]?).elim 0 (·.arg)
  let c0 := smGetD p.caps k {}
  let sk := p.slotBytes k
  let lo := c0.lower.toNat + (2 * i + 1 - (versionBit s p i).toNat) * sk
  [(0, c0), (1, { c0 with rights := c0.rights &&& 0x1B, lower := BitVec.ofNat 48 lo, upper := BitVec.ofNat 48 (lo + sk) }),
    (2, wholeCap s p.vmap 1), (3, wholeCap s p.inObj 1)]

/-- The capability registers of a block that a record starts (R395). -/
def recordCaps (s : State) (j : Job) (r : TaskRec) : SMap Cap :=
  if r.settle then match s.prog? j.part r.pslot.toNat with
    | some p => updateCaps s p r.eqblk.toNat
    | none => []
  else
    let m := capsUnder j.capmask j.caps
    smPut m 0 (if j.capmask.getLsbD r.argcap.toNat then smGetD j.caps r.argcap.toNat {} else {}) {}

/-- The block that a record starts; none when its job or its image is not there. -/
def recordBlock (s : State) (r : TaskRec) : Option Block :=
  match smGet? s.jobs r.jobid.toNat, s.loadOf r.jobid.toNat, s.imageOf r.jobid.toNat r.image.toNat with
  | some j, some l, some i =>
    some { origin := .task r, part := j.part, job := r.jobid.toNat, load := j.load, code := l.code, image := { i with entry := r.entry }
           depth := r.depth.toNat, caps := recordCaps s j r }
  | _, _, _ => none

/-! ### The task starter (R398) -/

/-- A source of the starter. -/
inductive Source where
  | landing | deque | settle
  deriving DecidableEq, Repr

/-- The starter's choice between the deque's and the Settle queue's candidates. -/
def pickSource (alt : Bool) : Option TaskRec → Option TaskRec → Option (Source × TaskRec)
  | none, none => none
  | some d, none => some (.deque, d)
  | none, some q => some (.settle, q)
  | some d, some q =>
    if d.prio && !q.prio then some (.deque, d)
    else if q.prio && !d.prio then some (.settle, q)
    else if alt then some (.settle, q) else some (.deque, d)

/-- The starter's next record: a landed one, one chosen before that is still at its source, or a new choice (R398). -/
def nextRecord (s : State) (core : Nat) : Option (Source × TaskRec) :=
  let k := s.core core
  let ok := fun (r : TaskRec) => s.workResident r.jobid.toNat
  let fresh := pickSource k.alt (k.deque.reverse.find? ok) (k.settleq.find? ok)
  match k.landing with
  | some r => if ok r then some (.landing, r) else none
  | none => match k.chosen with
    | some c => if !ok c then fresh else if k.deque.contains c then some (.deque, c) else if k.settleq.contains c then some (.settle, c) else fresh
    | none => fresh

/-- Takes a record from its source. -/
def takeRecord (core : Nat) (src : Source) (r : TaskRec) (s : State) : State :=
  s.modCore core fun k => match src with
    | .landing => { k with landing := none }
    | .deque => { k with deque := (k.deque.reverse.erase r).reverse, chosen := none, alt := true }
    | .settle => { k with settleq := k.settleq.erase r, chosen := none, alt := false }

/-- The starter takes the placement unit for a record: its block starts, or it waits at its source (R395, R398). DESIGN CHOICE (log entry 99): a record that names no
task image, such as a dispatch whose ENTRY in the block table is the entry of none (R96), is dropped, and its dispatch and its job's count stay in flight. -/
def placeRecord (core : Nat) (src : Source) (r : TaskRec) (s : State) : State :=
  match recordBlock s r with
  | none => takeRecord core src r s
  | some b => match s.fits core b.image (0, 0) with
    | some ps => startBlock core b ps (takeRecord core src r s)
    | none => if src == .landing then s else s.modCore core fun k => { k with chosen := some r }

/-- TASK_START (R395, R398): the starter's turn, unless it is the agent's and the agent has a block to claim. -/
def execTaskStart (core : Nat) (s : State) : Out :=
  .next (match nextRecord s core with
    | none => s
    | some (src, r) =>
      if (s.core core).claims && !(claimable s core).isEmpty then s else placeRecord core src r (passTurn core true s))

/-- TICKET_CLAIM (R129 to R131, R398): the agent's turn, unless it is the starter's and the starter has a record. -/
def execTicketClaim (core : Nat) (s : State) : Out :=
  .next (match chooseGrid s (claimable s core) with
    | some (id, g, ps) =>
      if !(s.core core).claims && (nextRecord s core).isSome then s else claimTicket core id g ps (passTurn core false s)
    | none => s)

/-! ### Steals (R399, R400) -/

/-- The cores of a partition on a die, ascending. -/
def Part.onDie (p : Part) (d : Nat) : List Nat := p.cores.filter fun c => dieOf c == d

/-- A list turned so that what follows index `i` comes first. -/
def turned {α : Type} (l : List α) (i : Nat) : List α := l.drop i ++ l.take i

/-- The victims of a core's starter, in order (R399). -/
def victims (p : Part) (core : Nat) : List Nat :=
  let own := p.onDie (dieOf core)
  let dies := turned p.dies (p.dies.idxOf (dieOf core) + 1)
  (own.filter fun c => decide (core < c)) ++ (own.filter fun c => decide (c < core)) ++
    (dies.filter fun d => d != dieOf core).flatMap p.onDie

/-- The record that a victim gives up: the top of its deque, or else the head of its Settle queue. -/
def stealFrom (s : State) (v : Nat) : Option (Source × TaskRec) :=
  let ok := fun (r : TaskRec) => s.workResident r.jobid.toNat
  match (s.core v).deque.find? ok with
  | some r => some (.deque, r)
  | none => ((s.core v).settleq.find? ok).map fun r => (.settle, r)

/-- The job whose spill region a thief takes from: the first in the order of R130 that holds a record. -/
def spillJob (s : State) (part : Nat) : Option Nat :=
  (s.jobs.filter fun j => j.2.part == part && !j.2.spill.isEmpty && s.workResident j.1).foldl (fun b j => match b with
    | none => some j.1
    | some x => if jobBefore s (j.1, j.1) (x, x) then some j.1 else some x) none

/-- STEAL (R399): an idle starter of a core with a free sequencer takes a record into its landing slot. -/
def execSteal (core : Nat) (s : State) : Out :=
  let k := s.core core
  let part := s.partOf core
  .next (if !(s.part part).cores.contains core || k.part.isNone || k.halted || k.landing.isSome || !k.deque.isEmpty || !k.settleq.isEmpty || k.freeSeq.isNone then s
    else match spillJob s part with
      | some j =>
        let r := ((smGet? s.jobs j).elim [] (·.spill)).head?
        (s.modJob j fun x => { x with spill := x.spill.drop 1 }).modCore core fun k => { k with landing := r }
      | none => match (victims (s.part part) core).findSome? fun v => (stealFrom s v).map fun x => (v, x) with
        | none => s
        | some (v, src, r) =>
          let s := s.modCore v fun k => Core.rechosen (match src with
            | .deque => { k with deque := k.deque.erase r }
            | _ => { k with settleq := k.settleq.erase r })
          s.modCore core fun k => { k with landing := some r })

/-- LANDING_RETURN (R400): a landed record whose queue has left residency, or whose core's blocks are evicted for a quantum, goes to the bottom of
the thief's own deque. -/
def execLandingReturn (core : Nat) (s : State) : Out :=
  let k := s.core core
  .next (match k.landing with
    | some r => if !s.workResident r.jobid.toNat || k.preempt then s.modCore core fun k => { k with landing := none, deque := k.deque ++ [r] } else s
    | none => s)

/-! ### Restore (R451) -/

/-- BLOCK_RESTORE (R137, R143, R451): a saved block whose queue is resident is placed again. -/
def execBlockRestore (k core : Nat) (s : State) : Out :=
  .next (match s.saved[k]? with
    | some x => if s.workResident x.blk.job then restore k core s else s
    | none => s)

end Sys2Proof.Machine
end

