-- ==== Sys2Proof/Machine/Settle.lean ====
section
/-!
DEFINITION. The Settle units and the convergence coordinator (chapters 5 and 17): the start checks of a standing program, dispatch order
(R407, R409), posts (R408) and sweeps (R411, R412), and the retries of pending cells and held records (R405, R432).
-/
set_option autoImplicit false

namespace Sys2Proof.Machine

/-! ### Home cores (R95) -/

/-- The module die of a partition's die number. -/
def Part.module (p : Part) (d : Nat) : Option Nat := p.dies[d]?

/-- The cores of a partition's die. -/
def Part.coresOn (p : Part) (d : Nat) : List Nat := (p.module d).elim [] p.onDie

/-- The home core of a block (R95). A block whose home die the partition no longer has, after a PARTCFG took a die's last core, has none, and is not
dispatched (log entry 98). -/
def homeCore (s : State) (p : Prog) (i : Nat) : Option Nat :=
  let cs := (s.part p.part).coresOn (p.home i)
  cs[i % cs.length]?

/-- The Settle-born records that are queued or running on a core (R409). -/
def bornOn (s : State) (core : Nat) : Nat :=
  let k := s.core core
  ((k.settleq ++ k.deque ++ k.landing.toList).filter (·.settle)).length +
    (k.resident.filter fun b => match b.origin with | .task r => r.settle | .grid .. => false).length

/-! ### Dispatch (R407, R409) -/

/-- A taken hold forbids a block: its version differs from the one that the hold recorded (R415). -/
def heldBack (s : State) (p : Prog) (i : Nat) : Bool :=
  p.holds.any fun h => (p.blk i).holds.getLsbD h.1 != versionBit s p i

/-- A block of a heap is eligible (R409, R413). -/
def eligible (s : State) (key : Nat) (p : Prog) (i : Nat) : Bool :=
  p.declared i && p.pendingRes (p.blk i).res && !(p.blk i).flight && !p.stopping && (cutting? s key).isNone && !heldBack s p i &&
    (match homeCore s p i with | some c => decide (bornOn s c < 64) | none => false)

/-- The eligible blocks of a program's heap on a die of its partition. -/
def heap (s : State) (key : Nat) (p : Prog) (d : Nat) : List Nat :=
  (p.blks.map (·.1)).filter fun i => p.home i == d && eligible s key p i

/-- The unit's order: by largest residual, then older dispatch, then lower index; or by older dispatch alone (R409). -/
def heapBefore (p : Prog) (fair : Bool) (i j : Nat) : Bool :=
  let a := p.blk i
  let b := p.blk j
  let older := decide (a.seqno < b.seqno) || (a.seqno == b.seqno && decide (i < j))
  if fair then older else decide (b.res.toNat < a.res.toNat) || (a.res == b.res && older)

/-- The block that the unit chooses. -/
def heapPick (p : Prog) (fair : Bool) : List Nat → Option Nat
  | [] => none
  | i :: r => match heapPick p fair r with
    | none => some i
    | some j => some (if heapBefore p fair j i then j else i)

/-- The index of the task image that starts at an entry of a load: the first, where several do (R96, log entry 99). -/
def taskImage (l : Load) (entry : BitVec 48) : Nat := l.images.findIdx fun i => i.task && i.entry == entry

/-- The record of a dispatch (R96). -/
def dispatchRecord (s : State) (p : Prog) (i : Nat) : TaskRec :=
  let entry := (p.img.blocks[i]?).elim 0 (·.entry)
  let l := (smGet? s.loads p.load).getD { part := 0, code := 0 }
  let img := (l.images[taskImage l entry]?).getD {}
  { pslot := BitVec.ofNat 4 p.slot, eqblk := BitVec.ofNat 20 i, warps := BitVec.ofNat 6 img.warps, settle := true, prio := img.prio, idem := true
    jobid := BitVec.ofNat 32 p.job, image := BitVec.ofNat 16 (taskImage l entry), entry := entry }

/-- A dispatch starts (R407). -/
def startDispatch (key : Nat) (p : Prog) (d i : Nat) (s : State) : State :=
  let k := smGetD p.heapk d 0
  let b := p.blk i
  let b' : SBlk := { b with capR := b.res, capG := p.gen, res := 0, seqno := k + 1, flight := true }
  let s := s.modProg key fun p => ({ p with blks := smSet p.blks i b', heapk := bump p.heapk d 1, disp := p.disp + 1 }).event d
  let s := s.modJob p.job fun j => { j with count := j.count + 1 }
  match homeCore s p i with
  | some c => notify c (s.modCore c fun x => { x with settleq := x.settleq ++ [dispatchRecord s p i] })
  | none => s

/-- The heaps of a die that have an eligible block: key, program, the die's number in its partition, and the blocks. -/
def heapsOn (s : State) (die : Nat) : List (Nat × Prog × Nat × List Nat) :=
  s.progs.filterMap fun kp =>
    let ds := (s.part kp.2.part).dies
    if ds.contains die then
      let h := heap s kp.1 kp.2 (ds.idxOf die)
      if h.isEmpty then none else some (kp.1, kp.2, ds.idxOf die, h)
    else none

/-- SETTLE_DISPATCH (R407, R409): the die's unit serves its heaps in turn. -/
def execSettleDispatch (die : Nat) (s : State) : Out :=
  let hs := heapsOn s die
  let last := smGet? s.turns die
  let next := hs.filter fun h => match last with | some k => decide (k < h.1) | none => true
  .next (match (next ++ hs).head? with
    | none => s
    | some (key, p, d, is) => match heapPick p (smGetD p.heapk d 0 % 16 == 15) is with
      | none => s
      | some i => startDispatch key p d i { s with turns := smSet s.turns die key })

/-- POST_APPLY (R408): the `k`th post on its way is applied at its dependent's home unit. -/
def execPostApply (k : Nat) (s : State) : Out :=
  .next (match s.posts[k]? with
    | none => s
    | some x =>
      { s with posts := s.posts.eraseIdx k }.modProg x.prog fun p =>
        let d := p.home x.blk
        { p.apply x.blk (postAmount x.w x.d) with applied := bump p.applied d 1 }.event d)

/-! ### Convergence (R411, R412) -/

/-- The sum of a program's counters. -/
def sumOf (m : SMap Nat) : Nat := (m.map (·.2)).foldl (· + ·) 0

/-- What a sweep reads (R411). -/
def readSweep (p : Prog) : Sweep :=
  { settled := p.blks.all fun ib => !p.pendingRes ib.2.res
    flight := (p.blks.filter fun ib => ib.2.flight).length
    sent := sumOf p.sent, applied := sumOf p.applied
    events := (List.range 17).map fun d => smGetD p.events d 0 }

/-- A sweep that shows quiescence. -/
def Sweep.quiet (w : Sweep) : Bool := w.settled && w.flight == 0 && w.sent == w.applied

/-- A die reports the program's heap on it settled with no dispatch in flight, so that the coordinator sweeps (R411). -/
def sweepDue (p : Prog) : Bool :=
  (List.range 4).any fun d =>
    let bs := p.blks.filter fun ib => p.home ib.1 == d
    !bs.isEmpty && bs.all fun ib => !p.pendingRes ib.2.res && !ib.2.flight

/-- The convergence record (R412). -/
def converge (key : Nat) (p : Prog) (s : State) : State :=
  let s := writeReport p (fun s =>
    (((s.writeNat (.obj p.img.report) 12 4 1).writeNat (.obj p.img.report) 0 8 p.gen.toNat).writeNat (.obj p.img.report) 8 4
      (maxRes (p.blks.map (·.2.res))).toNat).writeNat (.obj p.img.report) 16 8 p.disp) s
  let s := if reportLive s p then engineCount (.obj p.img.report) 64 1 s else s
  let s := s.modProg key fun p => { p with recorded := true, last := none }
  match smGet? s.jobs p.job with
  | some j => raiseQueue j.hdr.vi j.hdr.q s
  | none => s

/-- CONVERGENCE_SWEEP (R411, R412): two sweeps that show the same quiet state are convergence. -/
def execConvergenceSweep (prog : Nat) (s : State) : Out :=
  .next (match smGet? s.progs prog with
    | none => s
    | some p =>
      if p.recorded || !sweepDue p then s
      else
        let w := readSweep p
        if w.quiet && p.last == some w then converge prog p s else s.modProg prog fun p => { p with last := some w })

/-! ### The start of a standing program (R111, R125) -/

/-- The declared blocks of an image, with their indices. -/
def ProgImage.decls (i : ProgImage) : List (Nat × EqBlk) := (i.blocks.zipIdx.filter fun b => b.1.decl).map fun b => (b.2, b.1)

/-- The declared blocks that the Settle unit of a module die holds. -/
def declaredOn (s : State) (die : Nat) : Nat :=
  (s.progs.map fun kp => (kp.2.blks.filter fun ib => (s.part kp.2.part).module (kp.2.home ib.1) == some die).length).foldl (· + ·) 0

/-- The first failing check of Table 5.8, for program `idx` of a load with some argument capabilities. -/
def startCheck (s : State) (part load idx : Nat) (img : ProgImage) (caps : SMap Cap) : Option Nat :=
  let mine := s.progs.filter fun kp => kp.2.part == part
  let p := s.part part
  let tooMany := (List.range 4).any fun die =>
    decide (262144 < declaredOn s die + (img.decls.filter fun b => p.module b.2.home == some die).length)
  let badCap := img.decls.any fun b =>
    let c := smGetD caps b.2.arg {}
    !s.usable part c || !(c.right 0 && c.right 1)
  let small := img.decls.any fun b =>
    let c := smGetD caps b.2.arg {}
    (c.upper.toNat - c.lower.toNat) / (128 * img.blocks.length) == 0
  if !img.ok then some 1
  else if mine.any (fun kp => kp.2.load == load && kp.2.progidx == idx) || decide (16 ≤ mine.length) then some 2
  else if img.decls.any fun b => decide (p.dies.length ≤ b.2.home) then some 3
  else if tooMany then some 4
  else if badCap then some 5
  else if small then some 6
  else if (match s.obj? img.report with | some o => !o.live | none => true) then some 7
  else none

/-- The bytes of a program's input object (R110). -/
def ProgImage.inputBytes (i : ProgImage) : Nat := max 64 ((i.inputs.map fun x => (x.2 + 63) / 64 * 64).foldl (· + ·) 0)

/-- The input object and the version map of a program (R98, R110). -/
def progObjs (part : Nat) (img : ProgImage) : Obj × Obj :=
  ({ kind := .data, owner := part, size := img.inputBytes }, { kind := .data, owner := part, size := (img.blocks.length + 511) / 512 * 64, proto := { kind := 1 } })

/-- The lowest free program slot of a partition. -/
def progSlot (s : State) (part : Nat) : Nat := ((List.range 16).find? fun k => (s.prog? part k).isNone).getD 0

/-- Puts a program into standing, with a job for its work (R95 to R106). -/
def standProg (h : CmdHdr) (part load idx : Nat) (l : Load) (img : ProgImage) (caps : SMap Cap) (mask : Word) (s : State) : State :=
  let slot := progSlot s part
  let os := progObjs part img
  let x := addObj os.1 s
  let y := addObj os.2 x.2
  let z := y.2.fresh
  let key := 16 * part + slot
  let p : Prog :=
    { job := z.1, part := part, slot := slot, load := load, progidx := idx, img := img, caps := caps
      blks := img.decls.map fun b => (b.1, {}), inObj := x.1, vmap := y.1 }
  let s := z.2
  let s := { s with
    progs := smSet s.progs key p
    jobs := smSet s.jobs z.1 { part := part, load := load, hdr := h, caps := caps, capmask := mask, prog := some key }
    loads := smSet s.loads load { l with started := idx :: l.started } }
  if l.started.contains idx then
    writeReport p (fun s => ((s.writeNat (.obj img.report) 0 8 0).writeNat (.obj img.report) 8 8 0x7F800000).writeNat (.obj img.report) 16 8 0) s
  else s

/-! ### Records that find room again (R405, R432) -/

/-- The core at whose deque a record held for a page is queued again: its own, or the lowest of a partition that has given that one up (R457). -/
def heldCore (s : State) (part core : Nat) : Nat :=
  let cs := (s.part part).cores
  if cs.contains core then core else cs.headD core

/-- A record held for a page is queued again: at the bottom of its core's deque, or at the tail of the home core's Settle queue; none while there is no
room (R396, R398, R432). -/
def requeue (r : TaskRec) (core part : Nat) (s : State) : Option State :=
  match (if r.settle then (s.prog? part r.pslot.toNat).bind fun p => homeCore s p r.eqblk.toNat else none) with
  | some c => if (s.core c).settleq.length < 64 then some (s.modCore c fun k => { k with settleq := k.settleq ++ [r] }) else none
  | none => pushDeque (heldCore s part core) r s

/-- The idempotent records held for pages that satisfy a test are queued again, as far as there is room; the others stay held. -/
def requeueHeld (ok : Nat → TaskRec × Nat × BitVec 24 × Nat → Bool) (s : State) : State :=
  s.jobs.foldl (fun s j => (j.2.held.filter (ok j.2.part)).foldl (fun (s : State) x => match requeue x.1 x.2.1 j.2.part s with
    | some t => t.modJob j.1 fun k => { k with held := k.held.erase x }
    | none => s) s) s

/-- A pending cell's record is pushed if it fits, and its link gives the next cell; a link that names no pending cell of the job that it names, or a cell whose
object is gone, aborts the job, and the cells that came after it stay in the list (R405, log entry 87). -/
def retryCell (core : Nat) (s : State) : State :=
  match (s.core core).pend with
  | [] => s
  | c :: rest =>
    let gone := (s.obj? c.1).isNone
    let r := cellRec s c.1 c.2
    let job := if gone then ((s.armed.find? fun a => a.oid == c.1 && a.off == c.2).map (·.job)).getD 0 else r.jobid.toNat
    let n := cellNext s c.1 c.2
    let follows := rest.isEmpty || (pendingCell s n && (rest.head? == some n || (cellRec s n.1 n.2).jobid == r.jobid))
    if gone || !follows then
      dropRecord { r with jobid := BitVec.ofNat 32 job } (abortJob job Cause.deqspill.code
        (logFault job { kind := 0, cause := Cause.deqspill.code.toNat, info := 2, core := core }
          (disarm c.1 c.2 (s.modCore core fun k => { k with pend := rest }))))
    else match pushDeque core r s with
      | some s' => disarm c.1 c.2 ((setCellFlag c.1 c.2 2 false s').modCore core fun k =>
          { k with pend := if rest.isEmpty then [] else listFrom s rest n })
      | none => s

/-- PENDING_RETRY (R405): the oldest pending cell of the core is tried again, and the records held for its deque whose page has been resumed already
and for which there was no room then (R396, log entry 42). -/
def execPendingRetry (core : Nat) (s : State) : Out :=
  .next (requeueHeld (fun part x => heldCore s part x.2.1 == core && !s.pagePending x.2.2.1 x.2.2.2) (retryCell core s))

end Sys2Proof.Machine
end

