-- ==== Sys2Proof/Machine/Command.lean ====
section
/-!
DEFINITION. The command front end and the commands of Table 6.3, but for LOAD and UNLOAD (chapter 6, R115 to R138): queues, objects, capabilities,
copies, launches, standing programs, gangs and page aborts.
-/
set_option autoImplicit false

namespace Sys2Proof.Machine

/-! ### Interfaces and queues (R112 to R116) -/

/-- An interface: the physical function is number 0. -/
def State.vi (s : State) (v : Nat) : Vi := smGetD s.vis v {}
/-- Changes an interface. -/
def State.modVi (s : State) (v : Nat) (f : Vi → Vi) : State := { s with vis := smSet s.vis v (f (s.vi v)) }
/-- A queue of an interface. -/
def State.queue? (s : State) (v q : Nat) : Option Queue := smGet? (s.vi v).queues q
/-- Changes a queue that exists. -/
def State.modQueue (s : State) (v q : Nat) (f : Queue → Queue) : State :=
  match s.queue? v q with
  | some x => s.modVi v fun i => { i with queues := smSet i.queues q (f x) }
  | none => s
/-- The owner that an interface acts for: its partition, or firmware for the physical function; 17 is no owner. -/
def State.viPart (s : State) (v : Nat) : Nat := if v = 0 then 16 else (s.vi v).part.getD 17

/-- The address of a byte of host memory: each function has its own IOVA space (R452). -/
def hostAddr (v : Nat) (iova : BitVec 64) : Nat := v * 2 ^ 64 + iova.toNat

/-! ### The copy of the head command (R117) -/

/-- The 128 bytes of a queue's head command: the front end's copy of them, or else the slot. -/
def headBytes (s : State) (v : Nat) (q : Queue) : List Byte :=
  q.cur.getD (memReadN s.hostMem (hostAddr v q.base + 128 * (q.head.toNat % 2 ^ q.s)) 128)

/-- A command has reached the head of a queue: the front end copies it in full (R117), unless the part performs no DMA (R454). -/
def fillHead (v qn : Nat) (s : State) : State :=
  match s.queue? v qn with
  | some q => if q.cur.isSome || q.tail == q.head || q.st != .ok || s.sys.ide then s else s.modQueue v qn fun x => { x with cur := some (headBytes s v q) }
  | none => s

/-! ### Completions (R118, R122) -/

/-- A command completes with a code and a detail; its status record is still to be written. -/
def finish (h : CmdHdr) (code : BitVec 8) (detail : Word) (s : State) : State :=
  { s with cmds := s.cmds ++ [{ hdr := h, wait := .done, code := code, detail := detail }] }

/-- A command that completes BADCMD. -/
def badCmd (h : CmdHdr) (s : State) : State := finish h 2 0 s

/-- A command that has started and waits. -/
def await (h : CmdHdr) (w : CmdWait) (s : State) : State := { s with cmds := s.cmds ++ [{ hdr := h, wait := w }] }

/-- A command that has started, waits, and accesses host memory. -/
def awaitDma (h : CmdHdr) (w : CmdWait) (s : State) : State := { s with cmds := s.cmds ++ [{ hdr := h, wait := w, dma := true }] }

/-- Who may issue a command: any interface, a virtual function, or the physical function (R119, R456). -/
inductive Issuer where
  | any | vf | pf
  deriving DecidableEq, Repr

/-- The interface may issue the command in the part's mode; in minimal mode the physical function alone, and few opcodes (R467). -/
def Issuer.admits (w : Issuer) (minimal : Bool) (vi : Nat) (s : State) : Bool :=
  match s.sys.mode with
  | .running => (match w with | .any => true | .vf => vi != 0 | .pf => vi == 0)
  | .minimal => vi == 0 && minimal
  | _ => false

/-- A command: BADCMD where its interface may not issue it (R118, R119, R456, R467), else its effect. -/
def command (w : Issuer) (minimal : Bool) (h : CmdHdr) (run : State → State) (s : State) : Out :=
  .next (if w.admits minimal h.vi s then run s else badCmd h s)

/-- NOP (Table 6.3). -/
def execNopCommand (h : CmdHdr) (s : State) : Out := command .any true h (finish h 1 0) s

/-! ### Objects (R78, R120, Table 6.7) -/

/-- A live object of an owner, of some kinds. -/
def State.ownObj (s : State) (part : Nat) (id : BitVec 32) (kinds : List ObjKind) : Option Obj :=
  if 2 ^ 24 ≤ id.toNat then none
  else match s.obj? (id.setWidth 24) with
    | some o => if o.live && (o.owner == part || o.owner2 == some part) && kinds.contains o.kind then some o else none
    | none => none

/-- The slot lies in a live capability store of the owner. -/
def storeOk (s : State) (part : Nat) (store slot : BitVec 32) : Bool :=
  match s.ownObj part store [.capStore] with
  | some o => decide (16 * slot.toNat + 16 ≤ o.size)
  | none => false

/-- Firmware mints a capability into a slot (R73, R120). -/
def mint (store slot : BitVec 32) (c : Cap) (s : State) : State :=
  s.modObj (store.setWidth 24) fun o => { o with slots := smPut o.slots slot.toNat c {} }

/-- Why the front end may not access a capability store at an offset now: the page that aborts, by its 64 KiB index, or a wait for its expansion. A compressed page
aborts where the share has no free frame for it, or an abort of it is pending (R80, R85, R123). -/
def storeGate (s : State) (a : BitVec 32 × Nat) : Option (Option Nat) :=
  let oid := a.1.setWidth 24
  (s.obj? oid).bind fun o =>
    let k := o.pageKey a.2
    let e := o.page k
    if e.aborts || (e.comp && (s.pagePending oid k || (expandFrame s o e none).isNone)) then some (some k) else if e.comp then some none else none

/-- The place in a capability store that a command writes or reads: a minted slot's, or that of the slots which CAPMASK names (R120, R126). -/
def storeAccess : Instr → Option (BitVec 32 × Nat)
  | .objcreate _ b => if b.store = 0 then none else some (b.store, 16 * b.slot.toNat)
  | .capmint _ b => some (b.store, 16 * b.slot.toNat)
  | .shareobj _ b => some (b.store, 16 * b.slot.toNat)
  | .launchCommand _ b | .start _ b => if b.capmask = 0 then none else some (b.capstore.setWidth 32, 0)
  | _ => none

/-- A command whose own access to a capability store meets PAGEABORT completes with it; any other has its effect (R123). -/
def withStore (h : CmdHdr) (a : Option (BitVec 32 × Nat)) (run : State → State) (s : State) : State :=
  match a.bind (storeGate s) with
  | some (some k) => finish h 9 (BitVec.ofNat 32 k) s
  | _ => run s

/-- Bytes of an element of ETYPE (R280); 0 for a code that is no element type. -/
def elemBytes (t : Nat) : Nat := [1, 2, 4, 8, 1, 2, 4, 8, 2, 2, 4, 8, 1, 1].getD t 0

/-- The smallest power of two at or above `n`, as an exponent of at most 6 (R280). -/
def ceilLog (n : Nat) : Nat := ((List.range 7).find? fun k => decide (n ≤ 2 ^ k)).getD 6

/-- The kind that OBJCREATE's byte 32 names. -/
def kindOf (k : BitVec 8) : Option ObjKind :=
  match k.toNat with
  | 0 => some .data
  | 2 => some .capStore
  | 3 => some .scratch
  | 4 => some .volume
  | 5 => some .tilePool
  | _ => none

/-- A volume already uses a tile pool. -/
def poolServes (s : State) (pool : BitVec 24) : Bool :=
  s.objs.any fun o => o.2.kind == .volume && o.2.live && s.poolOf (BitVec.ofNat 24 o.1) == pool

/-- The tile slots of a volume that OBJCREATE names (R282); 0 where it breaks R280 or R282. -/
def volTiles (s : State) (part : Nat) (b : ObjCreateBody) : Nat :=
  let e := elemBytes b.etype.toNat
  let n := b.nch.toNat
  if e = 0 ∨ n = 0 ∨ 16 < n ∨ 64 < e * n ∨ b.nnodes.toNat < 5 then 0
  else match s.ownObj part b.pool [.tilePool] with
    | some o => if poolServes s (b.pool.setWidth 24) then 0
        else (o.size - 4096 * b.nnodes.toNat) / (512 * 2 ^ ceilLog (e * n) + 64)
    | none => 0

/-- The descriptor of a new volume (Table 12.1). -/
def volHeader (s : State) (part : Nat) (b : ObjCreateBody) : Memory :=
  let vs := ceilLog (elemBytes b.etype.toNat * b.nch.toNat)
  memWriteN [] 0 (packN 64 [(0, 0x4E5A564C), (32, 1), (48, b.etype.toNat), (52, b.nch.toNat - 1), (56, vs), (136, b.pool.toNat),
    (160, 512 * 2 ^ vs + 64), (192, b.nnodes.toNat), (224, volTiles s part b)])

/-- The bytes of the scratch objects homed on a core (R120). -/
def scratchBytes (s : State) (core : Nat) : Nat :=
  (s.objs.map fun o => if o.2.kind == .scratch && o.2.home == core then o.2.size else 0).foldl (· + ·) 0

/-- The fields that belong to another kind are zero (R120). -/
def otherFields (k : ObjKind) (b : ObjCreateBody) : Bool :=
  (k == .scratch || b.home == 0) && (k == .volume || (b.etype == 0 && b.nch == 0 && b.nnodes == 0 && b.pool == 0))

/-- The size suits the kind (R120). -/
def sizeOk (k : ObjKind) (n : Nat) : Bool :=
  match k with
  | .capStore => decide (0 < n) && n % 16 == 0
  | .volume => n == 1024
  | .scratch => decide (0 < n) && n % 64 == 0
  | _ => decide (0 < n)

/-- OBJCREATE's cases of BADCMD (R120, R282). -/
def createBad (s : State) (part : Nat) (k : ObjKind) (b : ObjCreateBody) : Bool :=
  let forced := k == .capStore || k == .volume || k == .tilePool
  !otherFields k b || !sizeOk k b.size.toNat || decide (2 ^ 48 ≤ b.size.toNat) || decide (3 < b.flags.toNat) || decide (1 < b.psize.toNat) ||
    (!forced && (decide (2 < b.okind.toNat) || decide (2 < b.repl.toNat))) ||
    (k == .scratch && (b.psize != 0 || b.okind != 0 || b.repl != 0 || decide ((s.part part).cores.length ≤ b.home.toNat))) ||
    (k == .volume && volTiles s part b == 0) || (b.flags.getLsbD 1 && !(k == .data || k == .scratch)) ||
    (b.store != 0 && !storeOk s part b.store b.slot)

/-- The page entry that every page of a new object starts with (R77, R278). -/
def createProto (k : ObjKind) (b : ObjCreateBody) : PageEntry :=
  match k with
  | .capStore => { kind := 1, large := b.psize == 1 }
  | .volume | .tilePool => { large := b.psize == 1 }
  | _ => { kind := b.okind.setWidth 2, repl := b.repl.setWidth 2, large := b.psize == 1 }

/-- The object that OBJCREATE makes: what a thread may read of it is what its frames held, a free value, unless it is zero-filled (R87). -/
def createObj (s : State) (part : Nat) (k : ObjKind) (b : ObjCreateBody) : Obj :=
  { kind := k, owner := part, size := b.size.toNat, rights := b.rights, shared := b.flags.getLsbD 1, large := b.psize == 1
    home := (s.part part).cores.getD b.home.toNat 0, mem := if k == .volume then volHeader s part b else []
    proto := createProto k b, pool := if k == .volume then b.pool.setWidth 24 else 0
    fill := if (k == .data || k == .scratch) && !b.flags.getLsbD 0 then some s.free else none }

/-- The owner lacks the memory for an object: room in a core's scratch reservation, or free frames (R81, R120). -/
def noRoom (s : State) (part : Nat) (o : Obj) : Bool :=
  (part != 16 && (smGet? s.parts part).isNone) ||
    (if o.kind == .scratch then decide (65536 * (s.part part).s < 65536 * (s.part part).c + scratchBytes s o.home + o.size) else s.lacks o)

/-- OBJCREATE (R73, R120). -/
def execObjcreate (h : CmdHdr) (b : ObjCreateBody) : State → Out :=
  command .any false h fun s =>
    let part := s.viPart h.vi
    match kindOf b.kind with
    | none => badCmd h s
    | some k =>
      if createBad s part k b then badCmd h s
      else
        let o := createObj s part k b
        if noRoom s part o then finish h 5 0 s
        else withStore h (storeAccess (.objcreate h b)) (fun s =>
          let x := addObj o s
          let c : Cap := { valid := true, oid := x.1, rights := b.rights, upper := BitVec.ofNat 48 o.size }
          let s := if o.fill.isSome then { x.2 with free := x.2.free + o.size } else x.2
          finish h 1 (x.1.setWidth 32) (if b.store = 0 then s else mint b.store b.slot c s)) s

/-- OBJDESTROY (R78, R120). -/
def execObjdestroy (h : CmdHdr) (oid : BitVec 24) : State → Out :=
  command .any false h fun s =>
    match s.ownObj (s.viPart h.vi) (oid.setWidth 32) [.data, .capStore, .scratch, .volume, .tilePool, .report] with
    | none => badCmd h s
    | some o => if o.kind == .tilePool && poolServes s oid then badCmd h s else await h (.destroy oid) (killObj oid s)

/-- CAPMINT (R120). -/
def execCapmint (h : CmdHdr) (b : CapmintBody) : State → Out :=
  command .vf false h fun s =>
    let part := s.viPart h.vi
    match s.ownObj part b.oid [.data, .code, .capStore, .scratch, .volume, .tilePool, .report] with
    | none => badCmd h s
    | some o =>
      let hi := if b.upper = 0 then o.size else b.upper.toNat
      if !storeOk s part b.store b.slot || decide (hi < b.lower.toNat) || decide (o.size < hi) then badCmd h s
      else
        let c : Cap := { valid := true, oid := b.oid.setWidth 24, rights := o.rights &&& b.rights, upper := BitVec.ofNat 48 hi
                         lower := b.lower.setWidth 48 }
        withStore h (storeAccess (.capmint h b)) (fun s => finish h 1 0 (mint b.store b.slot c s)) s

/-! ### HCOPY (R120, R123, R489) -/

/-- The page keys that a range of an object touches. -/
def Obj.keysIn (o : Obj) (off n : Nat) : List Nat :=
  ((List.range ((off + n - 1) / 65536 - off / 65536 + 1)).map fun i => o.pageKey (65536 * (off / 65536 + i))).eraseDups

/-- Why the front end may not access a range of an object now: a page that aborts, by its 64 KiB index, or a wait. -/
def hostGate (s : State) (o : Obj) (oid : BitVec 24) (off n : Nat) : Option (Option Nat) :=
  if o.kind == .scratch then
    if s.absentAt (.obj oid) off n then some none else none
  else
    let ks := o.keysIn off n
    match ks.find? fun k => (o.page k).aborts || ((o.page k).comp && s.pagePending oid k) with
    | some k => some (some k)
    | none => if ks.any fun k => (o.page k).comp || s.collapses.any (fun c => c.oid == oid && c.page == k) then some none else none

/-- The bytes of an HCOPY. -/
def hcopyBytes (vi : Nat) (b : HcopyBody) (s : State) : State :=
  let sd := Side.obj (b.oid.setWidth 24)
  let n := b.len.toNat
  if b.dir = 0 then s.writeN sd b.off.toNat (memReadN s.hostMem (hostAddr vi b.iova) n)
  else { s with hostMem := memWriteN s.hostMem (hostAddr vi b.iova) (s.readN sd b.off.toNat n) }

/-- HCOPY once it has started, its checks passed: what it becomes, and the state. An object that is being destroyed stays until then (R78). -/
def tryHcopy (vi : Nat) (b : HcopyBody) (s : State) : State × CmdWait × BitVec 8 × Word :=
  match s.obj? (b.oid.setWidth 24) with
  | none => (s, .done, 8, 0)
  | some o => match hostGate s o (b.oid.setWidth 24) b.off.toNat b.len.toNat with
    | none => (hcopyBytes vi b s, .done, 1, 0)
    | some none => (s, .hcopy b, 1, 0)
    | some (some k) => (s, .done, 9, BitVec.ofNat 32 k)

/-- HCOPY (R120): its bytes are copied as it completes. -/
def execHcopy (h : CmdHdr) (b : HcopyBody) : State → Out :=
  command .any false h fun s =>
    let part := s.viPart h.vi
    let kinds : List ObjKind := if b.dir = 0 then [.data, .scratch] else [.data, .scratch, .report]
    match s.ownObj part b.oid kinds with
    | none => badCmd h s
    | some o =>
      if 1 < b.dir.toNat ∨ b.len = 0 ∨ o.size < b.off.toNat + b.len.toNat then badCmd h s
      else awaitDma h (.hcopy b) s

/-! ### WAITCJ (R120, R381) -/

/-- WAITCJ: the queue waits until the phase that the token names has ended. -/
def execWaitcj (h : CmdHdr) (oid : BitVec 32) (off : BitVec 64) (token : BitVec 32) : State → Out :=
  command .vf false h fun s =>
    match s.ownObj (s.viPart h.vi) oid [.data, .scratch, .report] with
    | none => badCmd h s
    | some o =>
      if off.toNat % 64 ≠ 0 ∨ o.size < off.toNat + 64 then badCmd h s
      else await h (.conj (oid.setWidth 24) off.toNat token) s

/-! ### Queues (R115, R120) -/

/-- The resident queues of an owner, without its admin queues. -/
def residentQueues (s : State) (part : Nat) : Nat :=
  (s.vis.map fun v => if s.viPart v.1 = part then (v.2.queues.filter fun q => q.1 != 0 && q.2.resident).length else 0).foldl (· + ·) 0

/-- CREATEQ. -/
def execCreateq (h : CmdHdr) (b : CreateqBody) : State → Out :=
  command .any false h fun s =>
    let q := b.qn.toNat
    let v := s.vi h.vi
    let bad := q == 0 || decide (1023 < q) || (smGet? v.queues q).isSome || decide (b.s.toNat < 6) || decide (16 < b.s.toNat) ||
      decide (v.priocap.toNat < b.prio.toNat) || decide (1023 < b.vec.toNat) || (h.vi == 0 && b.vec == 0) || b.ring.toNat % 128 != 0
    if bad then badCmd h s
    else
      let part := s.viPart h.vi
      let res := h.vi == 0 || decide (residentQueues s part < (s.part part).slots)
      let n : Queue := { base := b.ring, s := b.s.toNat, prio := b.prio.toNat, vec := b.vec.toNat, resident := res }
      finish h 1 0 (s.modVi h.vi fun i => { i with queues := smSet i.queues q n })

/-- A gang part of a queue. -/
def GangPart.ofQueue (g : GangPart) (v q : Nat) : Bool := g.hdr.vi == v && g.hdr.q == q

/-- The queue that a gang part held goes on: the part has started or completed (R133). -/
def releaseHead (g : GangPart) (s : State) : State :=
  fillHead g.hdr.vi g.hdr.q (s.modQueue g.hdr.vi g.hdr.q fun q => { q with head := q.head + 1, cur := none })

/-- The interfaces of a gang part's membership: its own and those of the peers that it names (R133). -/
def membership (s : State) (g : GangPart) : List Nat :=
  g.hdr.vi :: ((List.range 16).filter fun j => decide (0 < j) && g.hdr.peers.getLsbD j).map fun j => (s.vi g.hdr.vi).peers.getD (j - 1) 0

/-- The arrived parts of other interfaces, of the same GANGID, of which either names the other's interface. -/
def gangRelated (s : State) (g : GangPart) : List GangPart :=
  s.gangs.filter fun x => x.hdr.gang == g.hdr.gang && x.hdr.vi != g.hdr.vi &&
    ((membership s g).contains x.hdr.vi || (membership s x).contains g.hdr.vi)

/-- The first part of each interface. -/
def onePerVi : List GangPart → List GangPart → List GangPart
  | seen, [] => seen
  | seen, x :: r => onePerVi (if seen.any fun y => y.hdr.vi == x.hdr.vi then seen else seen ++ [x]) r

/-- The arrived parts of the gang of a part: itself, and of each related interface the part that arrived first. -/
def gangMates (s : State) (g : GangPart) : List GangPart := onePerVi [g] (gangRelated s g)

/-- Some gang parts complete with a code; `detail` gives each its detail. -/
def endParts (ps : List GangPart) (code : BitVec 8) (detail : GangPart → Word) (s : State) : State :=
  ps.foldl (fun s g => finish g.hdr code (detail g) (releaseHead g { s with gangs := s.gangs.filter fun x => x != g })) s

/-- A standing program outlives the queue of its START; what is parked at the pages that the queue reports ends, and the records held for them are
discarded (R123, R132; log entry 54). -/
def endParked (v q : Nat) (s : State) : State :=
  let pages := (s.vi v).aborts.filter fun a => a.q == q
  let jobs := (s.jobs.filter fun j => j.2.prog.isSome && j.2.hdr.vi == v && j.2.hdr.q == q).map (·.1)
  let s := pages.foldl (fun s a => match s.obj? a.oid with
    | some o => ((blocksOn s o a.oid a.page).filter fun x => jobs.contains x.1).foldl (fun s x => s.modUid x.2.2 fun b => b.stopBy .aborted) s
    | none => s) s
  jobs.foldl (fun s j => match smGet? s.jobs j with
    | some x => x.held.foldl (fun s h => endRecord x.part h.1 s) (s.modJob j fun y => { y with held := [] })
    | none => s) s

/-- Ends the work of a queue's commands that have started: launches are aborted, and what waits completes ABORTED (R120, R132, R133). -/
def abortQueue (v q : Nat) (s : State) : State :=
  let mine := s.cmds.filter fun c => c.hdr.vi == v && c.hdr.q == q
  let s := mine.foldl (fun s c => match c.wait with
    | .launch g => (match smGet? s.grids g with | some x => endJob x.job 0 8 s | none => s)
    | _ => s) s
  let stop := fun (c : Cmd) => if c.hdr.vi == v && c.hdr.q == q then (match c.wait with
      | .conj .. | .hcopy _ => { c with wait := .done, code := 8 }
      | _ => c) else c
  let s := endParked v q s
  let parts := (s.gangs.filter fun g => g.ofQueue v q).flatMap (gangMates s)
  let s := endParts parts.eraseDups 8 (fun _ => 0) { s with cmds := s.cmds.map stop }
  s.modVi v fun i => { i with aborts := i.aborts.filter fun a => a.q != q }

/-- DESTROYQ (R120). -/
def execDestroyq (h : CmdHdr) (qn : BitVec 16) : State → Out :=
  command .any false h fun s =>
    let q := qn.toNat
    match s.queue? h.vi q with
    | none => badCmd h s
    | some x =>
      if q = 0 ∨ x.dying then badCmd h s
      else await h (.destroyq q) (abortQueue h.vi q (s.modQueue h.vi q fun x => { x with dying := true }))

/-! ### PAGERESUME (R123, R432) -/

/-- The page of an interface's pending aborts that holds a 64 KiB index of an object; of an object that is destroyed its entries tell nothing any more, and the page
is the one with that index, or a 2 MiB page around it. -/
def abortedPage (s : State) (v : Nat) (oid : BitVec 24) (k : Nat) : Option Nat :=
  let has := fun (p : Nat) => (s.vi v).aborts.any fun a => a.oid == oid && a.page == p
  match s.obj? oid with
  | some o => [o.pageKey (65536 * k)].find? has
  | none => [k, k / 32 * 32].find? has

/-- PAGERESUME. -/
def execPageresume (h : CmdHdr) (oid : BitVec 32) (off : BitVec 64) : State → Out :=
  command .vf false h fun s =>
    let id := oid.setWidth 24
    match (if 2 ^ 24 ≤ oid.toNat then none else abortedPage s h.vi id (off.toNat / 65536)) with
    | none => badCmd h s
    | some page =>
      let s := s.modVi h.vi fun i => { i with aborts := i.aborts.filter fun a => !(a.oid == id && a.page == page) }
      finish h 1 0 (requeueHeld (fun _ x => x.2.2.1 == id && x.2.2.2 == page) (resumeOn id s))

/-! ### LAUNCH, START and STOP (R111, R125 to R128) -/

/-- The load that a handle names for an owner, if it is loaded and not being unloaded. -/
def State.loadFor (s : State) (part : Nat) (handle : BitVec 64) : Option Load :=
  match smGet? s.loads handle.toNat with
  | some l => if l.part == part && l.st == .ready && !l.dying then some l else none
  | none => none

/-- What a rejected load that a handle names for an owner reported (R50; log entry 101). -/
def State.rejected (s : State) (part : Nat) (handle : BitVec 64) : Option Word :=
  (smGet? s.loads handle.toNat).bind fun l => match l.st with
    | .rejected d => if l.part == part then some d else none
    | _ => none

/-- The load that a handle names has not completed (R50). The model's choice (log entry 101): another partition's load counts too, so a LAUNCH or START that names one waits at
the head until it has completed, and then completes BADCMD. -/
def State.loading (s : State) (handle : BitVec 64) : Bool := (smGet? s.loads handle.toNat).any fun l => l.st == .loading

/-- The capability store that a launch names, or none where it needs none; the outer none is a failing check. -/
def launchStore (s : State) (part : Nat) (b : LaunchBody) : Option (SMap Cap) :=
  if b.capstore = 0 ∧ b.capmask = 0 then some []
  else (s.ownObj part (b.capstore.setWidth 32) [.capStore]).map fun o => capsUnder b.capmask o.slots

/-- The gang peers of an interface, as VISTAT counts them (R133). -/
def Vi.peerCount (v : Vi) : Nat := (v.peers.filter (· != 0)).length

/-- Each peer index that a gang part names lies within its interface's peer count (R133). -/
def peersOk (s : State) (h : CmdHdr) : Bool :=
  (List.range 16).all fun j => !h.peers.getLsbD j || (decide (0 < j) && decide (j ≤ (s.vi h.vi).peerCount))

/-- The number of blocks of a launch. -/
def launchBlocks (b : LaunchBody) : Nat := b.gx.toNat * b.gy.toNat * b.gz.toNat

/-- What a LAUNCH needs: its load, image and capabilities; none is BADCMD (R126). -/
def launchArgs (s : State) (h : CmdHdr) (b : LaunchBody) : Option (Load × Image × SMap Cap) :=
  let part := s.viPart h.vi
  let dies := (s.part part).dies.length
  if launchBlocks b = 0 ∨ 2 ^ 32 ≤ launchBlocks b ∨ launchBlocks b < b.minblk.toNat ∨ (b.minblk ≠ 0 ∧ h.peers = 0) ∨ !peersOk s h ∨
      (b.diemask ≠ 0 ∧ !((List.range dies).any fun i => b.diemask.getLsbD i)) then none
  else match s.loadFor part b.loadh, launchStore s part b with
    | some l, some caps => (match l.images[b.entryno.toNat]? with
      | some i => if i.task then none else some (l, i, caps)
      | none => none)
    | _, _ => none

/-- A block of the image fits on some eligible core, were it empty (R126). -/
def launchFits (s : State) (part : Nat) (i : Image) (mask : BitVec 4) : Bool :=
  let p := s.part part
  (p.cores.any fun c => mask == 0 || mask.getLsbD (p.dieNo c)) && p.fitsEmpty i

/-- A grid starts (R128): its record, its job and the notification of every eligible core's agent. -/
def startGrid (h : CmdHdr) (b : LaunchBody) (l : Load) (i : Image) (caps : SMap Cap) (s : State) : State :=
  let part := s.viPart h.vi
  let j := s.fresh
  let g := j.2.fresh
  let s := g.2
  let s := { s with
    jobs := smSet s.jobs j.1 { part := part, load := b.loadh.toNat, hdr := h, caps := caps, capmask := b.capmask }
    grids := smSet s.grids g.1 { job := j.1, part := part, load := b.loadh.toNat, image := i, code := l.code, dim := (b.gx, b.gy, b.gz), n := launchBlocks b
                                 caps := caps, diemask := b.diemask, order := g.1 } }
  await h (.launch g.1) (notifyDies part b.diemask s)

/-- A LAUNCH that starts: NOMEM where its block fits no eligible core (R126), or its grid. -/
def runLaunch (h : CmdHdr) (b : LaunchBody) (l : Load) (i : Image) (caps : SMap Cap) (s : State) : State :=
  if !launchFits s (s.viPart h.vi) i b.diemask then finish h 5 0 s else startGrid h b l i caps s

/-- A gang part waits at the head of its queue (R133). -/
def joinGang (h : CmdHdr) (b : LaunchBody) (isStart : Bool) (s : State) : State :=
  let g : GangPart := { hdr := h, body := b, isStart := isStart }
  { s with gangs := s.gangs ++ [g] }

/-- LAUNCH (R50, R126 to R128, R133). -/
def execLaunchCommand (h : CmdHdr) (b : LaunchBody) : State → Out :=
  command .vf false h fun s =>
    match s.rejected (s.viPart h.vi) b.loadh, launchArgs s h b with
    | some d, _ => finish h 3 d s
    | none, none => badCmd h s
    | none, some (l, i, caps) => if h.peers = 0 then withStore h (storeAccess (.launchCommand h b)) (runLaunch h b l i caps) s else joinGang h b false s

/-- What a START needs; none is BADCMD (R126). -/
def startArgs (s : State) (h : CmdHdr) (b : LaunchBody) : Option (Load × ProgImage × SMap Cap) :=
  let part := s.viPart h.vi
  if b.gx ≠ 0 ∨ b.gy ≠ 0 ∨ b.gz ≠ 0 ∨ b.minblk ≠ 0 ∨ b.diemask ≠ 0 ∨ !peersOk s h then none
  else
    let caps := if b.capmask = 0 then some [] else launchStore s part b
    match s.loadFor part b.loadh, caps with
    | some l, some caps => (l.progs[b.entryno.toNat]?).map fun p => (l, p, caps)
    | _, _ => none

/-- The owner lacks the frames for a program's input object and version map. -/
def progLacks (s : State) (part : Nat) (img : ProgImage) : Bool :=
  let os := progObjs part img
  s.lacks os.1 || (addObj os.1 s).2.lacks os.2

/-- START, on its own or as a gang part: REFUSED by the first failing check of Table 5.8, or the program stands, its slot in DETAIL (R111, R416); NOMEM
where its objects find no room (log entry 100). -/
def runStart (h : CmdHdr) (b : LaunchBody) (s : State) : State :=
  let part := s.viPart h.vi
  match startArgs s h b with
  | none => badCmd h s
  | some (l, img, caps) => withStore h (storeAccess (.start h b)) (fun s =>
    match startCheck s part b.loadh.toNat b.entryno.toNat img caps with
    | some n => finish h 4 (BitVec.ofNat 32 n) s
    | none =>
      if progLacks s part img then finish h 5 0 s
      else finish h 1 (BitVec.ofNat 32 (progSlot s part)) (standProg h part b.loadh.toNat b.entryno.toNat l img caps b.capmask s)) s

/-- START (R50, R111, R126, R133). -/
def execStart (h : CmdHdr) (b : LaunchBody) : State → Out :=
  command .vf false h fun s =>
    if let some d := s.rejected (s.viPart h.vi) b.loadh then finish h 3 d s
    else if (startArgs s h b).isNone then badCmd h s
    else if h.peers = 0 then runStart h b s
    else joinGang h b true s

/-- The key of the program that stands from a load. -/
def standing (s : State) (part load idx : Nat) : Option (Nat × Prog) :=
  s.progs.find? fun kp => kp.2.part == part && kp.2.load == load && kp.2.progidx == idx

/-- STOP (R125). -/
def execStop (h : CmdHdr) (loadh : BitVec 64) (progidx : BitVec 16) : State → Out :=
  command .vf false h fun s =>
    match standing s (s.viPart h.vi) loadh.toNat progidx.toNat with
    | none => badCmd h s
    | some (key, p) => await h (.stop p.job) (stopProg key s)

/-! ### Gangs (R133 to R135) -/

/-- Parts that have arrived disagree with a part about its membership (R133). -/
def gangClash (s : State) (g : GangPart) : Bool :=
  let a := membership s g
  (gangRelated s g).any fun x => !((membership s x).all a.contains && a.all (membership s x).contains)

/-- Every part that a part names has arrived. -/
def gangWhole (s : State) (g : GangPart) : Bool := (membership s g).all fun v => (gangMates s g).any fun x => x.hdr.vi == v

/-- When a gang became complete: the place of its last part among the parts that have arrived. -/
def gangAge (s : State) (g : GangPart) : Nat := ((gangMates s g).map fun x => s.gangs.idxOf x).foldl max 0

/-- The queue of a part may start commands: it is resident, in no error, and not being disabled (R116, R124, R136); and the capability store that
the part names can be read now (R85). -/
def partReady (s : State) (g : GangPart) : Bool :=
  ((s.queue? g.hdr.vi g.hdr.q).any fun q => q.st == .ok && q.resident && !q.dying && (g.hdr.q != 0 || (s.vi g.hdr.vi).aqen)) &&
    (storeAccess (.launchCommand g.hdr g.body)).bind (storeGate s) != some none

/-- The gang of a part is reserved when its turn comes: it is complete, its queues may start commands, and it has not been rolled back since a block of
a named partition left (R134). -/
def gangDue (s : State) (g : GangPart) : Bool :=
  gangWhole s g && !gangClash s g && (gangMates s g).all (partReady s) && (gangMates s g).any fun x => !x.tried

/-- Another gang became complete earlier (R134). -/
def earlierGang (s : State) (g : GangPart) : Bool :=
  s.gangs.any fun x => !((gangMates s g).contains x) && gangDue s x && decide (gangAge s x < gangAge s g)

/-- Evicts a core's blocks in order until a block of an image fits: the state, and its warps' places. -/
def evictUntil (core : Nat) (i : Image) : List Nat → State → Option (State × List (Nat × Nat))
  | [], _ => none
  | q :: r, s =>
    let s := evict core q s
    match s.fits core i (0, 0) with
    | some ps => some (s, ps)
    | none => evictUntil core i r s

/-- The sequencers of a core's blocks that may be evicted for a gang part: evictable ones of queues of lower priority. -/
def lowerBlocks (s : State) (core prio : Nat) : List Nat :=
  ((s.core core).blocks.filter fun qb => decide (qb.1 < agentSeq) && decide (s.jobPrio qb.2.job < prio) && evictable s core qb.1 &&
    !s.writing core qb.1).map (·.1)

/-- Room for one more block of a grid, on the lowest eligible core that has it, or else on the lowest where evictions of `prio`'s inferiors make it. -/
def makeRoom (g : Grid) (prio : Nat) (s : State) : Option (Nat × State × List (Nat × Nat)) :=
  let cs := (s.part g.part).cores.filter fun c => g.eligible (s.part g.part) c && (s.core c).part == some g.part
  match cs.findSome? fun c => (s.fits c g.image (0, 0)).map fun ps => (c, s, ps) with
  | some x => some x
  | none => cs.findSome? fun c => (evictUntil c g.image (lowerBlocks s c prio) s).map fun x => (c, x.1, x.2)

/-- Claims tickets of a grid on the eligible cores of its partition until `n` blocks are held, with the evictions that this takes (R134). -/
def holdBlocks (id prio : Nat) : Nat → State → Option State
  | 0, s => some s
  | n + 1, s =>
    match smGet? s.grids id with
    | none => none
    | some g => match makeRoom g prio s with
      | none => none
      | some (c, t, ps) => holdBlocks id prio n (claimTicket c id g ps t)

/-- Starts one part of a gang, holding its first MINBLK blocks; none when its partition cannot hold them (R134). A part whose block fits no eligible core, were it
empty, completes NOMEM (R126, log entry 52). -/
def commitPart (g : GangPart) (s : State) : Option State :=
  if g.isStart then some (runStart g.hdr g.body s)
  else match launchArgs s g.hdr g.body with
    | none => some (badCmd g.hdr s)
    | some (l, i, caps) =>
      let stop := ((storeAccess (.launchCommand g.hdr g.body)).bind (storeGate s)).isSome || !launchFits s (s.viPart g.hdr.vi) i g.body.diemask
      if g.body.minblk = 0 || stop then some (withStore g.hdr (storeAccess (.launchCommand g.hdr g.body)) (runLaunch g.hdr g.body l i caps) s)
      else
        let s1 := startGrid g.hdr g.body l i caps s
        holdBlocks (s1.nextId - 1) ((s.queue? g.hdr.vi g.hdr.q).elim 0 (·.prio)) g.body.minblk.toNat s1

/-- Starts every part of a gang, in ascending partition number: the state, or the part that failed. -/
def commitAll : List GangPart → State → Except GangPart State
  | [], s => .ok s
  | g :: r, s => match commitPart g s with
    | some s' => commitAll r s'
    | none => .error g

/-- Gang parts in ascending module partition number. -/
def insertPart (s : State) (g : GangPart) : List GangPart → List GangPart
  | [] => [g]
  | x :: r => if s.viPart g.hdr.vi < s.viPart x.hdr.vi then g :: x :: r else x :: insertPart s g r

/-- The index under which a part sees the failing one's interface as a peer; 0 for itself. -/
def peerIndex (s : State) (bad g : GangPart) : Nat :=
  if bad.hdr.vi = g.hdr.vi then 0 else (s.vi g.hdr.vi).peers.idxOf bad.hdr.vi + 1

/-- GANG_RESERVATION (R133 to R135): a gang whose parts have all arrived is committed or rolled back whole; parts that disagree all complete. -/
def execGangReservation (gang : BitVec 32) (s : State) : Out :=
  .next (match (s.gangs.filter fun g => g.hdr.gang == gang).find? fun g => gangClash s g || gangDue s g with
    | none => s
    | some g =>
      let ps := gangMates s g
      if gangClash s g then endParts (g :: gangRelated s g) 7 (fun _ => 0) s
      else if earlierGang s g then s
      else
        let t := { s with gangs := s.gangs.filter fun x => !(ps.contains x) }
        match commitAll (ps.foldl (fun l g => insertPart s g l) []) (ps.foldl (fun t g => releaseHead g t) t) with
        | .ok s' => s'
        | .error bad =>
          if ps.all fun g => g.hdr.gretry then { s with gangs := s.gangs.map fun x => if ps.contains x then { x with tried := true } else x }
          else endParts ps 6 (fun g => BitVec.ofNat 32 (peerIndex s bad g)) s)

/-! ### Readiness to complete (R119, R122) -/

/-- The wake condition of R381 holds for a token. -/
def conjEnded (s : State) (oid : BitVec 24) (off : Nat) (token : Word) : Bool := (s.cj (.obj oid) off).wakes token

/-- A queue's other started commands. -/
def othersOf (s : State) (v q : Nat) : Bool := s.cmds.any fun c => c.hdr.vi == v && c.hdr.q == q

/-- Whether a grid has ended, with every block of its job gone if it was aborted. -/
def launchEnded (s : State) (g : Nat) : Bool :=
  match smGet? s.grids g with
  | none => true
  | some x => x.done && (blocksOfJob s x.job).isEmpty && !(s.saved.any fun y => y.blk.job == x.job)

/-- A load has no grid and no standing program left. -/
def loadIdle (s : State) (l : Nat) : Bool := !(s.grids.any fun g => g.2.load == l) && !(s.progs.any fun p => p.2.load == l)

/-- A queue is WAITING: a WAITCJ of it has not ended, or a gang part waits at its head (R119, R133). -/
def queueWaits (s : State) (v q : Nat) : Bool :=
  (s.cmds.any fun c => c.hdr.vi == v && c.hdr.q == q && (match c.wait with | .conj .. => true | _ => false)) || s.gangs.any fun g => g.ofQueue v q

/-! ### Starting commands (R116, R118, R121, R136) -/

/-- The hub is performing a change of the partitions, and performs them one at a time (R458). -/
def hubBusy (s : State) : Bool := s.cmds.any fun c => match c.wait with | .partcfg .. | .partdel _ => true | _ => false

/-- A command waits at its queue's head: for the load that it names (R50), for the hub (R458), for the page of a capability
store to be expanded (R85), or for the accesses of a halted core's blocks, which complete first (R444). -/
def headHeld (s : State) (v q : Nat) (bs : List Byte) : Bool :=
  (((decodeCommand v q bs).bind storeAccess).bind (storeGate s) == some none) || match decodeCommand v q bs with
  | some (.launchCommand _ b) | some (.start _ b) => s.loading b.loadh
  | some (.partcfg ..) | some (.partdel ..) | some (.vfbind ..) => hubBusy s
  | some (.repair _ c) => hubBusy s || ((s.core c.toNat).halted && !(s.core c.toNat).resident.isEmpty)
  | _ => false

/-- A queue may start its head command (R50, R116, R121, R136, R458). -/
def canStart (s : State) (v qn : Nat) : Bool :=
  match s.queue? v qn with
  | none => false
  | some q =>
    (s.sys.mode == .running || (s.sys.mode == .minimal && v == 0)) && !s.sys.ide && (v == 0 || (s.vi v).part.isSome) && (qn != 0 || (s.vi v).aqen) &&
      q.tail != q.head && q.st == .ok && q.resident && !q.dying && !queueWaits s v qn &&
      (!(cmdHdr v qn (headBytes s v q)).barrier || !othersOf s v qn) && !headHeld s v qn (headBytes s v q)

/-- The queues of an owner, each an interface and a number, in ascending order. -/
def queuesOf (s : State) (part : Nat) : List (Nat × Nat) :=
  s.vis.flatMap fun v => if s.viPart v.1 = part then v.2.queues.map fun q => (v.1, q.1) else []

/-- The queues of an owner that started last, by priority. -/
def State.turnsOf (s : State) (part : Nat) : SMap (Nat × Nat) := if part = 16 then s.sys.turns else (s.part part).turns

/-- The queue of an owner, of a priority, starts a command. -/
def takeTurn (part prio : Nat) (x : Nat × Nat) (s : State) : State :=
  if part = 16 then { s with sys := { s.sys with turns := smSet s.sys.turns prio x } }
  else s.modPart part fun p => { p with turns := smSet p.turns prio x }

/-- The queue whose head command the front end starts next for an owner: of those of the highest priority that can start, the next in turn
(R136). -/
def nextQueue (s : State) (part : Nat) : Option (Nat × Nat) :=
  let ready := (queuesOf s part).filter fun x => canStart s x.1 x.2
  let prio := fun (x : Nat × Nat) => (s.queue? x.1 x.2).elim 0 (·.prio)
  let top := ready.foldl (fun a x => max a (prio x)) 0
  let first := ready.filter fun x => prio x == top
  let turn := smGetD (s.turnsOf part) top (0, 0)
  let after := fun (x : Nat × Nat) => decide (turn.1 < x.1) || (turn.1 == x.1 && decide (turn.2 < x.2))
  (first.filter after ++ first).head?

/-- A queue enters ERROR and raises its vector (R116, R118). -/
def queueError (v q : Nat) (s : State) : State :=
  let s := s.modQueue v q fun x => { x with st := .error }
  raiseQueue v q (if q = 0 then s.modVi v fun i => { i with aqerr := true } else s)

/-- A gang part that waits stays at its queue's head: it has not started (R133). Otherwise the next command has reached the head. -/
def holdHead (v q : Nat) (s : State) : State :=
  if s.gangs.any fun g => g.ofQueue v q then s.modQueue v q fun x => { x with head := x.head - 1 } else fillHead v q s

/-- The head command of a queue that the front end starts: the state with the queue past it, or in ERROR, and the command (R117, R118). -/
def popHead (v q : Nat) (s : State) : State × Option Instr :=
  match s.queue? v q with
  | none => (s, none)
  | some x =>
    let bs := headBytes s v x
    let h := cmdHdr v q bs
    let s := takeTurn (s.viPart v) x.prio (v, q) s
    if h.stat.toNat % 16 ≠ 0 then (queueError v q s, none)
    else
      let past := s.modQueue v q fun y => { y with head := y.head + 1, cur := none }
      match decodeCommand v q bs with
      | none => (badCmd h past, none)
      | some i => (past, some i)

end Sys2Proof.Machine
end

