-- ==== Sys2Proof/Machine/Loader.lean ====
section
/-!
DEFINITION. The firmware loader (chapter 2, R45, R48 to R51, and R106, R108, R127): LOAD places a module's objects, applies its relocations and admits
its images; UNLOAD takes them away (R125).
-/
set_option autoImplicit false

namespace Sys2Proof.Machine

/-! ### The file (R51) -/

/-- A section entry: SECT, SIZE and FILEOFF (Table 2.9). -/
structure SectEntry where
  sect : Nat
  size : Nat
  off  : Nat
  deriving DecidableEq, Repr

/-- A relocation record of a module (Table 2.11). -/
structure RelocRec where
  kind   : Nat
  fsect  : Nat
  target : Nat
  p      : Nat
  addend : Int
  deriving DecidableEq, Repr

/-- A module as the loader reads it. -/
structure ModuleFile where
  sects  : List SectEntry
  relocs : List RelocRec
  deriving DecidableEq, Repr

/-- The section entry of 32 bytes, and whether its reserved bits are zero. -/
def sectEntry (v : Nat) : SectEntry × Bool :=
  ({ sect := bitsAt v 0 8, size := bitsAt v 64 64, off := bitsAt v 128 64 }, bitsAt v 8 56 == 0 && bitsAt v 192 64 == 0)

/-- The relocation record of 24 bytes, and whether its reserved bits are zero. -/
def relocRec (v : Nat) : RelocRec × Bool :=
  ({ kind := bitsAt v 0 8, fsect := bitsAt v 8 8, target := bitsAt v 32 8, p := bitsAt v 64 64, addend := (BitVec.ofNat 64 (bitsAt v 128 64)).toInt },
    bitsAt v 16 16 == 0 && bitsAt v 40 24 == 0)

/-- A section holds bytes of the file. -/
def SectEntry.filled (x : SectEntry) : Bool := x.sect != 4 && x.sect != 5

/-- The size of a section of a module, or none where it is absent. -/
def sectSize (l : List SectEntry) (k : Nat) : Option Nat := (l.find? fun x => x.sect == k).map (·.size)

/-- The width in bytes of a record's field in data (R51). -/
def relocWidth (kind : Nat) : Nat := if kind = 12 then 6 else 4

/-- A record that the loader applies: CODE32 in code; CODE32, CODE48 or OBJ24 in data; its field in its section, and its target a section that it may
name (R45, R51). A record in code whose P is no multiple of 12, and one in `.bss` or `.shared`, is rejected too (log entry 102). -/
def RelocRec.ok (r : RelocRec) (l : List SectEntry) : Bool :=
  (match sectSize l r.fsect with
    | none => false
    | some n =>
      if r.fsect ≤ 1 then r.kind == 11 && r.p % 12 == 0 && decide (r.p + 12 ≤ n)
      else (r.kind == 11 || r.kind == 12 || r.kind == 13) && r.fsect != 4 && r.fsect != 5 && decide (r.p + relocWidth r.kind ≤ n)) &&
  (if r.kind = 13 then decide (r.target ≤ 4) else decide (r.target ≤ 1))

/-- The module in `len` bytes of host memory at `base`; none where the file is malformed (R51). Taken as malformed too are values that Tables 2.8 and 2.9
do not give a module: NSECT 0, a nonzero NSYM, SYMOFF, STROFF or STRLEN, a FILEOFF of `.bss` or `.shared`, a SECT above 6 or an NSECT
above 7, and a code section that holds no whole number of instructions (DESIGN CHOICE, log entry 102). -/
def readModule (m : Memory) (base len : Nat) : Option ModuleFile :=
  let h := memNat m base 64
  let nsect := bitsAt h 64 32
  let nrel := bitsAt h 128 32
  let sectoff := bitsAt h 160 32
  let reloff := bitsAt h 224 32
  let ss := (List.range (min nsect 7)).map fun i => sectEntry (memNat m (base + sectoff + 32 * i) 32)
  if len < 64 ∨ bitsAt h 320 64 ≠ len ∨ bitsAt h 0 32 ≠ 0x4E5A4F46 ∨ bitsAt h 48 16 ≠ 1 ∨ bitsAt h 32 8 ≠ 1 ∨ bitsAt h 40 8 ≠ 0 ∨
      bitsAt h 384 128 ≠ 0 ∨ bitsAt h 96 32 ≠ 0 ∨ bitsAt h 192 32 ≠ 0 ∨ bitsAt h 256 64 ≠ 0 ∨ nsect = 0 ∨ 7 < nsect ∨ len < sectoff + 32 * nsect ∨
      len < reloff + 24 * nrel then none
  else
    let l := ss.map (·.1)
    let rs := (List.range nrel).map fun i => relocRec (memNat m (base + reloff + 24 * i) 24)
    let rising := (l.zip (l.drop 1)).all fun x => decide (x.1.sect < x.2.sect)
    let fits := l.all fun x => decide (x.sect ≤ 6) && (if x.filled then decide (x.off + x.size ≤ len) else x.off == 0) && (decide (1 < x.sect) || x.size % 12 == 0)
    if ss.all (·.2) && rising && fits && rs.all (fun r => r.2 && r.1.ok l) then some { sects := l, relocs := rs.map (·.1) } else none

/-! ### Placing (R45, R48) -/

/-- The index at which `.stream` begins in the code object (R45). -/
def ModuleFile.streamBase (f : ModuleFile) : Nat := up64 ((sectSize f.sects 0).getD 0 / 12)

/-- The instructions of the code object (R48). -/
def ModuleFile.codeWords (f : ModuleFile) : Nat :=
  match sectSize f.sects 1 with
  | some n => f.streamBase + n / 12
  | none => (sectSize f.sects 0).getD 0 / 12

/-- The size of the object of a data section; 0 for none (R48). -/
def ModuleFile.dataSize (f : ModuleFile) (k : Nat) : Nat :=
  let n := (sectSize f.sects k).getD 0
  if f.relocs.any fun r => r.kind == 13 && r.target == k then max 64 (up64 n) else up64 n

/-- The rights of the object of a section (R120). -/
def sectRights (k : Nat) : BitVec 8 := if k ≤ 1 then 0x24 else if k = 2 then 0xB1 else 0xBB

/-- The contents of the sections, keyed by SECT. -/
def ModuleFile.contents (f : ModuleFile) (m : Memory) (base : Nat) : SMap Memory :=
  f.sects.foldl (fun c x => if x.filled then smSet c x.sect (memWriteN [] 0 (memReadN m (base + x.off) x.size)) else c) []

/-- The value of a record, or none where it fails its fit check (Table 2.7). -/
def relocValue (f : ModuleFile) (ids : SMap Nat) (r : RelocRec) : Option Nat :=
  if r.kind = 13 then some (smGetD ids r.target 0)
  else
    let v : Int := (if r.target = 1 then f.streamBase else 0) + r.addend
    if 0 ≤ v ∧ v < (if r.kind = 11 then 2 ^ 32 else 2 ^ 48) then some v.toNat else none

/-- Applies the records in order: the sections' contents, or the index of the first that fails (R49). -/
def applyRelocs (f : ModuleFile) (ids : SMap Nat) : List (RelocRec × Nat) → SMap Memory → Except Nat (SMap Memory)
  | [], c => .ok c
  | (r, i) :: rest, c =>
    match relocValue f ids r with
    | none => .error i
    | some v =>
      let m := smGetD c r.fsect []
      let m' := if r.fsect ≤ 1 then memPutNat m (r.p + 2) 4 v else memPutNat m r.p (relocWidth r.kind) v
      applyRelocs f ids rest (smSet c r.fsect m')

/-- The canonical NOP word (R48). -/
def nopWord : Nat := ((encode (.nop {} {})).getD 0).toNat

/-- The contents of the code object. -/
def ModuleFile.code (f : ModuleFile) (c : SMap Memory) : Memory :=
  let text := smGetD c 0 []
  match sectSize f.sects 1 with
  | none => text
  | some n =>
    let t := (sectSize f.sects 0).getD 0 / 12
    let filled := (List.range (f.streamBase - t)).foldl (fun m i => memPutNat m (12 * (t + i)) 12 nopWord) text
    memWriteN filled (12 * f.streamBase) (memReadN (smGetD c 1 []) 0 n)

/-! ### Images (R108, R127) -/

/-- An entry image (Table 6.6). -/
def entryImage (v : Nat) : Image :=
  { stream := BitVec.ofNat 48 (bitsAt v 400 48), entry := BitVec.ofNat 48 (bitsAt v 352 48), spill := bitsAt v 320 32, shared := bitsAt v 288 32
    unif := bitsAt v 272 16, aff := bitsAt v 256 16, gen := bitsAt v 240 16, warps := bitsAt v 232 8, team := bitsAt v 224 8
    strm := v.testBit 219, prio := v.testBit 218, idem := v.testBit 217, task := v.testBit 216 }

/-- A block-table entry with its dependents (Tables 5.5 and 5.6). -/
def eqBlock (m : Memory) (deps v : Nat) : EqBlk :=
  { decl := v.testBit 55, home := bitsAt v 53 2, arg := bitsAt v 48 5, entry := BitVec.ofNat 48 (bitsAt v 0 48)
    deps := (List.range (bitsAt v 96 32)).map fun i =>
      let d := memNat m (deps + 8 * (bitsAt v 64 32 + i)) 8
      (bitsAt d 0 20, BitVec.ofNat 32 (bitsAt d 32 32)) }

/-- A standing-program image as it lies in `.meta`, with the object and offset of its report symbol. -/
structure ProgHead where
  img    : ProgImage
  repobj : BitVec 24
  repoff : Nat
  deriving DecidableEq, Repr

/-- A standing-program image at a place of `.meta` (Tables 5.4 to 5.7). -/
def progImage (m : Memory) (at_ v : Nat) : ProgHead :=
  let ok := bitsAt v 0 32 == 0x4E5A5350 && bitsAt v 32 16 == 1
  { repobj := BitVec.ofNat 24 (bitsAt v 224 32), repoff := bitsAt v 256 64
    img :=
      { ok := ok, norm := BitVec.ofNat 8 (bitsAt v 48 8), thresh := BitVec.ofNat 32 (bitsAt v 192 32)
        blocks := if ok then (List.range (bitsAt v 64 32)).map fun i =>
          eqBlock m (at_ + bitsAt v 352 32) (memNat m (at_ + bitsAt v 320 32 + 16 * i) 16) else []
        inputs := if ok then (List.range (bitsAt v 160 16)).map fun i =>
          let d := memNat m (at_ + bitsAt v 384 32 + 8 * i) 8
          (bitsAt d 32 32, bitsAt d 0 21) else [] } }

/-- The byte after `n` zero-terminated names. -/
def namesEnd (m : Memory) : Nat → Nat → Nat → Nat
  | 0, pos, _ => pos
  | fuel + 1, pos, n => if n = 0 then pos else namesEnd m fuel (pos + 1) (if memRead m pos = 0 then n - 1 else n)

/-- The images in `size` bytes of `.meta` from `pos`: the entry images and the standing-program images. What carries neither MAGIC, or the second with
another VERSION, is a standing-program image that fails its first check (R111), with no Report object and 64 bytes long, but for a gap of zeros (log
entry 57). -/
def images (m : Memory) (size : Nat) : Nat → Nat → List Image × List ProgHead
  | 0, _ => ([], [])
  | fuel + 1, pos =>
    if size < pos + 64 then ([], [])
    else
      let v := memNat m pos 64
      if bitsAt v 0 32 = 0x4E5A454E then
        let x := images m size fuel (pos + 64)
        (entryImage v :: x.1, x.2)
      else if v = 0 then images m size fuel (pos + 64)
      else
        let p := progImage m pos v
        let next := if p.img.ok then up64 (namesEnd m size (pos + bitsAt v 416 32) (bitsAt v 160 16 + 1)) else pos + 64
        let x := images m size fuel next
        (x.1, p :: x.2)

/-! ### LOAD (R48 to R51, R106) -/

/-- The contents of a new Report object: BOUND +∞, and a Conjunction object that one arrival completes (Table 5.3). -/
def reportMem : Memory := memPutNat (memPutNat (memPutNat [] 8 4 0x7F800000) 64 8 1) 72 8 1

/-- Creates the object of a section, if it has one: its id by SECT. -/
def sectObj (part : Nat) (f : ModuleFile) (k : Nat) (x : SMap Nat × State) : SMap Nat × State :=
  if f.dataSize k = 0 then x
  else
    let y := addObj { kind := .data, owner := part, size := f.dataSize k, rights := sectRights k } x.2
    (smSet x.1 k y.1.toNat, y.2)

/-- Creates the module's objects, empty: the ids of its sections. -/
def createObjs (part : Nat) (f : ModuleFile) (s : State) : SMap Nat × State :=
  let x := addObj { kind := .code, owner := part, size := 12 * f.codeWords, rights := sectRights 0 } s
  sectObj part f 4 (sectObj part f 3 (sectObj part f 2 ([(0, x.1.toNat), (1, x.1.toNat)], x.2)))

/-- Creates the Report objects in order, and writes their ids at the report symbols; none, with the program's index, where a symbol does not fit
(R106). -/
def createReports (part : Nat) (f : ModuleFile) (ids : SMap Nat) : List (ProgHead × Nat) → State → Except Nat (List ProgImage × State)
  | [], s => .ok ([], s)
  | (p, i) :: rest, s =>
    if !p.img.ok then
      match createReports part f ids rest s with
      | .ok (l, s') => .ok (p.img :: l, s')
      | .error e => .error e
    else
      let sect := (ids.find? fun x => x.2 == p.repobj.toNat).map (·.1)
      if (sect.bind (sectSize f.sects)).all fun n => decide (n < p.repoff + 8) then .error i
      else
        let x := addObj { kind := .report, owner := part, size := 128, rights := 0x21, mem := reportMem } s
        let s1 := x.2.writeNat (.obj p.repobj) p.repoff 8 x.1.toNat
        match createReports part f ids rest s1 with
        | .ok (l, s') => .ok ({ p.img with report := x.1 } :: l, s')
        | .error e => .error e

/-- The frames that a module's objects need. -/
def ModuleFile.frames (f : ModuleFile) (progs : Nat) : Nat :=
  let fr := fun (n : Nat) => (n + 65535) / 65536
  fr (12 * f.codeWords) + fr (f.dataSize 2) + fr (f.dataSize 3) + fr (f.dataSize 4) + progs

/-- The loader places the module of load `id` (R48): the state, or what a rejection reports (R49). A module for which the share lacks frames is rejected as
one that fails for no relocation. DESIGN CHOICE (log entry 102): of several reasons a failing relocation is reported first, then the size and the room, then a report
symbol; and the room counts a frame for every standing-program image, whether or not it passes check 1. -/
def placeModule (id part : Nat) (f : ModuleFile) (m : Memory) (base : Nat) (s : State) : Except Nat State :=
  let x := createObjs part f s
  match applyRelocs f x.1 f.relocs.zipIdx (f.contents m base) with
  | .error i => .error i
  | .ok c =>
    if 2 ^ 32 < f.codeWords then .error 0xFFFFFFFF
    else
      let put := fun (k : Nat) (s : State) => match smGet? x.1 k with
        | some id => s.modObj (BitVec.ofNat 24 id) fun o => { o with mem := smGetD c k [] }
        | none => s
      let code := BitVec.ofNat 24 (smGetD x.1 0 0)
      let s1 := put 3 (put 2 (x.2.modObj code fun o => { o with mem := f.code c }))
      let n := (sectSize f.sects 6).getD 0
      let is := images (smGetD c 6 []) n (n / 64 + 1) 0
      if frameCount (s.room part) < f.frames is.2.length then .error 0xFFFFFFFF
      else match createReports part f x.1 is.2.zipIdx s1 with
        | .error i => .error (f.relocs.length + i)
        | .ok (ps, s2) =>
          let objs := ((x.1.filter fun e => e.1 != 1).map fun e => BitVec.ofNat 24 e.2) ++ (ps.filter (·.ok)).map (·.report)
          let l : Load := { part := part, code := code, objs := objs, images := is.1, progs := ps }
          .ok (objs.foldl (fun s o => s.modObj o fun b => { b with load := some id }) { s2 with loads := smSet s2.loads id l })

/-- The load `id` completes, with the module in `len` bytes at `iova`: OK with the handle, or LOADFIT with what failed; a rejected module leaves nothing but
what its load reported (R48 to R51). -/
def settleLoad (c : Cmd) (id iova len : Nat) (s : State) : State × Cmd :=
  let at_ := hostAddr c.hdr.vi (BitVec.ofNat 64 iova)
  let part := s.viPart c.hdr.vi
  match (match readModule s.hostMem at_ len with | some f => placeModule id part f s.hostMem at_ s | none => .error 0xFFFFFFFF) with
  | .ok s' => (s', { c with code := 1, detail := BitVec.ofNat 32 id })
  | .error d =>
    ({ s with loads := smSet s.loads id { part := part, st := .rejected (BitVec.ofNat 32 d), code := 0 } }, { c with code := 3, detail := BitVec.ofNat 32 d })

/-- LOAD (R48, R50) starts: its load has not completed until the command does. -/
def execLoad (h : CmdHdr) (iova : BitVec 64) (len : BitVec 32) : State → Out :=
  command .vf false h fun s =>
    let x := s.fresh
    awaitDma h (.load x.1 iova.toNat len.toNat) { x.2 with loads := smSet x.2.loads x.1 { part := s.viPart h.vi, st := .loading, code := 0 } }

/-- UNLOAD (R125): every standing program of the load stops as STOP stops it, and the command waits for the load's grids and programs. -/
def execUnload (h : CmdHdr) (loadh : BitVec 64) : State → Out :=
  command .vf false h fun s =>
    let l := loadh.toNat
    match s.loadFor (s.viPart h.vi) loadh with
    | none => badCmd h s
    | some x =>
      let s := { s with loads := smSet s.loads l { x with dying := true } }
      await h (.unload l) ((s.progs.filter fun p => p.2.load == l).foldl (fun s p => stopProg p.1 s) s)

end Sys2Proof.Machine
end

