-- ==== Sys2Proof/Machine/HostReg.lean ====
section
/-!
DEFINITION. The host's side of the front end (chapters 6 and 19): the registers of Tables 6.1 and 19.1 and the MSI-X table, doorbells, the admin
queue's enable and disable, the verification of firmware images, the completion of commands, Function Level Reset, and failures of host DMA.
-/
set_option autoImplicit false

namespace Sys2Proof.Machine

/-! ### Completion (R119, R122, R125) -/

/-- The 16 bytes of a status record (Table 6.4). -/
def Cmd.status (c : Cmd) : List Byte := packN 16 [(0, c.code.toNat), (32, c.detail.toNat), (64, c.hdr.usertag.toNat)]

/-- Writes a command's status record, and then raises its interrupt (R122). -/
def writeStatus (c : Cmd) (s : State) : State :=
  if c.silent then s
  else
    let s := { s with hostMem := memWriteN s.hostMem (hostAddr c.hdr.vi c.hdr.stat) c.status }
    if c.hdr.irq then raiseQueue c.hdr.vi c.hdr.q s else s

/-- A completed launch's records: its grids and its job. -/
def dropLaunch (g : Nat) (s : State) : State :=
  match smGet? s.grids g with
  | none => s
  | some x => { s with grids := s.grids.filter fun y => y.2.job != x.job, jobs := smDel s.jobs x.job }

/-- The objects of an unloaded module are dead; once nothing accesses them they are destroyed (R78, R125). -/
def dropLoad (l : Nat) (s : State) : State × Bool :=
  let os := (smGet? s.loads l).elim [] (·.objs)
  let s := os.foldl (fun s o => killObj o s) s
  if os.any (inFlight s) then (s, false) else ({ os.foldl (fun s o => dropObj o s) s with loads := smDel s.loads l }, true)

/-- The cores that a partition has given up and that still hold blocks or belong to it (R457). -/
def leaving (s : State) (part : Nat) : List Nat :=
  (s.cores.filter fun ck => ck.2.part == some part && !((s.part part).cores.contains ck.1)).map (·.1)

/-- A core's records, from its deque, its Settle queue and its landing slot, in the order in which they leave it. -/
def Core.records (k : Core) : List TaskRec := k.deque ++ k.settleq ++ k.landing.toList

/-- The first `n` of a core's records have left it. -/
def Core.dropRecords (k : Core) (n : Nat) : Core :=
  { k with deque := k.deque.drop n, settleq := k.settleq.drop (n - k.deque.length)
           landing := if n < k.records.length then k.landing else none, chosen := none }

/-- Moves a core's records to the bottom of another core's deque, as far as they go (R396), and its pending cells to the other's list (R457). -/
def moveRecords (src dst : Nat) (s : State) : State :=
  let k := s.core src
  let x := pushMany dst k.records (k.pend.foldl (fun s c => pendCell dst c.1 c.2 s) (s.modCore src fun k => { k with pend := [] }))
  x.1.modCore src fun k => k.dropRecords x.2

/-- Moves a core's records to other cores' deques: each next one takes what its predecessors had no room for. -/
def moveTo (dsts : List Nat) (src : Nat) (s : State) : State := dsts.foldl (fun s d => moveRecords src d s) s

/-- A core holds no block, no record and no pending cell. -/
def Core.emptied (k : Core) : Bool := k.resident.isEmpty && k.records.isEmpty && k.pend.isEmpty

/-- The cores of a partition that take over the records of those that leave: the ones that stay, or where none does those that join (R457). -/
def heirs (s : State) (part : Nat) : List Nat :=
  let cs := (s.part part).cores
  let kept := cs.filter fun c => (s.core c).part == some part
  if kept.isEmpty then cs else kept

/-- What the leaving cores of a partition hold moves on, as far as there is room (R457). -/
def passRecords (part : Nat) (s : State) : State := (leaving s part).foldl (fun s c => moveTo (heirs s part) c s) s

/-- A core of no partition (R447). -/
def Core.free (k : Core) : Core := { k with part := none, agtctl := 0x100, mxsolo := false, preempt := false, closed := [] }

/-- AGTCTL bits 0 and 1 and MXSOLO as a partition's flags give them (R447). -/
def Core.flagged (k : Core) (f : BitVec 8) : Core :=
  { k with agtctl := (k.agtctl &&& 0xFFFFFFFC) ||| (if f.getLsbD 0 then 0 else 1) ||| (if f.getLsbD 1 then 2 else 0), mxsolo := f.getLsbD 2 }

/-- A core that joins a partition (R447). -/
def Core.join (k : Core) (part : Nat) (f : BitVec 8) : Core :=
  { k with part := some part, agtctl := 0x100, preempt := false, quantum := 0x1000000, closed := [] }.flagged f

/-! ### The partition map and its measurement (R456, R457, R466) -/

/-- The partition map as the bytes that are measured: every partition's number, slots, flags, S, C, share and core mask. -/
def mapBytes (s : State) : List Byte :=
  s.parts.flatMap fun p => packN 64 [(0, p.1), (8, p.2.slots), (16, p.2.flags.toNat), (32, p.2.s), (64, p.2.c), (128, p.2.share),
    (192, p.2.cores.foldl (fun a c => a + 2 ^ c) 0)]

/-- Extends a measurement index by an item, with the log's entry (R462, R466, Table 19.7). -/
def extendMeas (index event : Nat) (item : List Byte) (s : State) : State :=
  let g := s.logs
  let d := sha384 item
  let e := packN 8 [(0, g.meas.length), (32, index), (40, event)] ++ (leBytes 48 d.toNat).reverse ++ List.replicate 8 0
  let new := sha384 ((leBytes 48 (smGetD g.digests index 0).toNat).reverse ++ (leBytes 48 d.toNat).reverse)
  { s with logs := { g with meas := g.meas ++ [e], digests := smSet g.digests index new } }

/-- The partition map has changed: index 6 is extended (R466). -/
def mapChanged (s : State) : State := extendMeas 6 1 (mapBytes s) s

/-- The interfaces bound to a partition. -/
def boundTo (s : State) (part : Nat) : List Nat := (s.vis.filter fun v => v.1 != 0 && s.viPart v.1 == part).map (·.1)

/-- The frames of a partition that goes return to the module (R81). -/
def returnFrames (part : Nat) (s : State) : State := s.giveFrames 16 (s.part part).room

/-- A deleted partition has no command, no resident and no saved block left (R456). -/
def partGone (s : State) (c : Cmd) (part : Nat) : Bool :=
  !(s.cmds.any fun d => d != c && (boundTo s part).contains d.hdr.vi) && (s.cores.all fun k => k.2.part != some part || k.2.resident.isEmpty) &&
    !(s.saved.any fun x => x.blk.part == part)

/-- A deleted partition leaves: its interfaces are bound to none, and its cores, objects, loads and programs are gone (R456, R460). -/
def dropPart (part : Nat) (s : State) : State :=
  let gone := s.objs.filter fun o => o.2.owner == part || o.2.owner2 == some part
  let s := gone.foldl (fun s o => dropObj (BitVec.ofNat 24 o.1) s) s
  let s := (boundTo s part).foldl (fun s v => s.modVi v fun i => { i with part := none, queues := [], aqen := false, aqerr := false, aborts := [] }) s
  let empty := fun (k : Core) => { k.free with deque := [], settleq := [], landing := none, chosen := none, pend := [] }
  let progs := s.progs.filter fun p => p.2.part == part
  let s := returnFrames part s
  mapChanged { s with
    parts := smDel s.parts part
    loads := s.loads.filter fun l => l.2.part != part
    jobs := s.jobs.filter fun j => j.2.part != part
    grids := s.grids.filter fun g => g.2.part != part
    progs := s.progs.filter fun p => p.2.part != part
    posts := s.posts.filter fun x => !(progs.any fun p => p.1 == x.prog)
    cores := s.cores.map fun ck => if ck.2.part == some part then (ck.1, empty ck.2) else ck }

/-! ### Firmware images (R461, R464) -/

/-- A firmware image's MAGIC (R464). -/
def fwMagicOk (img : List Byte) : Bool := leNat (img.take 4) == 0x4E5A4657

/-- A firmware image's security version. -/
def fwSvn (img : List Byte) : BitVec 32 := BitVec.ofNat 32 (leNat ((img.drop 8).take 4))

/-- The header and the length of a firmware image are as R464 gives. -/
def fwFormOk (img : List Byte) : Bool :=
  fwMagicOk img && ((img.drop 16).take 48).all (· == 0) && img.length == 64 + leNat ((img.drop 12).take 4) + 96

/-- An image verifies (R464): its form, its signature and its security version. -/
def fwOk (s : State) (img : List Byte) : Bool := fwFormOk img && signatureOk img && decide (s.sys.svnMin.toNat ≤ (fwSvn img).toNat)

/-- FWSTAGE completes (R461, R467): an image that verifies is held staged in the place of an earlier one, and in minimal mode
written to flash as well. -/
def settleStage (c : Cmd) (iova len : Nat) (s : State) : State × Cmd :=
  let img := memReadN s.hostMem (hostAddr c.hdr.vi (BitVec.ofNat 64 iova)) len
  if fwOk s img then
    let flash := if s.sys.mode = .minimal then some img else s.sys.flash
    ({ s with sys := { s.sys with staged := some img, flash := flash, actWait := false, blockers := [] } }, c)
  else (s, { c with code := 4, detail := 6 })

/-- The entries of a log in order, and the number of the oldest: 64-byte entries, or the capture buffer's units. -/
def logEntries (g : Logs) (log : Nat) : List (List Byte) × Nat :=
  match log with
  | 0 => (g.fault, g.faultN)
  | 1 => (g.err, g.errN)
  | 2 => (g.meas, 0)
  | _ => (g.capt.flatMap fun r => (List.range (r.length / 64)).map fun i => (r.drop (64 * i)).take 64, g.captN)

/-- LOGREAD completes (R453, R462): the entries from the first one asked for, as many as there are and the buffer holds, and their number in DETAIL. -/
def settleLogread (c : Cmd) (b : LogreadBody) (s : State) : State × Cmd :=
  let x := logEntries s.logs b.log.toNat
  let es := (x.1.drop (b.first.toNat - x.2)).take (b.len.toNat / 64)
  ({ s with hostMem := memWriteN s.hostMem (hostAddr c.hdr.vi b.iova) es.flatten }, { c with detail := BitVec.ofNat 32 es.length })

/-! ### The completion of each command (R119, R456) -/

/-- The cores that have no more to give up for a PARTCFG leave, and those that it adds join (R457). DESIGN CHOICE (log entry 117): a scratch object homed on a core that
leaves stays in that core's SRAM, where it is counted and can be reached. -/
def commitCfg (part : Nat) (added : List Nat) (s : State) : State :=
  let p := s.part part
  let cs := leaving s part
  let s := added.foldl (fun s c => s.modCore c fun k => k.join part p.flags) s
  cs.foldl (fun s c => s.modCore c Core.free) s

/-- WAITCJ (R119, R123, R381): PAGEABORT where the page of its read aborts; OK once the phase has ended; none where it waits on. -/
def settleConj (c : Cmd) (oid : BitVec 24) (off : Nat) (token : Word) (s : State) : Option Cmd :=
  match (s.obj? oid).bind fun o => hostGate s o oid off 64 with
  | some (some k) => some { c with code := 9, detail := BitVec.ofNat 32 k }
  | some none => none
  | none => if conjEnded s oid off token then some c else none

/-- Whether command `c` completes now: the state, and what it completes with; none where it waits on. -/
def settleCmd (c : Cmd) (s : State) : State × Option Cmd :=
  let yes := fun (b : Bool) (t : State) => if b then (t, some c) else (s, none)
  match c.wait with
  | .done => (s, some c)
  | .load l iova len => (let x := settleLoad c l iova len s; (x.1, some x.2))
  | .stage iova len => (let x := settleStage c iova len s; (x.1, some x.2))
  | .logread b => (let x := settleLogread c b s; (x.1, some x.2))
  | .launch g => yes (launchEnded s g) (dropLaunch g s)
  | .stop j => yes (smGet? s.jobs j).isNone s
  | .unload l => if loadIdle s l then (let x := dropLoad l s; (x.1, if x.2 then some c else none)) else (s, none)
  | .destroy oid => yes (!inFlight s oid) (dropObj oid s)
  | .hcopy b =>
    let x := tryHcopy c.hdr.vi b s
    (match x.2.1 with
      | .hcopy _ => (s, none)
      | _ => (x.1, some { c with code := x.2.2.1, detail := x.2.2.2 }))
  | .conj oid off token => (s, settleConj c oid off token s)
  | .destroyq q => yes (!(s.cmds.any fun d => d != c && d.hdr.vi == c.hdr.vi && d.hdr.q == q))
      (s.modVi c.hdr.vi fun i => { i with queues := smDel i.queues q })
  | .partcfg part added =>
    let t := passRecords part s
    if (leaving t part).all fun k => (t.core k).emptied then (commitCfg part added t, some c) else (t, none)
  | .partdel part => yes (partGone s c part) (dropPart part s)

/-- COMMAND_COMPLETION (R119, R122): the `k`th started command that has ended writes its status record, unless the IDE stream has failed
(R454). -/
def execCommandCompletion (k : Nat) (s : State) : Out :=
  .next (match s.cmds[k]? with
    | none => s
    | some c =>
      if s.sys.ide then s
      else match settleCmd c s with
        | (s', none) => s'
        | (s', some d) => writeStatus d { s' with cmds := s'.cmds.eraseIdx k })

/-! ### Doorbells and the admin queue (R114, R116, R124) -/

/-- DOORBELL (R116, R124): a new tail count; one that leaves more pending commands than the ring has slots puts the queue in ERROR. -/
def execDoorbell (vi q : Nat) (tail : BitVec 32) (s : State) : Out :=
  .next (match s.queue? vi q with
    | none => s
    | some x =>
      if (q = 0 ∧ !(s.vi vi).aqen) ∨ (vi ≠ 0 ∧ !(s.vi vi).enabled) then s
      else
        let s := s.modQueue vi q fun y => { y with tail := tail }
        if 2 ^ x.s < (tail - x.head).toNat ∧ x.st = .ok then queueError vi q s else fillHead vi q s)

/-- AQCTL_ENABLE (R114): bit 0 changes from 0 to 1, and AQBASE and AQSIZE are latched. -/
def execAqctlEnable (vi : Nat) (s : State) : Out :=
  let v := s.vi vi
  .next (if v.aqen ∨ (smGet? v.queues 0).isSome ∨ (vi ≠ 0 ∧ !v.enabled) then s
    else if v.aqsize.toNat < 6 ∨ 16 < v.aqsize.toNat ∨ v.aqbase.toNat % 128 ≠ 0 then s.modVi vi fun i => { i with aqerr := true }
    else
      let q : Queue := { base := v.aqbase, s := v.aqsize.toNat, prio := v.priocap.toNat }
      s.modVi vi fun i => { i with aqen := true, aqerr := false, queues := smSet i.queues 0 q })

/-- AQCTL_DISABLE (R124): queue 0 starts no command from now on; where an enable had failed there is none to drain, and VISTAT bit 1 clears at once. -/
def execAqctlDisable (vi : Nat) (s : State) : Out :=
  .next (s.modVi vi fun i => { i with aqen := false, aqerr := i.aqerr && (smGet? i.queues 0).isSome })

/-- ADMIN_QUEUE_DRAINED (R124): the last started command of a disabled queue 0 has completed. A gang part that waits at its head has not started, and
leaves with it (log entry 106). -/
def execAdminQueueDrained (vi : Nat) (s : State) : Out :=
  .next (if (s.vi vi).aqen || (s.queue? vi 0).isNone || othersOf s vi 0 then s
    else { s with gangs := s.gangs.filter fun g => !g.ofQueue vi 0 }.modVi vi fun i => { i with queues := smDel i.queues 0, aqerr := false })

/-! ### Registers (Tables 6.1 and 19.1)

An offset from 0x1_0000 on lies in BAR2: the table of 1,024 vectors at its start and the pending-bit array at 0x4000 of it, in the layout of PCI
Express (R452, log entry 107). -/

/-- The vector of the MSI-X table that an offset lies in, and its byte in the entry. -/
def msixPlace (off : Nat) : Option (Nat × Nat) := if 0x10000 ≤ off ∧ off < 0x14000 then some ((off - 0x10000) / 16, off % 16) else none

/-- A write to a vector of an MSI-X table. -/
def MsixVec.write (e : MsixVec) (byte : Nat) (val : BitVec 64) : MsixVec :=
  match byte with
  | 0 => { e with addr := val }
  | 4 => { e with addr := val.setWidth 32 ++ e.addr.setWidth 32 }
  | 8 => { e with data := val.setWidth 32, mask := val.getLsbD 32 }
  | 12 => { e with mask := val.getLsbD 0 }
  | _ => e

/-- Writes to a function's MSI-X table (R452): a vector that is no longer masked is sent, and is pending no more. -/
def writeMsix (vi vec byte : Nat) (val : BitVec 64) (s : State) : State :=
  let b := smGetD s.bar2 vi {}
  let e := (smGetD b.table vec {}).write byte val
  let pend := if e.mask then b.pending else b.pending.filter (· != vec)
  { s with bar2 := smSet s.bar2 vi { b with table := smPut b.table vec e {}, pending := pend } }

/-- REGISTER_WRITE (R114, R452): AQBASE, AQSIZE and the MSI-X table are stored; every other write is ignored. -/
def execRegisterWrite (vi off : Nat) (val : BitVec 64) (s : State) : Out :=
  .next (if vi ≠ 0 ∧ !(s.vi vi).enabled then s
    else match msixPlace off with
      | some (vec, byte) => writeMsix vi vec byte val s
      | none => match off with
        | 0x0000 => s.modVi vi fun i => { i with aqbase := val }
        | 0x0008 => s.modVi vi fun i => { i with aqsize := val &&& 0xFFFFFFFF }
        | _ => s)

/-- The value of SYSSTAT (Table 19.1). -/
def sysstat (s : State) : Nat :=
  let y := s.sys
  (match y.mode with | .booting => 0 | .running => 1 | .minimal => 2 | .thermal => 3) + 16 * y.fails + 256 * y.reason.toNat +
    2 ^ 16 * y.ide.toNat + 2 ^ 17 * y.staged.isSome.toNat + 2 ^ 18 * y.actDone.toNat

/-- A vector's entry of an MSI-X table, 16 bytes. -/
def MsixVec.toNat (e : MsixVec) : Nat := e.addr.toNat + 2 ^ 64 * e.data.toNat + 2 ^ 96 * e.mask.toNat

/-- What a read of BAR2 returns: eight bytes, or the four of the entry's upper half. -/
def bar2Read (b : Msix) (off : Nat) : Nat :=
  match msixPlace off with
  | some (vec, byte) => (smGetD b.table vec {}).toNat / 2 ^ (8 * byte) % 2 ^ (if byte % 8 = 0 then 64 else 32)
  | none =>
    if 0x14000 ≤ off ∧ off < 0x14080 then (b.pending.foldl (fun a v => a + 2 ^ v) 0) / 2 ^ (8 * (off - 0x14000)) % 2 ^ 64 else 0

/-- The value that a read of a register returns (Tables 6.1 and 19.1, R452). VISTAT's ready bit is set where the interface's commands may start in the
part's mode (log entry 104). -/
def regRead (s : State) (vi off : Nat) : Nat :=
  if 0x10000 ≤ off then bar2Read (smGetD s.bar2 vi {}) off else
  let v := s.vi vi
  let pa := v.aborts.head?
  match off with
  | 0x0000 => v.aqbase.toNat
  | 0x0008 => v.aqsize.toNat
  | 0x000C => v.aqen.toNat
  | 0x0010 => (s.sys.mode == .running || (s.sys.mode == .minimal && vi == 0)).toNat + 2 * v.aqerr.toNat + 256 * v.peerCount
  | 0x0014 => v.priocap.toNat
  | 0x0018 => min v.aborts.length 0xFFFF + (if v.aborts.isEmpty then 0 else 2 ^ 31)
  | 0x0020 => pa.elim 0 (·.oid.toNat)
  | 0x0028 => pa.elim 0 fun a => 65536 * a.page
  | 0x0030 => pa.elim 0 fun a => a.q + 65536 * a.reason.toNat
  | 0x2000 => if vi = 0 then sysstat s else 0
  | 0x2004 => if vi = 0 then s.sys.thermC.toNat + 256 * s.sys.thermH.toNat + 65536 * s.sys.warn.toNat else 0
  | 0x2008 => if vi = 0 then s.logs.meas.length else 0
  | _ => 0

/-- SYSSTAT_READ (R461): the read clears bit 18. -/
def execSysstatRead (s : State) : Out := .next { s with sys := { s.sys with actDone := false } }

/-! ### Function Level Reset, IDE and DMA failures (R453 to R455) -/

/-- FUNCTION_LEVEL_RESET (R455): the VF's queues are destroyed, and no status record is written for their commands. -/
def execFunctionLevelReset (vf : Nat) (s : State) : Out :=
  .next (if vf = 0 then s
    else
      let s := ((s.vi vf).queues.map (·.1)).foldl (fun s q => abortQueue vf q s) s
      let quiet := fun (c : Cmd) => if c.hdr.vi == vf then { c with silent := true } else c
      let s := { s with cmds := s.cmds.map quiet }
      { s with bar2 := smDel s.bar2 vf }.modVi vf fun i => { i with queues := [], aqbase := 0, aqsize := 0, aqen := false, aqerr := false, aborts := [] })

/-- IDE_STREAM_FAULT (R454): the part performs no further DMA, until a conventional reset. -/
def execIdeStreamFault (s : State) : Out := .next { s with sys := { s.sys with ide := true } }

/-- A command that failed at its host access has no effect: its load is no load (R453). -/
def undoCmd (c : Cmd) (s : State) : State :=
  match c.wait with
  | .load l .. => { s with loads := smDel s.loads l }
  | _ => s

/-- DMA_ERROR (R453): a DMA access of the `k`th command fails: it completes ABORTED, or, at its status record, its queue enters ERROR. While the part
performs no DMA there is none to fail (R454). -/
def execDmaError (k : Nat) (onStatus : Bool) (s : State) : Out :=
  .next (match s.cmds[k]? with
    | none => s
    | some c =>
      if s.sys.ide then s
      else if onStatus then
        if c.silent then s
        else match settleCmd c s with
          | (s', none) => s'
          | (s', some _) => queueError c.hdr.vi c.hdr.q { s' with cmds := s'.cmds.eraseIdx k }
      else if c.dma then { undoCmd c s with cmds := s.cmds.set k { c with wait := .done, code := 8, detail := 0x100, dma := false } }
      else s)

end Sys2Proof.Machine
end

