-- ==== Sys2Proof/Machine/Pf.lean ====
section
/-!
DEFINITION. The commands of the physical function (R456 to R462, R442, R447, R448, R464): partitions and bindings, shared objects, repair,
firmware staging and activation, the logs, and the debugger's resume.
-/
set_option autoImplicit false

namespace Sys2Proof.Machine

/-! ### The resident set (R136, R137, R436) -/

/-- Changes the resident blocks of a core. -/
def Core.mapBlocks (k : Core) (f : Block → Block) : Core :=
  { k with blocks := k.blocks.map fun qb => if qb.1 < agentSeq then (qb.1, f qb.2) else qb }

/-- The queues that stay resident of those that the firmware keeps: the partition's own, no more than its slots; an admin queue always is. -/
def keptQueues (s : State) (part : Nat) (keep : List (Nat × Nat)) : List (Nat × Nat) :=
  let own := queuesOf s part
  ((keep.filter fun x => own.contains x && x.2 != 0).eraseDups.take (s.part part).slots) ++ own.filter fun x => x.2 == 0

/-- The job belongs to a queue of a list. -/
def jobIn (s : State) (job : Nat) (qs : List (Nat × Nat)) : Bool :=
  match smGet? s.jobs job with
  | some j => qs.contains (j.hdr.vi, j.hdr.q)
  | none => false

/-- A core's blocks that belong to a leaving queue are marked, and PREEMPT is set where there is one (R436). -/
def Core.leave (k : Core) (mine : Nat → Bool) : Core :=
  if k.resident.any fun b => mine b.job then
    { k.mapBlocks fun b => if mine b.job then { b with mark := true } else b with preempt := true }
  else k

/-- A partition's resident queues become those that the firmware keeps; the blocks of the queues that leave are marked (R137). -/
def setResident (part : Nat) (keep : List (Nat × Nat)) (s : State) : State :=
  let stay := keptQueues s part keep
  let gone := (queuesOf s part).filter fun x => !stay.contains x
  let t := (queuesOf s part).foldl (fun s x => s.modQueue x.1 x.2 fun q => { q with resident := stay.contains x }) s
  (s.part part).cores.foldl (fun t c => t.modCore c fun k => k.leave fun j => jobIn s j gone) t

/-! ### PARTCFG (R457, R447) -/

/-- The module cores of a mask. -/
def coresIn (m : BitVec 192) : List Nat := (List.range 192).filter fun c => m.getLsbD c

/-- PARTCFG's reserved values (R456, Table 19.2). -/
def cfgBad (b : PartcfgBody) : Bool := decide (15 < b.part.toNat) || b.slots == 0 || decide (7 < b.flags.toNat)

/-- A core that stays cannot hold under a new S and C what it holds: its tile cache and scratch objects in S, its blocks' regions in the rest (R140). -/
def tooSmall (s : State) (b : PartcfgBody) (core : Nat) : Bool :=
  (s.core core).part == some b.part.toNat &&
    (decide (65536 * b.s.toNat < 65536 * b.c.toNat + scratchBytes s core) ||
      decide (8388608 - 65536 * b.s.toNat < (s.core core).resident.foldl (fun a x => a + x.image.region) 0))

/-- PARTCFG's refusals (R457): 1 a core of another partition, 2 no core, or S or C against R140 and R286: out of their ranges, or too small for what a core holds. -/
def cfgRefused (s : State) (b : PartcfgBody) : Option Nat :=
  if (coresIn b.cores).any fun c => (s.core c).part.any (· != b.part.toNat) then some 1
  else if b.cores = 0 ∨ b.s.toNat < 16 ∨ 112 < b.s.toNat ∨ b.c.toNat < 4 ∨ b.s.toNat < b.c.toNat + 4 ∨ (coresIn b.cores).any (tooSmall s b) then some 2
  else none

/-- The frames that a partition's objects map: those of its share that are not free (R81). -/
def Part.mapped (p : Part) : Nat := p.share - frameCount p.room

/-- The HBM share cannot be found among the frames that no partition has, or is smaller than what the partition's objects map. -/
def cfgNoRoom (s : State) (b : PartcfgBody) : Bool :=
  let p := s.part b.part.toNat
  decide (p.share + frameCount s.hbm < b.share.toNat) || decide (b.share.toNat < p.mapped)

/-- Takes `n` frames evenly out of the free ones of some stacks, and what those lack out of the others: those taken, and those left. -/
def takeEven : List Nat → Frames → Nat → Frames × Frames
  | [], room, n => takeFrames 1 room n
  | st :: r, room, n =>
    let x := takeFrames 1 (room.filter fun f => f.1 / usable == st) ((n + r.length) / (r.length + 1))
    let y := takeEven r ((room.filter fun f => decide (f.1 / usable < st)) ++ x.2 ++ room.filter fun f => decide (st < f.1 / usable)) (n - frameCount x.1)
    (x.1 ++ y.1, y.2)

/-- Moves frames between the module's free ones and a partition's until its share is `share`, evenly over the eight stacks, so that every die has its part of
them (R81, R457, log entry 95). -/
def setShare (part share : Nat) (s : State) : State :=
  let old := (s.part part).share
  let src := if old < share then 16 else part
  let x := takeEven (List.range 8) (s.room src) (share - old + (old - share))
  ((s.setRoom src x.2).giveFrames (if old < share then part else 16) x.1).modPart part fun p => { p with share := share }

/-- The resident queue slots that a partition gets of the 256 of R136, of which every other partition number keeps one or more (log entry 103). -/
def slotsFor (s : State) (part want : Nat) : Nat :=
  min want (256 - (((List.range 16).filter (· != part)).map fun q => max 1 (s.part q).slots).foldl (· + ·) 0)

/-- A core that a partition gives up: its blocks are marked as at a quantum end, and its records move to those that stay (R457). -/
def giveUp (kept : List Nat) (core : Nat) (s : State) : State :=
  moveTo kept core (s.modCore core fun k => { k.mapBlocks fun b => { b with mark := true } with preempt := true })

/-- The cores of a partition that PARTCFG's mask adds to it. -/
def addedCores (s : State) (b : PartcfgBody) : List Nat := (coresIn b.cores).filter fun c => (s.core c).part != some b.part.toNat

/-- A partition's new configuration, and what it does to the cores that stay and leave (R136, R447, R457). -/
def applyCfg (b : PartcfgBody) (s : State) : State :=
  let p := b.part.toNat
  let cs := coresIn b.cores
  let old := (s.cores.filter fun ck => ck.2.part == some p).map (·.1)
  let kept := old.filter cs.contains
  let new : Part := { s.part p with cores := cs, slots := slotsFor s p b.slots.toNat, flags := b.flags, s := b.s.toNat, c := b.c.toNat }
  let s := setShare p b.share.toNat { s with parts := smSet s.parts p new }
  let s := kept.foldl (fun s c => s.modCore c fun k => k.flagged b.flags) s
  let s := (old.filter fun c => !cs.contains c).foldl (fun s c => giveUp kept c s) s
  setResident p ((queuesOf s p).filter fun x => (s.queue? x.1 x.2).any (·.resident)) s

/-- PARTCFG (R456, R457). -/
def execPartcfg (h : CmdHdr) (b : PartcfgBody) : State → Out :=
  command .pf false h fun s =>
    if cfgBad b then badCmd h s
    else match cfgRefused s b with
      | some n => finish h 4 (BitVec.ofNat 32 n) s
      | none => if cfgNoRoom s b then finish h 5 0 s else await h (.partcfg b.part.toNat (addedCores s b)) (mapChanged (applyCfg b s))

/-! ### PARTDEL, VFBIND and GANGPEERS (R456, R133) -/

/-- A STOP or an UNLOAD of one of the interfaces, whose partition goes, completes ABORTED. -/
def Cmd.partGoes (c : Cmd) (vis : List Nat) : Cmd :=
  match c.wait with
  | .stop _ | .unload _ => if vis.contains c.hdr.vi then { c with wait := .done, code := 8 } else c
  | _ => c

/-- PARTDEL: every queue, load and object of the partition is given up, and the commands that wait for them complete ABORTED; the command completes
when nothing of it runs. -/
def execPartdel (h : CmdHdr) (part : BitVec 8) : State → Out :=
  command .pf false h fun s =>
    let p := part.toNat
    if (smGet? s.parts p).isNone then badCmd h s
    else
      let qs := queuesOf s p
      let s := qs.foldl (fun s x => abortQueue x.1 x.2 (s.modQueue x.1 x.2 fun q => { q with dying := true })) s
      let s := (s.progs.filter fun k => k.2.part == p).foldl (fun s k => s.modProg k.1 fun x => { x with stopping := true }) s
      let s := (s.jobs.filter fun j => j.2.part == p).foldl (fun s j => endJob j.1 0 8 s) s
      let s := (s.objs.filter fun o => o.2.owner == p || o.2.owner2 == some p).foldl (fun s o => killObj (BitVec.ofNat 24 o.1) s) s
      await h (.partdel p) { s with cmds := s.cmds.map fun c => c.partGoes (boundTo s p) }

/-- VFBIND. -/
def execVfbind (h : CmdHdr) (vf : BitVec 16) (part : BitVec 8) : State → Out :=
  command .pf false h fun s =>
    let v := vf.toNat
    if v = 0 ∨ 64 < v ∨ (part ≠ 0xFF ∧ (smGet? s.parts part.toNat).isNone) then badCmd h s
    else if (s.vi v).part.isSome && !(s.vi v).queues.isEmpty then finish h 4 4 s
    else finish h 1 0 (s.modVi v fun i => { i with part := if part = 0xFF then none else some part.toNat })

/-- GANGPEERS: the interface's table of gang peers, 0 for none. -/
def execGangpeers (h : CmdHdr) (vf : BitVec 16) (peers : List (BitVec 16)) : State → Out :=
  command .pf false h fun s =>
    let ps := peers.map (·.toNat)
    if vf = 0 ∨ 64 < vf.toNat ∨ ps.any (fun p => decide (64 < p)) then badCmd h s
    else finish h 1 0 (s.modVi vf.toNat fun i => { i with peers := ps })

/-! ### SHAREOBJ (R460) -/

/-- Every page of an object is RELEASE or STRONG, and SINGLE. -/
def Obj.shareable (o : Obj) : Bool :=
  let ok := fun (e : PageEntry) => decide (e.kind.toNat < 2) && e.repl == 0
  ok o.proto && o.pages.all fun p => ok p.2

/-- The object that SHAREOBJ names, or none where the command is invalid. -/
def shareArgs (s : State) (b : ShareobjBody) : Option Obj :=
  let p := b.part.toNat
  if 2 ^ 24 ≤ b.oid.toNat ∨ (smGet? s.parts p).isNone ∨ !storeOk s p b.store b.slot then none
  else match s.obj? (b.oid.setWidth 24) with
    | some o => if o.live && o.shared && (o.kind == .data || o.kind == .scratch) && o.owner != p && (o.owner2.isNone || o.owner2 == some p)
        then some o else none
    | none => none

/-- SHAREOBJ. -/
def execShareobj (h : CmdHdr) (b : ShareobjBody) : State → Out :=
  command .pf false h fun s =>
    match shareArgs s b with
    | none => badCmd h s
    | some o =>
      if !o.shareable then finish h 4 5 s
      else
        let oid := b.oid.setWidth 24
        let c : Cap := { valid := true, oid := oid, rights := o.rights &&& b.rights, upper := BitVec.ofNat 48 o.size }
        withStore h (storeAccess (.shareobj h b)) (fun s => finish h 1 0 (mint b.store b.slot c (s.modObj oid fun o => { o with owner2 := some b.part.toNat }))) s

/-! ### REPAIR (R459) -/

/-- The contents of the scratch objects homed on a core are lost with it. -/
def loseScratch (core : Nat) (s : State) : State :=
  s.objs.foldl (fun s o =>
    if o.2.kind == .scratch && o.2.home == core then
      let base := s.free
      let bytes := (List.range o.2.size).map fun i => Config.freeByte (base + i)
      { s with free := base + o.2.size }.modObj (BitVec.ofNat 24 o.1) fun x => { x with mem := memWriteN [] 0 bytes, absent := [] }
    else s) s

/-- The spare in the place of a halted core: it joins the partition and takes over the records that wait there (R459). -/
def Core.spare (k : Core) (flags : BitVec 8) : Core :=
  let n : Core := { deque := k.deque, settleq := k.settleq, chosen := k.chosen, landing := k.landing, pend := k.pend }
  match k.part with
  | some p => n.join p flags
  | none => n

/-- REPAIR. -/
def execRepair (h : CmdHdr) (core : BitVec 16) : State → Out :=
  command .pf false h fun s =>
    let c := core.toNat
    if 191 < c then badCmd h s
    else if !(s.core c).halted then finish h 4 2 s
    else if 4 ≤ smGetD s.sys.spares (dieOf c) 0 then finish h 4 3 s
    else
      let spares := smSet s.sys.spares (dieOf c) (smGetD s.sys.spares (dieOf c) 0 + 1)
      let s := { s with sys := { s.sys with spares := spares } }
      finish h 1 0 (mapChanged (loseScratch c (s.modCore c fun k => k.spare (s.part (s.partOf c)).flags)))

/-! ### Firmware (R442, R461, R464) -/

/-- FWSTAGE (R461, R467): the image is copied and verified as the command completes. -/
def execFwstage (h : CmdHdr) (iova : BitVec 64) (len : BitVec 32) : State → Out :=
  command .pf true h fun s => awaitDma h (.stage iova.toNat len.toNat) s

/-- The queues that are pre-empted with a save area whose layout the image cannot restore (R441, R442). -/
def fwBlockers (s : State) (img : List Byte) : List (Nat × Nat) :=
  ((s.saved.filter fun x => !Config.layoutOk img x.layout).filterMap fun x =>
    (smGet? s.jobs x.blk.job).map fun j => (j.hdr.vi, j.hdr.q)).eraseDups

/-- The control cores and every agent run the staged image (R461, R464). -/
def activate (img : List Byte) (s : State) : State :=
  let svn := if s.sys.svnMin.toNat < (fwSvn img).toNat then fwSvn img else s.sys.svnMin
  { s with sys := { s.sys with staged := none, actWait := false, blockers := [], actDone := true, flash := some img, svnMin := svn } }

/-- FWACT (R442, R461, R467): refused with the number of blocking queues, the image is staged still and activates later. -/
def execFwact (h : CmdHdr) : State → Out :=
  command .pf true h fun s =>
    if s.sys.mode = .minimal then finish h 1 0 s
    else match s.sys.staged with
      | none => badCmd h s
      | some img =>
        if (fwBlockers s img).isEmpty then finish h 1 0 (activate img s)
        else finish h 4 (BitVec.ofNat 32 (fwBlockers s img).length) { s with sys := { s.sys with actWait := true, blockers := fwBlockers s img } }

/-- A queue has been destroyed, or has retired: none of its work is left (R442). -/
def queueOver (s : State) (x : Nat × Nat) : Bool := (s.queue? x.1 x.2).isNone || !(s.jobs.any fun j => j.2.hdr.vi == x.1 && j.2.hdr.q == x.2)

/-- DEFERRED_ACTIVATION (R442, R461): once every queue that blocked it has retired or been destroyed, and the image can restore every saved block, a
refused image activates, and vector 0 of the physical function is raised. -/
def execDeferredActivation (s : State) : Out :=
  .next (match s.sys.staged with
    | some img =>
      if s.sys.actWait && s.sys.blockers.all (queueOver s) && (fwBlockers s img).isEmpty then raiseMsix 0 0 (activate img s) else s
    | none => s)

/-! ### LOGREAD and DBGRESUME (R462, R448) -/

/-- LOGREAD (R462): the entries are written as it completes (R453). -/
def execLogread (h : CmdHdr) (b : LogreadBody) : State → Out :=
  command .pf true h fun s =>
    if 3 < b.log.toNat then badCmd h s else awaitDma h (.logread b) s

/-- The block of a partition that is stopped for the debugger under an id. -/
def stoppedFor (s : State) (part : Nat) (id : Word) : Option (Nat × Nat) :=
  s.cores.findSome? fun ck => (ck.2.blocks.find? fun qb => qb.2.part == part && (match qb.2.stop with
    | some (.debug _ i) => i == id
    | _ => false)).map fun qb => (ck.1, qb.1)

/-- DBGRESUME (R448, R462): the stopped block goes on at TRPC + 1. -/
def execDbgresume (h : CmdHdr) (part : BitVec 8) (block : BitVec 32) : State → Out :=
  command .pf false h fun s =>
    match stoppedFor s part.toNat block with
    | none => finish h 4 7 s
    | some cq => finish h 1 0 (s.modBlock cq.1 cq.2 fun b => { b with stop := none })

end Sys2Proof.Machine
end

