-- ==== Sys2Proof/Machine/Faults.lean ====
section
/-!
DEFINITION. Quanta, the resident set, runaway blocks, beat windows, halts and ECC errors (R136, R137, R436, R437, R443 to R445), and the abort of
an idempotent block (R432).
-/
set_option autoImplicit false

namespace Sys2Proof.Machine

/-! ### Quanta and the resident set (R137, R436) -/

/-- A quantum passes for a marked block (R437). -/
def Block.quantum (b : Block) : Block := if b.mark then { b with quanta := b.quanta + 1 } else b

/-- QUANTUM_END (R436): the agent's count restarts, and PREEMPT is set. -/
def execQuantumEnd (core : Nat) (s : State) : Out :=
  let k := s.core core
  .next (if k.quantum = 0 ∨ k.issued < k.quantum.toNat ∨ k.halted then s
    else notify core (s.modCore core fun k => { k.mapBlocks Block.quantum with issued := 0, preempt := true }))

/-- RESIDENT_SET_CHOICE (R137): the queues that leave are pre-empted. -/
def execResidentSetChoice (part : Nat) (keep : List (Nat × Nat)) (s : State) : Out :=
  .next (if part = 16 then s else setResident part keep s)

/-- RUNAWAY_BLOCK (R437): a marked block that is not evictable within 16 quanta; the agent stops issuing BEAT. -/
def execRunawayBlock (core seq : Nat) (s : State) : Out :=
  let b := s.block core seq
  .next (if b.mark && decide (16 ≤ b.quanta) && !evictable s core seq && !(s.core core).noBeat then
      logFault b.job { kind := 4, cause := 0, block := b.uid, core := core } (s.modCore core fun k => { k with noBeat := true })
    else s)

/-! ### Halts (R444) -/

/-- What an outstanding instruction of a halted core still does: its accesses that have been sent complete, and the others are not made (R444). -/
def LongOp.sent (s : State) (o : LongOp) : Option LongOp :=
  match o.work with
  | .mem l =>
    let k := l.filter fun st => st.writes && !s.stepAfter o.core o.id st && !s.relWait o.core st.rel st.members st.side st.off
    if k.isEmpty then none else some { o with work := .mem k }
  | .conj r => if r.changes && !s.cjAfter o.core o.id (r.acting o.mems) r then some o else none
  | .vol _ => if o.volWrite then some o else none
  | _ => none

/-- The engine work that was kicked from a core is cancelled as CPCANCEL cancels, and of its instructions what has been sent is left (R444). -/
def cutWork (core : Nat) (s : State) : State :=
  let s := (s.core core).copies.foldl (fun s c => cancelCopy core c s) s
  { s with ops := s.ops.filterMap fun o => if o.core == core then o.sent s else some o, deferred := s.deferred.filter fun d => d.grp.core != core }

/-- A block of a halted core: it waits for its accesses, but for an unhandled trap that is still to be recorded (R431, R444). -/
def Block.haltBy (b : Block) : Block := match b.stop with | some (.trap _) => b | _ => { b with stop := some .halted }

/-- Captures a block of a halted core, unless `blind` (R468), records the halt, and aborts the block's job. -/
def haltBlock (blind : Bool) (core seq cause : Nat) (s : State) : State :=
  let b := s.block core seq
  let x := if blind then (0xFFFFFFFF, s) else capture 3 core seq s
  abortJob b.job (BitVec.ofNat 8 cause) (logFault b.job { kind := 3, cause := cause, block := b.uid, core := core, capidx := x.1 } x.2)

/-- Halts a core (R444): its slices, sequencers and agent stop, its blocks are captured and their jobs aborted, and the engine work kicked from it is
cancelled. Its blocks go once their accesses have completed. -/
def haltCore (blind : Bool) (core cause : Nat) (s : State) : State :=
  if (s.core core).halted then s
  else
    let seqs := ((s.core core).blocks.filter fun qb => decide (qb.1 < agentSeq)).map (·.1)
    let s := s.modCore core fun k => { k.mapBlocks Block.haltBy with halted := true }
    let s := if seqs.isEmpty then putFault (s.partOf core % 16) { vi := 0, q := 0, stat := 0, usertag := 0 }
      { kind := 3, cause := cause, core := core } s else s
    cutWork core (seqs.foldl (fun s q => haltBlock blind core q cause s) s)

/-- Halts a core with a capture (R444). -/
def halt (core cause : Nat) (s : State) : State := haltCore false core cause s

/-- A beat window passes for a core: its BEATs are counted afresh, and a window without one counts as missed (R443). -/
def Core.window (k : Core) : Core := { k with beats := 0, missed := if k.beats = 0 ∨ k.noBeat then k.missed + 1 else 0 }

/-- The management core's cycle count at the end of its beat window of 2^21 clocks. -/
def windowEnd (t : BitVec 64) : BitVec 64 := BitVec.ofNat 64 ((t.toNat / 2097152 + 1) * 2097152)

/-- BEAT_WINDOW_END (R443): a core whose agent sent no BEAT in two consecutive windows is halted. -/
def execBeatWindowEnd (s : State) : Out :=
  let s := { s with bclock := windowEnd s.bclock }
  .next (if s.sys.mode != .running then s
    else (List.range 192).foldl (fun s c =>
      let s := s.modCore c fun k => if k.halted then k else k.window
      if 2 ≤ (s.core c).missed then halt c 0 s else s) s)

/-! ### ECC (R445) -/

/-- ECC_CORRECTED: counted in the error log, with no other effect. -/
def execEccCorrected (e : EccSite) (s : State) : Out := .next (logError 0 e s)

/-- The standing programs with a block homed on a die are stopped. -/
def stopHomed (die : Nat) (s : State) : State :=
  s.progs.foldl (fun s kp =>
    if (kp.2.img.decls.any fun b => (s.part kp.2.part).module b.2.home == some die) then abortJob kp.2.job Cause.mcheck.code s else s) s

/-- MCHECK: reported once, to the consumer: the core of the access, or the programs of the Settle unit. -/
def execMcheck (e : EccSite) (s : State) : Out :=
  let s := logError 1 e s
  .next (if e.settle then stopHomed e.die.toNat s
    else match e.user with
      | some c => halt c Cause.mcheck.code.toNat s
      | none => s)

/-! ### Idempotent blocks (R432, R433) -/

/-- The page, of those that an access of a job touches, at which it meets PAGEABORT: one that aborts, or a COMPRESSED one for which no frame is free
(R80, R85, R123). -/
def abortPage (s : State) (job : Nat) (sd : Side) (off n : Nat) : Option (BitVec 24 × Nat) :=
  let pending := fun (oid : BitVec 24) (k : Nat) => (smGet? s.jobs job).any fun j => (s.vi j.hdr.vi).aborts.any fun a => a.oid == oid && a.page == k
  match s.homeOf sd, sd with
  | none, .obj oid => (s.obj? oid).bind fun o =>
    ((o.keysIn off n).find? fun k => (o.page k).aborts || ((o.page k).comp && pending oid k)).map fun k => (oid, k)
  | _, _ => none

/-- The page at which a part of a copy meets PAGEABORT; its destination is reached once its source lets it through. -/
def partPage (s : State) (core job : Nat) (c : Copy) (p : CopyPart) : Option (BitVec 24 × Nat) :=
  match p.src, c.srcSide with
  | some o, some sd =>
    if s.runGate core sd o p.len false false false == .ok then abortPage s job c.dstSide p.dst p.len else abortPage s job sd o p.len
  | _, _ => abortPage s job c.dstSide p.dst p.len

/-- The page at which an engine's access for a block meets PAGEABORT (R432): of a copy, of a volume request, of a snapshot, or of any other access to an HBM object, which
only engines reach (R247). -/
def engineAbort (s : State) (core seq : Nat) : Option (BitVec 24 × Nat) :=
  let b := s.block core seq
  let copy := ((s.core core).copies.filter fun c => c.uid == b.uid && c.started).findSome? fun c => c.todo.findSome? (partPage s core b.job c)
  copy.orElse fun _ => (opsOf s core seq).findSome? fun o => match o.work with
    | .mem l => (l.filter fun st => st.members.any fun m => m.w.inBlock core seq).findSome? fun st => abortPage s b.job st.side st.off st.n
    | .conj r => abortPage s b.job r.side r.off 64
    | .snap key _ sd off _ => abortPage s b.job sd off (64 + (smGet? s.progs key).elim 0 Prog.mapBytes)
    | .vol r => (volPlaces s r).findSome? fun p => abortPage s b.job p.1 p.2 1
    | _ => none

/-- IDEM_ABORT (R432): the block is aborted with no successor step, and its record is held until a PAGERESUME names the page. -/
def execIdemAbort (core seq : Nat) (s : State) : Out :=
  .next (match s.block? core seq with
    | none => s
    | some b => match b.origin, engineAbort s core seq with
      | .task r, some (oid, page) =>
        if !r.idem || b.sticky || b.stop.isSome then s
        else
          let s := reportAbort b.job core b.uid oid page ((s.obj? oid).elim 0 fun o => (o.page page).reason) s
          let s := { s with rstores := s.rstores.filter fun x => x.uid != b.uid }
          (removeBlock core seq s).modJob b.job fun j => { j with held := j.held ++ [(r, core, oid, page)] }
      | _, _ => s)

end Sys2Proof.Machine
end

