-- ==== Sys2Proof/Machine/Boot.lean ====
section
/-!
DEFINITION. Resets, the boot stages, failed starts and minimal mode (R463 to R467), the network boot, virtual functions, and thermal protection
(R468).
-/
set_option autoImplicit false

namespace Sys2Proof.Machine

/-! ### Resets (R455, R463, R467) -/

/-- A start reason is recorded: the measurement log gets an entry of event 2 (R462, Table 19.7). -/
def recordReason (r : BitVec 8) (s : State) : State :=
  let g := s.logs
  let e := packN 64 [(0, g.meas.length), (40, 2), (48, r.toNat)]
  { s with logs := { g with meas := g.meas ++ [e] }, sys := { s.sys with reason := r } }

/-- The part restarts from its boot ROM: what the reset keeps is the flash, the fused minimum, the spares in use, the temperatures, the retained
count of failed starts with the reason of the latest, and what belongs to the host or to the model. The failure of the IDE stream lasts where `ide` says
so (R454). -/
def reboot (fails : Nat) (ide : Bool) (s : State) : State :=
  let y := s.sys
  { State.reset with
    sys := { fails := fails, reason := if fails = 0 then 0 else y.reason, ide := ide && y.ide, flash := y.flash, later := y.later, svnMin := y.svnMin
             thermC := y.thermC, thermH := y.thermH, warn := y.warn, spares := y.spares }
    hostMem := s.hostMem, msix := s.msix, bclock := s.bclock, nextId := s.nextId, clock := s.clock, free := s.free, agenda := s.agenda }

/-- A reset of the endpoint: after a thermal stop the next start records reason 0x07 (R468). -/
def resetPart (fails : Nat) (s : State) : State :=
  if s.sys.hotLast then recordReason 7 (reboot fails false s) else reboot fails false s

/-- CONVENTIONAL_RESET (R455, R463). -/
def execConventionalReset (s : State) : Out := .next (resetPart s.sys.fails s)

/-- COLD_POWER_ON (R467): the count of failed starts is cleared. -/
def execColdPowerOn (s : State) : Out := .next { resetPart 0 s with bclock := 0 }

/-- A start fails (R463, R467). -/
def failStart (r : BitVec 8) (s : State) : State :=
  recordReason r { s with sys := { s.sys with fails := min 3 (s.sys.fails + 1), failed := true } }

/-- The part comes up in minimal mode, in which no virtual function is enabled (R467). -/
def comeUpMinimal (s : State) : State :=
  { s with sys := { s.sys with mode := .minimal, failed := false }, vis := s.vis.map fun v => (v.1, { v.2 with enabled := false }) }

/-- FAILED_START_RESET (R467): the hub starts again from the boot ROM, or, at the third failure in a row, the part comes up in minimal mode. -/
def execFailedStartReset (s : State) : Out :=
  .next (if s.sys.mode ≠ .booting ∨ !s.sys.failed then s else if s.sys.fails < 3 then reboot s.sys.fails true s else comeUpMinimal s)

/-- The part is starting, and the start has not failed. -/
def Sys.starting (y : Sys) : Bool := y.mode == .booting && !y.failed

/-- READY_TIMEOUT (R467). -/
def execReadyTimeout (s : State) : Out := .next (if s.sys.starting then failStart 5 s else s)

/-! ### Boot stages (R463, R464, Table 19.3) -/

/-- A stage is measured and the next one begins, whose file the network is still to deliver if it is the source. -/
def nextStage (item : List Byte) (s : State) : State :=
  let s := extendMeas s.sys.stage 0 item s
  { s with sys := { s.sys with stage := s.sys.stage + 1, netbuf := [], netgot := false, retries := 0 } }

/-- The image of a stage is verified under R464, with the reason that a bad signature gives. -/
def bootImage (img : List Byte) (bad : BitVec 8) (s : State) : State :=
  if !(fwFormOk img && signatureOk img) then failStart bad s
  else if (fwSvn img).toNat < s.sys.svnMin.toNat then failStart 4 s
  else nextStage img s

/-- The image of a stage in the flash. -/
def Sys.inFlash (y : Sys) : Option (List Byte) := if y.stage = 2 then y.flash else smGet? y.later y.stage

/-- A stage from flash, or from the network where the flash does not answer or its MAGIC is wrong; the later stages come as the first (R463, R465). -/
def bootLoaded (bad : BitVec 8) (s : State) : State :=
  if s.sys.net then (if s.sys.netgot then bootImage s.sys.netbuf bad s else s)
  else match s.sys.inFlash with
    | some img => if fwMagicOk img then bootImage img bad s else { s with sys := { s.sys with net := true } }
    | none => { s with sys := { s.sys with net := true } }

/-- The system image of the lowest partition that runs none: it is verified and measured at index 16 + p (R463, R466; log entry 108). -/
def bootSystem (image : List Byte) (s : State) : State :=
  match s.parts.find? fun p => !p.2.sysimg with
  | none => s
  | some p => if fwOk s image then extendMeas (16 + p.1) 0 image (s.modPart p.1 fun x => { x with sysimg := true }) else s

/-- The management firmware reports ready: the start has succeeded (R467). -/
def bootReady (s : State) : State :=
  let reason := if s.sys.reason = 7 then s.sys.reason else 0
  { s with sys := { s.sys with mode := .running, fails := 0, reason := reason } }

/-- BOOT_STAGE_DONE (R463, R464): the boot ROM, the first stage, the hypervisor, the agents, the self-test of the dies, and then the report of the
management firmware; in a part that runs, the system image of a partition. `image` is the boot ROM, the self-test's results or the system image; `pass`
says that the self-test or the management firmware is good. -/
def execBootStageDone (image : List (BitVec 8)) (pass : Bool) (s : State) : Out :=
  .next (if s.sys.mode = .running then bootSystem image s
    else if !s.sys.starting then s
    else match s.sys.stage with
      | 1 => nextStage image s
      | 2 => bootLoaded 2 s
      | 3 => bootLoaded 3 s
      | 4 => bootLoaded 3 s
      | 5 => if pass then nextStage image s else failStart 6 (extendMeas 5 0 image s)
      | _ => if pass then bootReady s else s)

/-! ### The network boot (R465) -/

/-- A list holds another as a run. -/
def holdsRun (l p : List Byte) : Bool := (List.range (l.length + 1)).any fun i => (l.drop i).take p.length == p

/-- The characters `tftp://`. -/
def tftpScheme : List Byte := [0x74, 0x66, 0x74, 0x70, 0x3A, 0x2F, 0x2F]

/-- The part waits for the network. -/
def Sys.fetching (y : Sys) : Bool := y.starting && y.net && !y.netgot

/-- TFTP_BLOCK (R465): the DHCPv6 reply whose boot-file URL names the file, and then the file's blocks, of which the first short one is the last. -/
def execTftpBlock (data : List (BitVec 8)) (s : State) : Out :=
  let y := s.sys
  .next (if !y.fetching then s
    else if !y.netname then (if holdsRun data tftpScheme then { s with sys := { y with netname := true, retries := 0 } } else s)
    else if 512 < data.length then s
    else { s with sys := { y with netbuf := y.netbuf ++ data, retries := 0, netgot := decide (data.length < 512) } })

/-- TFTP_RETRY (R465): a block is retried five times, and then the fetch fails. -/
def execTftpRetry (s : State) : Out :=
  .next (if !s.sys.fetching then s
    else if s.sys.retries < 5 then { s with sys := { s.sys with retries := s.sys.retries + 1 } }
    else failStart 1 s)

/-- VF_ENABLE (R452, R467): the first `n` virtual functions are enabled; minimal mode refuses. -/
def execVfEnable (n : Nat) (s : State) : Out :=
  .next (if s.sys.mode = .minimal ∨ 64 < n then s
    else (List.range 64).foldl (fun s i => s.modVi (i + 1) fun v => { v with enabled := decide (i < n) }) s)

/-! ### Temperatures (R468) -/

/-- The hottest die's temperature sets the warning at 100 °C, raising vector 0, and clears it below 95 °C. -/
def setWarning (hottest : Nat) (s : State) : State :=
  if hottest < 95 then { s with sys := { s.sys with warn := false } }
  else if hottest < 100 ∨ s.sys.warn then s
  else raiseMsix 0 0 { s with sys := { s.sys with warn := true } }

/-- Thermal stop: every core halts without capture, and every running command completes ABORTED with DETAIL 0x0000_0200. -/
def thermalStop (s : State) : State :=
  let s := (List.range 192).foldl (fun s c => haltCore true c 0 s) s
  { s with
    sys := { s.sys with mode := .thermal, hotLast := true }
    loads := s.loads.filter fun l => l.2.st != .loading
    cmds := s.cmds.map fun c => { c with wait := .done, code := 8, detail := 0x200, dma := false } }

/-- Stores the temperatures of the hottest compute die and of the hub die, with what follows from them: the warning, and at 110 °C the thermal stop. -/
def setTherm (compute hub : BitVec 8) (s : State) : State :=
  let hottest := max compute.toNat hub.toNat
  let s := setWarning hottest { s with sys := { s.sys with thermC := compute, thermH := hub } }
  if hottest < 110 ∨ s.sys.mode = .thermal then s else thermalStop s

/-- THERMAL_WARNING: a die has reached 100 °C. -/
def execThermalWarning (compute hub : BitVec 8) (s : State) : Out := .next (setTherm compute hub s)

/-- THERMAL_WARNING_CLEAR: every die has fallen below 95 °C. -/
def execThermalWarningClear (compute hub : BitVec 8) (s : State) : Out := .next (setTherm compute hub s)

/-- THERMAL_STOP: a die has reached 110 °C. -/
def execThermalStop (compute hub : BitVec 8) (s : State) : Out := .next (setTherm compute hub s)

end Sys2Proof.Machine
end

