-- ==== Sys2Proof/Machine/Attest.lean ====
section
/-!
DEFINITION. The SPDM responders of the Ethernet ports and of the physical function's DOE (R466), and the keys of the IDE stream (R454). The order
in which the requests are accepted is that of SPDM (log entry 60).
-/
set_option autoImplicit false

namespace Sys2Proof.Machine

/-- The responder of a port. -/
def State.port (s : State) (p : Nat) : Spdm := smGetD s.spdm p {}

/-- A responder answers, and its state changes. -/
def respond (p : Nat) (m : SpdmMsg) (f : Spdm → Spdm) (s : State) : State :=
  { s with spdm := smSet s.spdm p (f (s.port p)), spdmOut := s.spdmOut ++ [(p, m)] }

/-- A request that the responder is ready for is answered; any other gets ERROR. -/
def answerIf (ok : Bool) (p : Nat) (m : SpdmMsg) (f : Spdm → Spdm) (s : State) : Out :=
  .next (if 2 < p then s else if ok then respond p m f s else respond p .error id s)

/-- GET_VERSION: versions 1.2 and 1.3; the connection begins afresh. -/
def execGetVersion (port : Nat) (s : State) : Out :=
  answerIf true port (.versions [0x12, 0x13]) (fun x => { x with version := true, caps := false, algs := false }) s

/-- GET_CAPABILITIES. -/
def execGetCapabilities (port : Nat) (s : State) : Out :=
  answerIf (s.port port).version port .capabilities (fun x => { x with caps := true }) s

/-- NEGOTIATE_ALGORITHMS. -/
def execNegotiateAlgorithms (port : Nat) (s : State) : Out :=
  answerIf (s.port port).caps port (.algorithms .sha384 .ecdsaBrainpoolP384) (fun x => { x with algs := true }) s

/-- GET_DIGESTS: the digest of the chain in slot 0. -/
def execGetDigests (port : Nat) (s : State) : Out :=
  answerIf (s.port port).algs port (.digests (sha384 Config.certChain)) id s

/-- GET_CERTIFICATE: slot 0 holds the device identity chain. -/
def execGetCertificate (port slot : Nat) (s : State) : Out :=
  answerIf ((s.port port).algs && slot == 0) port (.certificate 0 Config.certChain) id s

/-- The measurement of each index as bytes. -/
def measBytes (s : State) : List Byte := s.logs.digests.flatMap fun d => BitVec.ofNat 8 d.1 :: (leBytes 48 d.2.toNat).reverse

/-- CHALLENGE: a signature over the nonce, the chain and the measurements. -/
def execChallenge (port : Nat) (nonce : BitVec 256) (s : State) : Out :=
  answerIf (s.port port).algs port (.challengeAuth (Config.sign (leBytes 32 nonce.toNat ++ Config.certChain ++ measBytes s))) id s

/-- GET_MEASUREMENTS: the current digest of each index. -/
def execGetMeasurements (port : Nat) (s : State) : Out :=
  answerIf (s.port port).algs port (.measurements s.logs.digests) id s

/-- KEY_EXCHANGE: a session begins. -/
def execKeyExchange (port : Nat) (s : State) : Out :=
  let x := s.takeFree
  answerIf ((s.port port).algs && (s.port port).session == 0) port (.keyExchangeRsp (Config.keyShare x.1)) (fun y => { y with session := 1 }) x.2

/-- FINISH: the session's handshake is complete. -/
def execFinish (port : Nat) (s : State) : Out :=
  answerIf ((s.port port).session == 1) port .finishRsp (fun x => { x with session := 2 }) s

/-- END_SESSION. -/
def execEndSession (port : Nat) (s : State) : Out :=
  answerIf ((s.port port).session == 2) port .endSessionAck (fun x => { x with session := 0 }) s

/-- IDE_KM (R454, R466): inside a session of any port the key of the part's one link stream is set. -/
def execIdeKm (port : Nat) (key : BitVec 256) (s : State) : Out :=
  let s := if (s.port port).session == 2 && decide (port ≤ 2) then { s with sys := { s.sys with idekey := some key } } else s
  answerIf ((s.port port).session == 2) port .keySetAck id s

end Sys2Proof.Machine
end

