-- ==== Sys2Proof/Machine/Dispatch.lean ====
section
/-!
DEFINITION. The dispatcher: one arm per row of the opcode table, each a direct call of that row's meaning.
-/
namespace Sys2Proof.Machine

/-- The meaning of an instruction, a command or an event in a state. -/
def exec (i : Instr) (s : State) : Host.Outcome State Fault Refusal :=
  match i with
  | .nop c m => Sys2Proof.Machine.execNop c m s
  | .bra c off => Sys2Proof.Machine.execBra c off s
  | .brx c o => Sys2Proof.Machine.execBrx c o s
  | .brany c p off => Sys2Proof.Machine.execBrany c p off s
  | .brall c p off => Sys2Proof.Machine.execBrall c p off s
  | .call c off => Sys2Proof.Machine.execCall c off s
  | .callx c o => Sys2Proof.Machine.execCallx c o s
  | .ret c m => Sys2Proof.Machine.execRet c m s
  | .exit c m => Sys2Proof.Machine.execExit c m s
  | .yield c m => Sys2Proof.Machine.execYield c m s
  | .clen c k => Sys2Proof.Machine.execClen c k s
  | .clwait c k => Sys2Proof.Machine.execClwait c k s
  | .cldrop c k => Sys2Proof.Machine.execCldrop c k s
  | .clget c d k m => Sys2Proof.Machine.execClget c d k m s
  | .clset c k a m => Sys2Proof.Machine.execClset c k a m s
  | .ipref c off => Sys2Proof.Machine.execIpref c off s
  | .loop c d off => Sys2Proof.Machine.execLoop c d off s
  | .iadd c o => Sys2Proof.Machine.execIadd c o s
  | .isub c o => Sys2Proof.Machine.execIsub c o s
  | .iaddc c o => Sys2Proof.Machine.execIaddc c o s
  | .isubb c o => Sys2Proof.Machine.execIsubb c o s
  | .imul c o => Sys2Proof.Machine.execImul c o s
  | .imulh c o => Sys2Proof.Machine.execImulh c o s
  | .imad c o => Sys2Proof.Machine.execImad c o s
  | .idiv c o => Sys2Proof.Machine.execIdiv c o s
  | .irem c o => Sys2Proof.Machine.execIrem c o s
  | .iabs c o => Sys2Proof.Machine.execIabs c o s
  | .ineg c o => Sys2Proof.Machine.execIneg c o s
  | .imin c o => Sys2Proof.Machine.execImin c o s
  | .imax c o => Sys2Proof.Machine.execImax c o s
  | .and c o => Sys2Proof.Machine.execAnd c o s
  | .or c o => Sys2Proof.Machine.execOr c o s
  | .xor c o => Sys2Proof.Machine.execXor c o s
  | .andn c o => Sys2Proof.Machine.execAndn c o s
  | .not c o => Sys2Proof.Machine.execNot c o s
  | .shl c o => Sys2Proof.Machine.execShl c o s
  | .shr c o => Sys2Proof.Machine.execShr c o s
  | .sar c o => Sys2Proof.Machine.execSar c o s
  | .rol c o => Sys2Proof.Machine.execRol c o s
  | .popc c o => Sys2Proof.Machine.execPopc c o s
  | .clz c o => Sys2Proof.Machine.execClz c o s
  | .ctz c o => Sys2Proof.Machine.execCtz c o s
  | .brev c o => Sys2Proof.Machine.execBrev c o s
  | .bfx c o => Sys2Proof.Machine.execBfx c o s
  | .bfi c o => Sys2Proof.Machine.execBfi c o s
  | .bperm c o => Sys2Proof.Machine.execBperm c o s
  | .isad c o => Sys2Proof.Machine.execIsad c o s
  | .iadds c o => Sys2Proof.Machine.execIadds c o s
  | .imadw c o => Sys2Proof.Machine.execImadw c o s
  | .mov c o => Sys2Proof.Machine.execMov c o s
  | .movi c d imm => Sys2Proof.Machine.execMovi c d imm s
  | .movx c o => Sys2Proof.Machine.execMovx c o s
  | .movxw c o => Sys2Proof.Machine.execMovxw c o s
  | .sel c o => Sys2Proof.Machine.execSel c o s
  | .icmp c o => Sys2Proof.Machine.execIcmp c o s
  | .pand c o => Sys2Proof.Machine.execPand c o s
  | .por c o => Sys2Proof.Machine.execPor c o s
  | .pxor c o => Sys2Proof.Machine.execPxor c o s
  | .pnot c o => Sys2Proof.Machine.execPnot c o s
  | .pmov c o => Sys2Proof.Machine.execPmov c o s
  | .vote c o => Sys2Proof.Machine.execVote c o s
  | .ballot c o => Sys2Proof.Machine.execBallot c o s
  | .shfl c o => Sys2Proof.Machine.execShfl c o s
  | .bcast c o => Sys2Proof.Machine.execBcast c o s
  | .affine c o => Sys2Proof.Machine.execAffine c o s
  | .laneix c o => Sys2Proof.Machine.execLaneix c o s
  | .scan c o => Sys2Proof.Machine.execScan c o s
  | .red c o => Sys2Proof.Machine.execRed c o s
  | .fadd c o => Sys2Proof.Machine.execFadd c o s
  | .fsub c o => Sys2Proof.Machine.execFsub c o s
  | .fmul c o => Sys2Proof.Machine.execFmul c o s
  | .ffma c o => Sys2Proof.Machine.execFfma c o s
  | .fmin c o => Sys2Proof.Machine.execFmin c o s
  | .fmax c o => Sys2Proof.Machine.execFmax c o s
  | .fcmp c o => Sys2Proof.Machine.execFcmp c o s
  | .fclass c o => Sys2Proof.Machine.execFclass c o s
  | .frcp c o => Sys2Proof.Machine.execFrcp c o s
  | .frsq c o => Sys2Proof.Machine.execFrsq c o s
  | .fex2 c o => Sys2Proof.Machine.execFex2 c o s
  | .flg2 c o => Sys2Proof.Machine.execFlg2 c o s
  | .fsin c o => Sys2Proof.Machine.execFsin c o s
  | .fcos c o => Sys2Proof.Machine.execFcos c o s
  | .fdot2 c o => Sys2Proof.Machine.execFdot2 c o s
  | .fmul2 c o => Sys2Proof.Machine.execFmul2 c o s
  | .ffma2 c o => Sys2Proof.Machine.execFfma2 c o s
  | .fround c o => Sys2Proof.Machine.execFround c o s
  | .fscalb c o => Sys2Proof.Machine.execFscalb c o s
  | .fsat c o => Sys2Proof.Machine.execFsat c o s
  | .cvt c o => Sys2Proof.Machine.execCvt c o s
  | .cvti c o => Sys2Proof.Machine.execCvti c o s
  | .cvtf c o => Sys2Proof.Machine.execCvtf c o s
  | .cvtef c o => Sys2Proof.Machine.execCvtef c o s
  | .efclr c e => Sys2Proof.Machine.execEfclr c e s
  | .efmov c wr r e => Sys2Proof.Machine.execEfmov c wr r e s
  | .pack4 c o => Sys2Proof.Machine.execPack4 c o s
  | .pack6 c o => Sys2Proof.Machine.execPack6 c o s
  | .pack8 c o => Sys2Proof.Machine.execPack8 c o s
  | .unpk c o => Sys2Proof.Machine.execUnpk c o s
  | .bscale c o => Sys2Proof.Machine.execBscale c o s
  | .flagrd c o => Sys2Proof.Machine.execFlagrd c o s
  | .flagclr c m => Sys2Proof.Machine.execFlagclr c m s
  | .rmode c m => Sys2Proof.Machine.execRmode c m s
  | .ld c o => Sys2Proof.Machine.execLd c o s
  | .st c o => Sys2Proof.Machine.execSt c o s
  | .ldsp c o => Sys2Proof.Machine.execLdsp c o s
  | .stsp c o => Sys2Proof.Machine.execStsp c o s
  | .ldnp c o => Sys2Proof.Machine.execLdnp c o s
  | .ldv c o => Sys2Proof.Machine.execLdv c o s
  | .stv c o => Sys2Proof.Machine.execStv c o s
  | .ldu c o => Sys2Proof.Machine.execLdu c o s
  | .prtest c o => Sys2Proof.Machine.execPrtest c o s
  | .prwait c o => Sys2Proof.Machine.execPrwait c o s
  | .cpkick c o => Sys2Proof.Machine.execCpkick c o s
  | .cpstat c o => Sys2Proof.Machine.execCpstat c o s
  | .cpcancel c o => Sys2Proof.Machine.execCpcancel c o s
  | .rltest c o => Sys2Proof.Machine.execRltest c o s
  | .cpin c o => Sys2Proof.Machine.execCpin c o s
  | .cpout c o => Sys2Proof.Machine.execCpout c o s
  | .vld c o => Sys2Proof.Machine.execVld c o s
  | .vst c o => Sys2Proof.Machine.execVst c o s
  | .vadd c o => Sys2Proof.Machine.execVadd c o s
  | .vprobe c o => Sys2Proof.Machine.execVprobe c o s
  | .vnbr c o => Sys2Proof.Machine.execVnbr c o s
  | .vtld c o => Sys2Proof.Machine.execVtld c o s
  | .valloc c o => Sys2Proof.Machine.execValloc c o s
  | .vfree c o => Sys2Proof.Machine.execVfree c o s
  | .vshoot c o => Sys2Proof.Machine.execVshoot c o s
  | .vbgrd c o => Sys2Proof.Machine.execVbgrd c o s
  | .gthr c o => Sys2Proof.Machine.execGthr c o s
  | .sctr c o => Sys2Proof.Machine.execSctr c o s
  | .sctra c o => Sys2Proof.Machine.execSctra c o s
  | .confl c o => Sys2Proof.Machine.execConfl c o s
  | .cmbn c o => Sys2Proof.Machine.execCmbn c o s
  | .spawni c o => Sys2Proof.Machine.execSpawni c o s
  | .itemloop c k d off => Sys2Proof.Machine.execItemloop c k d off s
  | .itemget c o => Sys2Proof.Machine.execItemget c o s
  | .itemend c m => Sys2Proof.Machine.execItemend c m s
  | .obres c d a m => Sys2Proof.Machine.execObres c d a m s
  | .obrel c m => Sys2Proof.Machine.execObrel c m s
  | .shape c a b m => Sys2Proof.Machine.execShape c a b m s
  | .mxldb c a m => Sys2Proof.Machine.execMxldb c a m s
  | .mxlda c a m => Sys2Proof.Machine.execMxlda c a m s
  | .mxmac c t a m => Sys2Proof.Machine.execMxmac c t a m s
  | .mxmacs c t a m => Sys2Proof.Machine.execMxmacs c t a m s
  | .mxzero c t a m => Sys2Proof.Machine.execMxzero c t a m s
  | .mxst c t a b m => Sys2Proof.Machine.execMxst c t a b m s
  | .mxcvt c t a b m => Sys2Proof.Machine.execMxcvt c t a b m s
  | .mxver c d t => Sys2Proof.Machine.execMxver c d t s
  | .mxbar c k => Sys2Proof.Machine.execMxbar c k s
  | .mxwait c k => Sys2Proof.Machine.execMxwait c k s
  | .mxacq c m => Sys2Proof.Machine.execMxacq c m s
  | .mxrel c m => Sys2Proof.Machine.execMxrel c m s
  | .mxflags c d m => Sys2Proof.Machine.execMxflags c d m s
  | .schrun c o => Sys2Proof.Machine.execSchrun c o s
  | .ddiv c o => Sys2Proof.Machine.execDdiv c o s
  | .dsqrt c o => Sys2Proof.Machine.execDsqrt c o s
  | .pivchk c o => Sys2Proof.Machine.execPivchk c o s
  | .trstep c o => Sys2Proof.Machine.execTrstep c o s
  | .schstat c o => Sys2Proof.Machine.execSchstat c o s
  | .atom c o => Sys2Proof.Machine.execAtom c o s
  | .atomc c o => Sys2Proof.Machine.execAtomc c o s
  | .fence c m => Sys2Proof.Machine.execFence c m s
  | .ldacq c o => Sys2Proof.Machine.execLdacq c o s
  | .strel c o => Sys2Proof.Machine.execStrel c o s
  | .cjinit c o => Sys2Proof.Machine.execCjinit c o s
  | .cjarr c o => Sys2Proof.Machine.execCjarr c o s
  | .cjdrop c o => Sys2Proof.Machine.execCjdrop c o s
  | .cjwait c o => Sys2Proof.Machine.execCjwait c o s
  | .cjbyte c o => Sys2Proof.Machine.execCjbyte c o s
  | .cjtest c o => Sys2Proof.Machine.execCjtest c o s
  | .spawn c o => Sys2Proof.Machine.execSpawn c o s
  | .tjoin c o => Sys2Proof.Machine.execTjoin c o s
  | .tend c m => Sys2Proof.Machine.execTend c m s
  | .tself c o => Sys2Proof.Machine.execTself c o s
  | .rpost c o => Sys2Proof.Machine.execRpost c o s
  | .rread c o => Sys2Proof.Machine.execRread c o s
  | .rset c o => Sys2Proof.Machine.execRset c o s
  | .inpost c o => Sys2Proof.Machine.execInpost c o s
  | .snap c o => Sys2Proof.Machine.execSnap c o s
  | .launch c o => Sys2Proof.Machine.execLaunch c o s
  | .lwait c o => Sys2Proof.Machine.execLwait c o s
  | .capld c cd ca b m => Sys2Proof.Machine.execCapld c cd ca b m s
  | .capst c cd ca b m => Sys2Proof.Machine.execCapst c cd ca b m s
  | .capnar c cd ca b m => Sys2Proof.Machine.execCapnar c cd ca b m s
  | .capoff c cd ca m => Sys2Proof.Machine.execCapoff c cd ca m s
  | .captst c d ca b m => Sys2Proof.Machine.execCaptst c d ca b m s
  | .capget c d ca m => Sys2Proof.Machine.execCapget c d ca m s
  | .capmov c cd ca m => Sys2Proof.Machine.execCapmov c cd ca m s
  | .srd c d m => Sys2Proof.Machine.execSrd c d m s
  | .swr c a m => Sys2Proof.Machine.execSwr c a m s
  | .trap c m => Sys2Proof.Machine.execTrap c m s
  | .brkpt c m => Sys2Proof.Machine.execBrkpt c m s
  | .eret c m => Sys2Proof.Machine.execEret c m s
  | .beat c m => Sys2Proof.Machine.execBeat c m s
  | .ctxsv c o => Sys2Proof.Machine.execCtxsv c o s
  | .ctxld c o => Sys2Proof.Machine.execCtxld c o s
  | .icinv c m => Sys2Proof.Machine.execIcinv c m s
  | .wfi c m => Sys2Proof.Machine.execWfi c m s
  | .regq c o => Sys2Proof.Machine.execRegq c o s
  | .nopCommand h => Sys2Proof.Machine.execNopCommand h s
  | .launchCommand h b => Sys2Proof.Machine.execLaunchCommand h b s
  | .start h b => Sys2Proof.Machine.execStart h b s
  | .stop h loadh progidx => Sys2Proof.Machine.execStop h loadh progidx s
  | .load h iova len => Sys2Proof.Machine.execLoad h iova len s
  | .unload h loadh => Sys2Proof.Machine.execUnload h loadh s
  | .objcreate h b => Sys2Proof.Machine.execObjcreate h b s
  | .objdestroy h oid => Sys2Proof.Machine.execObjdestroy h oid s
  | .hcopy h b => Sys2Proof.Machine.execHcopy h b s
  | .waitcj h oid off token => Sys2Proof.Machine.execWaitcj h oid off token s
  | .createq h b => Sys2Proof.Machine.execCreateq h b s
  | .destroyq h qn => Sys2Proof.Machine.execDestroyq h qn s
  | .capmint h b => Sys2Proof.Machine.execCapmint h b s
  | .pageresume h oid off => Sys2Proof.Machine.execPageresume h oid off s
  | .partcfg h b => Sys2Proof.Machine.execPartcfg h b s
  | .partdel h part => Sys2Proof.Machine.execPartdel h part s
  | .vfbind h vf part => Sys2Proof.Machine.execVfbind h vf part s
  | .gangpeers h vf peers => Sys2Proof.Machine.execGangpeers h vf peers s
  | .shareobj h b => Sys2Proof.Machine.execShareobj h b s
  | .repair h core => Sys2Proof.Machine.execRepair h core s
  | .fwstage h iova len => Sys2Proof.Machine.execFwstage h iova len s
  | .fwact h => Sys2Proof.Machine.execFwact h s
  | .logread h b => Sys2Proof.Machine.execLogread h b s
  | .dbgresume h part block => Sys2Proof.Machine.execDbgresume h part block s
  | .commandCompletion k => Sys2Proof.Machine.execCommandCompletion k s
  | .doorbell vi q tail => Sys2Proof.Machine.execDoorbell vi q tail s
  | .aqctlEnable vi => Sys2Proof.Machine.execAqctlEnable vi s
  | .aqctlDisable vi => Sys2Proof.Machine.execAqctlDisable vi s
  | .adminQueueDrained vi => Sys2Proof.Machine.execAdminQueueDrained vi s
  | .sysstatRead => Sys2Proof.Machine.execSysstatRead s
  | .registerWrite vi off val => Sys2Proof.Machine.execRegisterWrite vi off val s
  | .conventionalReset => Sys2Proof.Machine.execConventionalReset s
  | .coldPowerOn => Sys2Proof.Machine.execColdPowerOn s
  | .bootStageDone image pass => Sys2Proof.Machine.execBootStageDone image pass s
  | .failedStartReset => Sys2Proof.Machine.execFailedStartReset s
  | .readyTimeout => Sys2Proof.Machine.execReadyTimeout s
  | .functionLevelReset vf => Sys2Proof.Machine.execFunctionLevelReset vf s
  | .ideStreamFault => Sys2Proof.Machine.execIdeStreamFault s
  | .dmaError k onStatus => Sys2Proof.Machine.execDmaError k onStatus s
  | .thermalWarning compute hub => Sys2Proof.Machine.execThermalWarning compute hub s
  | .thermalWarningClear compute hub => Sys2Proof.Machine.execThermalWarningClear compute hub s
  | .thermalStop compute hub => Sys2Proof.Machine.execThermalStop compute hub s
  | .getVersion port => Sys2Proof.Machine.execGetVersion port s
  | .getCapabilities port => Sys2Proof.Machine.execGetCapabilities port s
  | .negotiateAlgorithms port => Sys2Proof.Machine.execNegotiateAlgorithms port s
  | .getDigests port => Sys2Proof.Machine.execGetDigests port s
  | .getCertificate port slot => Sys2Proof.Machine.execGetCertificate port slot s
  | .challenge port nonce => Sys2Proof.Machine.execChallenge port nonce s
  | .getMeasurements port => Sys2Proof.Machine.execGetMeasurements port s
  | .keyExchange port => Sys2Proof.Machine.execKeyExchange port s
  | .finish port => Sys2Proof.Machine.execFinish port s
  | .endSession port => Sys2Proof.Machine.execEndSession port s
  | .ideKm port key => Sys2Proof.Machine.execIdeKm port key s
  | .beatWindowEnd => Sys2Proof.Machine.execBeatWindowEnd s
  | .quantumEnd core => Sys2Proof.Machine.execQuantumEnd core s
  | .runawayBlock core seq => Sys2Proof.Machine.execRunawayBlock core seq s
  | .residentSetChoice part keep => Sys2Proof.Machine.execResidentSetChoice part keep s
  | .eviction core seq => Sys2Proof.Machine.execEviction core seq s
  | .blockRestore k core => Sys2Proof.Machine.execBlockRestore k core s
  | .eccCorrected site => Sys2Proof.Machine.execEccCorrected site s
  | .mcheck site => Sys2Proof.Machine.execMcheck site s
  | .unhandledTrapAbort core seq => Sys2Proof.Machine.execUnhandledTrapAbort core seq s
  | .idemAbort core seq => Sys2Proof.Machine.execIdemAbort core seq s
  | .icacheFill core k => Sys2Proof.Machine.execIcacheFill core k s
  | .yieldExpiry core slice stamp => Sys2Proof.Machine.execYieldExpiry core slice stamp s
  | .loadDataArrival k => Sys2Proof.Machine.execLoadDataArrival k s
  | .longLatencyComplete k => Sys2Proof.Machine.execLongLatencyComplete k s
  | .remoteStorePerformed k => Sys2Proof.Machine.execRemoteStorePerformed k s
  | .copyRecordStart core k => Sys2Proof.Machine.execCopyRecordStart core k s
  | .copyLineArrival core k n => Sys2Proof.Machine.execCopyLineArrival core k n s
  | .cpkickRegister k => Sys2Proof.Machine.execCpkickRegister k s
  | .collapseRequest k => Sys2Proof.Machine.execCollapseRequest k s
  | .collapseAck k die => Sys2Proof.Machine.execCollapseAck k die s
  | .sequencerWrite k => Sys2Proof.Machine.execSequencerWrite k s
  | .pageCompress oid page slot => Sys2Proof.Machine.execPageCompress oid page slot s
  | .pageExpand oid page frame => Sys2Proof.Machine.execPageExpand oid page frame s
  | .clbWalk k => Sys2Proof.Machine.execClbWalk k s
  | .tileLineFetch k => Sys2Proof.Machine.execTileLineFetch k s
  | .tileAllocation k => Sys2Proof.Machine.execTileAllocation k s
  | .tileRemoval k => Sys2Proof.Machine.execTileRemoval k s
  | .shootdownMark k core => Sys2Proof.Machine.execShootdownMark k core s
  | .backgroundWrite k => Sys2Proof.Machine.execBackgroundWrite k s
  | .lexiconRowPerformed k => Sys2Proof.Machine.execLexiconRowPerformed k s
  | .itemRefill core cls => Sys2Proof.Machine.execItemRefill core cls s
  | .matrixOpComplete core seq k => Sys2Proof.Machine.execMatrixOpComplete core seq k s
  | .matrixOpStart core seq k => Sys2Proof.Machine.execMatrixOpStart core seq k s
  | .schrunRegister k => Sys2Proof.Machine.execSchrunRegister k s
  | .ticketClaim core => Sys2Proof.Machine.execTicketClaim core s
  | .taskStart core => Sys2Proof.Machine.execTaskStart core s
  | .steal core => Sys2Proof.Machine.execSteal core s
  | .landingReturn core => Sys2Proof.Machine.execLandingReturn core s
  | .blockRetire core seq => Sys2Proof.Machine.execBlockRetire core seq s
  | .pendingRetry core => Sys2Proof.Machine.execPendingRetry core s
  | .gridComplete g => Sys2Proof.Machine.execGridComplete g s
  | .gangReservation gang => Sys2Proof.Machine.execGangReservation gang s
  | .settleDispatch die => Sys2Proof.Machine.execSettleDispatch die s
  | .postApply k => Sys2Proof.Machine.execPostApply k s
  | .convergenceSweep prog => Sys2Proof.Machine.execConvergenceSweep prog s
  | .deferredActivation => Sys2Proof.Machine.execDeferredActivation s
  | .tftpBlock data => Sys2Proof.Machine.execTftpBlock data s
  | .tftpRetry => Sys2Proof.Machine.execTftpRetry s
  | .vfEnable n => Sys2Proof.Machine.execVfEnable n s
  | .pageKindChange oid page kind => Sys2Proof.Machine.execPageKindChange oid page kind s

end Sys2Proof.Machine
end

