-- ==== Sys2Proof/Machine/Fetch.lean ====
section
/-!
DEFINITION. What a move of the agenda does, over a dispatcher: the fetch and decoding of an issue group's instruction (R53, R70), of a stream's
(R337, R338), the front end's start of a command (R117, R136), an event, and the move that the model makes when its agenda is empty.
-/
set_option autoImplicit false

namespace Sys2Proof.Machine

/-- A dispatcher. -/
abbrev Exec := Instr → State → Out

/-! ### Fetching (R52, R53, R70, R71) -/

/-- A group begins: it is the current one, and its instruction's line becomes the most recently used (R157). -/
def State.begin (s : State) (g : Group) : State :=
  { s.modCore g.core fun k => k.useLine (g.obj, lineOf g.pc.toNat) with cur := g }

/-- Fetches and runs the instruction of an issue group: CAPBOUND outside the code object, ILLOP where no instruction is decoded. -/
def runGroup (ex : Exec) (g : Group) (s : State) : Out :=
  let s := s.begin g
  match s.fetch g.obj g.pc with
  | none => .next (raiseTrap { cause := .capbound, lanes := g.lanes } s)
  | some w => match decodeWord w with
    | .ok i => ex i s
    | .error _ => .next (raiseTrap { cause := .illop, lanes := g.lanes } s)

/-- The group of a uniform sequencer. -/
def streamGroup (core seq : Nat) (b : Block) : Group := { core := core, unit := .stream seq, obj := b.code, pc := b.mx.pc }

/-- A sequencer is not parked by MXWAIT on a barrier that some team warp has not reached (R339). -/
def barrierMet (b : Block) : Bool :=
  match b.mx.st with
  | .waiting k => teamMask b &&& ~~~(arrivals b k) == 0
  | _ => true

/-- A sequencer may issue: its stream runs, nothing has stopped its block or its core, and its instruction's line is present. -/
def streamReady (s : State) (core : Nat) (b : Block) : Bool :=
  !(s.core core).halted && b.stop.isNone && b.streamAt.isSome && barrierMet b && s.lineAt core b.code b.mx.pc

/-- A uniform sequencer issues (R337), or its stream faults (R338). -/
def runStream (ex : Exec) (core seq : Nat) (s : State) : Out :=
  match s.block? core seq with
  | none => .next s
  | some b =>
    if !streamReady s core b then .next s
    else
      let s := s.begin (streamGroup core seq b)
      match s.fetch b.code b.mx.pc with
      | none => .next (streamFault core seq .capbound 0 s)
      | some w => match decodeWord w with
        | .ok i => ex i s
        | .error _ => .next (streamFault core seq .illop 0 s)

/-- The firmware agent of a core may issue: it is not in WFI, and its thread is ready (R11, R450). -/
def agentReady (s : State) (core : Nat) : Bool := !(s.core core).waitfi && s.readyBase { core := core, seq := agentSeq, warp := 0 } 0

/-! ### Starting commands (R117, R136) -/

/-- The front end starts the head command of a queue, if it is the one that its owner starts next. -/
def runCommand (ex : Exec) (v q : Nat) (s : State) : Out :=
  if nextQueue s (s.viPart v) ≠ some (v, q) then .next s
  else match popHead v q s with
    | (s', none) => .next (fillHead v q s')
    | (s', some i) => match ex i s' with
      | .next t => .next (holdHead v q t)
      | x => x

/-! ### Events -/

/-- The header of a command. -/
def cmdHdrOf : Instr → Option CmdHdr
  | .nopCommand h => some h
  | .launchCommand h _ => some h
  | .start h _ => some h
  | .stop h _ _ => some h
  | .load h _ _ => some h
  | .unload h _ => some h
  | .objcreate h _ => some h
  | .objdestroy h _ => some h
  | .hcopy h _ => some h
  | .waitcj h _ _ _ => some h
  | .createq h _ => some h
  | .destroyq h _ => some h
  | .capmint h _ => some h
  | .pageresume h _ _ => some h
  | .partcfg h _ => some h
  | .partdel h _ => some h
  | .vfbind h _ _ => some h
  | .gangpeers h _ _ => some h
  | .shareobj h _ => some h
  | .repair h _ => some h
  | .fwstage h _ _ => some h
  | .fwact h => some h
  | .logread h _ => some h
  | .dbgresume h _ _ => some h
  | _ => none

/-- An event: a row of the opcode table that is no thread instruction and no command. -/
def isEvent (i : Instr) : Bool := i.raw.isNone && (cmdHdrOf i).isNone

/-- An event happens. -/
def runEvent (ex : Exec) (i : Instr) (s : State) : Out := if isEvent i then ex i s else .fault .notAnEvent

/-- A slice issues: its group's instruction runs, if it has a group. -/
def runSlice (ex : Exec) (core slice : Nat) (s : State) : Out :=
  match (s.refreshTable core).formGroup core slice with
  | some g => runGroup ex g (s.refreshTable core)
  | none => .next s

/-- Some slices issue in turn. -/
def runSlices (ex : Exec) (core : Nat) : List Nat → State → Out
  | [], s => .next s
  | n :: r, s => match runSlice ex core n s with
    | .next t => runSlices ex core r t
    | x => x

/-- The clock in which several slices issue ends: the capability registers that they wrote change, in ascending slice order (R76). -/
def applyCaps (core : Nat) (s : State) : State :=
  let ws := ((s.core core).capw.getD [])
  ws.foldl (fun s w => s.modBlock core w.1 fun b => b.setCap w.2.1 w.2.2) (s.modCore core fun k => { k with capw := none })

/-- Several slices of a core issue in one clock: each reads the capability registers as they stood before it (R76). -/
def runTogether (ex : Exec) (core : Nat) (slices : List Nat) (s : State) : Out :=
  match runSlices ex core ((List.range 8).filter slices.contains) (s.modCore core fun k => { k with capw := some [] }) with
  | .next t => .next (applyCaps core t)
  | x => x

/-- A beat may be due of an agent that has sent none in its window; when, is open (R443, R450; log entry 109). -/
def beatDue (core : Nat) (s : State) : State :=
  if (s.core core).waitfi && (s.core core).beats == 0 then
    let x := s.takeFree
    if Config.freeNat x.1 % 2 = 0 then notify core x.2 else x.2
  else s

/-- The agent of a core issues, if it is not parked. -/
def runAgent (ex : Exec) (core : Nat) (s : State) : Out :=
  let s := beatDue core s
  if agentReady s core then runGroup ex (s.agentGroup core) s else .next s

/-- A move of the agenda. -/
def runMove (ex : Exec) (m : Move) (s : State) : Out :=
  match m with
  | .issue core slice => runSlice ex core slice s
  | .together core slices => runTogether ex core slices s
  | .stream core seq => runStream ex core seq s
  | .agent core => runAgent ex core s
  | .command v q => runCommand ex v q s
  | .event i => runEvent ex i s
  | .idle => .next s

/-! ### After a move (R161, R450) -/

/-- A parked thread of a block has woken between two states of it. -/
def wokeIn (b b' : Block) : Bool :=
  b.uid == b'.uid && b.warps.any fun iw => (smGet? b'.warps iw.1).any fun w =>
    (iw.2.threads.zip w.threads).any fun t => t.1.wait.kind != 0 && t.2.wait.kind == 0

/-- A parked block of a core, or a saved block of its partition, has woken between two states. -/
def wokeOn (s t : State) (core : Nat) : Bool :=
  (s.core core).blocks.any (fun qb => decide (qb.1 < agentSeq) && (smGet? (t.core core).blocks qb.1).any (wokeIn qb.2)) ||
    s.saved.any fun x => (s.core core).part == some x.blk.part && t.saved.any fun y => wokeIn x.blk y.blk

/-- Agents in WFI go on where a parked block has woken (R450). -/
def wakeAgents (s t : State) : State := t.cores.foldl (fun u ck => if ck.2.waitfi && wokeOn s t ck.1 then notify ck.1 u else u) t

/-- What follows a move in the same step. -/
def afterMove (s : State) (o : Out) : Out :=
  match o with
  | .next t => .next (wakeAgents s t).settleTables
  | x => x

/-! ### An empty agenda

Which unit acts next is open (R7, R15). With an agenda the environment chooses; without one, the model does the first of these that changes the
state, beginning at a place that moves with the clock, so that none of them waits for ever. -/

/-- What the slices, sequencers and engines of a core may do next. -/
def coreActs (ex : Exec) (s : State) (c : Nat) (k : Core) : List (State → Out) :=
  let seqs := (k.blocks.filter fun qb => decide (qb.1 < agentSeq)).map (·.1)
  (List.range 8).map (fun n => runMove ex (.issue c n)) ++ seqs.map (fun q => runMove ex (.stream c q)) ++ [execIcacheFill c 0] ++
  seqs.flatMap (fun q => (List.range (s.block c q).mx.ops.length).flatMap fun n => [execMatrixOpStart c q n, execMatrixOpComplete c q n]) ++
  k.items.map (fun q => execItemRefill c q.1) ++ k.copies.flatMap (fun x => [execCopyRecordStart c x.id, execCopyLineArrival c x.id 0])

/-- The clocks of the YIELDs of a core's threads pass. -/
def yieldActs (s : State) (c : Nat) : List (State → Out) :=
  (List.range 8).flatMap fun n => (s.sliceWarps c n).flatMap fun w => (s.warp w).threads.flatMap fun th =>
    if th.yclk then [execYieldExpiry c n th.stamp] else []

/-- What happens to the blocks of a core, and what its agent and its starter do. -/
def agentActs (s : State) (c : Nat) (k : Core) : List (State → Out) :=
  let seqs := (k.blocks.filter fun qb => decide (qb.1 < agentSeq)).map (·.1)
  seqs.flatMap (fun q => [execBlockRetire c q, execUnhandledTrapAbort c q, execIdemAbort c q, execEviction c q]) ++
  (List.range s.saved.length).map (fun n => execBlockRestore n c) ++
  [execQuantumEnd c, execPendingRetry c, execTaskStart c, execLandingReturn c, execTicketClaim c, execSteal c]

/-- What the outstanding instructions and the stores that are not performed may do. -/
def opActs (s : State) : List (State → Out) :=
  s.ops.flatMap (fun o => [execLongLatencyComplete o.id, execLoadDataArrival o.id, execCpkickRegister o.id, execSchrunRegister o.id,
    execClbWalk o.id, execTileLineFetch o.id, execTileAllocation o.id, execTileRemoval o.id, execBackgroundWrite o.id,
    execLexiconRowPerformed o.id, execCollapseRequest o.id, execSequencerWrite o.id] ++ (List.range 192).map (execShootdownMark o.id)) ++
  s.collapses.flatMap (fun x => (List.range 4).map (execCollapseAck x.req)) ++
  (List.range s.rstores.length).map execRemoteStorePerformed

/-- What the front end, the grids and the standing programs may do. -/
def hostActs (ex : Exec) (s : State) : List (State → Out) :=
  ((s.parts.map fun (p : Nat × Part) => p.1) ++ [16]).filterMap (fun p => (nextQueue s p).map fun (x : Nat × Nat) => runMove ex (.command x.1 x.2)) ++
  s.gangs.map (fun g => execGangReservation g.hdr.gang) ++ s.vis.map (fun v => execAdminQueueDrained v.1) ++ [execDeferredActivation] ++
  s.grids.map (fun g => execGridComplete g.1) ++ (List.range s.cmds.length).map execCommandCompletion ++
  (List.range 4).map execSettleDispatch ++ (List.range s.posts.length).map execPostApply ++ s.progs.map fun p => execConvergenceSweep p.1

/-- What the model tries in turn. -/
def ownActs (ex : Exec) (s : State) : List (State → Out) :=
  s.cores.flatMap (fun ck => coreActs ex s ck.1 ck.2) ++ opActs s ++ s.cores.flatMap (fun ck => yieldActs s ck.1 ++ agentActs s ck.1 ck.2) ++ hostActs ex s

/-- An act changes the state. -/
def changes (s : State) (f : State → Out) : Bool :=
  match f s with
  | .next t => decide (t ≠ s)
  | _ => false

/-- One move: the agenda's head, or the first of the model's own acts that changes the state. -/
def stepWith (ex : Exec) (s : State) : Out :=
  match s.agenda with
  | m :: r => afterMove s (runMove ex m { s with agenda := r })
  | [] => match (turned (ownActs ex s) (s.clock % ((ownActs ex s).length + 1))).find? (changes s) with
    | some f => afterMove s (f s)
    | none => .next s

/-! ### Placing an instruction -/

/-- The code object that a placed instruction lies in. -/
def placedCode (nbits w : Nat) : Obj :=
  { kind := .code, owner := 0, size := 12, rights := 4, mem := memWriteN [] 0 (leBytes 12 (w % 2 ^ nbits)) }

/-- A block of one warp that starts at the placed instruction. -/
def placedBlock (clock : Nat) : Block :=
  { origin := .grid 0 0 0 0, code := 1, gdim := (1, 1, 1), warps := [(0, ({} : Image).warp 1 clock (0, 0))] }

/-- A core that holds that block and its instruction line. -/
def placedCore : Core := { part := some 0, blocks := [(0, placedBlock 0)], icache := [(1, 0)] }

/-- The instruction in a code object, a block of core 0 that starts at it, and slice 0 of that core on the agenda. -/
def placeWord (nbits w : Nat) (s : State) : State :=
  { s with objs := smSet s.objs 1 (placedCode nbits w), cores := smSet s.cores 0 placedCore, ops := [], deferred := [], agenda := [.issue 0 0] }

end Sys2Proof.Machine
end

