-- ==== Sys2Proof/Machine/Step.lean ====
section
/-!
DEFINITION. One step of the module: one move of its agenda.
-/
set_option autoImplicit false

namespace Sys2Proof.Machine

/-- One step: the next move of the agenda, or one of the model's own. -/
def step (s : State) : Host.Outcome State Fault Refusal := stepWith exec s

/-- The state with an instruction's bits where the next step fetches: in a code object, with a block of core 0 whose warp starts there and the
slice's issue as the next move; it stands for the load of a module and the launch of a grid (log entry 3). -/
def State.withFetchWord (s : State) (nbits w : Nat) : State := placeWord nbits w s

end Sys2Proof.Machine
end

