-- ==== Sys2Proof/Safety.lean ====
section
/-!
DEFINITION. What claims call a safe run: every step answers a next state, and what stops a block is a trap that its thread handlers do not take,
never the model.
-/
set_option autoImplicit false

namespace Sys2Proof

/-- A step answers a next state. -/
def Machine.State.goesOn (s : Machine.State) : Prop := ∃ t, Machine.step s = .next t

/-- `n` steps all answer a next state. -/
def safeFor (n : Nat) (s : Machine.State) : Prop := ∃ t, core.run n s = .next t

/-- No resident block of the module has been stopped. -/
def Machine.State.noStop (s : Machine.State) : Bool := s.cores.all fun ck => ck.2.blocks.all fun qb => qb.2.stop.isNone

end Sys2Proof
end

