-- ==== Sys2Proof/Certificates/Slice0/Obligations.lean ====
section
/-!
DEFINITION. The statements for the provers. The names in `Spec` are the vocabulary that the statements share; an obligation is a `Prop` named
`Obligations.…`.
-/
set_option autoImplicit false

namespace Sys2Proof.Spec
open Sys2Proof.Machine

/-- The lanes in which the group runs the instruction (R54). -/
def act (i : Instr) (s : State) : Mask := s.active (ctlOf i)

/-- The group, on a slice or a firmware agent, runs the instruction: a lane is active (R54), and the checks that come before the
instruction's own pass: PRIV, REGRANGE and LATCH (R57, R62, R68, R71). -/
structure Runs (i : Instr) (s : State) : Prop where
  unit : ∀ q, s.cur.unit ≠ .stream q
  lane : act i s ≠ 0
  chk : s.issueChk (usesOf i) (act i s) = .ok ()

/-- The instruction completes with the effect `t`; the hints of its word follow it (R60 to R65). -/
def Completes (i : Instr) (s t : State) : Prop := exec i s = .next (hints (ctlOf i) (usesOf i) (act i s) s t)

/-- The instruction traps: the machine takes or defers the trap, and the instruction leaves no effect (R7, R61, R427). -/
def Traps (i : Instr) (s : State) (t : TrapReq) : Prop := exec i s = .next (raiseTrap t s)

/-- No register field of the instruction breaks R148 to R150 for a result of these shapes. -/
def ShapeOk (i : Instr) (s : State) (sh : ShpRule) : Prop := s.advance.shapeChk (usesOf i) (act i s) (fun m => sh s.advance m) = .ok ()

/-- Operand A of a lane. -/
def opA (i : Instr) (s : State) (l : Nat) : BitVec 64 := s.src? (usesOf i).a l
/-- Operand B of a lane. -/
def opB (i : Instr) (s : State) (l : Nat) : BitVec 64 := s.src? (usesOf i).b l
/-- Operand D of a lane, read as a source. -/
def opD (i : Instr) (s : State) (l : Nat) : BitVec 64 := s.src? (usesOf i).ds l

/-- The instruction's result in each active lane is `f`: a group that runs it, with registers that accept the result, writes D with it, and
`aff` is the base and stride where D is affine. `f` reads the state in which the group has issued, whose operands are the
state's own (see `IssueChangesNoOperand`). -/
def Gives (i : Instr) (s : State) (sh : ShpRule) (f : State → Nat → BitVec 64) (aff : State → Member → Word × Word := noAff) : Prop :=
  Runs i s → ShapeOk i s sh → ∀ d, (usesOf i).d = some d →
    Completes i s (s.advance.putD (ctlOf i) d (act i s) (f s.advance) (aff s.advance))

/-- A result of the shape of R148. -/
def GivesAuto (i : Instr) (s : State) (f : State → Nat → BitVec 64) : Prop := Gives i s (autoRule (usesOf i)) f

/-- `f` on A, B and D read as integers of the type, wrapped or clamped (R183, R184). -/
def intOf (i : Instr) (m : Mods) (f : Int → Int → Int → Int) (s : State) (l : Nat) : BitVec 64 :=
  wrInt (fitInt m.ty m.sat (f (rdInt m.ty (opA i s l)) (rdInt m.ty (opB i s l)) (rdInt m.ty (opD i s l))))

/-- `f` on the patterns of A and B, in the low w bits (R193). -/
def bitsOp (i : Instr) (m : Mods) (f : BitVec 64 → BitVec 64 → BitVec 64) (s : State) (l : Nat) : BitVec 64 :=
  lowBits m.ty (f (opA i s l) (opB i s l))

/-- The active lanes whose divisor B is zero (R192). -/
def divZero (i : Instr) (m : Mods) (s : State) : Mask :=
  maskOf fun l => (act i s).getLsbD l && rdInt m.ty (opB i s.advance l) == 0

/-- The state after an instruction that may have read free words through a latch: the free-value counter has moved on (log entry 4). -/
def spent (r : VReg) (t : State) : State := match r with | .latch _ => { t with free := t.free + 64 } | _ => t

/-- The members of the group with an active lane, at the state in which the group has issued. -/
def acting (i : Instr) (s : State) : List Member := s.advance.cur.acting (act i s)

/-- The flags that the active lanes raise. -/
def flagsOf (i : Instr) (s : State) (f : State → Nat → FRes) : List (WRef × Nat × BitVec 6) :=
  laneFlags s.advance (act i s) fun l => (f s.advance l).fl

/-- A floating-point result: D and the flags, or FPTRAP with neither where a warp enables a flag that is raised (R209, R220, R221). -/
def GivesF (i : Instr) (s : State) (f : State → Nat → FRes) : Prop :=
  Runs i s → ShapeOk i s (autoRule (usesOf i)) → ∀ d, (usesOf i).d = some d →
    (fpTrap s.advance s.advance.cur.mems (flagsOf i s f) = none → Completes i s
      (orFlags (flagsOf i s f) (s.advance.putD (ctlOf i) d (act i s) fun l => BitVec.ofNat 64 (f s.advance l).v))) ∧
    (∀ t, fpTrap s.advance s.advance.cur.mems (flagsOf i s f) = some t → Traps i s t)

/-- A long-latency floating-point instruction: it is outstanding with its register writes and flags, which arrive when it completes (R60, R61,
R168, R222). -/
def StartsF (i : Instr) (s : State) (f : State → Nat → FRes) : Prop :=
  Runs i s → ShapeOk i s (autoRule (usesOf i)) →
    Completes i s (s.advance.startOp (ctlOf i)
      { id := 0, core := 0, mems := [], obj := 0, pc := 0, fp := true, marks := marksOf s.advance.cur (act i s) (usesOf i).d [],
        rws := s.advance.writesOf (act i s) (usesOf i).d fun l => BitVec.ofNat 64 (f s.advance l).v
        flags := flagsOf i s f })

/-- A of a lane as a value of a floating-point type. -/
def fA (i : Instr) (t : Ty) (r : State) (l : Nat) : FVal := r.fsrc t (usesOf i).a l
/-- B of a lane as a value of a floating-point type. -/
def fB (i : Instr) (t : Ty) (r : State) (l : Nat) : FVal := r.fsrc t (usesOf i).b l
/-- D of a lane as a value of a floating-point type. -/
def fD (i : Instr) (t : Ty) (r : State) (l : Nat) : FVal := r.fsrc t (usesOf i).ds l

/-- A value rounded to the type in the mode of the instruction, saturating where its word asks (R217 to R219). -/
def rounded (m : Mods) (r : State) (l : Nat) (v : FVal) : FRes := (fmtOf m.ty).write (r.mode m l) m.sat v

/-- The member lanes and registers that the instruction's D names: register `n` of the warp `w` in lane `l`. -/
def written (i : Instr) (s : State) (w : WRef) (n l : Nat) : Prop :=
  ∃ mm, mm ∈ acting i s ∧ mm.w = w ∧ ∃ d, (usesOf i).d = some d ∧ n ∈ d.regs ∧ ((s.warp w).cls n = .gen → mm.lanes.getLsbD l = true)

/-- A thread without what every issue moves: its index, its age, the waits of lookahead and YLD, and the note that a VOLFULL retry leaves it out. -/
def bareThread (th : Thread) : Thread := { th with pc := 0, stamp := 0, las := [], yld := [], yall := false, yclk := false, done := false }
/-- A warp without its registers, predicates and FPFLAGS, and without what every issue moves. -/
def bareWarp (w : Warp) : Warp :=
  { w with gen := [], aff := [], uni := [], preds := [], fpflags := 0, threads := w.threads.map bareThread }
/-- A core without its blocks, and without what every issue moves: the latches, the count of issues and the prefetches. -/
def bareCore (k : Core) : Core := { k with blocks := [], latches := [], issued := 0, imiss := [] }

/-- The active lanes of a warp. -/
def lanesIn (i : Instr) (s : State) (w : WRef) : Mask := (acting i s).foldl (fun a m => if m.w = w then a ||| m.lanes else a) 0

/-- From `s` to `t`, only the registers that `wr` names, the predicate `p` in the active lanes, FPFLAGS where `fl`, of an acting warp what `hide` takes
out for its active lanes, and what every issue moves have changed. -/
structure FrameBut (i : Instr) (s t : State) (wr : WRef → Nat → Nat → Prop) (p : Option Nat) (fl : Bool) (hide : Mask → Warp → Warp) : Prop where
  regs : ∀ w n l, l < 32 → wr w n l ∨ (t.warp w).readReg n l = (s.warp w).readReg n l
  preds : ∀ w q l, (p = some q ∧ ∃ mm, mm ∈ acting i s ∧ mm.w = w ∧ mm.lanes.getLsbD l = true) ∨
    ((t.warp w).pred q).getLsbD l = ((s.warp w).pred q).getLsbD l
  flags : fl = false → ∀ w, (t.warp w).fpflags = (s.warp w).fpflags
  warps : ∀ w, if lanesIn i s w = 0 then bareWarp (t.warp w) = bareWarp (s.warp w)
    else hide (lanesIn i s w) (bareWarp (t.warp w)) = hide (lanesIn i s w) (bareWarp (s.warp w))
  blocks : ∀ c q, { t.block c q with warps := [] } = { s.block c q with warps := [] }
  cores : ∀ c, bareCore (t.core c) = bareCore (s.core c)
  memory : ∀ sd a, t.readN sd a 1 = s.readN sd a 1
  rest : { t with cores := s.cores, clock := s.clock, free := s.free } = s

/-- From `s` to `t`, only the registers of D, the predicate `p` in the active lanes, FPFLAGS where `fl`, and what every issue moves have changed. -/
def Frame (i : Instr) (s t : State) (p : Option Nat) (fl : Bool) : Prop := FrameBut i s t (written i s) p fl fun _ w => w

/-- No register. -/
def noReg : WRef → Nat → Nat → Prop := fun _ _ _ => False

/-- An instruction that runs ends in a next state without having trapped. -/
def Ends (i : Instr) (s t : State) : Prop := Runs i s ∧ (∀ x, exec i s ≠ .next (raiseTrap x s)) ∧ exec i s = .next t

/-- A block that begins on a sequencer, its warps at the places `ps`, under the next fresh number (R131, R146, R395). -/
def begun (core q : Nat) (b : Block) (ps : List (Nat × Nat)) (s : State) : State :=
  ({ s with nextId := s.nextId + 1, clock := s.clock + 1 } : State).setBlock core q { b with
    uid := s.nextId, mx := b.image.mx, warps := ps.zipIdx.map fun pi => (pi.2, b.image.warp b.code (s.clock + 1) pi.1) }

/-- The page, if any, at which a command's own access to a capability store aborts (R123). -/
def storeAborts (i : Instr) (s : State) : Option Nat := ((storeAccess i).bind (storeGate s)).join

/-- A command that every interface may issue (Table 6.3). -/
def forAll : Instr → Bool
  | .nopCommand .. | .objcreate .. | .objdestroy .. | .hcopy .. | .createq .. | .destroyq .. => true
  | _ => false
/-- A command that the physical function alone may issue (Table 19.2). -/
def forPf : Instr → Bool
  | .partcfg .. | .partdel .. | .vfbind .. | .gangpeers .. | .shareobj .. | .repair .. | .fwstage .. | .fwact .. | .logread .. | .dbgresume .. => true
  | _ => false
/-- A command that the physical function may issue in minimal mode (R467). -/
def forMinimal : Instr → Bool
  | .nopCommand .. | .fwstage .. | .fwact .. | .logread .. => true
  | _ => false

/-- A thread without a wait at a clause register. -/
def offClause (k : Nat) (th : Thread) : Thread := if th.wait = .clause k then { th with wait := .none } else th

end Sys2Proof.Spec

open Sys2Proof Sys2Proof.Machine Sys2Proof.Spec

/-! ## The machine as a whole -/

/-- A step is what the agenda's next move does. A slice, an agent or a sequencer runs the instruction that the 12 bytes at its index decode to;
a word with no meaning raises ILLOP, and an index outside the code object CAPBOUND, in the whole group. The front end runs the
head command that its owner starts next, and an event happens. Several slices of a core may issue in one clock: each then reads the capability registers
as they stood before it (R76). An issue puts the threads of its group at the next index. `afterMove` is what follows a move: the group tables of the
cores that hold blocks are brought up to the ready threads (R161), and an agent in WFI goes on where a parked block has woken (R450).
Where the spec leaves a point open, it says what the model chose (log entries 8, 10 and 109). -/
def Obligations.StepRunsTheDecodedInstruction : Prop := ∀ (s : State) (r : List Move),
  let e : State := { s with agenda := r }
  (∀ obj pc o, s.obj? obj = some o → o.kind = .code → 12 * pc.toNat + 12 ≤ o.size →
    s.fetch obj pc = some (BitVec.ofNat 96 (leNat (memReadN o.mem (12 * pc.toNat) 12)))) ∧
  (∀ core slice g w i, s.agenda = .issue core slice :: r → (e.refreshTable core).formGroup core slice = some g → s.fetch g.obj g.pc = some w →
    decodeWord w = .ok i → step s = afterMove e (exec i ((e.refreshTable core).begin g))) ∧
  (∀ core slice g w x, s.agenda = .issue core slice :: r → (e.refreshTable core).formGroup core slice = some g → s.fetch g.obj g.pc = some w →
    decodeWord w = .error x → step s = afterMove e (.next (raiseTrap { cause := .illop, lanes := g.lanes } ((e.refreshTable core).begin g)))) ∧
  (∀ core slice g, s.agenda = .issue core slice :: r → (e.refreshTable core).formGroup core slice = some g → s.fetch g.obj g.pc = none →
    step s = afterMove e (.next (raiseTrap { cause := .capbound, lanes := g.lanes } ((e.refreshTable core).begin g)))) ∧
  (∀ core slices, s.agenda = .together core slices :: r → step s = afterMove e
    (match runSlices exec core ((List.range 8).filter slices.contains) (e.modCore core fun k => { k with capw := some [] }) with
      | .next t => .next (((t.core core).capw.getD []).foldl (fun t x => t.modBlock core x.1 fun b => b.setCap x.2.1 x.2.2)
          (t.modCore core fun k => { k with capw := none }))
      | x => x)) ∧
  (∀ core w i, s.agenda = .agent core :: r → agentReady e core = true →
    s.fetch (e.agentGroup core).obj (e.agentGroup core).pc = some w → decodeWord w = .ok i →
    step s = afterMove e (exec i (e.begin (e.agentGroup core)))) ∧
  (∀ core seq b w i, s.agenda = .stream core seq :: r → e.block? core seq = some b → streamReady e core b = true →
    s.fetch b.code b.mx.pc = some w → decodeWord w = .ok i → step s = afterMove e (exec i (e.begin (streamGroup core seq b)))) ∧
  (∀ v q t i, s.agenda = .command v q :: r → nextQueue e (e.viPart v) = some (v, q) → popHead v q e = (t, some i) →
    step s = afterMove e (match exec i t with | .next t' => .next (holdHead v q t') | x => x)) ∧
  (∀ i, s.agenda = .event i :: r → isEvent i = true → step s = afterMove e (exec i e)) ∧
  (∀ m l, m ∈ s.cur.mems → m.lanes.getLsbD l = true → l < (s.warp m.w).threads.length → ((s.advance.warp m.w).thread l).pc = s.cur.pc + 1)

/-- Words written out from the encodings of the spec and the instructions that they stand for, at least one of each group of the opcode map: the canonical
NOP and the worked FADD of chapter 3, and BRA, LOOP, IADD, MOVI, ICMP, CVTEF, LD, CPIN, VLD, GTHR, ITEMLOOP, MXMAC, SCHRUN, FENCE, CJWAIT, SPAWN, CAPNAR and
SRD. -/
def Obligations.WordsDecodeToTheirInstructions : Prop :=
  decodeWord 0x001E00000000000000000000 = .ok (.nop { gp := 15 } {}) ∧
  decodeWord 0x302401403007A20000002D00 =
    .ok (.fadd { gn := true, gp := 2, la := 2, hold := 3, hslot := 1 } { d := .v 5, a := .v 6, b := .v 7, m := { ty := .f32, rnd := .rtz } }) ∧
  decodeWord 0x005E00000000FFFFFFFE0000 = .ok (.bra { gp := 15 } 0xFFFFFFFE) ∧
  decodeWord 0x041F7FC00000FFFFFF000000 = .ok (.loop { gp := 15 } (.v 1535) 0xFFFFFF00) ∧
  decodeWord 0x101E01403007202000000000 = .ok (.iadd { gp := 15 } { d := .v 5, a := .v 6, b := .v 7, m := { ty := .i32, sat := true } }) ∧
  decodeWord 0x205E01400000DEADBEEF0000 = .ok (.movi { gp := 15 } (.v 5) 0xDEADBEEF) ∧
  decodeWord 0x215E00C03007200400000000 = .ok (.icmp { gp := 15 } { p := 3, a := .v 6, b := .v 7, m := { ty := .i32, sub := 4 } }) ∧
  decodeWord 0x40DE014037FF8A0000030000 = .ok (.cvtef { gp := 15 } { d := .v 5, a := .v 6, b := .zero, m := { ty := .f16, rnd := .ef, imm := 3 } }) ∧
  decodeWord 0x501E014000070001FFFCF000 = .ok (.ld { gp := 15, la := 15 } { d := .v 5, cap := 0, b := .v 7, m := { ty := .i8, sub := 1, imm := 65532 } }) ∧
  decodeWord 0x611E01401807000000400000 = .ok (.cpin { gp := 15 } { d := .v 5, cap := 3, b := .v 7, m := { imm := 64 } }) ∧
  decodeWord 0x701E0200100CA003000F0000 = .ok (.vld { gp := 15 } { d := .v 8, cap := 2, b := .v 12, m := { ty := .f32, sub := 3, imm := 15 } }) ∧
  decodeWord 0x801E02001007000300400000 = .ok (.gthr { gp := 15 } { d := .v 8, cap := 2, b := .v 7, m := { sub := 3, imm := 64 } }) ∧
  decodeWord 0x819E02403000FFFFFFFD0000 = .ok (.itemloop { gp := 15 } 6 (.v 9) 0xFFFFFFFD) ∧
  decodeWord 0x915E01403000000001A70000 = .ok (.mxmac { gp := 15 } 5 (.v 6) { imm := 0x1A7 }) ∧
  decodeWord 0xA01E01400007BC0100400000 = .ok (.schrun { gp := 15 } { d := .v 5, cap := 0, b := .v 7, m := { ty := .f64, rnd := .dyn, sub := 1, imm := 64 } }) ∧
  decodeWord 0xB09E00000000010200000000 = .ok (.fence { gp := 15 } { scope := .dev, sub := 2 }) ∧
  decodeWord 0xB21E0140180700C000100000 = .ok (.cjwait { gp := 15 } { d := .v 5, cap := 3, b := .v 7, m := { scope := .die, imm := 16 } }) ∧
  decodeWord 0xC01E00801807000200400000 = .ok (.spawn { gp := 15 } { p := 2, cap := 3, b := .v 7, m := { sub := 2, imm := 64 } }) ∧
  decodeWord 0xD09E01002807000000FF0000 = .ok (.capnar { gp := 15 } 4 5 (.v 7) { imm := 0xFF }) ∧
  decodeWord 0xE01E01400000000000100000 = .ok (.srd { gp := 15 } (.v 5) { imm := 0x10 })

/-- The part at cold power-on: every core holds QUANTUM 2^24, AGTCTL 0x100, MXSOLO 0 and PREEMPT 0, belongs to no partition and holds no block; the
part boots at its first stage, and no object, partition, load, job, grid, command or outstanding instruction exists. The rules give
QUANTUM, AGTCTL, MXSOLO and PREEMPT; the other values are the model's (log entries 1 and 2). -/
def Obligations.ResetValues : Prop :=
  (∀ c, (State.reset.core c).quantum = 2 ^ 24 ∧ (State.reset.core c).agtctl = 0x100 ∧ (State.reset.core c).mxsolo = false ∧
    (State.reset.core c).preempt = false ∧ (State.reset.core c).part = none ∧ (State.reset.core c).blocks = [] ∧
    (State.reset.core c).halted = false ∧ (State.reset.core c).cycles = 0) ∧
  State.reset.sys.mode = .booting ∧ State.reset.sys.stage = 1 ∧ State.reset.objs = [] ∧ State.reset.parts = [] ∧ State.reset.loads = [] ∧
  State.reset.jobs = [] ∧ State.reset.grids = [] ∧ State.reset.cmds = [] ∧ State.reset.ops = [] ∧ State.reset.bclock = 0 ∧
  (∀ a, memRead State.reset.hostMem a = 0) ∧ State.reset.hostMem.wf = true

/-- BEAT, CTXSV, CTXLD, ICINV and WFI, and SRD or SWR of a special register numbered 0x8000 or above, raise PRIV in the whole group when issued from a
slice, and leave no effect (R68). -/
def Obligations.PrivilegedInstructionsTrapOffTheAgent : Prop := ∀ (c : Ctl) (m : Mods) (d : VReg) (o : OpsM) (n : Mods) (s : State),
  s.cur.unit = .slice → n.imm.toNat ≥ 0x8000 → ∀ i, i ∈ [.beat c m, .ctxsv c o, .ctxld c o, .icinv c m, .wfi c m, .srd c d n, .swr c d n] →
  Traps i s { cause := .priv, lanes := s.cur.lanes }

/-- The checks that come before an instruction's own, for every thread instruction off the sequencers: PRIV, then REGRANGE for a register field at or
beyond T, then LATCH, each in the whole group; and a group with no active lane issues without an effect of the instruction (R54, R57, R62, R71). -/
def Obligations.IssueChecksComeFirst : Prop := ∀ (i : Instr) (s : State), i.raw ≠ none → (∀ q, s.cur.unit ≠ .stream q) →
  let u := usesOf i
  let priv := u.priv = true ∧ s.cur.unit ≠ .agent
  (priv → Traps i s { cause := .priv, lanes := s.cur.lanes }) ∧
  (¬ priv → s.regsIn u = false → Traps i s { cause := .regrange, lanes := s.cur.lanes }) ∧
  (¬ priv → s.regsIn u = true → s.latchesOk u (act i s) = false → Traps i s { cause := .latch, lanes := s.cur.lanes }) ∧
  (¬ priv → s.regsIn u = true → s.latchesOk u (act i s) = true → act i s = 0 → Completes i s s.advance) ∧
  (s.regsIn u = true ↔ ∀ f n m, f ∈ u.a.toList ++ u.b.toList ++ u.d.toList ++ u.ds.toList → f.r = .v n → m ∈ s.cur.mems →
    n.val < (s.warp m.w).g + (s.warp m.w).f + (s.warp m.w).q)

/-- Registers and predicates: the three classes by number; a general register is written in one lane and a uniform or affine register for the
warp, an affine register reads base + lane · stride, and no other register changes; a predicate is written in the lanes of the mask
only, and 15 reads true; a destination that names no register discards its result; and what the special source fields read (R55, R56, R144, R147). -/
def Obligations.RegistersReadBack : Prop := ∀ (w : Warp) (n k l j : Nat) (v x : Word) (m y : Mask) (p q : Nat), l < 32 → j < 32 →
  (w.cls n = .gen ↔ n < w.g) ∧ (w.cls n = .aff ↔ w.g ≤ n ∧ n < w.g + w.f) ∧ (w.cls n = .uni ↔ w.g + w.f ≤ n ∧ n < w.g + w.f + w.q) ∧
  (w.cls n = .gen → (w.putGen n l v).readReg n j = if j = l then v else w.readReg n j) ∧
  (w.cls n = .uni → (w.putUni n v).readReg n j = v) ∧
  (w.cls n = .aff → (w.putAff n (v, x)).readReg n j = v + BitVec.ofNat 32 j * x) ∧
  (k ≠ n → (w.putGen n l v).readReg k j = w.readReg k j ∧ (w.putUni n v).readReg k j = w.readReg k j ∧
    (w.putAff n (v, x)).readReg k j = w.readReg k j) ∧
  (p ≠ 15 → (w.putPred p m y).pred p = (w.pred p &&& ~~~m) ||| (y &&& m)) ∧
  (q ≠ p → (w.putPred p m y).pred q = w.pred q) ∧ (w.pred 15 = BitVec.allOnes 32 ∧ (w.putPred p m y).pred 15 = BitVec.allOnes 32) ∧
  (∀ (f : Fld) vals aff mm, f.r = .zero → putField f vals aff mm w = w) ∧
  (∀ (s : State) (wide : Bool) imm, s.srcW w { r := .zero, wide := wide, imm := imm } l = imm ∧
    s.srcW w { r := .ones, wide := wide } l = (if wide then BitVec.allOnes 64 else 0xFFFFFFFF) ∧ s.srcW w { r := .lane, wide := wide } l = BitVec.ofNat 64 l)

/-- What an instruction that writes registers at once leaves alone: every register but D, or those that MOVXW indexes, every predicate and flag, all memory, every
special register and every other part of the machine (the threads that issue go on, and latches, prefetches and counters of issues may move). -/
def Obligations.RegisterResultFrame : Prop := ∀ (c : Ctl) (o : OpsV) (d : VReg) (imm : BitVec 32) (e : BitVec 3) (k : BitVec 4) (m : Mods) (i : Instr) (s t : State),
  (i ∈ [.iadd c o, .isub c o, .imul c o, .imulh c o, .imad c o, .imadw c o, .isad c o, .idiv c o, .irem c o, .iabs c o, .ineg c o, .imin c o, .imax c o, .iadds c o,
    .and c o, .or c o, .xor c o, .andn c o, .not c o, .brev c o, .popc c o, .clz c o, .ctz c o, .bfx c o, .bfi c o, .bperm c o, .shl c o, .shr c o, .sar c o,
    .rol c o, .mov c o, .movi c d imm, .sel c o, .movx c o, .ballot c o, .affine c o, .laneix c o, .scan c o, .red c o, .shfl c o, .bcast c o, .confl c o, .cmbn c o, .bscale c o,
    .efmov c false d e, .clget c d k m, .loop c d imm] →
   Ends i s t → Frame i s t none false) ∧
  (Ends (.movxw c o) s t → FrameBut (.movxw c o) s t (fun w n l => ∃ mm, mm ∈ acting (.movxw c o) s ∧ mm.w = w ∧ ∃ j, mm.lanes.getLsbD j = true ∧
    n = (opA (.movxw c o) s.advance j).toNat % 2 ^ 32 + o.m.imm.toNat ∧ ((s.warp w).cls n = .gen → l = j)) none false fun _ w => w)

/-- What an instruction on floating-point registers leaves alone: as `RegisterResultFrame`, but for FPFLAGS; PACK4, PACK6 and PACK8 may write the
register after D too, CVTEF, EFCLR and EFMOV to a companion write that companion in the active lanes, and PIVCHK counts in the warp's pivot count. -/
def Obligations.FloatResultFrame : Prop := ∀ (c : Ctl) (o : OpsV) (e : BitVec 3) (d : VReg) (i : Instr) (s t : State),
  let comp := fun (e : Nat) (m : Mask) (w : Warp) => (lanesOf m).foldl (fun w l => { w with efs := smDel w.efs (32 * e + l) }) w
  (i ∈ [.fadd c o, .fsub c o, .fmul c o, .ffma c o, .fmin c o, .fmax c o, .fclass c o, .fround c o, .fscalb c o, .fsat c o, .fdot2 c o, .fmul2 c o, .ffma2 c o, .trstep c o, .cvt c o, .cvti c o,
    .cvtf c o, .unpk c o, .flagrd c o] → Ends i s t → Frame i s t none true) ∧
  (i ∈ [.pack4 c o, .pack6 c o, .pack8 c o] → Ends i s t → FrameBut i s t (fun w n l => written i s w n l ∨
    ∃ mm, mm ∈ acting i s ∧ mm.w = w ∧ mm.lanes.getLsbD l = true ∧ ∃ k, o.d = .v k ∧ n = k + 1) none true fun _ w => w) ∧
  (Ends (.cvtef c o) s t → FrameBut (.cvtef c o) s t (written (.cvtef c o) s) none true (comp (o.m.imm.toNat % 8))) ∧
  (i ∈ [.efclr c e, .efmov c true d e] → Ends i s t → FrameBut i s t noReg none false (comp e.toNat)) ∧
  (Ends (.pivchk c o) s t → FrameBut (.pivchk c o) s t (written (.pivchk c o) s) none true fun _ w => { w with pvcnt := 0 })

/-- What an instruction that writes a predicate leaves alone: every register (but D of IADDC and ISUBB), every other predicate and its own in the
lanes that are not active, the flags but for FCMP's, and all memory; and that branches and hints change no register, predicate, flag or memory. CALL, CALLX and
RET change the return stacks of the active threads and the code object that they run in, CLEN, CLWAIT, CLDROP and CLSET their clause register and who waits at it,
FLAGCLR the flags, and RMODE the rounding mode. -/
def Obligations.PredicateAndBranchFrame : Prop := ∀ (c : Ctl) (o : OpsV) (p : OpsPC) (q : OpsPP) (m : Mods) (b : BitVec 4) (off : BitVec 32) (d : VReg) (s t : State),
  (∀ i n, (i, n) ∈ [(Instr.icmp c p, p.p.val), (.pand c q, q.p.val), (.por c q, q.p.val), (.pxor c q, q.p.val), (.pnot c q, q.p.val), (.pmov c q, q.p.val),
      (.vote c q, q.p.val), (.iaddc c o, o.m.imm.toNat % 16), (.isubb c o, o.m.imm.toNat % 16)] →
    Ends i s t → Frame i s t (some n) false) ∧
  (Ends (.fcmp c p) s t → Frame (.fcmp c p) s t (some p.p.val) true) ∧
  (∀ i, i ∈ [.nop c m, .bra c off, .brx c o, .brany c b off, .brall c b off, .ipref c off] → Ends i s t → Frame i s t none false) ∧
  (∀ i, i ∈ [.call c off, .callx c o, .ret c m] → Ends i s t →
    FrameBut i s t noReg none false fun l w => w.modThreads l fun _ th => { th with obj := 0, rstack := [] }) ∧
  (∀ i, i ∈ [.clen c b, .cldrop c b, .clset c b d m] → Ends i s t → FrameBut i s t noReg none false fun _ w =>
    { w with clauses := smDel w.clauses b.toNat, threads := w.threads.map (offClause b.toNat) }) ∧
  (Ends (.clwait c b) s t → FrameBut (.clwait c b) s t noReg none false fun l w => { w with
    clauses := smDel w.clauses b.toNat
    threads := w.threads.mapIdx fun j th => if l.getLsbD j then { th with wait := .none } else offClause b.toNat th }) ∧
  (Ends (.flagclr c m) s t → FrameBut (.flagclr c m) s t noReg none true fun _ w => w) ∧
  (Ends (.rmode c m) s t → FrameBut (.rmode c m) s t noReg none false fun _ w => { w with fprnd := 0 })

/-- The loads and PRWAIT leave every byte of memory as it was, and a store every byte outside those that its active lanes store at ea(L) (R266 to R269):
also where they trap. -/
def Obligations.LoadAndStoreMemoryFrame : Prop := ∀ (c : Ctl) (o : OpsM) (s t : State) (sd : Side) (a : Nat), (∀ q, s.cur.unit ≠ .stream q) →
  (∀ i, i ∈ [.ld c o, .ldnp c o, .ldv c o, .ldu c o, .prwait c o] → exec i s = .next t → t.readN sd a 1 = s.readN sd a 1) ∧
  (∀ i k op, (i, k, op) ∈ [(Instr.st c o, tyBytes o.m.ty, opdM o (o.m.sub == 1)), (.stv c o, vecBytes o.m, opdM o (o.m.sub.getLsbD 0))] → exec i s = .next t →
    (∀ l, (act i s).getLsbD l = true → ¬ (op.side s.advance l = sd ∧ op.ea s.advance l ≤ a ∧ a < op.ea s.advance l + k)) →
    t.readN sd a 1 = s.readN sd a 1)

/-- Taking a trap. The vector is c31, and it may be entered exactly where it is usable, may be executed, names a code object, and LOWER is a multiple of 12
with LOWER + 12 within UPPER. Where the block's vector may be entered, every thread of the group in that block enters its
handler at LOWER / 12 with one age stamp, its warp holds the trap registers, and nothing else of the block changes; where it may not, the block
stops with the trap at once (log entry 11); TRINFO is the trap's value for the warp's lowest trapping lane, and what is for every warp where none of its lanes has
raised it (R308; log entry 21); and where an older long-latency instruction is outstanding, the group waits for it (R61, R427 to R429, R431, R447). -/
def Obligations.TrapEntry : Prop := ∀ (s : State) (t : TrapReq) (m : Member) (b : Block),
  m ∈ s.cur.mems → (s.cur.mems.map fun x => x.w).Nodup → s.block? m.w.core m.w.seq = some b → b.stop = none →
  let s' := raiseTrap t s
  let c31 := b.cap 31
  let mine := fun (x : Member) => x.w.core = m.w.core ∧ x.w.seq = m.w.seq
  let enters := (s.core m.w.core).agtctl.getLsbD 0 = true ∧ s.vectorOk b = true ∧ ∀ x, x ∈ s.cur.mems → mine x → (s.warp x.w).trap = none
  (s.vectorOk b = true ↔ s.usable b.part c31 = true ∧ c31.right 2 = true ∧ (∃ o, s.capObj c31 = some o ∧ o.kind = .code) ∧
    c31.lower.toNat % 12 = 0 ∧ c31.lower.toNat + 12 ≤ c31.upper.toNat) ∧
  (olderPending s.cur s = false → enters →
    (s'.warp m.w).trap = some { cause := t.cause.code, pc := s.cur.pc, obj := s.cur.obj, lanes := t.lanes &&& m.lanes,
                                info := smGetD t.infos ((lanesOf (t.lanes &&& m.lanes)).headD 32) t.info } ∧
    (∀ l, l < (s.warp m.w).threads.length → (s'.warp m.w).thread l = if m.lanes.getLsbD l then
      { (s.warp m.w).thread l with pc := BitVec.ofNat 32 (c31.lower.toNat / 12), obj := c31.oid, inH := true, ret := false, wait := .none,
                                   stamp := s.clock + 1, yld := [], yclk := false } else (s.warp m.w).thread l) ∧
    { s'.warp m.w with trap := none, threads := [] } = { s.warp m.w with trap := none, threads := [] } ∧
    { s'.block m.w.core m.w.seq with warps := [] } = { b with warps := [] } ∧ (∀ k, k < 3 → s'.slot k = none)) ∧
  (olderPending s.cur s = false → ¬ enters → (∃ x, x ∈ s.cur.mems ∧ mine x ∧ (s'.block m.w.core m.w.seq).stop = some (.trap (t.infoFor s.cur x))) ∧
    s'.warp m.w = s.warp m.w) ∧
  (olderPending s.cur s = true → s'.deferred = s.deferred ++ [{ grp := s.cur, cause := t.cause, lanes := t.lanes, info := t.info, infos := t.infos }] ∧
    { s'.warp m.w with threads := [] } = { s.warp m.w with threads := [] } ∧
    (∀ l, l < (s.warp m.w).threads.length → m.lanes.getLsbD l = true → ((s'.warp m.w).thread l).wait = .deferred)) ∧
  (∀ w : WRef, w ∉ (s.cur.mems.map fun x => x.w) → s'.warp w = s.warp w) ∧
  { s' with cores := s.cores, clock := s.clock, deferred := s.deferred } = s

/-- Every instruction's word decodes to the instruction: each constructor with an encoding, with every operand at every value that the encoding
admits (chapter 3, and the encoding tables of the groups). -/
def Obligations.DecodeOfEncode : Prop := ∀ (i : Instr) (r : Raw), i.wf = true → i.raw = some r → decodeWord r.pack = .ok i

/-- No step lowers the minimum security version that the part has recorded: a start and a firmware activation keep it or raise it (chapter 19). -/
def Obligations.MinimumSecurityVersionNeverFalls : Prop := ∀ (n : BitVec 32) (s t : State), n ≤ s.sys.svnMin → step s = .next t → n ≤ t.sys.svnMin

/-- At cold power-on the model holds a minimum security version of 0 (log entry 1), so every image passes the version check. -/
def Obligations.MinimumSecurityVersionAtReset : Prop := State.reset.sys.svnMin = 0 ∧ ∀ v : BitVec 32, ¬ (v < State.reset.sys.svnMin)

/-! ## Integer and lane instructions (chapter 9) -/

/-- IADD, ISUB, IMUL, IMAD, IABS, INEG, IMIN and IMAX (R189): the exact result, wrapped or clamped in the type (R184). IADD and ISUB keep an affine
shape (R148, R186). -/
def Obligations.IntegerArithmeticResults : Prop := ∀ (c : Ctl) (o : OpsV) (s : State),
  Gives (.iadd c o) s (sumShp (usesOf (.iadd c o)) o.m) (intOf (.iadd c o) o.m fun a b _ => a + b) (sumAff (usesOf (.iadd c o)) (· + ·)) ∧
  Gives (.isub c o) s (sumShp (usesOf (.isub c o)) o.m) (intOf (.isub c o) o.m fun a b _ => a - b) (sumAff (usesOf (.isub c o)) (· - ·)) ∧
  GivesAuto (.imul c o) s (intOf (.imul c o) o.m fun a b _ => a * b) ∧
  GivesAuto (.imad c o) s (intOf (.imad c o) o.m fun a b d => d + a * b) ∧
  GivesAuto (.iabs c o) s (intOf (.iabs c o) o.m fun a _ _ => if a < 0 then -a else a) ∧
  GivesAuto (.ineg c o) s (intOf (.ineg c o) o.m fun a _ _ => -a) ∧
  GivesAuto (.imin c o) s (intOf (.imin c o) o.m fun a b _ => if a ≤ b then a else b) ∧
  GivesAuto (.imax c o) s (intOf (.imax c o) o.m fun a b _ => if a ≤ b then b else a)

/-- IMULH, IADDS, IMADW, ISAD, IADDC and ISUBB: the high half, the scaled sum, the wide product, the sum of absolute differences and the carry chain
with its predicate (R190, R191, R198). -/
def Obligations.WideAndCarryResults : Prop := ∀ (c : Ctl) (o : OpsV) (s : State),
  GivesAuto (.imulh c o) s (intOf (.imulh c o) o.m fun a b _ => a * b / 2 ^ o.m.ty.bits) ∧
  GivesAuto (.iadds c o) s (intOf (.iadds c o) o.m fun a b _ => a + b * 2 ^ o.m.sub.toNat) ∧
  GivesAuto (.imadw c o) s (fun r l => wrInt (fitInt (if o.m.ty.signed then .i64 else .n64) o.m.sat
    (rdInt (if o.m.ty.signed then .i64 else .n64) (opD (.imadw c o) r l) + rdInt o.m.ty (opA (.imadw c o) r l) * rdInt o.m.ty (opB (.imadw c o) r l)))) ∧
  GivesAuto (.isad c o) s (fun r l => wrInt (fitInt .n32 o.m.sat
    (rdInt .n32 (opD (.isad c o) r l) + ((rdInt o.m.ty (opA (.isad c o) r l) - rdInt o.m.ty (opB (.isad c o) r l)).natAbs : Int)))) ∧
  (∀ d, (usesOf (.iaddc c o)).d = some d → Runs (.iaddc c o) s → ShapeOk (.iaddc c o) s genRule →
    let v := fun l => rdInt .n32 (opA (.iaddc c o) s.advance l) + rdInt .n32 (opB (.iaddc c o) s.advance l) +
      (if s.advance.predAt (o.m.imm.toNat % 16) l then 1 else 0)
    Completes (.iaddc c o) s ((s.advance.putD c d (act (.iaddc c o) s) fun l => wrInt (v l % 2 ^ 32)).putP (o.m.imm.toNat % 16) (act (.iaddc c o) s)
      fun l => decide (v l < 0) || decide (2 ^ 32 ≤ v l))) ∧
  (∀ d, (usesOf (.isubb c o)).d = some d → Runs (.isubb c o) s → ShapeOk (.isubb c o) s genRule →
    let v := fun l => rdInt .n32 (opA (.isubb c o) s.advance l) - rdInt .n32 (opB (.isubb c o) s.advance l) -
      (if s.advance.predAt (o.m.imm.toNat % 16) l then 1 else 0)
    Completes (.isubb c o) s ((s.advance.putD c d (act (.isubb c o) s) fun l => wrInt (v l % 2 ^ 32)).putP (o.m.imm.toNat % 16) (act (.isubb c o) s)
      fun l => decide (v l < 0) || decide (2 ^ 32 ≤ v l)))

/-- IDIV and IREM (R192): where no lane divides by zero, the quotient truncated toward zero and its remainder; by zero, without saturation IDIVZ in
exactly the active lanes whose divisor is zero, and with it the bound of the type and the dividend. -/
def Obligations.DivisionResults : Prop := ∀ (c : Ctl) (o : OpsV) (s : State),
  (divZero (.idiv c o) o.m s = 0 → GivesAuto (.idiv c o) s (intOf (.idiv c o) o.m fun a b _ => divide o.m.ty false a b)) ∧
  (divZero (.irem c o) o.m s = 0 → GivesAuto (.irem c o) s (intOf (.irem c o) o.m fun a b _ => divide o.m.ty true a b)) ∧
  (∀ (t : Ty) (a b : Int), b ≠ 0 → divide t false a b = a.tdiv b ∧ divide t true a b = a - b * a.tdiv b) ∧
  (Runs (.idiv c o) s → ShapeOk (.idiv c o) s (autoRule (usesOf (.idiv c o))) → o.m.sat = false → divZero (.idiv c o) o.m s ≠ 0 →
    Traps (.idiv c o) s { cause := .idivz, lanes := divZero (.idiv c o) o.m s }) ∧
  (Runs (.irem c o) s → ShapeOk (.irem c o) s (autoRule (usesOf (.irem c o))) → o.m.sat = false → divZero (.irem c o) o.m s ≠ 0 →
    Traps (.irem c o) s { cause := .idivz, lanes := divZero (.irem c o) o.m s }) ∧
  (o.m.sat = true → GivesAuto (.idiv c o) s (intOf (.idiv c o) o.m fun a b _ => divide o.m.ty false a b)) ∧
  (o.m.sat = true → GivesAuto (.irem c o) s (intOf (.irem c o) o.m fun a b _ => divide o.m.ty true a b)) ∧
  (∀ (t : Ty) (a : Int), divide t true a 0 = a ∧ divide t false a 0 = if t.signed = true ∧ a < 0 then t.lo else t.hi)

/-- AND, OR, XOR, ANDN, NOT, BREV, POPC, CLZ, CTZ, BFX, BFI and BPERM: the low w bits of the operation, or the count; and SHL, SHR, SAR and ROL: counts of
w and more shift everything out, and the count of ROL is taken modulo w (R193 to R197). -/
def Obligations.BitwiseAndShiftResults : Prop := ∀ (c : Ctl) (o : OpsV) (s : State),
  (GivesAuto (.and c o) s (bitsOp (.and c o) o.m fun a b => a &&& b) ∧
   GivesAuto (.or c o) s (bitsOp (.or c o) o.m fun a b => a ||| b) ∧
   GivesAuto (.xor c o) s (bitsOp (.xor c o) o.m fun a b => a ^^^ b) ∧
   GivesAuto (.andn c o) s (bitsOp (.andn c o) o.m fun a b => a &&& ~~~b) ∧
   GivesAuto (.not c o) s (bitsOp (.not c o) o.m fun a _ => ~~~a) ∧
   GivesAuto (.brev c o) s (fun r l => (((opA (.brev c o) r l).setWidth o.m.ty.bits).reverse).setWidth 64) ∧
   GivesAuto (.popc c o) s (fun r l => BitVec.ofNat 64 (popcount o.m.ty.bits (lowBits o.m.ty (opA (.popc c o) r l)).toNat)) ∧
   GivesAuto (.clz c o) s (fun r l => BitVec.ofNat 64 (leadZeros o.m.ty.bits (lowBits o.m.ty (opA (.clz c o) r l)).toNat)) ∧
   GivesAuto (.ctz c o) s (fun r l => BitVec.ofNat 64 (trailZeros o.m.ty.bits (lowBits o.m.ty (opA (.ctz c o) r l)).toNat)) ∧
   GivesAuto (.bfx c o) s (fun r l => bfx o.m.ty (opA (.bfx c o) r l) (opB (.bfx c o) r l)) ∧
   GivesAuto (.bfi c o) s (fun r l => bfi o.m.ty (opA (.bfi c o) r l) (opB (.bfi c o) r l) (opD (.bfi c o) r l)) ∧
   GivesAuto (.bperm c o) s (fun r l =>
     let x := (opD (.bperm c o) r l).toNat % 2 ^ 32 * 2 ^ 32 + (opA (.bperm c o) r l).toNat % 2 ^ 32
     let y := (opB (.bperm c o) r l).toNat
     BitVec.ofNat 64 ((List.range 4).foldl (fun n j => n + bpermByte x y j * 256 ^ j) 0))) ∧
  (GivesAuto (.shl c o) s (fun r l => wrInt (fitInt o.m.ty o.m.sat (rdInt o.m.ty (opA (.shl c o) r l) * 2 ^ shiftCount (opB (.shl c o) r l)))) ∧
   GivesAuto (.shr c o) s (fun r l => lowBits o.m.ty (opA (.shr c o) r l) >>> shiftCount (opB (.shr c o) r l)) ∧
   GivesAuto (.sar c o) s (fun r l => lowBits o.m.ty (BitVec.ofInt 64
     (((opA (.sar c o) r l).setWidth o.m.ty.bits).toInt / 2 ^ shiftCount (opB (.sar c o) r l)))) ∧
   GivesAuto (.rol c o) s (fun r l =>
     (((opA (.rol c o) r l).setWidth o.m.ty.bits).rotateLeft ((opB (.rol c o) r l).toNat % 2 ^ 32 % o.m.ty.bits)).setWidth 64))

/-- MOV, MOVI, SEL, MOVX and MOVXW: the value, the immediate, the operand that the predicate selects, and the register that the sum of A
and the immediate names (R200 to R202). -/
def Obligations.MoveResults : Prop := ∀ (c : Ctl) (o : OpsV) (s : State),
  Gives (.mov c o) s (fun r m => srcShp (r.warp m.w) o.a) (fun r l => lowBits o.m.ty (opA (.mov c o) r l)) (fun r m => r.affOf { r := o.a } m) ∧
  (∀ d imm, Gives (.movi c d imm) s uniRule (fun _ _ => imm.setWidth 64)) ∧
  Gives (.sel c o) s genRule (fun r l => lowBits o.m.ty
    (if r.predAt (o.m.imm.toNat % 16) l != o.m.imm.getLsbD 4 then opA (.sel c o) r l else opB (.sel c o) r l)) ∧
  (indexChk o (act (.movx c o) s) s.advance = .ok () →
    Gives (.movx c o) s genRule (fun r l => ((r.warpAt l).readReg ((opA (.movx c o) r l).toNat % 2 ^ 32 + o.m.imm.toNat) l).setWidth 64)) ∧
  (Runs (.movxw c o) s → indexChk o (act (.movxw c o) s) s.advance = .ok () → (acting (.movxw c o) s).all (movxwOk s.advance o) →
    Completes (.movxw c o) s (s.advance.modMembers (acting (.movxw c o) s) (movxwPut s.advance o)))

/-- ICMP, PAND, POR, PXOR, PNOT, PMOV and VOTE write their predicate in the active lanes: the relation of the operands, the bit operation on
the predicates with their negations, or the vote over the warp's active lanes (R203 to R205). -/
def Obligations.PredicateResults : Prop := ∀ (c : Ctl) (o : OpsPC) (q : OpsPP) (s : State),
  let a := fun (r : State) l => r.predAt q.a.toNat l != q.m.sub.getLsbD 0
  let b := fun (r : State) l => r.predAt q.b.toNat l != q.m.sub.getLsbD 1
  (Runs (.icmp c o) s → ShapeOk (.icmp c o) s genRule → Completes (.icmp c o) s (s.advance.putP o.p.val (act (.icmp c o) s) fun l =>
    compare o.m.sub.toNat (rdInt o.m.ty (opA (.icmp c o) s.advance l)) (rdInt o.m.ty (opB (.icmp c o) s.advance l)))) ∧
  (Runs (.pand c q) s → Completes (.pand c q) s (s.advance.putP q.p.val (act (.pand c q) s) fun l => a s.advance l && b s.advance l)) ∧
  (Runs (.por c q) s → Completes (.por c q) s (s.advance.putP q.p.val (act (.por c q) s) fun l => a s.advance l || b s.advance l)) ∧
  (Runs (.pxor c q) s → Completes (.pxor c q) s (s.advance.putP q.p.val (act (.pxor c q) s) fun l => a s.advance l != b s.advance l)) ∧
  (Runs (.pnot c q) s → Completes (.pnot c q) s (s.advance.putP q.p.val (act (.pnot c q) s) fun l => !(a s.advance l))) ∧
  (Runs (.pmov c q) s → Completes (.pmov c q) s (s.advance.putP q.p.val (act (.pmov c q) s) fun l => a s.advance l)) ∧
  (Runs (.vote c q) s → Completes (.vote c q) s (s.advance.modMembers (acting (.vote c q) s) fun m w =>
    w.putPred q.p.val m.lanes (if voteOn q.m.sub.toNat (w.pred q.a.toNat) m.lanes then BitVec.allOnes 32 else 0)))

/-- BALLOT, AFFINE, LANEIX, SCAN and RED over the active lanes of each warp, and CONFL and CMBN: the earlier, or all, active lanes of the warp with the
same key, and the combined value in the first of them (R205, R207, R208, R313, R314). -/
def Obligations.CrossLaneAndConflictResults : Prop := ∀ (c : Ctl) (o : OpsV) (s : State),
  (Gives (.ballot c o) s uniRule (fun r l => (maskOf fun j => (r.mates (act (.ballot c o) s) l).getLsbD j &&
     (r.predAt (o.m.imm.toNat % 16) j != o.m.imm.getLsbD 4)).setWidth 64) ∧
   (((acting (.affine c o) s).all fun m => autoShp (usesOf (.affine c o)) (s.advance.warp m.w) == .uni) → Gives (.affine c o) s (fun _ _ => .aff)
     (fun r l => ((opA (.affine c o) r l).setWidth 32 + BitVec.ofNat 32 l * (opB (.affine c o) r l).setWidth 32).setWidth 64)
     (fun r m => ((opA (.affine c o) r ((lanesOf m.lanes).headD 0)).setWidth 32, (opB (.affine c o) r ((lanesOf m.lanes).headD 0)).setWidth 32))) ∧
   (o.m.sub = 0 → Gives (.laneix c o) s (fun _ _ => .aff) (fun _ l => BitVec.ofNat 64 l) (fun _ _ => (0, 1))) ∧
   (o.m.sub = 1 → Gives (.laneix c o) s genRule
     (fun r l => BitVec.ofNat 64 ((lanesOf (r.mates (act (.laneix c o) s) l)).filter (· < l)).length) (fun _ _ => (0, 1))) ∧
   (o.m.sub = 2 → Gives (.laneix c o) s uniRule (fun r l => BitVec.ofNat 64 (laneCount (r.mates (act (.laneix c o) s) l))) (fun _ _ => (0, 1))) ∧
   (o.m.sub = 3 → Gives (.laneix c o) s uniRule (fun r l => (r.mates (act (.laneix c o) s) l).setWidth 64) (fun _ _ => (0, 1))) ∧
   Gives (.scan c o) s genRule (fun r l => wrInt (foldLanes o.m.ty o.m.sat (o.m.sub.toNat % 8) (fun j => rdInt o.m.ty (opA (.scan c o) r j))
     ((lanesOf (r.mates (act (.scan c o) s) l)).filter fun j => if o.m.sub.getLsbD 3 then j < l else j ≤ l))) ∧
   Gives (.red c o) s uniRule (fun r l => wrInt (foldLanes o.m.ty o.m.sat (o.m.sub.toNat % 8) (fun j => rdInt o.m.ty (opA (.red c o) r j))
     (lanesOf (r.mates (act (.red c o) s) l))))) ∧
  (Gives (.confl c o) s genRule (fun r l => (maskOf fun j => ((warpLanes r (act (.confl c o) s) l).filter fun j =>
     keyOf r (usesOf (.confl c o)) j == keyOf r (usesOf (.confl c o)) l && (o.m.sub == 0 || decide (j < l))).contains j).setWidth 64) ∧
   Gives (.cmbn c o) s genRule (fun r l =>
     match (warpLanes r (act (.cmbn c o) s) l).filter fun j => keyOf r (usesOf (.cmbn c o)) j == keyOf r (usesOf (.cmbn c o)) l with
     | q :: t => if q = l then t.foldl (fun a k => cmbnOp o.m.sub.toNat o.m.ty o.m.sat a (opB (.cmbn c o) r k)) (opB (.cmbn c o) r q)
       else cmbnIdentity o.m.sub.toNat o.m.ty
     | [] => 0))

/-- SHFL and BCAST: each lane takes A of the lane that B or the lowest active lane names; out of range SHFL keeps its own and BCAST gives 0. A
latch as A holds nothing for a lane outside its set: there the word is free (`otherLane`, log entry 4), and every other source is
A of that lane (R206). -/
def Obligations.ShuffleResults : Prop := ∀ (c : Ctl) (o : OpsV) (s : State) (d : Fld),
  let r := s.advance
  (Runs (.shfl c o) s → ShapeOk (.shfl c o) s genRule → (usesOf (.shfl c o)).d = some d →
    Completes (.shfl c o) s (spent o.a (r.putD c d (act (.shfl c o) s) fun l =>
      let j := shflLane o.m.sub.toNat l ((opB (.shfl c o) r l).toNat % 2 ^ 32)
      if 0 ≤ j ∧ j ≤ 31 then r.otherLane { r := o.a, wide := o.m.ty.is64 } (r.warpAt l) j.toNat else opA (.shfl c o) r l))) ∧
  (Runs (.bcast c o) s → ShapeOk (.bcast c o) s uniRule → (usesOf (.bcast c o)).d = some d →
    ((acting (.bcast c o) s).all fun m => (usesOf (.bcast c o)).b.toList.all fun f => srcShp (r.warp m.w) f.r == .uni) →
    Completes (.bcast c o) s (spent o.a (r.putD c d (act (.bcast c o) s) fun l =>
      let j := if o.m.sub == 1 then (lanesOf (r.mates (act (.bcast c o) s) l)).headD 0 else (opB (.bcast c o) r l).toNat % 2 ^ 32
      if j ≤ 31 then r.otherLane { r := o.a, wide := o.m.ty.is64 } (r.warpAt l) j else 0))) ∧
  (∀ (r : State) (w : Warp) (j : Nat), (∀ k, o.a ≠ .latch k) →
    r.otherLane { r := o.a, wide := o.m.ty.is64 } w j = r.srcW w { r := o.a, wide := o.m.ty.is64 } j)

/-! ## Floating point and conversion (chapter 10) -/

/-- FADD, FSUB, FMUL, FFMA and TRSTEP: the exact sum or product of values, rounded once; and FMIN, FMAX, FCLASS, FROUND, FSCALB, FSAT, FDOT2, FMUL2 and
FFMA2 (R217, R225, R226, R228, R231 to R235, R359).
Where the spec leaves a point open, it says what the model chose (log entries 18 and 21). -/
def Obligations.FloatResults : Prop := ∀ (c : Ctl) (o : OpsV) (s : State),
  (let t := o.m.ty
   GivesF (.fadd c o) s (fun r l => rounded o.m r l (addV (r.mode o.m l) (fA (.fadd c o) t r l) (fB (.fadd c o) t r l))) ∧
   GivesF (.fsub c o) s (fun r l => rounded o.m r l (addV (r.mode o.m l) (fA (.fsub c o) t r l) (negV (fB (.fsub c o) t r l)))) ∧
   GivesF (.fmul c o) s (fun r l => rounded o.m r l (mulV (fA (.fmul c o) t r l) (fB (.fmul c o) t r l))) ∧
   GivesF (.ffma c o) s (fun r l => rounded o.m r l
     (addV (r.mode o.m l) (fD (.ffma c o) t r l) (mulV (fA (.ffma c o) t r l) (fB (.ffma c o) t r l)))) ∧
   GivesF (.trstep c o) s (fun r l => rounded o.m r l
     (mulV (addV (r.mode o.m l) (fD (.trstep c o) t r l) (negV (fA (.trstep c o) t r l))) (fB (.trstep c o) t r l)))) ∧
  (let t := o.m.ty
   let n := (fmtOf t).bits
   GivesF (.fmin c o) s (fun r l => minMax (fmtOf t) false ((opA (.fmin c o) r l).toNat % 2 ^ n) ((opB (.fmin c o) r l).toNat % 2 ^ n)) ∧
   GivesF (.fmax c o) s (fun r l => minMax (fmtOf t) true ((opA (.fmax c o) r l).toNat % 2 ^ n) ((opB (.fmax c o) r l).toNat % 2 ^ n)) ∧
   GivesF (.fclass c o) s (fun r l => { v := 2 ^ classBit (fmtOf t) (fA (.fclass c o) t r l) }) ∧
   GivesF (.fround c o) s (fun r l => froundV (fmtOf t) (r.mode o.m l) (o.m.sub == 1) (fA (.fround c o) t r l)) ∧
   GivesF (.fscalb c o) s (fun r l => (fmtOf t).write (r.mode o.m l) (o.m.sat && (fA (.fscalb c o) t r l).isFin)
     (scaleV (fA (.fscalb c o) t r l) (rdInt .i32 (opB (.fscalb c o) r l)))) ∧
   GivesF (.fsat c o) s (fun r l => fsatV (fmtOf t) (o.m.sub == 1) (fA (.fsat c o) t r l)) ∧
   GivesF (.fdot2 c o) s (fun r l =>
     let p := fun j => mulV (elemAt (fmtOf t) (opA (.fdot2 c o) r l) j) (elemAt (fmtOf t) (opB (.fdot2 c o) r l) j)
     let d := fD (.fdot2 c o) .f32 r l
    let x := addV (r.mode o.m l) (addV (r.mode o.m l) d (p 0)) (p 1)
    let opposite := (d = .inf true ∨ p 0 = .inf true ∨ p 1 = .inf true) ∧ (d = .inf false ∨ p 0 = .inf false ∨ p 1 = .inf false)
    fmtF32.write (r.mode o.m l) o.m.sat (if opposite then addV (r.mode o.m l) x (.nan true) else x)) ∧
   GivesF (.fmul2 c o) s (fun r l => (List.range (64 / n)).foldl (fun acc j =>
     let x := rounded o.m r l (mulV (elemAt (fmtOf t) (opA (.fmul2 c o) r l) j) (elemAt (fmtOf t) (opB (.fmul2 c o) r l) j))
     { v := acc.v + x.v * 2 ^ (n * j), fl := acc.fl ||| x.fl }) { v := 0 }) ∧
   GivesF (.ffma2 c o) s (fun r l => (List.range (64 / n)).foldl (fun acc j =>
     let x := rounded o.m r l (addV (r.mode o.m l) (elemAt (fmtOf t) (opD (.ffma2 c o) r l) j)
       (mulV (elemAt (fmtOf t) (opA (.ffma2 c o) r l) j) (elemAt (fmtOf t) (opB (.ffma2 c o) r l) j)))
     { v := acc.v + x.v * 2 ^ (n * j), fl := acc.fl ||| x.fl }) { v := 0 }))

/-- FRCP, FRSQ, FEX2, FLG2, FSIN, FCOS, DDIV and DSQRT start as long-latency instructions with their rounded results and flags (R229, R230, R357).
Where the spec leaves a point open, it says what the model chose (log entries 12 and 110). -/
def Obligations.LongFloatResults : Prop := ∀ (c : Ctl) (o : OpsV) (s : State),
  let one := fun (i : Instr) (f : FVal → FVal × FpFlags) (r : State) (l : Nat) =>
    let x := f (fA i o.m.ty r l)
    ({ rounded o.m r l x.1 with fl := (rounded o.m r l x.1).fl ||| x.2 } : FRes)
  StartsF (.frcp c o) s (one (.frcp c o) rcpV) ∧
  StartsF (.frsq c o) s (one (.frsq c o) rsqV) ∧
  StartsF (.fex2 c o) s (one (.fex2 c o) exp2V) ∧
  StartsF (.flg2 c o) s (one (.flg2 c o) log2V) ∧
  StartsF (.fsin c o) s (one (.fsin c o) sinV) ∧
  StartsF (.fcos c o) s (one (.fcos c o) cosV) ∧
  StartsF (.ddiv c o) s (fun r l =>
    let q := divV (fA (.ddiv c o) o.m.ty r l) (fB (.ddiv c o) o.m.ty r l)
    { rounded o.m r l q.1 with fl := (rounded o.m r l q.1).fl ||| q.2 }) ∧
  StartsF (.dsqrt c o) s (fun r l => rounded o.m r l (sqrtV (fA (.dsqrt c o) o.m.ty r l)))

/-- CVT, CVTI and CVTF (R237 to R239), CVTEF with its companion (R240), EFCLR and EFMOV (R241), and BSCALE (R242).
Where the spec leaves a point open, it says what the model chose (log entries 17 and 18). -/
def Obligations.ConversionResults : Prop := ∀ (c : Ctl) (o : OpsV) (s : State),
  GivesF (.cvt c o) s (fun r l => cvtV (fmtOf o.m.ty) (r.mode o.m l) o.m.sat (fA (.cvt c o) (tyOfCode o.m.sub) r l)) ∧
  GivesF (.cvti c o) s (fun r l =>
    let x := cvtiV o.m.ty (r.mode o.m l) (fA (.cvti c o) (tyOfCode o.m.sub) r l)
    { v := (wrInt x.1).toNat, fl := x.2 }) ∧
  GivesF (.cvtf c o) s (fun r l =>
    let a := rdInt (tyOfCode o.m.sub) (opA (.cvtf c o) r l)
    rounded o.m r l (.num (decide (a < 0)) a.natAbs 0)) ∧
  (∀ d, (usesOf (.cvtef c o)).d = some d → Runs (.cvtef c o) s → ShapeOk (.cvtef c o) s genRule →
    let e := o.m.imm.toNat % 8
    let x := fun l => cvtefV (fmtOf o.m.ty) o.m.sat (fA (.cvtef c o) .f32 s.advance l) (fmtF32.read ((s.advance.warpAt l).companion e l).toNat)
    let fl := laneFlags s.advance (act (.cvtef c o) s) fun l => (x l).1.fl
    fpTrap s.advance s.advance.cur.mems fl = none → Completes (.cvtef c o) s (orFlags fl
      ((s.advance.putD c d (act (.cvtef c o) s) fun l => BitVec.ofNat 64 (x l).1.v).putComp e (act (.cvtef c o) s) fun l => (x l).2))) ∧
  (∀ e : BitVec 3, Runs (.efclr c e) s → Completes (.efclr c e) s (s.advance.putComp e.toNat (act (.efclr c e) s) fun _ => 0)) ∧
  (∀ (rg : VReg) (e : BitVec 3), Runs (.efmov c true rg e) s → ShapeOk (.efmov c true rg e) s genRule → Completes (.efmov c true rg e) s
    (s.advance.putComp e.toNat (act (.efmov c true rg e) s) fun l => (s.advance.src { r := rg } l).setWidth 32)) ∧
  (∀ (rg : VReg) (e : BitVec 3), Gives (.efmov c false rg e) s genRule fun r l => ((r.warpAt l).companion e.toNat l).setWidth 64) ∧
  Gives (.bscale c o) s uniRule (fun r l => BitVec.ofNat 64 (blockScale o.m.sub.toNat
    ((lanesOf (r.mates (act (.bscale c o) s) l)).map fun j => fA (.bscale c o) .f32 r j)))

/-- PACK4, PACK6 and PACK8 pack the codes of a run of lanes into each word, six-bit codes into two registers, and UNPK reads one element of each
word back, scaled (R216, R243 to R245).
Where the spec leaves a point open, it says what the model chose (log entry 16). -/
def Obligations.PackResults : Prop := ∀ (c : Ctl) (o : OpsV) (s : State) (i : Instr) (d : Fld), (usesOf i).d = some d → Runs i s → ShapeOk i s genRule →
  let k := o.m.sub.toNat
  let r := s.advance
  let e := fun l j => packLane k (r.mode o.m l) (r.mates (act i s) l) (fun n => fA i .f32 r n) (fun n => (opB i r n).toNat % 256) j
  let fl := laneFlags r (act i s) fun l => (e l l).2
  (i = .pack4 c o ∨ i = .pack6 c o ∨ i = .pack8 c o → fpTrap r r.cur.mems fl = none →
    (elemBits k ≠ 6 ∨ (elemBits k = 6 ∧ o.d = .zero) → Completes i s (orFlags fl (r.putD c d (act i s) fun l => BitVec.ofNat 64 (packWord (if elemBits k = 6 then 4 else elemBits k) 0 (fun j => (e l j).1) l)))) ∧
    (∀ n, elemBits k = 6 → o.d = .v n → r.reachChk o.d 2 [.gen] (act i s) = .ok () → Completes i s (orFlags fl
      ((r.putD c d (act i s) fun l => BitVec.ofNat 64 (packWord 4 0 (fun j => (e l j).1) l)).modMembers (r.cur.acting (act i s)) fun m w =>
        (lanesOf m.lanes).foldl (fun w l => w.putGen (n + 1) l (BitVec.ofNat 32 (packWord 2 4 (fun j => (e l j).1) l))) w)))) ∧
  (i = .unpk c o → (elemBits k = 6 → r.reachChk o.a 2 [.gen] (act i s) = .ok ()) →
    let x := fun l =>
      let sc := (opB i r l).toNat % 256
      let y := unpkElem k ((opA i r l).toNat % 2 ^ 32) (r.srcMore o.a 1 l).toNat l
      if sc = 255 || y.isNan then ({ v := fmtF32.nan } : FRes) else fmtF32.write (r.mode o.m l) o.m.sat (scaleV y ((sc : Int) - 127))
    let gl := laneFlags r (act i s) fun l => (x l).fl
    fpTrap r r.cur.mems gl = none → Completes i s (orFlags gl (r.putD c d (act i s) fun l => BitVec.ofNat 64 (x l).v)))

/-- FCMP and PIVCHK with their flags (R227, R354, R358); FLAGRD, FLAGCLR and RMODE on the flags and the mode of each acting warp (R246). -/
def Obligations.ComparisonAndFlagResults : Prop := ∀ (c : Ctl) (o : OpsV) (q : OpsPC) (m : Mods) (s : State),
  (Runs (.fcmp c q) s → ShapeOk (.fcmp c q) s genRule →
    let x := fA (.fcmp c q) q.m.ty s.advance
    let y := fB (.fcmp c q) q.m.ty s.advance
    let fl := laneFlags s.advance (act (.fcmp c q) s) fun l => fcompareFl q.m.sub.toNat (x l) (y l)
    fpTrap s.advance s.advance.cur.mems fl = none → Completes (.fcmp c q) s
      (orFlags fl (s.advance.putP q.p.val (act (.fcmp c q) s) fun l => fcompare q.m.sub.toNat (x l) (y l)))) ∧
  (∀ d, (usesOf (.pivchk c o)).d = some d → Runs (.pivchk c o) s → ShapeOk (.pivchk c o) s genRule →
    let f := fmtOf o.m.ty
    let x := fun l => pivot f ((opA (.pivchk c o) s.advance l).toNat % 2 ^ f.bits) ((opB (.pivchk c o) s.advance l).toNat % 2 ^ f.bits)
    let fl := laneFlags s.advance (act (.pivchk c o) s) fun l => (x l).1.fl
    fpTrap s.advance s.advance.cur.mems fl = none → Completes (.pivchk c o) s
      ((orFlags fl (s.advance.putD c d (act (.pivchk c o) s) fun l => BitVec.ofNat 64 (x l).1.v)).modMembers (acting (.pivchk c o) s) fun m w =>
        let n := ((lanesOf m.lanes).filter fun l => (x l).2).length
        if n = 0 then w else { w with fpflags := w.fpflags ||| flPV, pvcnt := BitVec.ofNat 32 (min (w.pvcnt.toNat + n) (2 ^ 32 - 1)) })) ∧
  (o.m.sub ≠ 1 → Gives (.flagrd c o) s uniRule fun r l => ((r.warpAt l).fpflags).setWidth 64) ∧
  (∀ d, (usesOf (.flagrd c o)).d = some d → o.m.sub = 1 → Runs (.flagrd c o) s → ShapeOk (.flagrd c o) s uniRule → Completes (.flagrd c o) s
    ((s.advance.putD c d (act (.flagrd c o) s) fun l => ((s.advance.warpAt l).fpflags).setWidth 64).modMembers (acting (.flagrd c o) s)
      fun _ w => { w with fpflags := 0 })) ∧
  (Runs (.flagclr c m) s → Completes (.flagclr c m) s (s.advance.modMembers (acting (.flagclr c m) s)
    fun _ w => { w with fpflags := w.fpflags &&& ~~~(m.imm.setWidth 6) })) ∧
  (Runs (.rmode c m) s → Completes (.rmode c m) s (s.advance.modMembers (acting (.rmode c m) s) fun _ w => { w with fprnd := m.imm.setWidth 3 }))

/-! ## Control and sequencers (chapters 8 and 14) -/

/-- NOP, BRA, BRX, BRANY, BRALL and LOOP: the active lanes go to the target, or on past the instruction (R172 to R175, R178). -/
def Obligations.BranchResults : Prop := ∀ (c : Ctl) (m : Mods) (o : OpsV) (p : BitVec 4) (off : BitVec 32) (d : VReg) (s : State),
  let dest := s.cur.pc + off
  (Runs (.nop c m) s → Completes (.nop c m) s s.advance) ∧
  (Runs (.bra c off) s → Completes (.bra c off) s (s.advance.modMembers (acting (.bra c off) s) fun mm w =>
    w.modThreads mm.lanes fun _ th => { th with pc := dest })) ∧
  (Runs (.brx c o) s → Completes (.brx c o) s (s.advance.modMembers (acting (.brx c o) s) fun mm w =>
    w.modThreads mm.lanes fun l th => { th with pc := (opA (.brx c o) s.advance l).setWidth 32 })) ∧
  (Runs (.brany c p off) s → Completes (.brany c p off) s (s.advance.modMembers (acting (.brany c p off) s) fun mm w =>
    w.modThreads mm.lanes fun _ th => if w.pred p.toNat &&& mm.lanes ≠ 0 then { th with pc := dest } else th)) ∧
  (Runs (.brall c p off) s → Completes (.brall c p off) s (s.advance.modMembers (acting (.brall c p off) s) fun mm w =>
    w.modThreads mm.lanes fun _ th => if w.pred p.toNat &&& mm.lanes = mm.lanes then { th with pc := dest } else th)) ∧
  (Runs (.loop c d off) s → ShapeOk (.loop c d off) s (fun r mm => srcShp (r.warp mm.w) d) →
    let v := fun l => (s.advance.src { r := d } l).setWidth 32 - (1 : Word)
    Completes (.loop c d off) s (goTo (act (.loop c d off) s) (fun l => if v l = 0 then none else some dest)
      (s.advance.putD c { r := d } (act (.loop c d off) s) (fun l => (v l).setWidth 64)
        fun mm => ((s.advance.affOf { r := d } mm).1 - 1, (s.advance.affOf { r := d } mm).2))))

/-- CALL, CALLX and RET: a full return stack or an empty one raises SPILLOVF in its lanes; else the place after the call is pushed and the lanes go to
the target, or it is popped and they go there. EXIT and TEND end the active threads, YIELD makes the group wait for the other ready
threads and for its clocks, and IPREF asks for the lines at its offset (R176, R177, R179 to R181, R419).
Where the spec leaves a point open, it says what the model chose (log entry 92). -/
def Obligations.CallReturnAndEndResults : Prop := ∀ (c : Ctl) (m : Mods) (o : OpsV) (off : BitVec 32) (s : State),
  (let full := fun (i : Instr) => s.advance.lanesWith (act i s) fun _ th => decide (16 ≤ th.rstack.length)
   let void := s.advance.lanesWith (act (.ret c m) s) fun _ th => th.rstack.isEmpty
   (Runs (.call c off) s → full (.call c off) = 0 → Completes (.call c off) s (s.advance.modMembers (acting (.call c off) s) fun mm w =>
     w.modThreads mm.lanes fun _ th => { th with rstack := (th.obj, s.cur.pc + 1) :: th.rstack, pc := s.cur.pc + off })) ∧
   (Runs (.call c off) s → full (.call c off) ≠ 0 → Traps (.call c off) s { cause := .spillovf, lanes := full (.call c off), info := 1 }) ∧
   (Runs (.callx c o) s → callxChk s.advance (o.m.imm.toNat % 32) o (act (.callx c o) s) = .ok () → full (.callx c o) = 0 →
     let cap := fun l => (s.advance.blockAt l).cap (o.m.imm.toNat % 32)
     Completes (.callx c o) s (s.advance.modMembers (acting (.callx c o) s) fun mm w =>
       w.modThreads mm.lanes fun l th => { th with
         rstack := (th.obj, s.cur.pc + 1) :: th.rstack
         obj := (cap l).oid
         pc := BitVec.ofNat 32 ((cap l).lower.toNat / 12) + (opA (.callx c o) s.advance l).setWidth 32 })) ∧
   (Runs (.callx c o) s → callxChk s.advance (o.m.imm.toNat % 32) o (act (.callx c o) s) = .ok () → full (.callx c o) ≠ 0 →
     Traps (.callx c o) s { cause := .spillovf, lanes := full (.callx c o), info := 1 }) ∧
   (Runs (.ret c m) s → void = 0 → Completes (.ret c m) s (s.advance.modMembers (acting (.ret c m) s) fun mm w =>
     w.modThreads mm.lanes fun _ th => match th.rstack with
       | (ob, n) :: rest => { th with rstack := rest, obj := ob, pc := n }
       | [] => th)) ∧
   (Runs (.ret c m) s → void ≠ 0 → Traps (.ret c m) s { cause := .spillovf, lanes := void, info := 2 })) ∧
  ((Runs (.exit c m) s → Completes (.exit c m) s (endThreads (act (.exit c m) s) s.advance)) ∧
   (Runs (.tend c m) s → Completes (.tend c m) s (endThreads (act (.tend c m) s) s.advance)) ∧
   (Runs (.yield c m) s → Completes (.yield c m) s ((yieldGroup s s.advance).modMembers (yieldGroup s s.advance).cur.mems fun mm w =>
     w.modThreads mm.lanes fun _ th => { th with yclk := m.imm != 0, yall := m.imm != 0 })) ∧
   (Runs (.ipref c off) s → Completes (.ipref c off) s (prefetch s.advance.cur.core s.advance.cur.obj (s.advance.cur.pc.toNat + off.toInt) s.advance)))

/-- CLEN, CLWAIT, CLDROP, CLGET and CLSET on the clause register of each acting warp (R169, R170, R182). -/
def Obligations.ClauseResults : Prop := ∀ (c : Ctl) (k : BitVec 4) (m : Mods) (d : VReg) (s : State),
  let n := k.toNat
  let r := s.advance
  (Runs (.clen c k) s → Completes (.clen c k) s (r.modMembers (acting (.clen c k) s) fun mm w =>
    w.setClause n ((w.clause n).1 ||| mm.lanes, (w.clause n).2))) ∧
  (Runs (.clwait c k) s → Completes (.clwait c k) s (r.modMembers (acting (.clwait c k) s) fun mm w =>
    let e := w.clause n
    let x := w.setClause n (e.1, e.2 ||| (mm.lanes &&& e.1))
    if (x.clause n).2 = e.1 then x.releaseClause n r.clock else x.modThreads (mm.lanes &&& e.1) fun _ th => { th with wait := .clause n })) ∧
  (Runs (.cldrop c k) s → Completes (.cldrop c k) s (r.modMembers (acting (.cldrop c k) s) fun mm w =>
    let e := w.clause n
    let x := w.setClause n (e.1 &&& ~~~mm.lanes, e.2 &&& ~~~mm.lanes)
    if x.parkedAt n = 0 then x else x.releaseClause n r.clock)) ∧
  Gives (.clget c d k m) s genRule (fun r l => (if m.sub = 0 then ((r.warpAt l).clause n).1 else ((r.warpAt l).clause n).2).setWidth 64) ∧
  (Runs (.clset c k d m) s → r.uniformChk d (act (.clset c k d m) s) = .ok () →
    Completes (.clset c k d m) s (r.modMembers (acting (.clset c k d m) s) fun mm w =>
      let v := (opA (.clset c k d m) r ((lanesOf mm.lanes).headD 0)).setWidth 32 &&& w.alive
      let e := w.clause n
      let x := if m.sub = 0 then
          (w.setClause n (v, e.2 &&& v)).modThreads (w.parkedAt n &&& ~~~v) fun _ th => { th with wait := .none, stamp := r.clock }
        else w.setClause n (e.1, v &&& e.1)
      if x.parkedAt n = 0 then x else x.releaseClause n r.clock))

/-- The instructions of a uniform sequencer: NOP, MOVI, IADD, BRA, LOOP and EXIT on its own registers and index, the stream fault ILLOP of an instruction
that it does not run, and MXLDB, MXLDA, MXMAC, MXMACS, MXZERO and MXWAIT on a sequencer whose unit is free, with 2047 as A (R335, R337 to R339, R345,
R346). -/
def Obligations.SequencerResults : Prop := ∀ (c : Ctl) (m : Mods) (o : OpsV) (off : BitVec 32) (imm : BitVec 32) (n : Fin 1536) (s : State) (q : Nat) (t : BitVec 4) (k : BitVec 4),
  (s.cur.unit = .stream q → c.gp = 15 → c.gn = false → c.hold = 0 → c.hslot = 0 → c.pf = 0 → n.val < 64 →
   let mx := (s.block s.cur.core q).mx
   let go := fun (x : Mx) => Host.Outcome.next (φ := Fault) (ρ := Refusal)
     (({ s with clock := s.clock + 1 } : State).modBlock s.cur.core q fun b => { b with mx := x })
   let mx1 : Mx := { mx with pc := s.cur.pc + 1 }
   exec (.nop c m) s = go mx1 ∧
   exec (.movi c (.v n) imm) s = go { mx1 with regs := smPut mx.regs n.val imm 0 } ∧
   (o.m.ty.bits = 32 → o.m.sat = false → o.a = .v n → o.b = .zero → o.d = .v n →
     exec (.iadd c o) s = go { mx1 with regs := smPut mx.regs n.val (smGetD mx.regs n.val 0 + o.m.immT.setWidth 32) 0 }) ∧
   exec (.bra c off) s = go { mx1 with pc := s.cur.pc + off } ∧
   (let x := smGetD mx.regs n.val 0 - 1
    exec (.loop c (.v n) off) s = go { mx1 with regs := smPut mx.regs n.val x 0, pc := if x = 0 then s.cur.pc + 1 else s.cur.pc + off }) ∧
   exec (.exit c m) s = go { mx1 with st := .ended } ∧
   exec (.isub c o) s = .next (streamFault s.cur.core q .illop 0 s) ∧
   exec (.trap c m) s = .next (streamFault s.cur.core q .illop 0 s)) ∧
  (s.cur.unit = .stream q → c.gp = 15 → c.gn = false → c.hold = 0 → c.hslot = 0 → c.pf = 0 →
   (s.core s.cur.core).owned = false → (s.block s.cur.core q).mx.ops = [] →
   let core := s.cur.core
   let r := modMx core q (fun m => { m with pc := s.cur.pc + 1, st := .running }) { s with clock := s.clock + 1 }
   (∀ x, mxLoad core q true m.imm.toNat 0 r = .next x → exec (.mxldb c .zero m) s = .next x) ∧
   (∀ x, mxLoad core q false m.imm.toNat 0 r = .next x → exec (.mxlda c .zero m) s = .next x) ∧
   (∀ x, mxMac core q false t.toNat m.imm.toNat 0 r = .next x → exec (.mxmac c t .zero m) s = .next x) ∧
   (∀ x, mxMac core q true t.toNat m.imm.toNat 0 r = .next x → exec (.mxmacs c t .zero m) s = .next x) ∧
   (∀ x, mxZero core q (m.ty == .f64) t.toNat 0 r = .next x → exec (.mxzero c t .zero m) s = .next x) ∧
   exec (.mxwait c k) s = .next (if teamMask (r.block core q) &&& ~~~(arrivals (r.block core q) k.toNat) = 0 then
       wakeWhere core q (fun w => w == .mxbar k.toNat) (modMx core q (fun m => { m with bars := smDel m.bars k.toNat }) r)
     else modMx core q (fun m => { m with pc := s.cur.pc, st := .waiting k.toNat }) r))

/-! ## Memory, copies, volumes, rows and items (chapters 11 to 13) -/

/-- LD, LDNP, LDV and LDU: one access per lane, or per warp, at the address of R266, whose data arrive when it completes; and PRTEST, PRWAIT and RLTEST:
the presence bit of each lane's line, waiting for it, and whether a store there would raise RANGELOCK (R266, R267, R269, R271, R276).
Where the spec leaves a point open, it says what the model chose (log entries 5, 9 and 27). -/
def Obligations.LoadAndPresenceResults : Prop := ∀ (c : Ctl) (o : OpsM) (s : State) (p : OpsMP),
  (let r := s.advance
   let k := tyBytes o.m.ty
   (Runs (.ld c o) s → ShapeOk (.ld c o) s genRule → (opdM o (o.m.sub == 1)).check r (act (.ld c o) s) k k [0] [.scratch] = .ok () →
     Completes (.ld c o) s (startMem c (act (.ld c o) s) (usesOf (.ld c o)).d []
       (laneSteps r (act (.ld c o) s) (opdM o (o.m.sub == 1)) k (dstReg o.d) false fun _ => .load (.ext o.m.ty)) r)) ∧
   (Runs (.ldnp c o) s → ShapeOk (.ldnp c o) s genRule → (opdM o (o.m.sub == 1)).check r (act (.ldnp c o) s) k k [0] [.scratch] = .ok () →
     Completes (.ldnp c o) s (startMem c (act (.ldnp c o) s) (usesOf (.ldnp c o)).d []
       (laneSteps r (act (.ldnp c o) s) (opdM o (o.m.sub == 1)) k (dstReg o.d) true fun _ => .load (.ext o.m.ty)) r)) ∧
   (Runs (.ldv c o) s → ShapeOk (.ldv c o) s genRule → r.reachChk o.d (vecBytes o.m / 4) [.gen] (act (.ldv c o) s) = .ok () →
     (opdM o (o.m.sub.getLsbD 0)).check r (act (.ldv c o) s) (vecBytes o.m) (vecBytes o.m) [0] [.scratch] = .ok () →
     Completes (.ldv c o) s (startMem c (act (.ldv c o) s) (usesOf (.ldv c o)).d []
       (laneSteps r (act (.ldv c o) s) (opdM o (o.m.sub.getLsbD 0)) (vecBytes o.m) (dstReg o.d) false fun _ => .load .words) r)) ∧
   (Runs (.ldu c o) s → ShapeOk (.ldu c o) s uniRule → r.uniformChk o.b (act (.ldu c o) s) = .ok () →
     (opdM o (o.m.sub == 1)).check r (act (.ldu c o) s) k k [0] [.scratch] = .ok () →
     Completes (.ldu c o) s (startMem c (act (.ldu c o) s) (usesOf (.ldu c o)).d [] ((acting (.ldu c o) s).map fun m =>
       let l := (lanesOf m.lanes).headD 0
       { w := m.w, lanes := m.lanes, side := (opdM o (o.m.sub == 1)).side r l, off := (opdM o (o.m.sub == 1)).ea r l, n := k
         act := .load (.uni o.m.ty), d := dstReg o.d }) r))) ∧
  (let r := s.advance
   let op := opdP p (p.m.sub == 1)
   (Runs (.prtest c p) s → op.check r (act (.prtest c p) s) 1 1 [0] [.scratch] = .ok () → ShapeOk (.prtest c p) s genRule →
     Completes (.prtest c p) s (startShort false (marksOf r.cur (act (.prtest c p) s) none [p.p.val])
       (laneSteps r (act (.prtest c p) s) op 1 none true fun _ => .load (.pred p.p.val)) r)) ∧
   (Runs (.prwait c o) s → (opdM o (o.m.sub == 1)).check r (act (.prwait c o) s) 1 1 [0] [.scratch] = .ok () → ShapeOk (.prwait c o) s genRule →
     Completes (.prwait c o) s (startMem c (act (.prwait c o) s) none []
       (laneSteps r (act (.prwait c o) s) (opdM o (o.m.sub == 1)) 1 none false fun _ => .load .pres) r)) ∧
   (Runs (.rltest c p) s → ShapeOk (.rltest c p) s genRule →
     let k := tyBytes p.m.ty
     let v := maskOf fun l => (act (.rltest c p) s).getLsbD l &&
       (match op.check r (laneBit l) k k [1] [.scratch] with | .ok () => true | .error _ => false) &&
       r.storeLocked r.cur.core (op.side r l) (op.ea r l) k
     Completes (.rltest c p) s (r.startOp c { id := 0, core := 0, mems := [], obj := 0, pc := 0,
                                              marks := marksOf r.cur (act (.rltest c p) s) none [p.p.val],
                                              rws := (acting (.rltest c p) s).map fun m => .pred m.w p.p.val m.lanes v })))

/-- ST and STV: each active lane stores its bytes in ascending order of lane, at once at the core's own lines and by way of the line's home otherwise, or,
where it must follow an older instruction, after it (R250, R365, R367); and LDSP and STSP with their two forms: the word of each lane in the warp's spill region, and the stack pointer's value and adjustment (R153, R248, R254,
R266, R268 to R270).
Where the spec leaves a point open, it says what the model chose (log entry 9). -/
def Obligations.StoreAndSpillResults : Prop := ∀ (c : Ctl) (o : OpsM) (s : State) (d : Fld),
  (let r := s.advance
   let k := tyBytes o.m.ty
   let n := vecBytes o.m
   let st := storeSteps r (act (.st c o) s) (opdM o (o.m.sub == 1)) k fun r l => leBytes k (opD (.st c o) r l).toNat
   let stv := storeSteps r (act (.stv c o) s) (opdM o (o.m.sub.getLsbD 0)) n fun r l =>
     (List.range (n / 4)).flatMap fun j => leBytes 4 (r.srcMore o.d j l).toNat
   (Runs (.st c o) s → ShapeOk (.st c o) s genRule → (opdM o (o.m.sub == 1)).check r (act (.st c o) s) k k [1] [.scratch] = .ok () →
     (opdM o (o.m.sub == 1)).storeChk r (act (.st c o) s) k = .ok () →
     Completes (.st c o) s (if st.any (r.stepAfter r.cur.core r.nextId) then startMem c (act (.st c o) s) none [] st r else
       ((lanesOf (act (.st c o) s)).foldl (fun t l => storeAt r.cur.core (r.blockAt l).uid (r.wrefAt l) (laneBit l) ((opdM o (o.m.sub == 1)).side r l)
       ((opdM o (o.m.sub == 1)).ea r l) (leBytes k (opD (.st c o) r l).toNat) t) r).startResults c (act (.st c o) s) none [])) ∧
   (Runs (.stv c o) s → ShapeOk (.stv c o) s genRule → r.reachChk o.d (n / 4) [.gen] (act (.stv c o) s) = .ok () →
     (opdM o (o.m.sub.getLsbD 0)).check r (act (.stv c o) s) n n [1] [.scratch] = .ok () →
     (opdM o (o.m.sub.getLsbD 0)).storeChk r (act (.stv c o) s) n = .ok () →
     Completes (.stv c o) s (if stv.any (r.stepAfter r.cur.core r.nextId) then startMem c (act (.stv c o) s) none [] stv r else
       ((lanesOf (act (.stv c o) s)).foldl (fun t l => storeAt r.cur.core (r.blockAt l).uid (r.wrefAt l) (laneBit l)
       ((opdM o (o.m.sub.getLsbD 0)).side r l) ((opdM o (o.m.sub.getLsbD 0)).ea r l)
       ((List.range (n / 4)).flatMap fun j => leBytes 4 (r.srcMore o.d j l).toNat) t) r).startResults c (act (.stv c o) s) none []))) ∧
  (let r := s.advance
   let k := tyBytes o.m.ty
   let writes := fun (i : Instr) (f : Nat → BitVec 64) => r.startResults c (act i s) (some d)
     ((acting i s).flatMap fun m => fieldWrites d f m (r.warp m.w))
   ((usesOf (.ldsp c o)).d = some d → Runs (.ldsp c o) s → o.m.sub = 1 → ShapeOk (.ldsp c o) s uniRule →
     Completes (.ldsp c o) s (writes (.ldsp c o) fun l => BitVec.ofNat 64 (r.warpAt l).sp)) ∧
   ((usesOf (.ldsp c o)).d = some d → Runs (.ldsp c o) s → o.m.sub ≠ 1 → ShapeOk (.ldsp c o) s genRule →
     spillChk o.m r (act (.ldsp c o) s) = .ok () → Completes (.ldsp c o) s (writes (.ldsp c o) fun l => BitVec.ofNat 64
       (extBits o.m.ty (memNat (r.warpAt l).spill ((spillOff o.m (r.warpAt l)).toNat + k * l) k)))) ∧
   (Runs (.stsp c o) s → o.m.sub = 1 → ((acting (.stsp c o) s).all fun m => let x := ((r.warp m.w).sp : Int) + o.m.imm.toInt
       decide (0 ≤ x) && decide (x ≤ (r.block m.w.core m.w.seq).image.spill)) →
     Completes (.stsp c o) s ((r.modMembers (acting (.stsp c o) s) fun _ w => { w with sp := ((w.sp : Int) + o.m.imm.toInt).toNat }).startResults
       c (act (.stsp c o) s) none [])) ∧
   (Runs (.stsp c o) s → o.m.sub ≠ 1 → ShapeOk (.stsp c o) s genRule → spillChk o.m r (act (.stsp c o) s) = .ok () →
     Completes (.stsp c o) s ((r.modMembers (acting (.stsp c o) s) fun m w =>
       let put := fun sp l => memPutNat sp ((spillOff o.m w).toNat + k * l) k (opD (.stsp c o) r l).toNat
       { w with spill := (lanesOf m.lanes).foldl put w.spill }).startResults c (act (.stsp c o) s) none [])))

/-- CPKICK registers its records where the range-lock table has room and parks its threads where it has not; CPSTAT, CPCANCEL, CPIN and CPOUT
(R260, R263, R273 to R277).
Where the spec leaves a point open, it says what the model chose (log entries 26, 28 and 89). -/
def Obligations.CopyResults : Prop := ∀ (c : Ctl) (o : OpsM) (v : OpsV) (s : State),
  let r := s.advance
  let core := r.cur.core
  (Runs (.cpkick c o) s → ShapeOk (.cpkick c o) s genRule →
    let l := (lanesOf (act (.cpkick c o) s)).headD 0
    let op := opdM o (o.m.sub == 1)
    let n := (opD (.cpkick c o) r l).toNat % 2 ^ 32
    1 ≤ n → n ≤ 16 → kickAddr op r l n = .ok () →
    (holdEngine (act (.cpkick c o) s) r).or (holdPlaces false [(op.side r l, op.ea r l, 64 * n)] r) = none →
    ∀ cs, recordsChk r (r.wrefAt l) (r.blockAt l) (op.side r l) n 0 (op.ea r l) [] = .ok cs →
    (cs.length ≤ freeEntries r core → Completes (.cpkick c o) s ((registerCopies core cs none r).startResults c (act (.cpkick c o) s) none [])) ∧
    (freeEntries r core < cs.length →
      let t := r.startOp c { id := 0, core := 0, mems := [], obj := 0, pc := 0, work := .kick cs }
      Completes (.cpkick c o) s (t.modMembers (t.cur.acting (act (.cpkick c o) s)) fun m w =>
        w.modThreads m.lanes fun _ th => { th with wait := .copy r.nextId }))) ∧
  (Runs (.cpstat c v) s → ShapeOk (.cpstat c v) s uniRule → Completes (.cpstat c v) s (r.startResults c (act (.cpstat c v) s) (usesOf (.cpstat c v)).d
    (r.writesOf (act (.cpstat c v) s) (usesOf (.cpstat c v)).d fun l => BitVec.ofNat 64 (if v.m.sub = 0 then freeEntries r core
      else (kickedBy r (r.blockAt l).uid).length)))) ∧
  (Runs (.cpcancel c v) s → ShapeOk (.cpcancel c v) s uniRule →
    Completes (.cpcancel c v) s (((blocksOf (acting (.cpcancel c v) s)).foldl (fun t cq =>
      (kickedBy t (t.block cq.1 cq.2).uid).foldl (fun t k => cancelCopy k.1 k.2 t) t) r).startResults c (act (.cpcancel c v) s)
      (usesOf (.cpcancel c v)).d (r.writesOf (act (.cpcancel c v) s) (usesOf (.cpcancel c v)).d
        fun l => BitVec.ofNat 64 (kickedBy r (r.blockAt l).uid).length))) ∧
  (Runs (.cpin c o) s →
    let dst := fun l => (({ shm := true, cap := 0, b := .zero, imm := 0 } : MemOpd).side r l, lineOff (usesOf (.cpin c o)) r l)
    lineChk (usesOf (.cpin c o)) (opdM o false) 4 dst r (act (.cpin c o) s) = .ok () →
    holdLines (act (.cpin c o) s) (fun l => [dst l, ((opdM o false).side r l, (opdM o false).ea r l)]) r = none →
    Completes (.cpin c o) s (((lastLanes (act (.cpin c o) s) dst).foldl (fun t l =>
      let k : Copy := { id := 0, seq := (r.wrefAt l).seq, uid := (r.blockAt l).uid, entry := false, srcSide := some ((opdM o false).side r l)
                        dstSide := (dst l).1, todo := [{ dst := (dst l).2, len := 64, src := some ((opdM o false).ea r l) }] }
      clearDst k (addCopy core k t)) r).startResults c (act (.cpin c o) s) none [])) ∧
  (Runs (.cpout c o) s →
    let dst := fun l => ((opdM o false).side r l, (opdM o false).ea r l)
    lineChk (usesOf (.cpout c o)) (opdM o false) 3 dst r (act (.cpout c o) s) = .ok () →
    holdLines (act (.cpout c o) s) (fun l => [dst l]) r = none →
    Completes (.cpout c o) s (startMem c (act (.cpout c o) s) none [] ((lastLanes (act (.cpout c o) s) dst).map fun l =>
      { w := r.wrefAt l, lanes := laneBit l, side := ({ shm := true, cap := 0, b := .zero, imm := 0 } : MemOpd).side r l
        off := lineOff (usesOf (.cpout c o)) r l, n := 64, act := .copyOut (dst l).1 (dst l).2 }) r))

/-- The group 7 instructions start a volume request with the active lanes in ascending order, once their registers, capability, coordinates and types
pass; VTLD and VSHOOT once for the group in its lowest active lane (R296 to R304).
Where the spec leaves a point open, it says what the model chose (log entries 32, 33 and 89). -/
def Obligations.VolumeResults : Prop := ∀ (c : Ctl) (o : OpsM) (s : State),
  (let r := s.advance
   let n := o.m.sub.toNat + 1
   let ch := o.m.imm.toNat % 16
   let start := fun (i : Instr) (op : Nat) (vals : Nat → List (BitVec 64)) =>
     startVol c (act i s) (usesOf i).d
       { op := op, ty := o.m.ty, sat := o.m.sat, c := ch, n := n, d := o.d, todo := volLanes r (act i s) o.cap.toNat o.b vals } r
   let ready := fun (i : Instr) (rights : List Nat) (regs : Nat) =>
     Runs i s ∧ r.reachChk o.b 3 [.gen, .aff, .uni] (act i s) = .ok () ∧ r.reachChk o.d regs [.gen] (act i s) = .ok () ∧ ShapeOk i s genRule ∧
     volCapChk r (act i s) o.cap.toNat rights = .ok () ∧ coordChk r (act i s) o.b = .ok ()
   let typed := fun (i : Instr) => typeChk r (act i s) o.cap.toNat o.m.ty ch n = .ok ()
   (ready (.vld c o) [0, 6] (chanRegs o.m) → typed (.vld c o) → Completes (.vld c o) s (start (.vld c o) 0 fun _ => [])) ∧
   (ready (.vst c o) [1, 6] (chanRegs o.m) → typed (.vst c o) → Completes (.vst c o) s (start (.vst c o) 1 (chanVals r o.m o.d))) ∧
   (ready (.vadd c o) [0, 1, 6] (chanRegs o.m) → typed (.vadd c o) → Completes (.vadd c o) s (start (.vadd c o) 2 (chanVals r o.m o.d))) ∧
   (ready (.vprobe c o) [0, 6] 1 → Completes (.vprobe c o) s (start (.vprobe c o) 3 fun _ => [])) ∧
   (ready (.vnbr c o) [0, 6] 1 → Completes (.vnbr c o) s (start (.vnbr c o) 4 fun _ => [])) ∧
   (ready (.valloc c o) [1, 6] 1 → Completes (.valloc c o) s (start (.valloc c o) 6 fun _ => [])) ∧
   (ready (.vfree c o) [1, 6] 1 → Completes (.vfree c o) s (start (.vfree c o) 7 fun _ => []))) ∧
  (let r := s.advance
   let low := fun (i : Instr) => lowest (act i s)
   let l := (lanesOf (act (.vtld c o) s)).headD 0
   let off := (opD (.vtld c o) r l).toNat % 2 ^ 32
   let slot := r.slotSize (volAt r o.cap.toNat l)
   let shm := Side.shm (r.wrefAt l).core (r.wrefAt l).seq
   let n := o.m.sub.toNat + 1
   let ch := o.m.imm.toNat % 16
   (Runs (.vtld c o) s → r.reachChk o.b 3 [.gen, .aff, .uni] (act (.vtld c o) s) = .ok () → ShapeOk (.vtld c o) s genRule →
     volCapChk r (low (.vtld c o)) o.cap.toNat [0, 6] = .ok () → coordChk r (low (.vtld c o)) o.b = .ok () →
     failIn (low (.vtld c o)) .misalign (fun l => (opD (.vtld c o) r l).toNat % 2 ^ 32 % 64 != 0) = .ok () →
     failIn (low (.vtld c o)) .capbound (fun l => decide ((r.blockAt l).image.shared <
       (opD (.vtld c o) r l).toNat % 2 ^ 32 + r.slotSize (volAt r o.cap.toNat l))) = .ok () →
     failIn (low (.vtld c o)) .rangelock (fun l => r.locked r.cur.core true (.shm (r.wrefAt l).core (r.wrefAt l).seq)
       ((opD (.vtld c o) r l).toNat % 2 ^ 32, (opD (.vtld c o) r l).toNat % 2 ^ 32 + r.slotSize (volAt r o.cap.toNat l))) = .ok () →
     holdLines (low (.vtld c o)) (fun l => (linesOf ((opD (.vtld c o) r l).toNat % 2 ^ 32) (r.slotSize (volAt r o.cap.toNat l))).map fun n =>
       (.shm (r.wrefAt l).core (r.wrefAt l).seq, 64 * n)) r = none →
     Completes (.vtld c o) s (startVol c (act (.vtld c o) s) none
       { op := 5, ty := o.m.ty, d := .zero
         todo := volLanes r (low (.vtld c o)) o.cap.toNat o.b fun l => [BitVec.ofNat 64 ((opD (.vtld c o) r l).toNat % 2 ^ 32)] }
       (clearPresence shm (linesOf off slot) r))) ∧
   (Runs (.vshoot c o) s → r.reachChk o.b 3 [.gen, .aff, .uni] (act (.vshoot c o) s) = .ok () → ShapeOk (.vshoot c o) s uniRule →
     volCapChk r (low (.vshoot c o)) o.cap.toNat [1, 6] = .ok () → coordChk r (low (.vshoot c o)) o.b = .ok () →
     Completes (.vshoot c o) s (startVol c (act (.vshoot c o) s) (usesOf (.vshoot c o)).d
       { op := 8, ty := o.m.ty, d := o.d, level := o.m.imm.toNat % 8
         todo := volLanes r (low (.vshoot c o)) o.cap.toNat o.b fun _ => [(act (.vshoot c o) s).setWidth 64] } r)) ∧
   (Runs (.vbgrd c o) s → o.m.imm.getLsbD 8 = true → r.reachChk o.d (chanRegs o.m) [.gen] (act (.vbgrd c o) s) = .ok () → ShapeOk (.vbgrd c o) s uniRule →
     volCapChk r (low (.vbgrd c o)) o.cap.toNat [1, 6] = .ok () → typeChk r (low (.vbgrd c o)) o.cap.toNat o.m.ty ch n = .ok () →
     holdRelease (act (.vbgrd c o) s) r = none → Completes (.vbgrd c o) s (startVol c (act (.vbgrd c o) s) (usesOf (.vbgrd c o)).d
       { op := 9, ty := o.m.ty, c := ch, n := n, d := o.d, todo := volLanes r (low (.vbgrd c o)) o.cap.toNat o.b (chanVals r o.m o.d) } r)) ∧
   (Runs (.vbgrd c o) s → o.m.imm.getLsbD 8 = false → r.reachChk o.d (chanRegs o.m) [.gen, .uni] (act (.vbgrd c o) s) = .ok () →
     ShapeOk (.vbgrd c o) s uniRule → bgShapes r (act (.vbgrd c o) s) o.d (chanRegs o.m) = .ok () →
     volCapChk r (act (.vbgrd c o) s) o.cap.toNat [0, 6] = .ok () → typeChk r (act (.vbgrd c o) s) o.cap.toNat o.m.ty ch n = .ok () →
     Completes (.vbgrd c o) s (startVol c (act (.vbgrd c o) s) (usesOf (.vbgrd c o)).d
       { op := 10, ty := o.m.ty, c := ch, n := n, d := o.d, todo := volLanes r (act (.vbgrd c o) s) o.cap.toNat o.b fun _ => [] } r)))

/-- GTHR, SCTR and SCTRA: a step for each distinct row, in order, to be performed at its home; a scattered row takes the words of its last lane, or the sum of its lanes; a
row over two pages of different kinds goes in two parts (R305 to R312, R369).
Where the spec leaves a point open, it says what the model chose (log entry 9). -/
def Obligations.RowResults : Prop := ∀ (c : Ctl) (o : OpsM) (s : State),
  let r := s.advance
  let rows := fun (i : Instr) => batchRows r o (act i s)
  (Runs (.gthr c o) s → rowChk (usesOf (.gthr c o)) o [0] false r (act (.gthr c o) s) = .ok () →
    Completes (.gthr c o) s (startMem c (act (.gthr c o) s) (usesOf (.gthr c o)).d []
      ((rows (.gthr c o)).flatMap fun x => splitKinds r (rowStep r o x (.load .words))) r)) ∧
  (Runs (.sctr c o) s → rowChk (usesOf (.sctr c o)) o [1] true r (act (.sctr c o) s) = .ok () →
    Completes (.sctr c o) s (startMem c (act (.sctr c o) s) none [] ((rows (.sctr c o)).flatMap fun x => splitKinds r (rowStep r o x
      (.store ((List.range (rowWords o.m)).flatMap fun j => leBytes 4 (r.srcMore o.d j (x.2.getLastD 0)).toNat)))) r)) ∧
  (Runs (.sctra c o) s → rowChk (usesOf (.sctra c o)) o [0, 1] true r (act (.sctra c o) s) = .ok () →
    Completes (.sctra c o) s (startMem c (act (.sctra c o) s) none [] ((rows (.sctra c o)).flatMap fun x => splitKinds r (rowStep r o x
      (.adds o.m.ty o.m.sat ((List.range (rowWords o.m)).map (foldWord r o x.2))))) r))

/-- SPAWNI, ITEMLOOP, ITEMGET and ITEMEND on the item queue of their class (R316 to R322).
Where the spec leaves a point open, it says what the model chose (log entries 29, 89 and 114). -/
def Obligations.ItemResults : Prop := ∀ (c : Ctl) (o : OpsV) (k : BitVec 4) (d : VReg) (off : BitVec 32) (m : Mods) (s : State),
  let r := s.advance
  (Runs (.spawni c o) s → r.reachChk o.a 3 [.gen, .aff, .uni] (act (.spawni c o) s) = .ok () → ShapeOk (.spawni c o) s genRule →
    holdUntil false (act (.spawni c o) s) r = none →
    Completes (.spawni c o) s (onClass (o.m.imm.toNat % 16) (act (.spawni c o) s) (fun own t => if own = 0 then t else
      let x := spawnLanes r.cur.core (o.m.imm.toNat % 16) o.a r (t.groupLanes own) t
      x.1.putD c { r := o.d } own (laneVal x.2)) r)) ∧
  (Runs (.itemloop c k d off) s → r.reachChk d 3 [.gen] (act (.itemloop c k d off) s) = .ok () → ShapeOk (.itemloop c k d off) s genRule →
    Completes (.itemloop c k d off) s (onClass k.toNat (act (.itemloop c k d off) s) (fun own t => if own = 0 then t else
      let x := loopLatch c own (endLaneItems own t)
      loopLanes r.cur.core k.toNat d (r.target off) x.2 (x.1.groupLanes own) x.1) r)) ∧
  (Runs (.itemget c o) s → r.reachChk o.d 4 [.gen] (act (.itemget c o) s) = .ok () → ShapeOk (.itemget c o) s genRule →
    Completes (.itemget c o) s (onClass (o.m.imm.toNat % 16) (act (.itemget c o) s) (fun own t => if own = 0 then t else
      let x := getLanes r.cur.core (o.m.imm.toNat % 16) o.d ((endLaneItems own t).groupLanes own) (endLaneItems own t)
      x.1.startResults c own (usesOf (.itemget c o)).d x.2) r)) ∧
  (Runs (.itemend c m) s → Completes (.itemend c m) s (endLaneItems (act (.itemend c m) s) r))

/-! ## Matrix unit and solver (chapters 14 and 15) -/

/-- MXST and MXCVT start a reader for each acting warp: its lines become absent at issue, and its threads park until the tile has the version; OBRES,
OBREL, SHAPE, MXVER and MXFLAGS run once for each acting warp in ascending slot, here in a group of one acting warp (R328, R329, R336, R343, R344, R347,
R348).
Where the spec leaves a point open, it says what the model chose (log entries 34, 36 and 93). -/
def Obligations.TileReaderAndMatrixSetupResults : Prop := ∀ (c : Ctl) (t : BitVec 4) (a : VReg) (b : VReg) (m : Mods) (cvt : Bool) (s : State) (d : VReg) (mm : Member),
  (let i : Instr := if cvt then .mxcvt c t a b m else .mxst c t a b m
   let r := s.advance
   Runs i s → uniOperand r a 1 false (act i s) = .ok () → uniOperand r b 1 false (act i s) = .ok () → wholeChk r (act i s) = .ok () →
   let rs := (acting i s).map fun mm =>
     let bv := uniVal r mm b 0
     ({ w := mm.w, lanes := mm.lanes, tile := t.toNat, ver := bv.setWidth 16, off := (uniVal r mm a 0).toNat
        stride := bv.toNat / 65536, n := m.imm.toNat % 64 + 1, ty := m.ty, cvt := cvt, rnd := rndMode m.rnd (r.warp mm.w), sat := m.sat
        comp := if cvt && m.rnd == .ef then some (m.imm.toNat / 64 % 16) else none } : MxRead)
   rs.forM (readChk (act i s) r r.cur.core) = .ok () →
   holdLines (act i s) (fun l => (rs.filter fun x => x.w == r.wrefAt l).flatMap fun x => x.lines.map fun n => (.shm x.w.core x.w.seq, 64 * n)) r = none →
   Completes i s (tryReaders r.nextId rs (rs.foldl (fun s x => s.modThreads x.w x.lanes fun _ th => { th with wait := .mxver x.tile x.ver })
     ((rs.foldl (fun s x => clearPresence (.shm x.w.core x.w.seq) x.lines s) r).startOp { c with la := 0 }
       { id := 0, core := 0, mems := [], obj := 0, pc := 0, work := .mxrd rs })))) ∧
  (let r := s.advance
   let bk := r.block mm.w.core mm.w.seq
   let mx := r.mx mm.w
   let ready := fun (i : Instr) => Runs i s ∧ ShapeOk i s uniRule ∧ wholeChk r (act i s) = .ok () ∧ acting i s = [mm]
   let with_ := fun (f : Mx → Mx) => modMx mm.w.core mm.w.seq f r
   let put := fun (i : Instr) (d : VReg) (v : Word) (t : State) =>
     t.putD c { r := d } (act i s) fun l => if mm.lanes.getLsbD l then v.setWidth 64 else 0
   (ready (.obres c d a m) → m.sub = 0 → uniOperand r a 4 false (act (.obres c d a m) s) = .ok () →
     ∀ x, obresWin (act (.obres c d a m) s) (m.imm.toNat % 16) bk.image.shared (uniVal r mm a 0) (uniVal r mm a 1) (uniVal r mm a 2) (uniVal r mm a 3)
       bk.mx = .ok x → Completes (.obres c d a m) s (put (.obres c d a m) d 1 (with_ fun _ => x))) ∧
   (ready (.obres c d a m) → m.sub ≠ 0 → uniOperand r a 1 false (act (.obres c d a m) s) = .ok () → bk.mx.claim = none →
     let tiles := (uniVal r mm a 0).toNat % 32
     let cims := (uniVal r mm a 0).toNat / 256 % 64
     tiles ≤ 16 → cims ≤ 32 → uniVal r mm a 0 &&& 0xFFFFC0E0 = 0 →
     Completes (.obres c d a m) s (if (claimed (r.core mm.w.core)).1 + tiles ≤ 16 ∧ (claimed (r.core mm.w.core)).2 + cims ≤ 32 then
         put (.obres c d a m) d 1 (with_ fun x => { x with claim := some (tiles, cims), tiles := [], cims := [] })
       else put (.obres c d a m) d 0 r)) ∧
   (ready (.obrel c m) → m.sub = 0 → Completes (.obrel c m) s (with_ fun x => { x with resv := smDel x.resv (m.imm.toNat % 16) })) ∧
   (ready (.obrel c m) → m.sub ≠ 0 → bk.mx.claim.isSome → bk.mx.st = .idle → bk.mx.ops = [] →
     (r.core mm.w.core).owned = false → Completes (.obrel c m) s (with_ fun x => { x with claim := none, tiles := [], cims := [] })) ∧
   (ready (.shape c a b m) → uniOperand r a 2 false (act (.shape c a b m) s) = .ok () → uniOperand r b 1 false (act (.shape c a b m) s) = .ok () →
     let v := (uniVal r mm b 0).toNat
     let h : Shape := { resv := v / 65536 % 16, base := (uniVal r mm a 0).toNat, stride := (uniVal r mm a 1).toNat
                        rows := v % 256, cols := v / 256 % 256 }
     ∀ w, smGet? mx.resv h.resv = some w → 1 ≤ h.rows → h.rows ≤ 128 → 1 ≤ h.cols → h.cols ≤ 128 → h.base % 64 = 0 →
     rowBytesOf w.fmt h.cols ≤ h.stride → h.stride % 16 = 0 → (mxScaled w.fmt = true → mxBits w.fmt = 8 → h.stride % 32 = 0) →
     outsideExtent w h h.base = false →
     Completes (.shape c a b m) s (with_ fun x => { x with shapes := smSet x.shapes (m.imm.toNat % 16) h })) ∧
   (ready (.mxver c d t) → t.toNat < mx.tileCount → Completes (.mxver c d t) s
     (put (.mxver c d t) d ((mx.tile t.toNat).ver.setWidth 32 + (if (mx.tile t.toNat).k64 then 0x10000 else 0)) r)) ∧
   (ready (.mxflags c d m) → m.sub = 0 → Completes (.mxflags c d m) s (put (.mxflags c d m) d (mx.mxf.setWidth 32) r)) ∧
   (ready (.mxflags c d m) → m.sub = 1 →
     Completes (.mxflags c d m) s (put (.mxflags c d m) d (mx.mxf.setWidth 32) (with_ fun x => { x with mxf := 0 }))) ∧
   (ready (.mxflags c d m) → m.sub = 2 → Completes (.mxflags c d m) s (put (.mxflags c d m) d (match mx.st with
     | .running => 1
     | .waiting _ => 3
     | .faulted cause sub => 4 + 256 * cause.setWidth 32 + 65536 * sub.setWidth 32
     | _ => 0) r)) ∧
   (ready (.mxflags c d m) → m.sub = 3 → Completes (.mxflags c d m) s (put (.mxflags c d m) d mx.pc r)))

/-- MXLDB, MXLDA, MXMAC, MXMACS and MXZERO issued by the warp that owns the unit, in a group of that warp alone, once for it; an operation or a load that
waits parks it. MXBAR, MXACQ and MXREL for a group of one acting warp: the arrival at a barrier, or parking where it has arrived
already; a place in the queue of owners; giving the unit up; and MXWAIT issued by a warp raises MXVERSION (R338 to R340, R343, R345, R346, R349).
Where the spec leaves a point open, it says what the model chose (log entries 35, 38, 89 and 93). -/
def Obligations.WarpMatrixResults : Prop := ∀ (c : Ctl) (t : BitVec 4) (a : VReg) (m : Mods) (s : State) (mm : Member) (x : State) (k : BitVec 4),
  (let r := s.advance
   let v := uniVal r mm a 0
   let ready := fun (i : Instr) => Runs i s ∧ ShapeOk i s uniRule ∧ uniOperand r a 1 true (act i s) = .ok () ∧ wholeChk r (act i s) = .ok () ∧
     acting i s = [mm] ∧ ownsUnit r mm.w = true
   let parked := fun (n : Nat) (x : State) => if (x.block mm.w.core mm.w.seq).mx.ops.any fun o => !o.started then
       x.modThreads mm.w mm.lanes fun _ th => { th with wait := .mxver n (v.setWidth 16) }
     else x
   (ready (.mxldb c a m) → mxLoad mm.w.core mm.w.seq true m.imm.toNat v.toNat r = .next x → Completes (.mxldb c a m) s (parked 0 x)) ∧
   (ready (.mxlda c a m) → mxLoad mm.w.core mm.w.seq false m.imm.toNat v.toNat r = .next x → Completes (.mxlda c a m) s (parked 0 x)) ∧
   (ready (.mxmac c t a m) → mxMac mm.w.core mm.w.seq false t.toNat m.imm.toNat v r = .next x → Completes (.mxmac c t a m) s (parked t.toNat x)) ∧
   (ready (.mxmacs c t a m) → mxMac mm.w.core mm.w.seq true t.toNat m.imm.toNat v r = .next x → Completes (.mxmacs c t a m) s (parked t.toNat x)) ∧
   (ready (.mxzero c t a m) → mxZero mm.w.core mm.w.seq (m.ty == .f64) t.toNat v r = .next x → Completes (.mxzero c t a m) s (parked t.toNat x))) ∧
  (let r := s.advance
   let core := r.cur.core
   let ready := fun (i : Instr) => Runs i s ∧ wholeChk r (act i s) = .ok () ∧ acting i s = [mm]
   let b := r.block mm.w.core mm.w.seq
   let bar := smGetD b.mx.bars k.toNat 0
   (ready (.mxbar c k) → recordedFault (act (.mxbar c k) s) b.mx = .ok () → mm.w.warp < b.image.team →
    holdUntil false (act (.mxbar c k) s) r = none → Completes (.mxbar c k) s
     (if bar.getLsbD mm.w.warp then r.modThreads mm.w mm.lanes fun _ th => { th with wait := .mxbar k.toNat, pc := s.cur.pc }
       else modMx mm.w.core mm.w.seq (fun x => { x with bars := smSet x.bars k.toNat (bar ||| laneBit mm.w.warp) }) r)) ∧
   (ready (.mxacq c m) → (r.core core).mxsolo = true → (r.core core).owners.contains (mm.w.seq, mm.w.warp) = false → Completes (.mxacq c m) s
     (grantOwner core ((r.modCore core fun x => { x with owners := x.owners ++ [(mm.w.seq, mm.w.warp)] }).modThreads mm.w mm.lanes
       fun _ th => { th with wait := .mxacq }))) ∧
   (ready (.mxrel c m) → ownsUnit r mm.w = true → Completes (.mxrel c m) s (dropOwner mm.w r)) ∧
   (Runs (.mxwait c k) s → wholeChk r (act (.mxwait c k) s) = .ok () →
     Traps (.mxwait c k) s { cause := .mxversion, lanes := act (.mxwait c k) s, info := 3 }))

/-- What MXLDB, MXLDA, MXMAC, MXMACS and MXZERO do to a block's matrix resources where every check passes: the operand is loaded, or the operation
joins the block's operations, started where nothing touches its tile (R329, R330, R335, R345, R346).
Where the spec leaves a point open, it says what the model chose (log entries 35, 37 and 91). -/
def Obligations.MatrixOperationEffects : Prop := ∀ (core q t imm off : Nat) (ver : Word) (s : State),
  let b := s.block core q
  let m := b.mx
  let load := fun (ldb : Bool) (k : Nat) => ∀ h r, smGet? m.shapes k = some h → (ldb = false → h.rows ≤ 64) → smGet? m.resv h.resv = some r →
    (h.base + off) % 64 = 0 → outsideExtent r h (h.base + off) = false → (ldb = true → imm % 32 < m.cimCount ∧ imm / 32 % 4 < mxSlots r.fmt) →
    (ldb = false → r.fmt = 12 → imm % 4 = 0) → (mxLines r h (h.base + off)).any b.absent.contains = false → m.ops = [] →
    (ldb = true → m.usesCim (imm % 32) = false) → (ldb = false → m.usesRb (imm % 4) = false ∧ (imm % 4 ≠ 0 → m.usesRb 0 = false)) →
    mxLoad core q ldb imm off s = .next (modMx core q (fun x =>
      if ldb then x.putCim (imm % 32) (imm / 32 % 4) (loadOperand b.shared r h (h.base + off)) else x.putRb (imm % 4) (loadOperand b.shared r h (h.base + off))) s)
  load true (imm / 128 % 16) ∧ load false (imm / 4 % 16) ∧
  (ver.setWidth 16 = (m.tile t).ver + BitVec.ofNat 16 (m.started t) →
    let enter := fun (o : MxOp) => MxAns.next (modMx core q (fun x => { x with ops := x.ops ++ [{ o with started := !(m.busy o) }] }) s)
    (∀ skip, macChk m t (imm % 4) (imm / 4 % 32) (imm / 128 % 4) = none → mxMac core q skip t imm ver s =
      enter { kind := if skip then 2 else 1, tile := t, rb := imm % 4, cim := imm / 4 % 32, slot := imm / 128 % 4, ver := ver.setWidth 16 }) ∧
    (∀ f64, t < m.tileCount → (f64 = true → t % 2 = 0 ∧ t + 1 < m.tileCount) →
      mxZero core q f64 t ver s = enter { kind := 0, tile := t, f64 := f64, ver := ver.setWidth 16 }))

/-- SCHRUN and SCHSTAT: the run is registered where the range-lock table has an entry free and parks its threads otherwise; the
counts are uniform (R350 to R356, R360).
Where the spec leaves a point open, it says what the model chose (log entries 26, 39 and 89). -/
def Obligations.SolverResults : Prop := ∀ (c : Ctl) (o : OpsM) (v : OpsV) (s : State),
  let r := s.advance
  let i : Instr := .schrun c o
  let l := (lanesOf (act i s)).headD 0
  let op := opdM o (o.m.sub == 1)
  let w := r.wrefAt l
  let base := (r.srcMore o.d 0 l).toNat
  let n := (r.srcMore o.d 1 l).toNat
  let k := tyBytes o.m.ty
  let es := (List.range n).map fun j => BitVec.ofNat 64 (r.readNat (op.side r l) (op.ea r l + 8 * j) 8)
  let len := k * (es.foldl (fun m e => max m (stepMax e)) 0 + 1)
  let run : SchedRun := { w := w, f64 := o.m.ty == .f64, rnd := rndMode o.m.rnd (r.warpAt l), base := base, len := len, entries := es }
  (Runs i s → r.reachChk o.d 2 [.gen, .aff, .uni] (act i s) = .ok () → ShapeOk i s genRule →
    (op.shm = false → capChk r (laneBit l) op.cap [0] [.scratch] = .ok () ∧ r.homeOf (op.side r l) = some r.cur.core) →
    op.place r (laneBit l) (8 * n) 8 = .ok () → n ≠ 0 → base % k = 0 → schedErr k base (r.blockAt l).image.shared 0 es = none →
    r.locked r.cur.core true (.shm w.core w.seq) (base, base + len) = false →
    (holdEngine (act i s) r).or (holdPlaces false [(op.side r l, op.ea r l, 8 * n)] r) = none →
    let t := r.startOp { c with la := 0 } { id := 0, core := 0, mems := [], obj := 0, pc := 0, work := .sched run }
    Completes i s (if 0 < freeEntries r r.cur.core then registerSched r.cur.core r.nextId run t
      else t.modMembers (t.cur.acting (act i s)) fun m x => x.modThreads m.lanes fun _ th => { th with wait := .copy r.nextId })) ∧
  (v.m.sub ≠ 2 → Gives (.schstat c v) s uniRule fun r l => if v.m.sub = 0 then
      BitVec.ofNat 64 (r.ops.filter fun p => match p.work with | .sched x => x.w == r.wrefAt l | _ => false).length
    else ((r.warpAt l).pvcnt).setWidth 64) ∧
  (∀ d, (usesOf (.schstat c v)).d = some d → v.m.sub = 2 → Runs (.schstat c v) s → ShapeOk (.schstat c v) s uniRule → Completes (.schstat c v) s
    ((r.putD c d (act (.schstat c v) s) fun l => ((r.warpAt l).pvcnt).setWidth 64).modMembers (acting (.schstat c v) s) fun _ w => { w with pvcnt := 0 }))

/-! ## Synchronisation, tasks and standing programs (chapters 16 and 17) -/

/-- FENCE: done at once where its condition holds, and holding its threads where it does not (that a fence holds its own threads only is the model's
reading, log entry 9); and ATOM, ATOMC, LDACQ and STREL: each active lane's access with its read-modify-write, comparison, load or store, released
and acquired at the scope of the word (R370, R385 to R389).
Where the spec leaves a point open, it says what the model chose (log entries 40, 46 and 89). -/
def Obligations.FenceAndAtomicResults : Prop := ∀ (c : Ctl) (m : Mods) (s : State) (o : OpsM),
  (Runs (.fence c m) s →
   let r := s.advance
   let ms := acting (.fence c m) s
   let kind := m.sub.toNat + (if scopeDie m then 4 else 0)
   (fenceMet r.cur.core r.nextId kind ms r = true → Completes (.fence c m) s (fenceDone kind ms r)) ∧
   (fenceMet r.cur.core r.nextId kind ms r = false →
     let o : LongOp := { id := r.nextId, core := r.cur.core, mems := ms, obj := r.cur.obj, pc := r.cur.pc, work := .fence kind }
     Completes (.fence c m) s (({ r with nextId := r.nextId + 1, ops := r.ops ++ [o] } : State).modMembers ms fun mm w =>
       w.modThreads mm.lanes fun _ th => { th with wait := .answer r.nextId }))) ∧
  (let r := s.advance
   let k := tyBytes o.m.ty
   let chk := fun (i : Instr) (size : Nat) (rights : List Nat) => (opdS o).check r (act i s) size size rights [.data, .scratch] = .ok ()
   (Runs (.atom c o) s → ShapeOk (.atom c o) s genRule → chk (.atom c o) k [0, 1] → (opdS o).storeChk r (act (.atom c o) s) k = .ok () →
     Completes (.atom c o) s (startMem c (act (.atom c o) s) (usesOf (.atom c o)).d [] (syncSteps r (act (.atom c o) s) o k (dstReg o.d) true true fun l =>
       .rmw (o.m.sub.toNat % 8) o.m.ty o.m.sat (opD (.atom c o) r l)) r)) ∧
   (Runs (.atomc c o) s → r.reachChk o.d (k / 2) (if k = 8 then [.gen, .uni] else [.gen, .aff, .uni]) (act (.atomc c o) s) = .ok () →
     ShapeOk (.atomc c o) s genRule → chk (.atomc c o) (2 * k) [0, 1] → (opdS o).storeChk r (act (.atomc c o) s) (2 * k) = .ok () →
     Completes (.atomc c o) s (startMem c (act (.atomc c o) s) (usesOf (.atomc c o)).d []
       (syncSteps r (act (.atomc c o) s) o k (dstReg o.d) true true fun l => .cas o.m.ty.is64 (opD (.atomc c o) r l) (casNew r o l)) r)) ∧
   (Runs (.ldacq c o) s → ShapeOk (.ldacq c o) s genRule → chk (.ldacq c o) k [0] →
     Completes (.ldacq c o) s (startMem c (act (.ldacq c o) s) (usesOf (.ldacq c o)).d []
       (syncSteps r (act (.ldacq c o) s) o k (dstReg o.d) false true fun _ => .load (.ext o.m.ty)) r)) ∧
   (Runs (.strel c o) s → ShapeOk (.strel c o) s genRule → chk (.strel c o) k [1] → (opdS o).storeChk r (act (.strel c o) s) k = .ok () →
     Completes (.strel c o) s (startShort false [] ((lanesOf (act (.strel c o) s)).map fun l =>
       { w := r.wrefAt l, lanes := laneBit l, side := (opdS o).side r l, off := (opdS o).ea r l, n := k
         act := .store (leBytes k (opD (.strel c o) r l).toNat), ord := true, rel := scopeDie o.m }) r)))

/-- CJINIT, CJARR, CJDROP, CJWAIT, CJBYTE and CJTEST on an object that may be reached now, after the checks of the lowest active lane: the object
written or counted down, the phase, count or flags read, and a CJWAIT that completes or parks (R378 to R382, R390 to R393).
Where the spec leaves a point open, it says what the model chose (log entries 22, 24 and 33). -/
def Obligations.ConjunctionResults : Prop := ∀ (c : Ctl) (o : OpsM) (s : State),
  let r := s.advance
  let low := fun (i : Instr) => (lanesOf (act i s)).headD 0
  let order := fun (i : Instr) (kind : Nat) => if kind == 1 || kind == 2 || kind == 4 then r.groupLanes (act i s) else lanesOf (act i s)
  let req := fun (i : Instr) (kind : Nat) =>
    ({ kind := kind, sub := o.m.sub.toNat % 8, side := (opdS o).side r (low i), off := (opdS o).ea r (low i), d := o.d
       vals := (order i kind).map fun l => (l, (opD i r l).setWidth 32)
       rel := !(kind == 3 || kind == 5) && scopeDie o.m, acq := (kind == 3 || kind == 5) && scopeDie o.m, hold := r.resultSlot c } : CjReq)
  let ready := fun (i : Instr) (kind : Nat) (sh : Shp) => Runs i s ∧ ShapeOk i s (fun _ _ => sh) ∧
    (opdS o).check r (laneBit (low i)) 64 64 [if kind = 3 ∨ kind = 5 then 0 else 1]
      (if kind = 3 ∨ kind = 5 then [.data, .scratch, .report] else [.data, .scratch]) = .ok () ∧
    (kind ≠ 3 → kind ≠ 5 → (opdS o).storeChk r (laneBit (low i)) 64 = .ok ()) ∧
    cjGate r r.cur.core r.nextId (acting i s) false false (req i kind) = .ok
  let obj := fun (i : Instr) (kind : Nat) => r.cj (req i kind).side (req i kind).off
  let count := fun (i : Instr) (kind : Nat) => cjLanes kind (req i kind).vals (obj i kind)
  let counted := fun (i : Instr) (kind : Nat) (vals : List (Nat × Word)) =>
    let t := r.putCj (req i kind).side (req i kind).off (count i kind).2.2
    afterCj (req i kind) ((laneWrites t (acting i s) o.d vals).foldl deliver (t.latchResult r.cur.core (r.resultSlot c) vals))
  let phases := fun (i : Instr) (kind : Nat) => (count i kind).2.1
  let w := req (.cjwait c o) 3
  let x := obj (.cjwait c o) 3
  let base : LongOp := { id := r.nextId, core := r.cur.core, mems := r.cur.mems, obj := r.cur.obj, pc := r.cur.pc,
                         marks := marksOf r.cur (act (.cjwait c o) s) (usesOf (.cjwait c o)).d [] }
  (ready (.cjinit c o) 0 .gen → Completes (.cjinit c o) s (afterCj (req (.cjinit c o) 0)
    ((r.putCj (req (.cjinit c o) 0).side (req (.cjinit c o) 0).off
      (cjNew (o.m.sub.toNat % 8 == 1) ((req (.cjinit c o) 0).vals.headD (0, 0)).2.toNat)).latchResult r.cur.core (r.resultSlot c) []))) ∧
  (ready (.cjarr c o) 1 .gen → (count (.cjarr c o) 1).1 = [] → Completes (.cjarr c o) s (counted (.cjarr c o) 1 (phases (.cjarr c o) 1))) ∧
  (ready (.cjdrop c o) 2 .gen → (count (.cjdrop c o) 2).1 = [] → Completes (.cjdrop c o) s (counted (.cjdrop c o) 2 (phases (.cjdrop c o) 2))) ∧
  (ready (.cjbyte c o) 4 .gen → (count (.cjbyte c o) 4).1 = [] → Completes (.cjbyte c o) s (counted (.cjbyte c o) 4 [])) ∧
  (ready (.cjwait c o) 3 .uni → x.ovf = false → w.sub = 1 ∨ x.wakes (w.vals.headD (0, 0)).2 = true →
    Completes (.cjwait c o) s ((acquireLanes (acting (.cjwait c o) s) w.acq
      (r.latchResult r.cur.core (r.resultSlot c) (w.vals.map fun v => (v.1, x.phase)))).startOp c { base with rws := laneWrites r (acting (.cjwait c o) s) o.d (w.vals.map fun v => (v.1, x.phase)) })) ∧
  (ready (.cjwait c o) 3 .uni → x.ovf = false → w.sub ≠ 1 → x.wakes (w.vals.headD (0, 0)).2 = false →
    Completes (.cjwait c o) s ((r.startOp c { base with work := .conj { w with parked := true } }).modMembers (acting (.cjwait c o) s) fun m y =>
      y.modThreads m.lanes fun _ th => { th with wait := .conj r.nextId })) ∧
  (ready (.cjtest c o) 5 .uni →
    let vals := (req (.cjtest c o) 5).vals.map fun v => (v.1, cjTest (o.m.sub.toNat % 8) (obj (.cjtest c o) 5))
    Completes (.cjtest c o) s ((laneWrites r (acting (.cjtest c o) s) o.d vals).foldl deliver
      (acquireLanes (acting (.cjtest c o) s) (req (.cjtest c o) 5).acq (r.latchResult r.cur.core (r.resultSlot c) vals))))

/-- SPAWN, LAUNCH, TJOIN, LWAIT and TSELF: the records and grids started with their predicate, the join that completes with its count or parks, and the
fields of a block's own record (R404, R406, R417, R418, R420, R425).
Where the spec leaves a point open, it says what the model chose (log entries 42, 43 and 89). -/
def Obligations.TaskResults : Prop := ∀ (c : Ctl) (o : OpsMP) (v : OpsV) (s : State),
  let r := s.advance
  let op := opdTP o
  let req := fun l => r.readNat (op.side r l) (op.ea r l) 64
  let cells := if o.m.sub.getLsbD 1 then (lanesOf (act (.spawn c o) s)).map fun l =>
      let k := (r.blockAt l).cap (bitsAt (req l) 336 5)
      (Side.obj k.oid, k.lower.toNat + bitsAt (req l) 288 48, 128)
    else []
  let lead := leaders r (act (.launch c o) s)
  let join := fun (i : Instr) (count : Block → Nat) (wait : Nat → Nat → Wait) =>
    let b := r.blockAt ((lanesOf (act i s)).headD 0)
    let t := r.u32 v.a ((lanesOf (act i s)).headD 0)
    Runs i s → r.uniformChk v.a (act i s) = .ok () → ShapeOk i s uniRule →
    (count b ≤ t → Completes i s ((acquireLanes (acting i s) true r).startResults c (act i s) (usesOf i).d
      (r.writesOf (act i s) (usesOf i).d fun _ => BitVec.ofNat 64 (count b)))) ∧
    (t < count b → Completes i s ((r.startOp c { id := 0, core := 0, mems := [], obj := 0, pc := 0
                                                 marks := marksOf r.cur (act i s) (usesOf i).d [], work := .join }).modMembers
      (acting i s) fun m w => w.modThreads m.lanes fun _ th => { th with wait := wait b.uid t, pc := s.cur.pc }))
  let free := fun (i : Instr) (lanes : Mask) =>
    (holdRecord (act i s) r).or (holdPlaces false ((lanesOf lanes).map fun l => (op.side r l, op.ea r l, 64)) r) = none
  (Runs (.spawn c o) s → ShapeOk (.spawn c o) s genRule → spawnChk r (act (.spawn c o) s) op (o.m.sub.getLsbD 1) req = .ok () →
    localChk op r (act (.spawn c o) s) 64 = .ok () → free (.spawn c o) (act (.spawn c o) s) → holdGate cells r = none →
    let x := spawnAll r (o.m.sub.getLsbD 1) req (r.groupLanes (act (.spawn c o) s)) (makeSticky (act (.spawn c o) s) r)
    Completes (.spawn c o) s (x.1.putP o.p.val (act (.spawn c o) s) fun l => x.2.getLsbD l)) ∧
  (Runs (.launch c o) s → ShapeOk (.launch c o) s genRule → launchChk r (act (.launch c o) s) lead op req = .ok () →
    onLanes (act (.launch c o) s) (localChk op r lead 64) = .ok () → (lead = 0 ∨ free (.launch c o) lead) →
    let go := (lanesOf lead).filter fun l => decide ((r.blockAt l).depth < 10)
    Completes (.launch c o) s ((go.foldl (fun t l => startChild (childGrid r l (req l)) t) (makeSticky lead r)).putP o.p.val (act (.launch c o) s)
      fun l => go.contains l)) ∧
  join (.tjoin c v) (fun b => b.kids) Wait.tjoin ∧
  join (.lwait c v) (fun b => b.grids) Wait.lwait ∧
  Gives (.tself c v) s uniRule (fun r l => (tselfField r (r.blockAt l) v.m.sub.toNat).setWidth 64)

/-- RPOST, RREAD, RSET, INPOST and SNAP on the standing program of a slot of the owner (R99, R100, R407, R408, R413, R415, R421 to R424).
Where the spec leaves a point open, it says what the model chose (log entries 33, 44, 45 and 89). -/
def Obligations.StandingProgramResults : Prop := ∀ (c : Ctl) (v : OpsV) (o : OpsM) (s : State) (p : Prog),
  let r := s.advance
  let slot := v.m.imm.toNat % 16
  let l := fun (i : Instr) => (lanesOf (act i s)).headD 0
  let key := fun (i : Instr) (k : Nat) => r.slotKey (act i s) k
  let short := fun (i : Instr) => failIn (act i s) .shaperec (fun l => decide (p.img.blocks.length ≤ r.u32 v.a l)) 0x7A = .ok ()
  (∀ rec_, Runs (.rpost c v) s → r.uniformChk v.a (act (.rpost c v) s) = .ok () → ShapeOk (.rpost c v) s uniRule →
    (r.blockAt (l (.rpost c v))).origin = .task rec_ → rec_.settle = true → (r.blockAt (l (.rpost c v))).done = false →
    let k := 16 * (r.blockAt (l (.rpost c v))).part + rec_.pslot.toNat
    holdRelease (act (.rpost c v) s) r = none → cutting? r k = none →
    let t := makeSticky (act (.rpost c v) s) r
    let t := match smGet? t.progs k with | some p => flipVersion p rec_.eqblk.toNat t | none => t
    let w := t.wrefAt (l (.rpost c v))
    let t := t.modBlock w.core w.seq fun b => if b.done then b else { b.setCap 1 {} with done := true }
    Completes (.rpost c v) s ((sendPosts k rec_.eqblk.toNat (normRes (t.u32 v.a (l (.rpost c v)))) t).putD c { r := v.d } (act (.rpost c v) s) fun _ => 1)) ∧
  (Runs (.rread c v) s → ShapeOk (.rread c v) s genRule → r.slotProg (act (.rread c v) s) slot = some p → short (.rread c v) →
    Completes (.rread c v) s (r.startResults c (act (.rread c v) s) (usesOf (.rread c v)).d (r.writesOf (act (.rread c v) s) (usesOf (.rread c v)).d
      fun l => (if p.declared (r.u32 v.a l) then (p.blk (r.u32 v.a l)).res else 0).setWidth 64))) ∧
  (Runs (.rset c v) s → ShapeOk (.rset c v) s genRule → r.slotProg (act (.rset c v) s) slot = some p → short (.rset c v) →
    holdRelease (act (.rset c v) s) r = none →
    let x := rsetLanes (key (.rset c v) slot) r v (r.groupLanes (act (.rset c v) s)) (makeSticky (act (.rset c v) s) r)
    Completes (.rset c v) s (x.1.putD c { r := v.d } (act (.rset c v) s) fun l => (smGetD x.2 l 0).setWidth 64)) ∧
  (let i : Instr := .inpost c o
   let sd := (opdT o).side r (l i)
   let x := r.readNat sd ((opdT o).ea r (l i)) 64
   let base := ((opdT o).bounds r (l i)).1
   let pairs := postPairs r sd base (bitsAt x 160 32) (min (bitsAt x 128 32) 4096)
   Runs i s → ShapeOk i s uniRule → (opdT o).check r (laneBit (l i)) 64 64 [0] [.data, .scratch] = .ok () →
   base + bitsAt x 96 32 + bitsAt x 64 32 ≤ ((opdT o).bounds r (l i)).2 → base + bitsAt x 160 32 + 8 * bitsAt x 128 32 ≤ ((opdT o).bounds r (l i)).2 →
   inpostChk (act i s) (r.slotProg (act i s) (x % 16)) x pairs = .ok p →
   (holdRecord (act i s) r).or (holdPlaces false [(sd, (opdT o).ea r (l i), 64)] r) = none →
   holdPlaces false [(sd, base + bitsAt x 96 32, bitsAt x 64 32), (sd, base + bitsAt x 160 32, 8 * min (bitsAt x 128 32) 4096)] r = none →
   holdGate [(.obj p.inObj, (p.img.inputs[bitsAt x 8 8]?).elim 0 (·.1) + bitsAt x 32 32, bitsAt x 64 32)] r = none →
   Completes i s ((inpostEvent (key i (x % 16)) p ((p.img.inputs[bitsAt x 8 8]?).elim 0 (·.1) + bitsAt x 32 32)
     (r.readN sd (base + bitsAt x 96 32) (bitsAt x 64 32)) pairs (makeSticky (act i s) r)).putD c { r := o.d } (act i s)
     fun _ => ((p.gen + 1).setWidth 32).setWidth 64)) ∧
  (let i : Instr := .snap c o
   let d := r.u32 o.d (l i)
   let b := r.blockAt (l i)
   let h := d / 256 % 4
   Runs i s → o.m.sub.toNat / 2 = 2 → r.uniformChk o.d (act i s) = .ok () → r.slotProg (act i s) (d % 16) = some p → smGet? p.holds h = some b.uid →
   Completes i s ((r.modProg (key i (d % 16)) fun p => { p with holds := smDel p.holds h }).startResults c (act i s) none [])) ∧
  (let i : Instr := .snap c o
   let d := r.u32 o.d (l i)
   let sd := (opdT o).side r (l i)
   let at_ := (opdT o).ea r (l i)
   let n := 64 + p.mapBytes
   Runs i s → o.m.sub.toNat / 2 = 0 → r.uniformChk o.d (act i s) = .ok () → r.slotProg (act i s) (d % 16) = some p →
   (opdT o).check r (laneBit (l i)) n 64 [1] [.data, .scratch] = .ok () → (opdT o).shm = false → holdGate [(sd, at_, n)] r = none →
   let t := r.startOp c { id := 0, core := 0, mems := [], obj := 0, pc := 0, work := .snap (key i (d % 16)) 0 sd at_ (r.blockAt (l i)).uid }
   Completes i s (t.modMembers (t.cur.acting (act i s)) fun m w => w.modThreads m.lanes fun _ th => { th with wait := .copy r.nextId }))

/-! ## Capabilities, special registers and traps (chapters 4 and 18) -/

/-- CAPLD, CAPST, CAPNAR, CAPOFF, CAPTST, CAPGET and CAPMOV, once for each block with an active lane (R88 to R93). Where several slices of the core
issue in one clock, the register that `putCap` names changes after it (R76; StepRunsTheDecodedInstruction).
A CAPLD whose slots cannot be read in the clock of its issue waits, and issues again.
Where the spec leaves a point open, it says what the model chose (log entries 33, 94 and 113). -/
def Obligations.CapabilityResults : Prop := ∀ (c : Ctl) (cd ca : BitVec 5) (b d : VReg) (m : Mods) (s : State),
  let r := s.advance
  let k := fun (x : (Nat × Nat) × Nat) => r.block x.1.1 x.1.2
  let v := fun (x : (Nat × Nat) × Nat) => (k x).cap ca.toNat
  let all := fun (i : Instr) (ok : (Nat × Nat) × Nat → Prop) => Runs i s ∧ ∀ x ∈ r.actingBlocks (act i s), ok x
  let set := fun (i : Instr) (y : (Nat × Nat) × Nat → Cap) =>
    Completes i s ((r.actingBlocks (act i s)).foldr (fun x t => t.putCap x.1.1 x.1.2 cd.toNat (y x)) r)
  let lo := fun (x : (Nat × Nat) × Nat) => (v x).lower.toNat + r.u32 b x.2
  let hi := fun (x : (Nat × Nat) × Nat) => lo x + (r.srcMore b 1 x.2).toNat
  let derivable := fun (x : (Nat × Nat) × Nat) => r.usable (k x).part (v x) = true ∧ (v x).right 5 = true
  let rights := fun (x : (Nat × Nat) × Nat) => (v x).rights &&& m.imm.setWidth 8
  let steps := (r.actingBlocks (act (.capld c cd ca b m) s)).map fun x =>
    slotStep r ca.toNat b m (act (.capld c cd ca b m) s) (fun _ => .capld x.1 cd.toNat) x
  (Runs (.capld c cd ca b m) s → r.uniformChk b (act (.capld c cd ca b m) s) = .ok () →
    forBlocks (slotChk r (act (.capld c cd ca b m) s) 0 ca.toNat b m) (r.actingBlocks (act (.capld c cd ca b m) s)) = .ok () →
    (holdSteps steps r = none → Completes (.capld c cd ca b m) s (startMem c (act (.capld c cd ca b m) s) none [] steps r)) ∧
    ∀ t, holdSteps steps r = some t → Completes (.capld c cd ca b m) s t) ∧
  (Runs (.capst c cd ca b m) s → r.uniformChk b (act (.capst c cd ca b m) s) = .ok () →
    forBlocks (slotChk r (act (.capst c cd ca b m) s) 1 ca.toNat b m) (r.actingBlocks (act (.capst c cd ca b m) s)) = .ok () →
    Completes (.capst c cd ca b m) s (startShort false [] ((r.actingBlocks (act (.capst c cd ca b m) s)).map fun x =>
      slotStep r ca.toNat b m (act (.capst c cd ca b m) s) (fun k => .capst (k.cap cd.toNat)) x) r)) ∧
  (b ≠ .zero → r.reachChk b 2 [.uni] (act (.capnar c cd ca b m) s) = .ok () → r.uniformChk b (act (.capnar c cd ca b m) s) = .ok () →
    all (.capnar c cd ca b m) (fun x => derivable x ∧ hi x ≤ (v x).upper.toNat) →
    set (.capnar c cd ca b m) fun x =>
      { valid := true, oid := (v x).oid, rights := rights x, upper := BitVec.ofNat 48 (hi x), lower := BitVec.ofNat 48 (lo x) }) ∧
  (all (.capnar c cd ca .zero m) (fun x => derivable x ∧ (v x).lower.toNat ≤ (v x).upper.toNat) →
    set (.capnar c cd ca .zero m) fun x => { v x with valid := true, rights := rights x }) ∧
  (all (.capoff c cd ca m) (fun x => derivable x ∧ (v x).lower.toNat + 64 * m.imm.toNat ≤ (v x).upper.toNat) →
    set (.capoff c cd ca m) fun x => { v x with valid := true, lower := BitVec.ofNat 48 ((v x).lower.toNat + 64 * m.imm.toNat) }) ∧
  GivesAuto (.captst c d ca b m) s (fun r l =>
    let k := r.blockAt l
    (capCode r k (k.cap ca.toNat) (m.imm.setWidth 8) (r.u32 b l) (2 ^ m.sub.toNat)).setWidth 64) ∧
  Gives (.capget c d ca m) s uniRule (fun r l =>
    let k := r.blockAt l
    (if (k.cap ca.toNat).valid then capField r k (k.cap ca.toNat) m.sub.toNat else 0).setWidth 64) ∧
  (Runs (.capmov c cd ca m) s → set (.capmov c cd ca m) fun x => if m.sub = 1 then {} else if (v x).valid then v x else {})

/-- SRD and SWR on every special register, and REGQ (R69, R155, R156, R436, R447).
Where the spec leaves a point open, it says what the model chose (log entry 97). -/
def Obligations.SpecialRegisterResults : Prop := ∀ (c : Ctl) (d a : VReg) (o : OpsV) (m : Mods) (s : State),
  let r := s.advance
  let n := m.imm.toNat
  let v := fun (mm : Member) => BitVec.ofNat 32 (r.u32 a ((lanesOf mm.lanes).headD 0))
  (n ≠ 0 → Gives (.srd c d m) s uniRule (fun r l => match r.cur.member? l with | some mm => (sregVal r mm l n).setWidth 64 | none => 0)) ∧
  (n = 0 → Runs (.srd c d m) s → ShapeOk (.srd c d m) s uniRule →
    let t := tick r.cur.core r
    let y := (t.core r.cur.core).cycles
    Completes (.srd c d m) s ((t.modMembers (t.cur.acting (act (.srd c d m) s)) fun mm w =>
      w.modThreads mm.lanes fun _ th => { th with cychi := (y >>> 32).setWidth 32 }).putD c { r := d } (act (.srd c d m) s)
        fun _ => (y.setWidth 32).setWidth 64)) ∧
  (Runs (.swr c a m) s → r.uniformChk a (act (.swr c a m) s) = .ok () → (acting (.swr c a m) s).any (fun mm => swrBad n (v mm)) = false →
    Completes (.swr c a m) s ((acting (.swr c a m) s).foldl (fun t mm => swrPut n (v mm) mm t) r)) ∧
  Gives (.regq c o) s (fun r mm => if o.m.sub = 5 ∧ srcShp (r.warp mm.w) o.a ≠ .uni then .gen else .uni)
    (fun r l => BitVec.ofNat 64 (regqVal (r.blockAt l) (r.warpAt l) o.m.sub.toNat (r.u32 o.a l)))

/-- TRAP raises SOFTTRAP with its immediate; BRKPT raises BRKPT, or, with the debugger enabled, stops each block of the group for it, with what the block's
first warp would have kept of the trap; ERET returns the
active threads to the trapping instruction or the one after it, and raises ILLOP in lanes that are in no handler (R430, R448, R449). -/
def Obligations.TrapInstructionResults : Prop := ∀ (c : Ctl) (m : Mods) (s : State),
  let r := s.advance
  let out := r.lanesWith (act (.eret c m) s) fun _ th => !th.inH
  (Runs (.trap c m) s → Traps (.trap c m) s { cause := .softtrap, lanes := act (.trap c m) s, info := m.imm.setWidth 32 }) ∧
  (Runs (.brkpt c m) s → (r.core r.cur.core).agtctl.getLsbD 1 = false →
    Traps (.brkpt c m) s { cause := .brkpt, lanes := act (.brkpt c m) s, info := m.imm.setWidth 32 }) ∧
  (Runs (.brkpt c m) s → (r.core r.cur.core).agtctl.getLsbD 1 = true →
    let x := fun (mm : Member) => ({ cause := .brkpt, lanes := act (.brkpt c m) s, info := m.imm.setWidth 32 } : TrapReq).infoFor r.cur mm
    let first := fun (cq : Nat × Nat) => r.cur.mems.find? fun mm => mm.w.core == cq.1 && mm.w.seq == cq.2
    Completes (.brkpt c m) s ((blocksOf r.cur.mems).foldl (fun t cq => (first cq).elim t fun mm =>
      if (t.block cq.1 cq.2).stop.isSome then t
      else recordStop 1 cq.1 cq.2 (x mm) (t.modBlock cq.1 cq.2 fun b => { b with stop := some (.debug (x mm) (BitVec.ofNat 32 b.uid)) })) r)) ∧
  (Runs (.eret c m) s → out = 0 → Completes (.eret c m) s (r.modMembers (acting (.eret c m) s) (returnTrap (m.sub == 1) r.clock))) ∧
  (Runs (.eret c m) s → out ≠ 0 → Traps (.eret c m) s { cause := .illop, lanes := out })

/-- The firmware agent's own instructions: BEAT, WFI, ICINV, CTXSV and CTXLD (R443, R449 to R451).
Where the spec leaves a point open, it says what the model chose (log entries 13, 48 and 96). -/
def Obligations.AgentResults : Prop := ∀ (c : Ctl) (m : Mods) (o : OpsM) (s : State),
  let r := s.advance
  let core := r.cur.core
  let ctx := fun (i : Instr) (right : Nat) (len : Nat → Nat → BitVec 24 → Nat → Nat) (run : Nat → Nat → BitVec 24 → Nat → CtxAns) =>
    let l := (lanesOf (act i s)).headD 0
    let d := r.u32 o.d l
    let oid : BitVec 24 := match (opdM o false).side r l with | .obj oid => oid | .shm _ _ => 0
    let q := d / 256 % 16
    let at_ := (opdM o false).ea r l
    Runs i s → r.uniformChk o.d (act i s) = .ok () → ShapeOk i s uniRule → capChk r (laneBit l) o.cap.toNat [right] [.data] = .ok () →
    (opdM o false).place r (laneBit l) (len q (d % 64) oid at_) 64 = .ok () → (right = 1 → saveBusy r q = false) →
    Completes i s ((run q (d % 64) oid at_).1.startResults c (act i s) (usesOf i).d
      (r.writesOf (act i s) (usesOf i).d fun _ => BitVec.ofNat 64 (run q (d % 64) oid at_).2))
  (Runs (.beat c m) s → Completes (.beat c m) s (r.modCore core fun k => { k with
    beatseq := k.beatseq + 1, beats := k.beats + 1, beat := some (k.beatseq + 1, m.imm) })) ∧
  (Runs (.wfi c m) s → Completes (.wfi c m) s (r.modCore core fun k => { k with waitfi := true })) ∧
  (Runs (.icinv c m) s → Completes (.icinv c m) s (r.modCore core fun k => { k with icache := [] })) ∧
  (o.m.sub = 0 → ctx (.ctxsv c o) 1 (fun q k _ _ => warpLen r q k) (fun q k oid off => saveWarp core q k oid off r)) ∧
  (o.m.sub ≠ 0 → ctx (.ctxsv c o) 1 (fun q _ _ _ => (r.block? core q).elim 256 fun b => (blockSection r b (ownedItems r core q)).length)
    (fun q _ oid off => saveBlock core q oid off r)) ∧
  (o.m.sub = 0 → ctx (.ctxld c o) 0 (fun q k _ _ => warpLen r q k) (fun q k oid off => loadWarp core q k oid off r)) ∧
  (o.m.sub ≠ 0 → ctx (.ctxld c o) 0 (fun _ _ oid off => blockLen r (r.partOf core) oid off) (fun q _ oid off => loadBlock core q oid off r))

/-! ## Commands (chapters 6 and 19) -/

/-- Object commands of an interface that may issue them: OBJCREATE, OBJDESTROY, CAPMINT, HCOPY, WAITCJ and NOP (R73, R78, R119, R120, R123, Tables 6.3
and 6.7). One whose access to a capability store meets an aborting page completes PAGEABORT.
Where the spec leaves a point open, it says what the model chose (log entries 2 and 95). -/
def Obligations.ObjectCommandResults : Prop := ∀ (h : CmdHdr) (bc : ObjCreateBody) (oid : BitVec 24) (bm : CapmintBody) (bh : HcopyBody)
    (wo : BitVec 32) (off : BitVec 64) (token : BitVec 32) (s : State),
  let part := s.viPart h.vi
  let all : List ObjKind := [.data, .code, .capStore, .scratch, .volume, .tilePool, .report]
  (Issuer.any.admits true h.vi s = true → exec (.nopCommand h) s = .next (finish h 1 0 s)) ∧
  (Issuer.any.admits false h.vi s = true → ∀ k, kindOf bc.kind = some k → createBad s part k bc = false → noRoom s part (createObj s part k bc) = false →
    let x := addObj (createObj s part k bc) s
    let t := if (createObj s part k bc).fill.isSome then { x.2 with free := x.2.free + (createObj s part k bc).size } else x.2
    (∀ p, storeAborts (.objcreate h bc) s = some p → exec (.objcreate h bc) s = .next (finish h 9 (BitVec.ofNat 32 p) s)) ∧
    (storeAborts (.objcreate h bc) s = none → exec (.objcreate h bc) s = .next (finish h 1 (x.1.setWidth 32) (if bc.store = 0 then t else mint bc.store bc.slot
      { valid := true, oid := x.1, rights := bc.rights, upper := BitVec.ofNat 48 (createObj s part k bc).size } t)))) ∧
  (Issuer.any.admits false h.vi s = true → ∀ o, s.ownObj part (oid.setWidth 32) [.data, .capStore, .scratch, .volume, .tilePool, .report] = some o →
    (o.kind = .tilePool → poolServes s oid = false) → exec (.objdestroy h oid) s = .next (await h (.destroy oid) (killObj oid s))) ∧
  (Issuer.vf.admits false h.vi s = true → ∀ o, s.ownObj part bm.oid all = some o → storeOk s part bm.store bm.slot = true →
    let hi := if bm.upper = 0 then o.size else bm.upper.toNat
    bm.lower.toNat ≤ hi → hi ≤ o.size →
    (∀ p, storeAborts (.capmint h bm) s = some p → exec (.capmint h bm) s = .next (finish h 9 (BitVec.ofNat 32 p) s)) ∧
    (storeAborts (.capmint h bm) s = none → exec (.capmint h bm) s = .next (finish h 1 0 (mint bm.store bm.slot
      { valid := true, oid := bm.oid.setWidth 24, rights := o.rights &&& bm.rights, upper := BitVec.ofNat 48 hi, lower := bm.lower.setWidth 48 } s)))) ∧
  (Issuer.any.admits false h.vi s = true → ∀ o, s.ownObj part bh.oid (if bh.dir = 0 then [.data, .scratch] else [.data, .scratch, .report]) = some o →
    bh.dir.toNat ≤ 1 → bh.len ≠ 0 → bh.off.toNat + bh.len.toNat ≤ o.size →
    exec (.hcopy h bh) s = .next (awaitDma h (.hcopy bh) s)) ∧
  (Issuer.vf.admits false h.vi s = true → ∀ o, s.ownObj part wo [.data, .scratch, .report] = some o → off.toNat % 64 = 0 → off.toNat + 64 ≤ o.size →
    exec (.waitcj h wo off token) s = .next (await h (.conj (wo.setWidth 24) off.toNat token) s))

/-- Queue, load and run commands: CREATEQ, DESTROYQ, PAGERESUME, LOAD, UNLOAD, LAUNCH, START and STOP (R48 to R51, R111, R116, R120, R123, R125 to
R128). A LAUNCH whose block fits no eligible core completes NOMEM, and a LAUNCH or START whose read of its capability store meets an aborting page PAGEABORT.
Where the spec leaves a point open, it says what the model chose (log entries 54, 56, 57, 64, 100, 101 and 102). -/
def Obligations.RunCommandResults : Prop := ∀ (h : CmdHdr) (bq : CreateqBody) (qn : BitVec 16) (oid : BitVec 32) (off iova lh : BitVec 64)
    (len : BitVec 32) (bl : LaunchBody) (pi : BitVec 16) (s : State),
  let part := s.viPart h.vi
  let q := qn.toNat
  (Issuer.any.admits false h.vi s = true → 1 ≤ bq.qn.toNat → bq.qn.toNat ≤ 1023 → smGet? (s.vi h.vi).queues bq.qn.toNat = none → 6 ≤ bq.s.toNat →
    bq.s.toNat ≤ 16 → bq.prio.toNat ≤ (s.vi h.vi).priocap.toNat → bq.vec.toNat ≤ 1023 → (h.vi = 0 → bq.vec ≠ 0) → bq.ring.toNat % 128 = 0 →
    let n : Queue := { base := bq.ring, s := bq.s.toNat, prio := bq.prio.toNat, vec := bq.vec.toNat
                       resident := h.vi == 0 || decide (residentQueues s part < (s.part part).slots) }
    exec (.createq h bq) s = .next (finish h 1 0 (s.modVi h.vi fun i => { i with queues := smSet i.queues bq.qn.toNat n }))) ∧
  (Issuer.any.admits false h.vi s = true → ∀ x, s.queue? h.vi q = some x → q ≠ 0 → x.dying = false →
    exec (.destroyq h qn) s = .next (await h (.destroyq q) (abortQueue h.vi q (s.modQueue h.vi q fun x => { x with dying := true })))) ∧
  (Issuer.vf.admits false h.vi s = true → oid.toNat < 2 ^ 24 → ∀ page, abortedPage s h.vi (oid.setWidth 24) (off.toNat / 65536) = some page →
    exec (.pageresume h oid off) s = .next (finish h 1 0 (requeueHeld (fun _ x => x.2.2.1 == oid.setWidth 24 && x.2.2.2 == page)
      (resumeOn (oid.setWidth 24) (s.modVi h.vi fun i => { i with aborts := i.aborts.filter fun a => !(a.oid == oid.setWidth 24 && a.page == page) }))))) ∧
  (Issuer.vf.admits false h.vi s = true →
    exec (.load h iova len) s = .next (awaitDma h (.load s.fresh.1 iova.toNat len.toNat)
      { s.fresh.2 with loads := smSet s.fresh.2.loads s.fresh.1 { part := part, st := .loading, code := 0 } })) ∧
  (Issuer.vf.admits false h.vi s = true → ∀ x, s.loadFor part lh = some x →
    let t : State := { s with loads := smSet s.loads lh.toNat { x with dying := true } }
    exec (.unload h lh) s = .next (await h (.unload lh.toNat) ((t.progs.filter fun p => p.2.load == lh.toNat).foldl (fun t p => stopProg p.1 t) t))) ∧
  (Issuer.vf.admits false h.vi s = true → s.rejected part bl.loadh = none →
    (∀ l i caps, launchArgs s h bl = some (l, i, caps) → h.peers = 0 →
      (∀ p, storeAborts (.launchCommand h bl) s = some p → exec (.launchCommand h bl) s = .next (finish h 9 (BitVec.ofNat 32 p) s)) ∧
      (storeAborts (.launchCommand h bl) s = none →
        (launchFits s part i bl.diemask = true → exec (.launchCommand h bl) s = .next (startGrid h bl l i caps s)) ∧
        (launchFits s part i bl.diemask = false → exec (.launchCommand h bl) s = .next (finish h 5 0 s)))) ∧
    (∀ l img caps p, startArgs s h bl = some (l, img, caps) → h.peers = 0 → storeAborts (.start h bl) s = some p →
      exec (.start h bl) s = .next (finish h 9 (BitVec.ofNat 32 p) s)) ∧
    (∀ l img caps, startArgs s h bl = some (l, img, caps) → h.peers = 0 → storeAborts (.start h bl) s = none →
      startCheck s part bl.loadh.toNat bl.entryno.toNat img caps = none →
      progLacks s part img = false → exec (.start h bl) s = .next (finish h 1 (BitVec.ofNat 32 (progSlot s part))
        (standProg h part bl.loadh.toNat bl.entryno.toNat l img caps bl.capmask s)))) ∧
  (Issuer.vf.admits false h.vi s = true → ∀ d, s.rejected part bl.loadh = some d →
    exec (.launchCommand h bl) s = .next (finish h 3 d s) ∧ exec (.start h bl) s = .next (finish h 3 d s)) ∧
  (Issuer.vf.admits false h.vi s = true → ∀ key p, standing s part lh.toNat pi.toNat = some (key, p) →
    exec (.stop h lh pi) s = .next (await h (.stop p.job) (stopProg key s)))

/-- The physical function's commands: PARTCFG, PARTDEL, VFBIND, GANGPEERS, SHAREOBJ, REPAIR, FWSTAGE, FWACT, LOGREAD and DBGRESUME (R123, R442, R448, R453,
R456, R457, R461, R462, R467, Table 19.2). LOGREAD's entries are written as it completes.
Where the spec leaves a point open, it says what the model chose (log entries 69, 70, 72, 73 and 103). -/
def Obligations.PhysicalFunctionCommandResults : Prop := ∀ (h : CmdHdr) (bp : PartcfgBody) (part : BitVec 8) (vf : BitVec 16) (peers : List (BitVec 16))
    (bs : ShareobjBody) (core : BitVec 16) (iova : BitVec 64) (len : BitVec 32) (bl : LogreadBody) (blk : BitVec 32) (s : State),
  let may := Issuer.pf.admits false h.vi s = true
  let mayMin := Issuer.pf.admits true h.vi s = true
  let v := vf.toNat
  let p := part.toNat
  (may → cfgBad bp = false → cfgRefused s bp = none → cfgNoRoom s bp = false →
    exec (.partcfg h bp) s = .next (await h (.partcfg bp.part.toNat (addedCores s bp)) (mapChanged (applyCfg bp s)))) ∧
  (may → (smGet? s.parts p).isSome →
    let t := (queuesOf s p).foldl (fun s x => abortQueue x.1 x.2 (s.modQueue x.1 x.2 fun q => { q with dying := true })) s
    let t := (t.progs.filter fun k => k.2.part == p).foldl (fun s k => s.modProg k.1 fun x => { x with stopping := true }) t
    let t := (t.jobs.filter fun j => j.2.part == p).foldl (fun s j => endJob j.1 0 8 s) t
    let t := (t.objs.filter fun o => o.2.owner == p || o.2.owner2 == some p).foldl (fun s o => killObj (BitVec.ofNat 24 o.1) s) t
    exec (.partdel h part) s = .next (await h (.partdel p) { t with cmds := t.cmds.map fun c => c.partGoes (boundTo t p) })) ∧
  (may → v ≠ 0 → v ≤ 64 → (part = 0xFF ∨ (smGet? s.parts p).isSome) → ((s.vi v).part = none ∨ (s.vi v).queues = []) →
    exec (.vfbind h vf part) s = .next (finish h 1 0 (s.modVi v fun i => { i with part := if part = 0xFF then none else some p }))) ∧
  (may → v ≠ 0 → v ≤ 64 → (∀ x ∈ peers, x.toNat ≤ 64) →
    exec (.gangpeers h vf peers) s = .next (finish h 1 0 (s.modVi v fun i => { i with peers := peers.map (·.toNat) }))) ∧
  (may → ∀ o, shareArgs s bs = some o → o.shareable = true →
    (∀ p, storeAborts (.shareobj h bs) s = some p → exec (.shareobj h bs) s = .next (finish h 9 (BitVec.ofNat 32 p) s)) ∧
    (storeAborts (.shareobj h bs) s = none → exec (.shareobj h bs) s = .next (finish h 1 0 (mint bs.store bs.slot
      { valid := true, oid := bs.oid.setWidth 24, rights := o.rights &&& bs.rights, upper := BitVec.ofNat 48 o.size }
      (s.modObj (bs.oid.setWidth 24) fun o => { o with owner2 := some bs.part.toNat }))))) ∧
  (may → core.toNat ≤ 191 → (s.core core.toNat).halted = true →
    let d := dieOf core.toNat
    smGetD s.sys.spares d 0 < 4 →
    let t : State := { s with sys := { s.sys with spares := smSet s.sys.spares d (smGetD s.sys.spares d 0 + 1) } }
    exec (.repair h core) s = .next (finish h 1 0 (mapChanged (loseScratch core.toNat (t.modCore core.toNat fun k =>
      k.spare (t.part (t.partOf core.toNat)).flags))))) ∧
  (mayMin → exec (.fwstage h iova len) s = .next (awaitDma h (.stage iova.toNat len.toNat) s)) ∧
  (mayMin → s.sys.mode = .running → ∀ img, s.sys.staged = some img → fwBlockers s img = [] →
    exec (.fwact h) s = .next (finish h 1 0 (activate img s))) ∧
  (mayMin → bl.log.toNat ≤ 3 → exec (.logread h bl) s = .next (awaitDma h (.logread bl) s)) ∧
  (∀ k x, s.cmds[k]? = some x → x.wait = .logread bl → s.sys.ide = false →
    let g := logEntries s.logs bl.log.toNat
    let es := (g.1.drop (bl.first.toNat - g.2)).take (bl.len.toNat / 64)
    exec (.commandCompletion k) s = .next (writeStatus { x with detail := BitVec.ofNat 32 es.length }
      { s with hostMem := memWriteN s.hostMem (hostAddr x.hdr.vi bl.iova) es.flatten, cmds := s.cmds.eraseIdx k })) ∧
  (may → ∀ cq, stoppedFor s p blk = some cq → exec (.dbgresume h part blk) s = .next (finish h 1 0 (s.modBlock cq.1 cq.2 fun b => { b with stop := none })))

/-- A command from an interface that may not issue it completes BADCMD with no other effect: while the part runs, every opcode of Table 19.2 on a virtual
function, and on the physical function every other one but those of Table 6.3 that it accepts; in minimal mode every opcode but NOP, FWSTAGE, FWACT and
LOGREAD, and every one of a virtual function (R112, R118, R119, R456, R467). That the same holds while the part boots or has stopped for its temperature
is the model's choice (log entry 118): the spec has no queue start a command then. -/
def Obligations.ForbiddenCommandsAreRefused : Prop := ∀ (h : CmdHdr) (s : State) (i : Instr), cmdHdrOf i = some h →
  (s.sys.mode = .running ∧ h.vi ≠ 0 ∧ forPf i = true ∨ s.sys.mode = .running ∧ h.vi = 0 ∧ forPf i = false ∧ forAll i = false ∨
    s.sys.mode = .minimal ∧ (h.vi ≠ 0 ∨ forMinimal i = false) ∨ s.sys.mode = .booting ∨ s.sys.mode = .thermal) →
  exec i s = .next { s with cmds := s.cmds ++ [{ hdr := h, wait := .done, code := 2, detail := 0 }] }

/-! ## Events (chapters 6, 8, 12 and 17 to 19) -/

/-- The front end's and the interfaces' events: COMMAND_COMPLETION, DOORBELL, AQCTL_ENABLE, AQCTL_DISABLE, ADMIN_QUEUE_DRAINED, REGISTER_WRITE,
SYSSTAT_READ, FUNCTION_LEVEL_RESET, IDE_STREAM_FAULT, DMA_ERROR and VF_ENABLE (R114, R116, R119, R122, R124, R452 to R455, R461).
Where the spec leaves a point open, it says what the model chose (log entries 65, 77, 82, 106, 107 and 111). -/
def Obligations.InterfaceEventResults : Prop := ∀ (s : State) (vi q k : Nat) (tail : BitVec 32) (val : BitVec 64),
  let v := s.vi vi
  let on := vi = 0 ∨ v.enabled = true
  (∀ c t d, s.cmds[k]? = some c → s.sys.ide = false → settleCmd c s = (t, some d) →
    exec (.commandCompletion k) s = .next (writeStatus d { t with cmds := t.cmds.eraseIdx k })) ∧
  (∀ x, s.queue? vi q = some x → (q = 0 → v.aqen = true) → on →
    let t := s.modQueue vi q fun y => { y with tail := tail }
    exec (.doorbell vi q tail) s = .next (if 2 ^ x.s < (tail - x.head).toNat ∧ x.st = .ok then queueError vi q t else fillHead vi q t)) ∧
  (v.aqen = false → smGet? v.queues 0 = none → on → 6 ≤ v.aqsize.toNat → v.aqsize.toNat ≤ 16 → v.aqbase.toNat % 128 = 0 →
    let n : Queue := { base := v.aqbase, s := v.aqsize.toNat, prio := v.priocap.toNat }
    exec (.aqctlEnable vi) s = .next (s.modVi vi fun i => { i with aqen := true, aqerr := false, queues := smSet i.queues 0 n })) ∧
  exec (.aqctlDisable vi) s = .next (s.modVi vi fun i => { i with aqen := false, aqerr := i.aqerr && (smGet? i.queues 0).isSome }) ∧
  (v.aqen = false → (s.queue? vi 0).isSome → othersOf s vi 0 = false → exec (.adminQueueDrained vi) s = .next
    (({ s with gangs := s.gangs.filter fun g => !g.ofQueue vi 0 } : State).modVi vi fun i => { i with queues := smDel i.queues 0, aqerr := false })) ∧
  (on → exec (.registerWrite vi 0 val) s = .next (s.modVi vi fun i => { i with aqbase := val }) ∧
    exec (.registerWrite vi 8 val) s = .next (s.modVi vi fun i => { i with aqsize := val &&& 0xFFFFFFFF })) ∧
  exec .sysstatRead s = .next { s with sys := { s.sys with actDone := false } } ∧
  (vi ≠ 0 →
    let t := (v.queues.map (·.1)).foldl (fun s q => abortQueue vi q s) s
    exec (.functionLevelReset vi) s = .next (({ t with
      cmds := t.cmds.map fun c => if c.hdr.vi = vi then { c with silent := true } else c
      bar2 := smDel t.bar2 vi } : State).modVi vi
      fun i => { i with queues := [], aqbase := 0, aqsize := 0, aqen := false, aqerr := false, aborts := [] })) ∧
  exec .ideStreamFault s = .next { s with sys := { s.sys with ide := true } } ∧
  (∀ c, s.cmds[k]? = some c → s.sys.ide = false → c.dma = true → exec (.dmaError k false) s =
    .next { undoCmd c s with cmds := s.cmds.set k { c with wait := .done, code := 8, detail := 0x100, dma := false } }) ∧
  (s.sys.mode ≠ .minimal → k ≤ 64 →
    exec (.vfEnable k) s = .next ((List.range 64).foldl (fun s i => s.modVi (i + 1) fun v => { v with enabled := decide (i < k) }) s))

/-- Resets, the boot stages, the network boot and thermal protection (R455, R461 to R468).
Where the spec leaves a point open, it says what the model chose (log entries 71, 74, 76 and 108). -/
def Obligations.BootAndThermalResults : Prop := ∀ (s : State) (img data : List (BitVec 8)) (compute hub : BitVec 8),
  let y := s.sys
  let hot := max compute.toNat hub.toNat
  let t : State := { s with sys := { y with thermC := compute, thermH := hub } }
  exec .conventionalReset s = .next (if y.hotLast then recordReason 7 (reboot y.fails false s) else reboot y.fails false s) ∧
  exec .coldPowerOn s = .next { (if y.hotLast then recordReason 7 (reboot 0 false s) else reboot 0 false s) with bclock := 0 } ∧
  (y.mode = .booting → y.failed = true → y.fails < 3 → exec .failedStartReset s = .next (reboot y.fails true s)) ∧
  (y.mode = .booting → y.failed = true → 3 ≤ y.fails → exec .failedStartReset s = .next { s with
    sys := { y with mode := .minimal, failed := false }, vis := s.vis.map fun v => (v.1, { v.2 with enabled := false }) }) ∧
  (y.mode = .booting → y.failed = false → exec .readyTimeout s = .next (failStart 5 s)) ∧
  (y.mode = .booting → y.failed = false → y.stage = 1 → exec (.bootStageDone img true) s = .next (nextStage img s)) ∧
  (y.mode = .booting → y.failed = false → y.stage = 3 → y.net = true → y.netgot = true →
    exec (.bootStageDone img true) s = .next (bootImage y.netbuf 3 s)) ∧
  (y.mode = .booting → y.failed = false → y.stage = 4 → y.net = false → ∀ f, smGet? y.later 4 = some f → fwMagicOk f = true →
    exec (.bootStageDone img true) s = .next (bootImage f 3 s)) ∧
  (y.mode = .running → ∀ p, s.parts.find? (fun p => !p.2.sysimg) = some p → exec (.bootStageDone img true) s =
    .next (if fwOk s img = true then extendMeas (16 + p.1) 0 img (s.modPart p.1 fun x => { x with sysimg := true }) else s)) ∧
  (y.mode = .booting → y.failed = false → y.stage = 6 → exec (.bootStageDone img true) s = .next (bootReady s)) ∧
  (y.mode = .booting → y.failed = false → y.net = true → y.netgot = false → y.netname = true → data.length ≤ 512 →
    exec (.tftpBlock data) s = .next { s with sys := { y with netbuf := y.netbuf ++ data, retries := 0, netgot := decide (data.length < 512) } }) ∧
  (y.mode = .booting → y.failed = false → y.net = true → y.netgot = false → exec .tftpRetry s =
    .next (if y.retries < 5 then { s with sys := { y with retries := y.retries + 1 } } else failStart 1 s)) ∧
  (100 ≤ hot → hot < 110 → y.warn = false →
    exec (.thermalWarning compute hub) s = .next (raiseMsix 0 0 { t with sys := { t.sys with warn := true } })) ∧
  (hot < 95 → exec (.thermalWarningClear compute hub) s = .next { t with sys := { t.sys with warn := false } }) ∧
  (110 ≤ hot → y.mode ≠ .thermal →
    let u := (List.range 192).foldl (fun s c => haltCore true c 0 s) (setWarning hot t)
    exec (.thermalStop compute hub) s = .next { u with
      sys := { u.sys with mode := .thermal, hotLast := true }
      loads := u.loads.filter fun l => l.2.st != .loading
      cmds := u.cmds.map fun c => { c with wait := .done, code := 8, detail := 0x200, dma := false } }) ∧
  (∀ i, y.staged = some i → y.actWait = true → (∀ x ∈ y.blockers, queueOver s x = true) → fwBlockers s i = [] →
    exec .deferredActivation s = .next (raiseMsix 0 0 (activate i s)))

/-- The SPDM requests and the link key, in the order that SPDM gives them (log entry 60): the answer, and the responder's state (R454, R466).
Where the spec leaves a point open, it says what the model chose (log entry 105). -/
def Obligations.AttestationResults : Prop := ∀ (s : State) (p : Nat) (nonce key : BitVec 256), p ≤ 2 →
  let x := s.port p
  let answer := fun (m : SpdmMsg) (f : Spdm → Spdm) (s : State) => Host.Outcome.next (φ := Fault) (ρ := Refusal) (respond p m f s)
  exec (.getVersion p) s = answer (.versions [0x12, 0x13]) (fun x => { x with version := true, caps := false, algs := false }) s ∧
  (x.version = true → exec (.getCapabilities p) s = answer .capabilities (fun x => { x with caps := true }) s) ∧
  (x.caps = true → exec (.negotiateAlgorithms p) s = answer (.algorithms .sha384 .ecdsaBrainpoolP384) (fun x => { x with algs := true }) s) ∧
  (x.algs = true →
    exec (.getDigests p) s = answer (.digests (sha384 Config.certChain)) id s ∧
    exec (.getCertificate p 0) s = answer (.certificate 0 Config.certChain) id s ∧
    exec (.challenge p nonce) s = answer (.challengeAuth (Config.sign (leBytes 32 nonce.toNat ++ Config.certChain ++ measBytes s))) id s ∧
    exec (.getMeasurements p) s = answer (.measurements s.logs.digests) id s ∧
    (x.session = 0 → exec (.keyExchange p) s =
      answer (.keyExchangeRsp (Config.keyShare s.free)) (fun y => { y with session := 1 }) { s with free := s.free + 1 })) ∧
  (x.session = 1 → exec (.finish p) s = answer .finishRsp (fun x => { x with session := 2 }) s) ∧
  (x.session = 2 → exec (.endSession p) s = answer .endSessionAck (fun x => { x with session := 0 }) s) ∧
  (x.session = 2 → exec (.ideKm p key) s = answer .keySetAck id { s with sys := { s.sys with idekey := some key } })

/-- The events of cores, blocks and errors: BEAT_WINDOW_END, QUANTUM_END, RUNAWAY_BLOCK, RESIDENT_SET_CHOICE, EVICTION, BLOCK_RESTORE, ECC_CORRECTED,
MCHECK, UNHANDLED_TRAP_ABORT and IDEM_ABORT (R137, R431, R432, R435 to R439, R443 to R445). A block that is evicted has the results that have arrived in
its registers; its sections stand in a new object of its partition, and it is saved with its item queues and with what waits on; restored, it is on a
core of its partition under new places.
Where the spec leaves a point open, it says what the model chose (log entries 11, 67, 78 and 115). -/
def Obligations.CoreEventResults : Prop := ∀ (s : State) (core q k : Nat) (keep : List (Nat × Nat)) (e : EccSite),
  let c := s.core core
  let b := s.block core q
  let w : State := { s with bclock := windowEnd s.bclock }
  (s.sys.mode = .running → exec .beatWindowEnd s = .next ((List.range 192).foldl (fun s c =>
    let s := s.modCore c fun k => if k.halted then k else k.window
    if 2 ≤ (s.core c).missed then halt c 0 s else s) w)) ∧
  (c.quantum ≠ 0 → c.quantum.toNat ≤ c.issued → c.halted = false → exec (.quantumEnd core) s =
    .next (notify core (s.modCore core fun k => { k.mapBlocks Block.quantum with issued := 0, preempt := true }))) ∧
  (b.mark = true → 16 ≤ b.quanta → evictable s core q = false → c.noBeat = false → exec (.runawayBlock core q) s =
    .next (logFault b.job { kind := 4, cause := 0, block := b.uid, core := core } (s.modCore core fun k => { k with noBeat := true }))) ∧
  (k ≠ 16 →
    let stay := keptQueues s k keep
    let gone := (queuesOf s k).filter fun x => !stay.contains x
    let t := (queuesOf s k).foldl (fun s x => s.modQueue x.1 x.2 fun y => { y with resident := stay.contains x }) s
    exec (.residentSetChoice k keep) s =
      .next ((s.part k).cores.foldl (fun t x => t.modCore x fun y => y.leave fun j => jobIn s j gone) t)) ∧
  (let v : State := s.modBlock core q fun x => { x with mark := true, quanta := 0 }
   c.preempt = true → b.mark = false → q < agentSeq → roomWanted s core = true → (evictable v core q && !v.writing core q) = false →
   exec (.eviction core q) s = .next (settlePreempt core v)) ∧
  (evictable s core q = true → s.writing core q = false → b.mark = true →
    let u := deliverAll core q s
    let bytes := allSections u core q
    let d := detach core q u
    let y := d.block core q
    let x := newArea y.part bytes d
    let v := freeGangs y.part (settlePreempt core (freePlace core q x.2))
    (u.lacks (areaOf (u.block core q).part bytes) = true → exec (.eviction core q) s = .next s) ∧
    (u.lacks (areaOf (u.block core q).part bytes) = false → exec (.eviction core q) s = .next (notifyPart y.part { v with saved := v.saved ++
      [{ blk := { y with mark := false, quanta := 0, absent := [] }, area := x.1, items := ownedItems u core q, ops := keptOps u core q }] }))) ∧
  (∀ x ps sq, s.saved[k]? = some x → s.workResident x.blk.job = true → x.whole = true → c.part = some x.blk.part → classesFree s core x = true →
    s.fits core x.blk.image (x.blk.mx.claim.getD (0, 0)) = some ps → c.freeSeq = some sq →
    let t : State := { s with clock := s.clock + 1, saved := s.saved.eraseIdx k }
    let ws := x.blk.warps.zipIdx.map fun wi => (wi.1.1, wi.1.2.placed t.clock (ps.getD wi.2 (0, 0)))
    exec (.blockRestore k core) s = .next (attach core sq x (dropArea x (t.setBlock core sq { x.blk with warps := ws })))) ∧
  exec (.eccCorrected e) s = .next (logError 0 e s) ∧
  (e.settle = true → exec (.mcheck e) s = .next (stopHomed e.die.toNat (logError 1 e s))) ∧
  (e.settle = false → ∀ u, e.user = some u →
    let t := logError 1 e s
    let qs := ((t.core u).blocks.filter fun x => decide (x.1 < agentSeq)).map (·.1)
    let v := t.modCore u fun x => { x.mapBlocks Block.haltBy with halted := true }
    let v := if qs = [] then putFault (v.partOf u % 16) { vi := 0, q := 0, stat := 0, usertag := 0 } { kind := 3, cause := 0x1A, core := u } v else v
    exec (.mcheck e) s = .next (if (t.core u).halted then t else cutWork u (qs.foldl (fun v x => haltBlock false u x 0x1A v) v))) ∧
  (∀ x, s.block? core q = some x → drained s core q = true →
    let counted := fun (u : State) => if (smGet? u.jobs x.job).any (·.prog.isSome) then endWork x u else u
    (∀ t, x.stop = some (.trap t) → exec (.unhandledTrapAbort core q) s =
      .next (counted (removeBlock core q (abortJob x.job t.cause (recordStop 0 core q t s))))) ∧
    (x.stop = some .aborted ∨ x.stop = some .halted → exec (.unhandledTrapAbort core q) s = .next (counted (removeBlock core q s)))) ∧
  (∀ x r oid page o, s.block? core q = some x → x.origin = .task r → engineAbort s core q = some (oid, page) → r.idem = true → x.sticky = false →
    x.stop = none → s.obj? oid = some o →
    let t := reportAbort x.job core x.uid oid page (o.page page).reason s
    exec (.idemAbort core q) s = .next ((removeBlock core q { t with rstores := t.rstores.filter fun y => y.uid != x.uid }).modJob x.job fun j =>
      { j with held := j.held ++ [(r, core, oid, page)] }))

/-- The events of instruction supply and of outstanding instructions: ICACHE_FILL, YIELD_EXPIRY, LOAD_DATA_ARRIVAL, LONG_LATENCY_COMPLETE,
REMOTE_STORE_PERFORMED, COPY_RECORD_START, COPY_LINE_ARRIVAL, CPKICK_REGISTER, SCHRUN_REGISTER and LEXICON_ROW_PERFORMED (R158, R168, R180, R222, R248,
R254, R256 to R258, R263, R273, R312, R356). When the one access that an instruction still has to make reaches its place, and no older access of its threads
stands in its way, a load's bytes go to its register in its lanes, a store's bytes to memory, and an atomic's result to memory with the old value to its
register; the lanes that waited for it wake, an acquire is noted in its threads, and only the instruction's completion is left.
Where the spec leaves a point open, it says what the model chose (log entries 10 and 26). -/
def Obligations.CompletionEventResults : Prop := ∀ (s : State) (core k n : Nat) (o : LongOp),
  (∀ obj line, (cacheReads s core)[k]? = some (obj, line) → s.runGate core (.obj obj) (192 * line) 192 false true false = .ok →
    let t := s.modCore core fun c => c.addLine ((wantedLines s core).map (·.2)).eraseDups (obj, line)
    exec (.icacheFill core k) s = .next (if ((wantedLines s core).filter fun x => x.2 == (obj, line)) = [] then t
      else askLines core obj (16 * (line + 1) : Nat) 1 t)) ∧
  exec (.yieldExpiry core k n) s = .next ((s.sliceWarps core k).foldl (fun s w => s.modWarp w fun x => x.mapThreads fun th =>
    if th.yclk = true ∧ th.stamp = n then { th with yclk := false } else th) s) ∧
  (s.op? k = some o →
    (∀ st, o.work = .mem [st] → s.stepAfter o.core o.id st = false →
      let done := fun (v : State) => (wakeDone o.id o.mems [] v).modOp o.id fun x => { x with work := .results }
      let met := fun (v : State) => if st.acq then v.modThreads st.w st.lanes fun _ th => { th with acq := v.clock } else v
      (∀ f, st.act = .load f → st.np = false → s.stepGate o.core true false st = .ok → exec (.loadDataArrival k) s =
        .next (done ((loadWrites s st f (s.readNat st.side st.off st.n)).foldl deliver (met s)))) ∧
      (∀ bs, st.act = .store bs → s.stepGate o.core true false st = .ok → exec (.loadDataArrival k) s = .next (done (met (s.writeN st.side st.off bs)))) ∧
      (∀ bs, st.act = .store bs → s.stepGate o.core true true st = .ok → exec (.sequencerWrite k) s = .next (done (met (s.writeN st.side st.off bs)))) ∧
      (∀ a t sat v d, st.act = .rmw a t sat v → st.d = some d → s.stepGate o.core true false st = .ok →
        let old := s.readNat st.side st.off st.n
        let w := met (s.writeNat st.side st.off st.n (atomOp a t sat (BitVec.ofNat 64 old) v).toNat)
        exec (.loadDataArrival k) s = .next (done ((regWrites s st.w st.lanes d (if st.n = 8 then 2 else 1) old).foldl deliver w)))) ∧
    (∀ l, o.work = .mem l → exec (.loadDataArrival k) s = .next (resumeMem true false o s) ∧ exec (.sequencerWrite k) s = .next (resumeMem true true o s)) ∧
    (∀ r, o.work = .conj r → exec (.loadDataArrival k) s = .next (resumeCj true false o s) ∧ exec (.sequencerWrite k) s = .next (resumeCj true true o s)) ∧
    (∀ r, o.work = .vol r → exec (.loadDataArrival k) s = .next (runVol o.id s)) ∧
    (o.work = .results → ((s.core o.core).copies.any fun x => x.op == some k) = false → exec (.longLatencyComplete k) s =
      .next (takeDeferred (match fpTrapOf o.fpten o.flags with
        | some t => raiseAt t (o.group s) (s.dropOp o)
        | none => orFlags o.flags (o.rws.foldl deliver (s.dropOp o))))) ∧
    (∀ cs, o.work = .kick cs → cs.length ≤ freeEntries s o.core → s.unreleased o.core o.mems = false → (cs.findIdx? fun c => (s.core o.core).copies.any fun x => conflicts x c) = none →
      exec (.cpkickRegister k) s = .next ((wakeOp k o.mems (registerCopies o.core cs none s)).modOp k fun o => { o with work := .results })) ∧
    (∀ r, o.work = .sched r → r.going = false → 0 < freeEntries s o.core → s.locked o.core true (.shm r.w.core r.w.seq) (r.base, r.base + r.len) = false →
      exec (.schrunRegister k) s = .next (wakeOp k o.mems (registerSched o.core k r s)))) ∧
  (∀ x j, s.rowsLeft[k]? = some (x, j) → exec (.lexiconRowPerformed k) s = .next (resumeStep j x s)) ∧
  (∀ r, s.rstores[k]? = some r → ((s.rstores.take k).any fun x => x.core == r.core && x.oid == r.oid && x.off / 64 == r.off / 64) = false →
    s.absentAt (.obj r.oid) r.off r.bytes.length = false →
    exec (.remoteStorePerformed k) s = .next { s.writeN (.obj r.oid) r.off r.bytes with rstores := s.rstores.eraseIdx k }) ∧
  exec (.copyRecordStart core k) s = .next (s.modCore core fun x => { x with copies := x.copies.map fun c =>
    if c.id == k && (match c.after with | some a => x.copies.all fun y => y.id != a | none => true) then { c with started := true } else c }) ∧
  (∀ c p, (s.core core).copies.find? (fun x => x.id == k) = some c → c.todo[n]? = some p → c.started = true → partGate s core c p false = .ok →
    exec (.copyLineArrival core k n) s = .next (performPart core c n p s))

/-- The events of the volume engines, pages and item queues: CLB_WALK, TILE_LINE_FETCH, TILE_ALLOCATION, TILE_REMOVAL, SHOOTDOWN_MARK, BACKGROUND_WRITE,
COLLAPSE_REQUEST, COLLAPSE_ACK, PAGE_COMPRESS, PAGE_EXPAND, PAGE_KIND_CHANGE and ITEM_REFILL (R82 to R85, R285, R287, R291, R294, R304, R320).
Where the spec leaves a point open, it says what the model chose (log entries 6, 30, 31 and 59). -/
def Obligations.EngineEventResults : Prop := ∀ (s : State) (k core : Nat) (o : LongOp) (r : VReq),
  (s.volReq? k = some (o, r) → volStuck s r = none →
    (∀ ln t, r.sent = false → firstMiss (resolve s o.core r) = some (ln, t) → (s.walk ln.vol t).busy = false →
      exec (.clbWalk k) s = .next (runVol k (enterClb o.core (clbOf ln.vol t (s.walk ln.vol t) (s.clock + 1)) { s with clock := s.clock + 1 }))) ∧
    (∀ ln off, r.sent = true → firstLine s o.core r = some (ln, off) →
      let todo := r.todo.map fun x => if x = ln then { x with got := x.got ++ [(off, s.lineBytes ln.vol off)] } else x
      exec (.tileLineFetch k) s = .next (putVol k { r with todo := todo } [] (fetchLine o.core ln off s))) ∧
    (∀ ln, engineLane r = some ln → engineFree s ln.vol = true → r.sent = true → r.op = 6 →
      let at_ := tileAt ln.x ln.y ln.z
      let r' := { r with todo := r.todo.filter fun x => !(r.mates ln).contains x }
      (∀ b new t, homeTile ln.vol at_ s = .tile b new t → exec (.tileAllocation k) s =
        .next (putVol k r' (mateWrites s r ln (if new then 1 else 0) (r.mates ln)) (noteTile o.core ln.vol at_ b t))) ∧
      (∀ code, homeTile ln.vol at_ s = .fail code → exec (.tileAllocation k) s =
        .next (putVol k { r' with fails := r.fails ++ (r.mates ln).map fun x => (x.lane, code) } [] s))) ∧
    (∀ ln rest, r.todo = ln :: rest → engineFree s ln.vol = true →
      (let w := s.walkTo ln.vol (tileAt ln.x ln.y ln.z) r.level
       r.op = 7 → w.busy = false → r.level < w.depth → exec (.tileRemoval k) s =
        .next ((s.putNodeEntry w.side w.off { valid := false, busy := true, child := w.tile }).modOp k fun o =>
          { o with work := .vol { r with busy := true, acks := [] } })) ∧
      (r.op = 9 → exec (.backgroundWrite k) s = .next (putVol k { r with todo := rest } []
        (((List.range r.n).foldl (fun t j => t.writeNat (.obj ln.vol) (64 + (r.c + j) * tyBytes r.ty) (tyBytes r.ty) (ln.vals.getD j 0).toNat) s).modCore
          o.core fun c => { c with bgs := smDel c.bgs ln.vol.toNat }))))) ∧
  (∀ ln rest, s.volReq? k = some (o, r) → r.todo = ln :: rest → r.busy = true → r.acks.contains core = false → s.enabledCores.contains core = true →
    let at_ := tileAt ln.x ln.y ln.z
    drains s core ln.vol r.level at_ = true →
    let t := dropFound core ln.vol r.level at_ (s.modCore core fun c => c.dropCube ln.vol r.level at_)
    let r' := { r with acks := r.acks ++ [core] }
    exec (.shootdownMark k core) s = .next (if t.enabledCores.all fun c => r'.acks.contains c then completeRemoval k o r' ln t
      else t.modOp k fun o => { o with work := .vol r' })) ∧
  (∀ id off stop ob, wprotPlace s k = some (core, id, off, stop) → s.obj? id = some ob →
    (s.collapses.any fun c => c.oid == id && c.page == ob.pageKey off) = false → (ob.page (ob.pageKey off)).large = false →
    exec (.collapseRequest k) s = .next { s with collapses := s.collapses ++
      [{ req := k, oid := id, page := ob.pageKey off, lo := off / 65536, hi := off / 65536, die := dieOf core }] }) ∧
  (∀ c die, s.collapses.find? (fun c => c.req == k) = some c → c.acks.contains die = false →
    ((List.range 4).all (c.acks ++ [die]).contains) = false → exec (.collapseAck k die) s =
      .next { s with collapses := s.collapses.map fun x => if x.req == k then { c with acks := c.acks ++ [die] } else x }) ∧
  (∀ oid page id ob p slot, pageOf s oid page = some (id, ob, p) →
    let e := ob.page p
    (e.aborts = false → e.comp = false → e.repl = 0 → ob.kind = .data → inFlight s id = false → slot.toNat < 1310720 → zoneTaken s e.stack slot = false →
      let gone := [(e.unit, e.span)].filter fun x => hasFrames x.1 x.2 ob.held
      exec (.pageCompress oid page slot) s = .next (modPage id p (fun e => { e with comp := true, aux := slot })
        ((s.modObj id fun o => { o with held := cutAll gone o.held }).giveFrames ob.owner gone))) ∧
    (∀ f u, e.comp = true → s.pagePending id p = false → expandFrame s ob e f = some u → exec (.pageExpand oid page f) s =
      .next (resumeOn id (modPage id p (fun e => { e with comp := false, aux := 0 }.onFrame u)
        ((s.setRoom ob.owner (cutFrames u e.span (s.room ob.owner))).modObj id fun o => { o with held := putFrames (u, e.span) o.held })))) ∧
    (∀ f, s.pagePending id p = true → exec (.pageExpand oid page f) s = .next s) ∧
    (e.comp = true → s.pagePending id p = false → expandFrame s ob e none = none → exec (.pageExpand oid page none) s =
      .next (abortCmds ob id p ((blocksOn s ob id p).foldl (fun s j => reportAbort j.1 j.2.1 j.2.2 id p 4 s) s))) ∧
    (∀ kind, ob.kind = .data → kind ≠ 3 → inFlight s id = false → ob.atWork s = false →
      exec (.pageKindChange oid page kind) s = .next (modPage id p (fun e => { e with kind := kind }) s))) ∧
  (∀ q, s.itemQ core k = some q →
    let ws := (s.block core q.owner).warps.foldr (fun iw a =>
      packInsert ((iw.2.itemLanes k).length, 8 * iw.2.slice + iw.2.slot, { core := core, seq := q.owner, warp := iw.1 }) a) []
    let lanes := ws.flatMap fun x => ((s.warp x.2.2).itemLanes k).map fun l => (x.2.2, l)
    lanes ≠ [] → q.items ≠ [] → exec (.itemRefill core k) s = .next (refillLanes core k (s.clock + 1) lanes { s with clock := s.clock + 1 }))

/-- The events of grids, tasks and standing programs: TICKET_CLAIM, TASK_START, STEAL, LANDING_RETURN, BLOCK_RETIRE, PENDING_RETRY, GRID_COMPLETE,
GANG_RESERVATION, SETTLE_DISPATCH, POST_APPLY, CONVERGENCE_SWEEP, MATRIX_OP_START and MATRIX_OP_COMPLETE (R129 to R135, R333, R335, R395 to R400, R403,
R405, R407 to R412).
Where the spec leaves a point open, it says what the model chose (log entries 52, 53, 55, 68, 87, 98, 99 and 112). -/
def Obligations.SchedulingEventResults : Prop := ∀ (s : State) (core q k die : Nat),
  let c := s.core core
  let b := s.block core q
  (∀ id g ps, chooseGrid s (claimable s core) = some (id, g, ps) → (c.claims = true ∨ nextRecord s core = none) →
    let t : State := { passTurn core false s with
      grids := smSet s.grids id { g with ticket := g.ticket + 1, running := if g.ticket < g.n then g.running + 1 else g.running } }
    (g.ticket < g.n → ∀ sq, c.freeSeq = some sq → exec (.ticketClaim core) s = .next (begun core sq (g.block id g.ticket) ps t)) ∧
    (g.n ≤ g.ticket → exec (.ticketClaim core) s = .next (t.modCore core fun k => { k with closed := k.closed ++ [id] }))) ∧
  (∀ src r blk ps, nextRecord s core = some (src, r) → (c.claims = false ∨ claimable s core = []) →
    let t := passTurn core true s
    recordBlock t r = some blk → t.fits core blk.image (0, 0) = some ps →
    ∀ sq, c.freeSeq = some sq → exec (.taskStart core) s = .next (begun core sq blk ps (takeRecord core src r t))) ∧
  (∀ j, (s.part (s.partOf core)).cores.contains core = true → c.part.isSome → c.halted = false → c.landing = none → c.deque = [] → c.settleq = [] → c.freeSeq.isSome → spillJob s (s.partOf core) = some j →
    exec (.steal core) s = .next ((s.modJob j fun x => { x with spill := x.spill.drop 1 }).modCore core fun k =>
      { k with landing := ((smGet? s.jobs j).elim [] (·.spill)).head? })) ∧
  (∀ r, c.landing = some r → c.preempt = true →
    exec (.landingReturn core) s = .next (s.modCore core fun k => { k with landing := none, deque := k.deque ++ [r] })) ∧
  (∀ g x y z, retirable s core q = true → b.origin = .grid g x y z →
    exec (.blockRetire core q) s = .next (endWork b (freeGangs b.part (settlePreempt core (freePlace core q (releaseHolds b.uid s)))))) ∧
  (∀ r, retirable s core q = true → b.origin = .task r →
    exec (.blockRetire core q) s = .next (endWork b (freeGangs b.part (settlePreempt core (freePlace core q (releaseHolds b.uid
      (if r.succobj = 0 then s else succStep core b.part r.succobj r.succoff.toNat s))))))) ∧
  (let again := requeueHeld fun part y => heldCore s part y.2.1 == core && !s.pagePending y.2.2.1 y.2.2.2
   (c.pend = [] → exec (.pendingRetry core) s = .next (again s)) ∧
   ∀ x rest, c.pend = x :: rest → (s.obj? x.1).isSome →
     let n := cellNext s x.1 x.2
     (rest = [] ∨ pendingCell s n = true ∧ (rest.head? = some n ∨ (cellRec s n.1 n.2).jobid = (cellRec s x.1 x.2).jobid)) →
     (pushDeque core (cellRec s x.1 x.2) s = none → exec (.pendingRetry core) s = .next (again s)) ∧
     ∀ t, pushDeque core (cellRec s x.1 x.2) s = some t → exec (.pendingRetry core) s = .next (again (disarm x.1 x.2
       ((setCellFlag x.1 x.2 2 false t).modCore core fun k => { k with pend := if rest = [] then [] else listFrom s rest n })))) ∧
  (∀ g p, smGet? s.grids k = some g → g.done = false → g.finished = true → g.parent = some p →
    exec (.gridComplete k) s = .next (endJobCount g.job (endGridOf p { s with grids := smDel s.grids k }))) ∧
  (∀ gang g t, (s.gangs.filter fun g => g.hdr.gang == gang).find? (fun g => gangClash s g || gangDue s g) = some g → gangClash s g = false →
    earlierGang s g = false →
    commitAll ((gangMates s g).foldl (fun l x => insertPart s x l) []) ((gangMates s g).foldl (fun t x => releaseHead x t)
      { s with gangs := s.gangs.filter fun x => !((gangMates s g).contains x) }) = .ok t →
    exec (.gangReservation gang) s = .next t) ∧
  (∀ key p d is i, smGet? s.turns die = none → (heapsOn s die).head? = some (key, p, d, is) →
    let n := smGetD p.heapk d 0
    heapPick p (n % 16 == 15) is = some i →
    let y : SBlk := { p.blk i with capR := (p.blk i).res, capG := p.gen, res := 0, seqno := n + 1, flight := true }
    let t := ({ s with turns := smSet s.turns die key } : State).modProg key fun x =>
      ({ x with blks := smSet x.blks i y, heapk := bump x.heapk d 1, disp := x.disp + 1 } : Prog).event d
    let t := t.modJob p.job fun j => { j with count := j.count + 1 }
    exec (.settleDispatch die) s = .next ((homeCore t p i).elim t fun c => notify c (t.modCore c fun y =>
      { y with settleq := y.settleq ++ [dispatchRecord t p i] }))) ∧
  (∀ x, s.posts[k]? = some x → exec (.postApply k) s = .next (({ s with posts := s.posts.eraseIdx k } : State).modProg x.prog fun p =>
    { p.apply x.blk (postAmount x.w x.d) with applied := bump p.applied (p.home x.blk) 1 }.event (p.home x.blk))) ∧
  (∀ p, smGet? s.progs k = some p → p.recorded = false → sweepDue p = true →
    let still := (readSweep p).quiet = true ∧ p.last = some (readSweep p)
    (¬ still → exec (.convergenceSweep k) s = .next (s.modProg k fun p => { p with last := some (readSweep p) })) ∧
    (still →
      let rp := Side.obj p.img.report
      let t := writeReport p (fun s => (((s.writeNat rp 12 4 1).writeNat rp 0 8 p.gen.toNat).writeNat rp 8 4
        (maxRes (p.blks.map (·.2.res))).toNat).writeNat rp 16 8 p.disp) s
      let t := if reportLive t p then engineCount rp 64 1 t else t
      let t := t.modProg k fun p => { p with recorded := true, last := none }
      exec (.convergenceSweep k) s = .next ((smGet? t.jobs p.job).elim t fun j => raiseQueue j.hdr.vi j.hdr.q t))) ∧
  (∀ o, b.mx.ops[k]? = some o → o.started = false → b.mx.busy o = false → o.src = none → exec (.matrixOpStart core q k) s =
    .next (wakeOwner core q (modMx core q (fun m => { m with ops := m.ops.set k { o with started := true } }) s))) ∧
  (∀ o x, b.mx.ops[k]? = some o → o.src = some x → b.mx.loadWaits b o x = false → exec (.matrixOpStart core q k) s =
    .next (grantOwner core (wakeOwner core q (modMx core q (fun m => ({ m with ops := m.ops.eraseIdx k } : Mx).load b o x) s)))) ∧
  (∀ o, b.mx.ops[k]? = some o → o.started = true → exec (.matrixOpComplete core q k) s =
    .next (grantOwner core (retryReaders core q (modMx core q (fun m => finishOp o s.free { m with ops := m.ops.eraseIdx k })
      { s with free := s.free + 8192, clock := s.clock + 1 }))))
end

