-- ==== Sys2Proof/Laws/Decode.lean ====
section
/-!
SUPPORT. The decoder reads back what the encoder writes, field by field: register fields, modifier codes, the modifier word, the places of a file,
and the whole word.
-/
set_option autoImplicit false

namespace Sys2Proof

@[simp] theorem VReg.dec_enc (v : VReg) : VReg.dec v.enc = some v := by
  cases v with
  | v n =>
    have := n.isLt
    have e : (VReg.enc (.v n)).toNat = n.val := by simp only [VReg.enc, BitVec.toNat_ofNat]; omega
    simp [VReg.dec, e]
  | latch k => revert k; decide
  | _ => decide

@[simp] theorem Ty.dec_enc (t : Ty) : Ty.dec t.enc = some t := by cases t <;> decide
@[simp] theorem Rnd.dec_enc (t : Rnd) : Rnd.dec t.enc = some t := by cases t <;> decide
@[simp] theorem Scope.dec_enc (t : Scope) : Scope.dec t.enc = some t := by cases t <;> decide

theorem bit1_get (b : Bool) (i : Nat) : (bit1 b).getLsbD i = (decide (i = 0) && b) := by
  cases b <;> simp [bit1]

/-- A field is what its bits are. -/
theorem extract_eq {n w : Nat} (x : BitVec n) (lo : Nat) (y : BitVec w) (h : ∀ i, i < w → x.getLsbD (lo + i) = y.getLsbD i) :
    x.extractLsb' lo w = y := by
  apply BitVec.eq_of_getLsbD_eq
  intro i hi
  simp [hi, h i hi]

theorem Mods.unpack_pack (m : Mods) : Mods.unpack m.pack = some m := by
  have h1 : m.pack.extractLsb' 28 4 = m.ty.enc := by
    apply extract_eq; intro i hi
    simp (disch := omega) only [Mods.pack, BitVec.getLsbD_append, if_neg]; congr 1; omega
  have h2 : m.pack.extractLsb' 25 3 = m.rnd.enc := by
    apply extract_eq; intro i hi
    simp (disch := omega) only [Mods.pack, BitVec.getLsbD_append, if_neg, if_pos]; congr 1; omega
  have h3 : m.pack.extractLsb' 22 3 = m.scope.enc := by
    apply extract_eq; intro i hi
    simp (disch := omega) only [Mods.pack, BitVec.getLsbD_append, if_neg, if_pos]; congr 1; omega
  have h4 : m.pack.extractLsb' 16 4 = m.sub := by
    apply extract_eq; intro i hi
    simp (disch := omega) only [Mods.pack, BitVec.getLsbD_append, if_neg, if_pos]; congr 1; omega
  have h5 : m.pack.extractLsb' 0 16 = m.imm := by
    apply extract_eq; intro i hi
    simp (disch := omega) only [Mods.pack, BitVec.getLsbD_append, if_pos]; congr 1; omega
  have h6 : m.pack.getLsbD 21 = m.sat := by
    simp (disch := omega) only [Mods.pack, BitVec.getLsbD_append, if_neg, if_pos, bit1_get]; simp
  have h7 : m.pack.getLsbD 20 = m.fb := by
    simp (disch := omega) only [Mods.pack, BitVec.getLsbD_append, if_neg, if_pos, bit1_get]; simp
  simp only [Mods.unpack, h1, h2, h3, h4, h5, h6, h7, Ty.dec_enc, Rnd.dec_enc, Scope.dec_enc]
  rfl

theorem Raw.unpack_pack (r : Raw) : Raw.unpack r.pack = r := by
  obtain ⟨op, ⟨gn, gp, la, hold, hslot, yld, pf⟩, d, a, b, x, rsv⟩ := r
  simp only [Raw.unpack, Raw.mk.injEq, Ctl.mk.injEq]
  refine ⟨?_, ⟨?_, ?_, ?_, ?_, ?_, ?_, ?_⟩, ?_, ?_, ?_, ?_, ?_⟩
  all_goals first
    | (apply extract_eq; intro i hi
       simp (disch := omega) only [Raw.pack, BitVec.getLsbD_append, if_neg, if_pos]; congr 1; omega)
    | (simp (disch := omega) only [Raw.pack, BitVec.getLsbD_append, if_neg, if_pos, bit1_get]; simp)

theorem decF_setWidth (w : Nat) (p : BitVec w) (h : w ≤ 11) : decF w (p.setWidth 11) = some p := by
  have h2 : (2 : Nat) ^ w ≤ 2 ^ 11 := Nat.pow_le_pow_right (by omega) h
  have hp := p.isLt
  have e : (p.setWidth 11).toNat = p.toNat := by simp only [BitVec.toNat_setWidth]; exact Nat.mod_eq_of_lt (by omega)
  have e2 : (p.setWidth 11).toNat < 2 ^ w := by rw [e]; exact hp
  rw [decF, if_pos e2]
  congr 1
  apply BitVec.eq_of_toNat_eq
  rw [BitVec.toNat_setWidth, e]
  exact Nat.mod_eq_of_lt hp

theorem decP_encP (p : Fin 15) : decP (encP p) = some p := by revert p; decide

@[simp] theorem dec0_zero (w : Nat) : dec0 (0#w) = some () := by simp [dec0]

end Sys2Proof
end

