-- ==== Sys2Proof/Laws/Memory.lean ====
section
/-!
SUPPORT. The laws of sparse maps and of memory: reading after a write, the bytes that a write leaves alone, and the canonical form that every
memory operation keeps.
-/
set_option autoImplicit false

namespace Sys2Proof.Machine

/-! ### Sparse maps -/

theorem smGet_smSet_same {α : Type} (m : SMap α) (k : Nat) (v : α) : smGet? (smSet m k v) k = some v := by
  induction m with
  | nil => simp [smSet, smGet?]
  | cons x r ih =>
    obtain ⟨j, u⟩ := x
    simp only [smSet]
    split
    · simp [smGet?]
    · split
      · simp [smGet?]
      · rename_i h1 h2
        simp [smGet?, ih, Ne.symm h2]

theorem smGet_smSet_other {α : Type} (m : SMap α) (k j : Nat) (v : α) (h : j ≠ k) : smGet? (smSet m k v) j = smGet? m j := by
  induction m with
  | nil => simp [smSet, smGet?, Ne.symm h]
  | cons x r ih =>
    obtain ⟨i, u⟩ := x
    simp only [smSet]
    split
    · simp [smGet?, Ne.symm h]
    · split
      · rename_i h1 h2
        subst h2
        simp [smGet?, Ne.symm h]
      · simp only [smGet?, ih]

theorem smGet_smSet {α : Type} (m : SMap α) (k j : Nat) (v : α) :
    smGet? (smSet m k v) j = if j = k then some v else smGet? m j := by
  split
  · next h => subst h; exact smGet_smSet_same m j v
  · next h => exact smGet_smSet_other m k j v h

@[simp] theorem smGetD_smSet_same {α : Type} (m : SMap α) (k : Nat) (v d : α) : smGetD (smSet m k v) k d = v := by
  simp [smGetD, smGet_smSet_same]

theorem smGetD_smSet_other {α : Type} (m : SMap α) (k j : Nat) (v d : α) (h : j ≠ k) :
    smGetD (smSet m k v) j d = smGetD m j d := by
  simp [smGetD, smGet_smSet_other m k j v h]

/-- The keys of a map rise strictly. -/
def Rising {α : Type} : SMap α → Prop
  | [] => True
  | (k, _) :: r => (∀ p ∈ r, k < p.1) ∧ Rising r

theorem smDel_mem {α : Type} (m : SMap α) (k : Nat) : ∀ p ∈ smDel m k, p ∈ m := by
  induction m with
  | nil => simp [smDel]
  | cons x r ih =>
    obtain ⟨j, u⟩ := x
    simp only [smDel]
    split
    · intro p hp; exact List.mem_cons_of_mem _ (ih p hp)
    · intro p hp
      simp only [List.mem_cons] at hp ⊢
      exact hp.imp id (ih p)

theorem smSet_mem {α : Type} (m : SMap α) (k : Nat) (v : α) : ∀ p ∈ smSet m k v, p = (k, v) ∨ p ∈ m := by
  induction m with
  | nil => simp [smSet]
  | cons x r ih =>
    obtain ⟨j, u⟩ := x
    simp only [smSet]
    split
    · simp
    · split
      · intro p hp
        simp only [List.mem_cons] at hp ⊢
        exact hp.imp id Or.inr
      · intro p hp
        simp only [List.mem_cons] at hp ⊢
        exact hp.elim (fun h => .inr (.inl h)) fun h => (ih p h).imp id .inr

theorem smSet_rising {α : Type} (m : SMap α) (k : Nat) (v : α) (h : Rising m) : Rising (smSet m k v) := by
  induction m with
  | nil => simp [smSet, Rising]
  | cons x r ih =>
    obtain ⟨j, u⟩ := x
    simp only [smSet]
    split
    · next h1 =>
      refine ⟨fun p hp => ?_, h⟩
      simp only [List.mem_cons] at hp
      rcases hp with rfl | hp
      · exact h1
      · exact Nat.lt_trans h1 (h.1 p hp)
    · split
      · next h1 h2 => exact ⟨fun p hp => h2 ▸ h.1 p hp, h.2⟩
      · next h1 h2 =>
        refine ⟨fun p hp => ?_, ih h.2⟩
        rcases smSet_mem r k v p hp with rfl | hp
        · simp; omega
        · exact h.1 p hp

theorem smDel_rising {α : Type} (m : SMap α) (k : Nat) (h : Rising m) : Rising (smDel m k) := by
  induction m with
  | nil => simp [smDel, Rising]
  | cons x r ih =>
    obtain ⟨j, u⟩ := x
    simp only [smDel]
    split
    · exact ih h.2
    · exact ⟨fun p hp => h.1 p (smDel_mem r k p hp), ih h.2⟩

theorem smGet_smDel {α : Type} (m : SMap α) (k j : Nat) : smGet? (smDel m k) j = if j = k then none else smGet? m j := by
  induction m with
  | nil => simp [smDel, smGet?]
  | cons x r ih =>
    obtain ⟨i, u⟩ := x
    simp only [smDel]
    split
    · next h1 =>
      subst h1
      rw [ih]
      split
      · rfl
      · next h2 => simp [smGet?, Ne.symm h2]
    · next h1 =>
      simp only [smGet?, ih]
      split
      · next h2 => subst h2; simp [h1]
      · rfl

theorem smGetD_smPut {α : Type} [DecidableEq α] (m : SMap α) (k j : Nat) (v d : α) :
    smGetD (smPut m k v d) j d = if j = k then v else smGetD m j d := by
  unfold smPut
  split
  · next h1 =>
    subst h1
    simp only [smGetD, smGet_smDel]
    split <;> simp
  · simp only [smGetD, smGet_smSet]
    split <;> simp

/-! ### The canonical form (`Memory.wf`) -/

/-- The canonical form: keys rise strictly, and no entry is 0. -/
def Canonical (m : Memory) : Prop := Rising m ∧ ∀ p ∈ m, p.2 ≠ 0

theorem wf_cons (a : Nat) (b : Byte) (r : Memory) :
    Memory.wf ((a, b) :: r) = true ↔ b ≠ 0 ∧ (∀ p ∈ r.head?, a < p.1) ∧ Memory.wf r = true := by
  cases r with
  | nil => simp [Memory.wf]
  | cons x r => obtain ⟨a', b'⟩ := x; simp [Memory.wf, and_assoc]

theorem wf_iff (m : Memory) : m.wf = true ↔ Canonical m := by
  induction m with
  | nil => simp [Memory.wf, Canonical, Rising]
  | cons x r ih =>
    obtain ⟨a, b⟩ := x
    rw [wf_cons, ih]
    unfold Canonical
    constructor
    · rintro ⟨h1, h2, h3, h4⟩
      refine ⟨⟨?_, h3⟩, ?_⟩
      · cases r with
        | nil => simp
        | cons y r =>
          intro p hp
          have h5 : a < y.1 := h2 y (by simp)
          simp only [List.mem_cons] at hp
          rcases hp with rfl | hp
          · exact h5
          · exact Nat.lt_trans h5 (h3.1 p hp)
      · intro p hp
        simp only [List.mem_cons] at hp
        rcases hp with rfl | hp
        · exact h1
        · exact h4 p hp
    · rintro ⟨⟨h1, h2⟩, h3⟩
      refine ⟨h3 (a, b) (by simp), ?_, h2, fun p hp => h3 p (by simp [hp])⟩
      intro p hp
      cases r with
      | nil => simp at hp
      | cons y r => simp at hp; subst hp; exact h1 _ (by simp)

/-- Writing a byte keeps the canonical form. -/
theorem memWrite_wf (m : Memory) (a : Nat) (b : Byte) (h : m.wf = true) : (memWrite m a b).wf = true := by
  rw [wf_iff] at h ⊢
  unfold memWrite smPut
  split
  · exact ⟨smDel_rising m a h.1, fun p hp => h.2 p (smDel_mem m a p hp)⟩
  · next hb =>
    refine ⟨smSet_rising m a b h.1, fun p hp => ?_⟩
    rcases smSet_mem m a b p hp with rfl | hp
    · exact hb
    · exact h.2 p hp

/-- Writing a run of bytes keeps the canonical form. -/
theorem memWriteN_wf (m : Memory) (a : Nat) (bs : List Byte) (h : m.wf = true) : (memWriteN m a bs).wf = true := by
  induction bs generalizing m a with
  | nil => exact h
  | cons b r ih => exact ih (memWrite m a b) (a + 1) (memWrite_wf m a b h)

/-- Writing a number keeps the canonical form. -/
theorem memPutNat_wf (m : Memory) (a n v : Nat) (h : m.wf = true) : (memPutNat m a n v).wf = true := memWriteN_wf m a _ h

/-! ### Reading after a write -/

theorem memRead_memWrite (m : Memory) (a x : Nat) (b : Byte) :
    memRead (memWrite m a b) x = if x = a then b else memRead m x :=
  smGetD_smPut m a x b 0

/-- A run of bytes reads back as it was written, and every other byte reads as before. -/
theorem memRead_memWriteN (m : Memory) (a x : Nat) (bs : List Byte) :
    memRead (memWriteN m a bs) x = if a ≤ x ∧ x < a + bs.length then bs.getD (x - a) 0 else memRead m x := by
  induction bs generalizing m a with
  | nil => simp [memWriteN]
  | cons b r ih =>
    simp only [memWriteN]
    rw [ih (memWrite m a b) (a + 1), memRead_memWrite m a x b]
    by_cases h1 : x = a
    · subst h1; simp
    · by_cases h2 : a ≤ x ∧ x < a + (b :: r).length
      · have h3 : a + 1 ≤ x ∧ x < a + 1 + r.length := by simp at h2; omega
        rw [if_pos h2, if_pos h3]
        obtain ⟨k, hk⟩ : ∃ k, x - a = k + 1 := ⟨x - a - 1, by omega⟩
        have h4 : x - (a + 1) = k := by omega
        simp [hk, h4]
      · have h3 : ¬ (a + 1 ≤ x ∧ x < a + 1 + r.length) := by simp at h2; omega
        rw [if_neg h2, if_neg h3, if_neg h1]

/-- Reading `n` bytes depends on those bytes only. -/
theorem memReadN_congr (m m' : Memory) (a n : Nat) (h : ∀ x, a ≤ x → x < a + n → memRead m' x = memRead m x) :
    memReadN m' a n = memReadN m a n := by
  induction n generalizing a with
  | zero => rfl
  | succ n ih =>
    simp only [memReadN]
    rw [h a (by omega) (by omega), ih (a + 1) fun x h1 h2 => h x (by omega) (by omega)]

/-- What has been written reads back. -/
theorem memReadN_memWriteN (m : Memory) (a : Nat) (bs : List Byte) :
    memReadN (memWriteN m a bs) a bs.length = bs := by
  induction bs generalizing m a with
  | nil => rfl
  | cons b r ih =>
    simp only [List.length_cons, memReadN, memWriteN]
    rw [ih (memWrite m a b) (a + 1)]
    rw [memRead_memWriteN (memWrite m a b) (a + 1) a r, if_neg (by omega), memRead_memWrite m a a b]
    simp

/-- The number that `n` bytes hold reads back from them. -/
theorem leNat_leBytes (n x : Nat) : leNat (leBytes n x) = x % 256 ^ n := by
  induction n generalizing x with
  | zero => simp [leBytes, leNat, Nat.mod_one]
  | succ n ih =>
    simp only [leBytes, leNat, ih, BitVec.toNat_ofNat]
    rw [show (256 : Nat) ^ (n + 1) = 256 * 256 ^ n by rw [Nat.pow_succ, Nat.mul_comm], Nat.mod_mul]

theorem leBytes_length (n x : Nat) : (leBytes n x).length = n := by
  induction n generalizing x with
  | zero => rfl
  | succ n ih => simp [leBytes, ih]

/-- A number written as `n` bytes reads back modulo 256^n. -/
theorem memNat_memPutNat (m : Memory) (a n v : Nat) : memNat (memPutNat m a n v) a n = v % 256 ^ n := by
  have h1 := memReadN_memWriteN m a (leBytes n v)
  rw [leBytes_length] at h1
  rw [memNat, memPutNat, h1, leNat_leBytes]

end Sys2Proof.Machine
end

