-- ==== Sys2Proof/Laws/State.lean ====
section
/-!
SUPPORT. One lemma per field per named update of the state, and the laws of the accessors: what a read of a core, block or warp gives after an
update of one.
-/
set_option autoImplicit false

namespace Sys2Proof.Machine

/-! ### Fields after an update -/

@[simp] theorem State.setCore_sys (s : State) (c : Nat) (k : Core) : (s.setCore c k).sys = s.sys := rfl
@[simp] theorem State.modCore_sys (s : State) (c : Nat) (g : Core → Core) : (s.modCore c g).sys = s.sys := rfl
@[simp] theorem State.setBlock_sys (s : State) (c q : Nat) (b : Block) : (s.setBlock c q b).sys = s.sys := rfl
@[simp] theorem State.putLatch_sys (s : State) (k : Nat) (wide : Bool) (act : Mask) (v : Nat → BitVec 64) : (s.putLatch k wide act v).sys = s.sys := rfl
@[simp] theorem State.modBlock_sys (s : State) (c q : Nat) (g : Block → Block) : (s.modBlock c q g).sys = s.sys := by
  unfold State.modBlock; split <;> rfl
@[simp] theorem State.modWarp_sys (s : State) (r : WRef) (g : Warp → Warp) : (s.modWarp r g).sys = s.sys := by simp [State.modWarp]
@[simp] theorem State.setWarp_sys (s : State) (r : WRef) (x : Warp) : (s.setWarp r x).sys = s.sys := by simp [State.setWarp]
@[simp] theorem State.modThreads_sys (s : State) (r : WRef) (m : Mask) (g : Nat → Thread → Thread) : (s.modThreads r m g).sys = s.sys := by
  simp [State.modThreads]
@[simp] theorem State.modMembers_sys (s : State) (ms : List Member) (g : Member → Warp → Warp) : (s.modMembers ms g).sys = s.sys := by
  unfold State.modMembers; induction ms generalizing s with
  | nil => rfl
  | cons m r ih => simp [ih]
@[simp] theorem State.clearLatch_sys (g : Group) (s : State) : (clearLatch g s).sys = s.sys := rfl
@[simp] theorem State.modObj_sys (s : State) (o : BitVec 24) (g : Obj → Obj) : (s.modObj o g).sys = s.sys := by
  unfold State.modObj; split <;> rfl
@[simp] theorem State.fresh_sys (s : State) : s.fresh.2.sys = s.sys := rfl
@[simp] theorem State.takeFree_sys (s : State) : s.takeFree.2.sys = s.sys := rfl
@[simp] theorem State.advance_sys (s : State) : s.advance.sys = s.sys := by simp [State.advance]
@[simp] theorem State.putD_sys (s : State) (c : Ctl) (d : Fld) (act : Mask) (v : Nat → BitVec 64) (a : Member → Word × Word) :
    (s.putD c d act v a).sys = s.sys := by unfold State.putD; split <;> simp
@[simp] theorem State.putP_sys (s : State) (p : Nat) (act : Mask) (v : Nat → Bool) : (s.putP p act v).sys = s.sys := by simp [State.putP]
@[simp] theorem orFlags_sys (fl : List (WRef × Nat × BitVec 6)) (s : State) : (orFlags fl s).sys = s.sys := by
  unfold orFlags; induction fl generalizing s with
  | nil => rfl
  | cons x r ih => simp [ih]
@[simp] theorem State.setCore_logs (s : State) (c : Nat) (k : Core) : (s.setCore c k).logs = s.logs := rfl
@[simp] theorem State.modCore_logs (s : State) (c : Nat) (g : Core → Core) : (s.modCore c g).logs = s.logs := rfl
@[simp] theorem State.setBlock_logs (s : State) (c q : Nat) (b : Block) : (s.setBlock c q b).logs = s.logs := rfl
@[simp] theorem State.putLatch_logs (s : State) (k : Nat) (wide : Bool) (act : Mask) (v : Nat → BitVec 64) : (s.putLatch k wide act v).logs = s.logs := rfl
@[simp] theorem State.modBlock_logs (s : State) (c q : Nat) (g : Block → Block) : (s.modBlock c q g).logs = s.logs := by
  unfold State.modBlock; split <;> rfl
@[simp] theorem State.modWarp_logs (s : State) (r : WRef) (g : Warp → Warp) : (s.modWarp r g).logs = s.logs := by simp [State.modWarp]
@[simp] theorem State.setWarp_logs (s : State) (r : WRef) (x : Warp) : (s.setWarp r x).logs = s.logs := by simp [State.setWarp]
@[simp] theorem State.modThreads_logs (s : State) (r : WRef) (m : Mask) (g : Nat → Thread → Thread) : (s.modThreads r m g).logs = s.logs := by
  simp [State.modThreads]
@[simp] theorem State.modMembers_logs (s : State) (ms : List Member) (g : Member → Warp → Warp) : (s.modMembers ms g).logs = s.logs := by
  unfold State.modMembers; induction ms generalizing s with
  | nil => rfl
  | cons m r ih => simp [ih]
@[simp] theorem State.clearLatch_logs (g : Group) (s : State) : (clearLatch g s).logs = s.logs := rfl
@[simp] theorem State.modObj_logs (s : State) (o : BitVec 24) (g : Obj → Obj) : (s.modObj o g).logs = s.logs := by
  unfold State.modObj; split <;> rfl
@[simp] theorem State.fresh_logs (s : State) : s.fresh.2.logs = s.logs := rfl
@[simp] theorem State.takeFree_logs (s : State) : s.takeFree.2.logs = s.logs := rfl
@[simp] theorem State.advance_logs (s : State) : s.advance.logs = s.logs := by simp [State.advance]
@[simp] theorem State.putD_logs (s : State) (c : Ctl) (d : Fld) (act : Mask) (v : Nat → BitVec 64) (a : Member → Word × Word) :
    (s.putD c d act v a).logs = s.logs := by unfold State.putD; split <;> simp
@[simp] theorem State.putP_logs (s : State) (p : Nat) (act : Mask) (v : Nat → Bool) : (s.putP p act v).logs = s.logs := by simp [State.putP]
@[simp] theorem orFlags_logs (fl : List (WRef × Nat × BitVec 6)) (s : State) : (orFlags fl s).logs = s.logs := by
  unfold orFlags; induction fl generalizing s with
  | nil => rfl
  | cons x r ih => simp [ih]
@[simp] theorem State.setCore_spdm (s : State) (c : Nat) (k : Core) : (s.setCore c k).spdm = s.spdm := rfl
@[simp] theorem State.modCore_spdm (s : State) (c : Nat) (g : Core → Core) : (s.modCore c g).spdm = s.spdm := rfl
@[simp] theorem State.setBlock_spdm (s : State) (c q : Nat) (b : Block) : (s.setBlock c q b).spdm = s.spdm := rfl
@[simp] theorem State.putLatch_spdm (s : State) (k : Nat) (wide : Bool) (act : Mask) (v : Nat → BitVec 64) : (s.putLatch k wide act v).spdm = s.spdm := rfl
@[simp] theorem State.modBlock_spdm (s : State) (c q : Nat) (g : Block → Block) : (s.modBlock c q g).spdm = s.spdm := by
  unfold State.modBlock; split <;> rfl
@[simp] theorem State.modWarp_spdm (s : State) (r : WRef) (g : Warp → Warp) : (s.modWarp r g).spdm = s.spdm := by simp [State.modWarp]
@[simp] theorem State.setWarp_spdm (s : State) (r : WRef) (x : Warp) : (s.setWarp r x).spdm = s.spdm := by simp [State.setWarp]
@[simp] theorem State.modThreads_spdm (s : State) (r : WRef) (m : Mask) (g : Nat → Thread → Thread) : (s.modThreads r m g).spdm = s.spdm := by
  simp [State.modThreads]
@[simp] theorem State.modMembers_spdm (s : State) (ms : List Member) (g : Member → Warp → Warp) : (s.modMembers ms g).spdm = s.spdm := by
  unfold State.modMembers; induction ms generalizing s with
  | nil => rfl
  | cons m r ih => simp [ih]
@[simp] theorem State.clearLatch_spdm (g : Group) (s : State) : (clearLatch g s).spdm = s.spdm := rfl
@[simp] theorem State.modObj_spdm (s : State) (o : BitVec 24) (g : Obj → Obj) : (s.modObj o g).spdm = s.spdm := by
  unfold State.modObj; split <;> rfl
@[simp] theorem State.fresh_spdm (s : State) : s.fresh.2.spdm = s.spdm := rfl
@[simp] theorem State.takeFree_spdm (s : State) : s.takeFree.2.spdm = s.spdm := rfl
@[simp] theorem State.advance_spdm (s : State) : s.advance.spdm = s.spdm := by simp [State.advance]
@[simp] theorem State.putD_spdm (s : State) (c : Ctl) (d : Fld) (act : Mask) (v : Nat → BitVec 64) (a : Member → Word × Word) :
    (s.putD c d act v a).spdm = s.spdm := by unfold State.putD; split <;> simp
@[simp] theorem State.putP_spdm (s : State) (p : Nat) (act : Mask) (v : Nat → Bool) : (s.putP p act v).spdm = s.spdm := by simp [State.putP]
@[simp] theorem orFlags_spdm (fl : List (WRef × Nat × BitVec 6)) (s : State) : (orFlags fl s).spdm = s.spdm := by
  unfold orFlags; induction fl generalizing s with
  | nil => rfl
  | cons x r ih => simp [ih]
@[simp] theorem State.setCore_spdmOut (s : State) (c : Nat) (k : Core) : (s.setCore c k).spdmOut = s.spdmOut := rfl
@[simp] theorem State.modCore_spdmOut (s : State) (c : Nat) (g : Core → Core) : (s.modCore c g).spdmOut = s.spdmOut := rfl
@[simp] theorem State.setBlock_spdmOut (s : State) (c q : Nat) (b : Block) : (s.setBlock c q b).spdmOut = s.spdmOut := rfl
@[simp] theorem State.putLatch_spdmOut (s : State) (k : Nat) (wide : Bool) (act : Mask) (v : Nat → BitVec 64) : (s.putLatch k wide act v).spdmOut = s.spdmOut := rfl
@[simp] theorem State.modBlock_spdmOut (s : State) (c q : Nat) (g : Block → Block) : (s.modBlock c q g).spdmOut = s.spdmOut := by
  unfold State.modBlock; split <;> rfl
@[simp] theorem State.modWarp_spdmOut (s : State) (r : WRef) (g : Warp → Warp) : (s.modWarp r g).spdmOut = s.spdmOut := by simp [State.modWarp]
@[simp] theorem State.setWarp_spdmOut (s : State) (r : WRef) (x : Warp) : (s.setWarp r x).spdmOut = s.spdmOut := by simp [State.setWarp]
@[simp] theorem State.modThreads_spdmOut (s : State) (r : WRef) (m : Mask) (g : Nat → Thread → Thread) : (s.modThreads r m g).spdmOut = s.spdmOut := by
  simp [State.modThreads]
@[simp] theorem State.modMembers_spdmOut (s : State) (ms : List Member) (g : Member → Warp → Warp) : (s.modMembers ms g).spdmOut = s.spdmOut := by
  unfold State.modMembers; induction ms generalizing s with
  | nil => rfl
  | cons m r ih => simp [ih]
@[simp] theorem State.clearLatch_spdmOut (g : Group) (s : State) : (clearLatch g s).spdmOut = s.spdmOut := rfl
@[simp] theorem State.modObj_spdmOut (s : State) (o : BitVec 24) (g : Obj → Obj) : (s.modObj o g).spdmOut = s.spdmOut := by
  unfold State.modObj; split <;> rfl
@[simp] theorem State.fresh_spdmOut (s : State) : s.fresh.2.spdmOut = s.spdmOut := rfl
@[simp] theorem State.takeFree_spdmOut (s : State) : s.takeFree.2.spdmOut = s.spdmOut := rfl
@[simp] theorem State.advance_spdmOut (s : State) : s.advance.spdmOut = s.spdmOut := by simp [State.advance]
@[simp] theorem State.putD_spdmOut (s : State) (c : Ctl) (d : Fld) (act : Mask) (v : Nat → BitVec 64) (a : Member → Word × Word) :
    (s.putD c d act v a).spdmOut = s.spdmOut := by unfold State.putD; split <;> simp
@[simp] theorem State.putP_spdmOut (s : State) (p : Nat) (act : Mask) (v : Nat → Bool) : (s.putP p act v).spdmOut = s.spdmOut := by simp [State.putP]
@[simp] theorem orFlags_spdmOut (fl : List (WRef × Nat × BitVec 6)) (s : State) : (orFlags fl s).spdmOut = s.spdmOut := by
  unfold orFlags; induction fl generalizing s with
  | nil => rfl
  | cons x r ih => simp [ih]
@[simp] theorem State.setCore_objs (s : State) (c : Nat) (k : Core) : (s.setCore c k).objs = s.objs := rfl
@[simp] theorem State.modCore_objs (s : State) (c : Nat) (g : Core → Core) : (s.modCore c g).objs = s.objs := rfl
@[simp] theorem State.setBlock_objs (s : State) (c q : Nat) (b : Block) : (s.setBlock c q b).objs = s.objs := rfl
@[simp] theorem State.putLatch_objs (s : State) (k : Nat) (wide : Bool) (act : Mask) (v : Nat → BitVec 64) : (s.putLatch k wide act v).objs = s.objs := rfl
@[simp] theorem State.modBlock_objs (s : State) (c q : Nat) (g : Block → Block) : (s.modBlock c q g).objs = s.objs := by
  unfold State.modBlock; split <;> rfl
@[simp] theorem State.modWarp_objs (s : State) (r : WRef) (g : Warp → Warp) : (s.modWarp r g).objs = s.objs := by simp [State.modWarp]
@[simp] theorem State.setWarp_objs (s : State) (r : WRef) (x : Warp) : (s.setWarp r x).objs = s.objs := by simp [State.setWarp]
@[simp] theorem State.modThreads_objs (s : State) (r : WRef) (m : Mask) (g : Nat → Thread → Thread) : (s.modThreads r m g).objs = s.objs := by
  simp [State.modThreads]
@[simp] theorem State.modMembers_objs (s : State) (ms : List Member) (g : Member → Warp → Warp) : (s.modMembers ms g).objs = s.objs := by
  unfold State.modMembers; induction ms generalizing s with
  | nil => rfl
  | cons m r ih => simp [ih]
@[simp] theorem State.clearLatch_objs (g : Group) (s : State) : (clearLatch g s).objs = s.objs := rfl
@[simp] theorem State.fresh_objs (s : State) : s.fresh.2.objs = s.objs := rfl
@[simp] theorem State.takeFree_objs (s : State) : s.takeFree.2.objs = s.objs := rfl
@[simp] theorem State.advance_objs (s : State) : s.advance.objs = s.objs := by simp [State.advance]
@[simp] theorem State.putD_objs (s : State) (c : Ctl) (d : Fld) (act : Mask) (v : Nat → BitVec 64) (a : Member → Word × Word) :
    (s.putD c d act v a).objs = s.objs := by unfold State.putD; split <;> simp
@[simp] theorem State.putP_objs (s : State) (p : Nat) (act : Mask) (v : Nat → Bool) : (s.putP p act v).objs = s.objs := by simp [State.putP]
@[simp] theorem orFlags_objs (fl : List (WRef × Nat × BitVec 6)) (s : State) : (orFlags fl s).objs = s.objs := by
  unfold orFlags; induction fl generalizing s with
  | nil => rfl
  | cons x r ih => simp [ih]
@[simp] theorem State.setCore_parts (s : State) (c : Nat) (k : Core) : (s.setCore c k).parts = s.parts := rfl
@[simp] theorem State.modCore_parts (s : State) (c : Nat) (g : Core → Core) : (s.modCore c g).parts = s.parts := rfl
@[simp] theorem State.setBlock_parts (s : State) (c q : Nat) (b : Block) : (s.setBlock c q b).parts = s.parts := rfl
@[simp] theorem State.putLatch_parts (s : State) (k : Nat) (wide : Bool) (act : Mask) (v : Nat → BitVec 64) : (s.putLatch k wide act v).parts = s.parts := rfl
@[simp] theorem State.modBlock_parts (s : State) (c q : Nat) (g : Block → Block) : (s.modBlock c q g).parts = s.parts := by
  unfold State.modBlock; split <;> rfl
@[simp] theorem State.modWarp_parts (s : State) (r : WRef) (g : Warp → Warp) : (s.modWarp r g).parts = s.parts := by simp [State.modWarp]
@[simp] theorem State.setWarp_parts (s : State) (r : WRef) (x : Warp) : (s.setWarp r x).parts = s.parts := by simp [State.setWarp]
@[simp] theorem State.modThreads_parts (s : State) (r : WRef) (m : Mask) (g : Nat → Thread → Thread) : (s.modThreads r m g).parts = s.parts := by
  simp [State.modThreads]
@[simp] theorem State.modMembers_parts (s : State) (ms : List Member) (g : Member → Warp → Warp) : (s.modMembers ms g).parts = s.parts := by
  unfold State.modMembers; induction ms generalizing s with
  | nil => rfl
  | cons m r ih => simp [ih]
@[simp] theorem State.clearLatch_parts (g : Group) (s : State) : (clearLatch g s).parts = s.parts := rfl
@[simp] theorem State.modObj_parts (s : State) (o : BitVec 24) (g : Obj → Obj) : (s.modObj o g).parts = s.parts := by
  unfold State.modObj; split <;> rfl
@[simp] theorem State.fresh_parts (s : State) : s.fresh.2.parts = s.parts := rfl
@[simp] theorem State.takeFree_parts (s : State) : s.takeFree.2.parts = s.parts := rfl
@[simp] theorem State.advance_parts (s : State) : s.advance.parts = s.parts := by simp [State.advance]
@[simp] theorem State.putD_parts (s : State) (c : Ctl) (d : Fld) (act : Mask) (v : Nat → BitVec 64) (a : Member → Word × Word) :
    (s.putD c d act v a).parts = s.parts := by unfold State.putD; split <;> simp
@[simp] theorem State.putP_parts (s : State) (p : Nat) (act : Mask) (v : Nat → Bool) : (s.putP p act v).parts = s.parts := by simp [State.putP]
@[simp] theorem orFlags_parts (fl : List (WRef × Nat × BitVec 6)) (s : State) : (orFlags fl s).parts = s.parts := by
  unfold orFlags; induction fl generalizing s with
  | nil => rfl
  | cons x r ih => simp [ih]
@[simp] theorem State.setCore_vis (s : State) (c : Nat) (k : Core) : (s.setCore c k).vis = s.vis := rfl
@[simp] theorem State.modCore_vis (s : State) (c : Nat) (g : Core → Core) : (s.modCore c g).vis = s.vis := rfl
@[simp] theorem State.setBlock_vis (s : State) (c q : Nat) (b : Block) : (s.setBlock c q b).vis = s.vis := rfl
@[simp] theorem State.putLatch_vis (s : State) (k : Nat) (wide : Bool) (act : Mask) (v : Nat → BitVec 64) : (s.putLatch k wide act v).vis = s.vis := rfl
@[simp] theorem State.modBlock_vis (s : State) (c q : Nat) (g : Block → Block) : (s.modBlock c q g).vis = s.vis := by
  unfold State.modBlock; split <;> rfl
@[simp] theorem State.modWarp_vis (s : State) (r : WRef) (g : Warp → Warp) : (s.modWarp r g).vis = s.vis := by simp [State.modWarp]
@[simp] theorem State.setWarp_vis (s : State) (r : WRef) (x : Warp) : (s.setWarp r x).vis = s.vis := by simp [State.setWarp]
@[simp] theorem State.modThreads_vis (s : State) (r : WRef) (m : Mask) (g : Nat → Thread → Thread) : (s.modThreads r m g).vis = s.vis := by
  simp [State.modThreads]
@[simp] theorem State.modMembers_vis (s : State) (ms : List Member) (g : Member → Warp → Warp) : (s.modMembers ms g).vis = s.vis := by
  unfold State.modMembers; induction ms generalizing s with
  | nil => rfl
  | cons m r ih => simp [ih]
@[simp] theorem State.clearLatch_vis (g : Group) (s : State) : (clearLatch g s).vis = s.vis := rfl
@[simp] theorem State.modObj_vis (s : State) (o : BitVec 24) (g : Obj → Obj) : (s.modObj o g).vis = s.vis := by
  unfold State.modObj; split <;> rfl
@[simp] theorem State.fresh_vis (s : State) : s.fresh.2.vis = s.vis := rfl
@[simp] theorem State.takeFree_vis (s : State) : s.takeFree.2.vis = s.vis := rfl
@[simp] theorem State.advance_vis (s : State) : s.advance.vis = s.vis := by simp [State.advance]
@[simp] theorem State.putD_vis (s : State) (c : Ctl) (d : Fld) (act : Mask) (v : Nat → BitVec 64) (a : Member → Word × Word) :
    (s.putD c d act v a).vis = s.vis := by unfold State.putD; split <;> simp
@[simp] theorem State.putP_vis (s : State) (p : Nat) (act : Mask) (v : Nat → Bool) : (s.putP p act v).vis = s.vis := by simp [State.putP]
@[simp] theorem orFlags_vis (fl : List (WRef × Nat × BitVec 6)) (s : State) : (orFlags fl s).vis = s.vis := by
  unfold orFlags; induction fl generalizing s with
  | nil => rfl
  | cons x r ih => simp [ih]
@[simp] theorem State.setCore_loads (s : State) (c : Nat) (k : Core) : (s.setCore c k).loads = s.loads := rfl
@[simp] theorem State.modCore_loads (s : State) (c : Nat) (g : Core → Core) : (s.modCore c g).loads = s.loads := rfl
@[simp] theorem State.setBlock_loads (s : State) (c q : Nat) (b : Block) : (s.setBlock c q b).loads = s.loads := rfl
@[simp] theorem State.putLatch_loads (s : State) (k : Nat) (wide : Bool) (act : Mask) (v : Nat → BitVec 64) : (s.putLatch k wide act v).loads = s.loads := rfl
@[simp] theorem State.modBlock_loads (s : State) (c q : Nat) (g : Block → Block) : (s.modBlock c q g).loads = s.loads := by
  unfold State.modBlock; split <;> rfl
@[simp] theorem State.modWarp_loads (s : State) (r : WRef) (g : Warp → Warp) : (s.modWarp r g).loads = s.loads := by simp [State.modWarp]
@[simp] theorem State.setWarp_loads (s : State) (r : WRef) (x : Warp) : (s.setWarp r x).loads = s.loads := by simp [State.setWarp]
@[simp] theorem State.modThreads_loads (s : State) (r : WRef) (m : Mask) (g : Nat → Thread → Thread) : (s.modThreads r m g).loads = s.loads := by
  simp [State.modThreads]
@[simp] theorem State.modMembers_loads (s : State) (ms : List Member) (g : Member → Warp → Warp) : (s.modMembers ms g).loads = s.loads := by
  unfold State.modMembers; induction ms generalizing s with
  | nil => rfl
  | cons m r ih => simp [ih]
@[simp] theorem State.clearLatch_loads (g : Group) (s : State) : (clearLatch g s).loads = s.loads := rfl
@[simp] theorem State.modObj_loads (s : State) (o : BitVec 24) (g : Obj → Obj) : (s.modObj o g).loads = s.loads := by
  unfold State.modObj; split <;> rfl
@[simp] theorem State.fresh_loads (s : State) : s.fresh.2.loads = s.loads := rfl
@[simp] theorem State.takeFree_loads (s : State) : s.takeFree.2.loads = s.loads := rfl
@[simp] theorem State.advance_loads (s : State) : s.advance.loads = s.loads := by simp [State.advance]
@[simp] theorem State.putD_loads (s : State) (c : Ctl) (d : Fld) (act : Mask) (v : Nat → BitVec 64) (a : Member → Word × Word) :
    (s.putD c d act v a).loads = s.loads := by unfold State.putD; split <;> simp
@[simp] theorem State.putP_loads (s : State) (p : Nat) (act : Mask) (v : Nat → Bool) : (s.putP p act v).loads = s.loads := by simp [State.putP]
@[simp] theorem orFlags_loads (fl : List (WRef × Nat × BitVec 6)) (s : State) : (orFlags fl s).loads = s.loads := by
  unfold orFlags; induction fl generalizing s with
  | nil => rfl
  | cons x r ih => simp [ih]
@[simp] theorem State.setCore_jobs (s : State) (c : Nat) (k : Core) : (s.setCore c k).jobs = s.jobs := rfl
@[simp] theorem State.modCore_jobs (s : State) (c : Nat) (g : Core → Core) : (s.modCore c g).jobs = s.jobs := rfl
@[simp] theorem State.setBlock_jobs (s : State) (c q : Nat) (b : Block) : (s.setBlock c q b).jobs = s.jobs := rfl
@[simp] theorem State.putLatch_jobs (s : State) (k : Nat) (wide : Bool) (act : Mask) (v : Nat → BitVec 64) : (s.putLatch k wide act v).jobs = s.jobs := rfl
@[simp] theorem State.modBlock_jobs (s : State) (c q : Nat) (g : Block → Block) : (s.modBlock c q g).jobs = s.jobs := by
  unfold State.modBlock; split <;> rfl
@[simp] theorem State.modWarp_jobs (s : State) (r : WRef) (g : Warp → Warp) : (s.modWarp r g).jobs = s.jobs := by simp [State.modWarp]
@[simp] theorem State.setWarp_jobs (s : State) (r : WRef) (x : Warp) : (s.setWarp r x).jobs = s.jobs := by simp [State.setWarp]
@[simp] theorem State.modThreads_jobs (s : State) (r : WRef) (m : Mask) (g : Nat → Thread → Thread) : (s.modThreads r m g).jobs = s.jobs := by
  simp [State.modThreads]
@[simp] theorem State.modMembers_jobs (s : State) (ms : List Member) (g : Member → Warp → Warp) : (s.modMembers ms g).jobs = s.jobs := by
  unfold State.modMembers; induction ms generalizing s with
  | nil => rfl
  | cons m r ih => simp [ih]
@[simp] theorem State.clearLatch_jobs (g : Group) (s : State) : (clearLatch g s).jobs = s.jobs := rfl
@[simp] theorem State.modObj_jobs (s : State) (o : BitVec 24) (g : Obj → Obj) : (s.modObj o g).jobs = s.jobs := by
  unfold State.modObj; split <;> rfl
@[simp] theorem State.fresh_jobs (s : State) : s.fresh.2.jobs = s.jobs := rfl
@[simp] theorem State.takeFree_jobs (s : State) : s.takeFree.2.jobs = s.jobs := rfl
@[simp] theorem State.advance_jobs (s : State) : s.advance.jobs = s.jobs := by simp [State.advance]
@[simp] theorem State.putD_jobs (s : State) (c : Ctl) (d : Fld) (act : Mask) (v : Nat → BitVec 64) (a : Member → Word × Word) :
    (s.putD c d act v a).jobs = s.jobs := by unfold State.putD; split <;> simp
@[simp] theorem State.putP_jobs (s : State) (p : Nat) (act : Mask) (v : Nat → Bool) : (s.putP p act v).jobs = s.jobs := by simp [State.putP]
@[simp] theorem orFlags_jobs (fl : List (WRef × Nat × BitVec 6)) (s : State) : (orFlags fl s).jobs = s.jobs := by
  unfold orFlags; induction fl generalizing s with
  | nil => rfl
  | cons x r ih => simp [ih]
@[simp] theorem State.setCore_grids (s : State) (c : Nat) (k : Core) : (s.setCore c k).grids = s.grids := rfl
@[simp] theorem State.modCore_grids (s : State) (c : Nat) (g : Core → Core) : (s.modCore c g).grids = s.grids := rfl
@[simp] theorem State.setBlock_grids (s : State) (c q : Nat) (b : Block) : (s.setBlock c q b).grids = s.grids := rfl
@[simp] theorem State.putLatch_grids (s : State) (k : Nat) (wide : Bool) (act : Mask) (v : Nat → BitVec 64) : (s.putLatch k wide act v).grids = s.grids := rfl
@[simp] theorem State.modBlock_grids (s : State) (c q : Nat) (g : Block → Block) : (s.modBlock c q g).grids = s.grids := by
  unfold State.modBlock; split <;> rfl
@[simp] theorem State.modWarp_grids (s : State) (r : WRef) (g : Warp → Warp) : (s.modWarp r g).grids = s.grids := by simp [State.modWarp]
@[simp] theorem State.setWarp_grids (s : State) (r : WRef) (x : Warp) : (s.setWarp r x).grids = s.grids := by simp [State.setWarp]
@[simp] theorem State.modThreads_grids (s : State) (r : WRef) (m : Mask) (g : Nat → Thread → Thread) : (s.modThreads r m g).grids = s.grids := by
  simp [State.modThreads]
@[simp] theorem State.modMembers_grids (s : State) (ms : List Member) (g : Member → Warp → Warp) : (s.modMembers ms g).grids = s.grids := by
  unfold State.modMembers; induction ms generalizing s with
  | nil => rfl
  | cons m r ih => simp [ih]
@[simp] theorem State.clearLatch_grids (g : Group) (s : State) : (clearLatch g s).grids = s.grids := rfl
@[simp] theorem State.modObj_grids (s : State) (o : BitVec 24) (g : Obj → Obj) : (s.modObj o g).grids = s.grids := by
  unfold State.modObj; split <;> rfl
@[simp] theorem State.fresh_grids (s : State) : s.fresh.2.grids = s.grids := rfl
@[simp] theorem State.takeFree_grids (s : State) : s.takeFree.2.grids = s.grids := rfl
@[simp] theorem State.advance_grids (s : State) : s.advance.grids = s.grids := by simp [State.advance]
@[simp] theorem State.putD_grids (s : State) (c : Ctl) (d : Fld) (act : Mask) (v : Nat → BitVec 64) (a : Member → Word × Word) :
    (s.putD c d act v a).grids = s.grids := by unfold State.putD; split <;> simp
@[simp] theorem State.putP_grids (s : State) (p : Nat) (act : Mask) (v : Nat → Bool) : (s.putP p act v).grids = s.grids := by simp [State.putP]
@[simp] theorem orFlags_grids (fl : List (WRef × Nat × BitVec 6)) (s : State) : (orFlags fl s).grids = s.grids := by
  unfold orFlags; induction fl generalizing s with
  | nil => rfl
  | cons x r ih => simp [ih]
@[simp] theorem State.setCore_progs (s : State) (c : Nat) (k : Core) : (s.setCore c k).progs = s.progs := rfl
@[simp] theorem State.modCore_progs (s : State) (c : Nat) (g : Core → Core) : (s.modCore c g).progs = s.progs := rfl
@[simp] theorem State.setBlock_progs (s : State) (c q : Nat) (b : Block) : (s.setBlock c q b).progs = s.progs := rfl
@[simp] theorem State.putLatch_progs (s : State) (k : Nat) (wide : Bool) (act : Mask) (v : Nat → BitVec 64) : (s.putLatch k wide act v).progs = s.progs := rfl
@[simp] theorem State.modBlock_progs (s : State) (c q : Nat) (g : Block → Block) : (s.modBlock c q g).progs = s.progs := by
  unfold State.modBlock; split <;> rfl
@[simp] theorem State.modWarp_progs (s : State) (r : WRef) (g : Warp → Warp) : (s.modWarp r g).progs = s.progs := by simp [State.modWarp]
@[simp] theorem State.setWarp_progs (s : State) (r : WRef) (x : Warp) : (s.setWarp r x).progs = s.progs := by simp [State.setWarp]
@[simp] theorem State.modThreads_progs (s : State) (r : WRef) (m : Mask) (g : Nat → Thread → Thread) : (s.modThreads r m g).progs = s.progs := by
  simp [State.modThreads]
@[simp] theorem State.modMembers_progs (s : State) (ms : List Member) (g : Member → Warp → Warp) : (s.modMembers ms g).progs = s.progs := by
  unfold State.modMembers; induction ms generalizing s with
  | nil => rfl
  | cons m r ih => simp [ih]
@[simp] theorem State.clearLatch_progs (g : Group) (s : State) : (clearLatch g s).progs = s.progs := rfl
@[simp] theorem State.modObj_progs (s : State) (o : BitVec 24) (g : Obj → Obj) : (s.modObj o g).progs = s.progs := by
  unfold State.modObj; split <;> rfl
@[simp] theorem State.fresh_progs (s : State) : s.fresh.2.progs = s.progs := rfl
@[simp] theorem State.takeFree_progs (s : State) : s.takeFree.2.progs = s.progs := rfl
@[simp] theorem State.advance_progs (s : State) : s.advance.progs = s.progs := by simp [State.advance]
@[simp] theorem State.putD_progs (s : State) (c : Ctl) (d : Fld) (act : Mask) (v : Nat → BitVec 64) (a : Member → Word × Word) :
    (s.putD c d act v a).progs = s.progs := by unfold State.putD; split <;> simp
@[simp] theorem State.putP_progs (s : State) (p : Nat) (act : Mask) (v : Nat → Bool) : (s.putP p act v).progs = s.progs := by simp [State.putP]
@[simp] theorem orFlags_progs (fl : List (WRef × Nat × BitVec 6)) (s : State) : (orFlags fl s).progs = s.progs := by
  unfold orFlags; induction fl generalizing s with
  | nil => rfl
  | cons x r ih => simp [ih]
@[simp] theorem State.modObj_cores (s : State) (o : BitVec 24) (g : Obj → Obj) : (s.modObj o g).cores = s.cores := by
  unfold State.modObj; split <;> rfl
@[simp] theorem State.fresh_cores (s : State) : s.fresh.2.cores = s.cores := rfl
@[simp] theorem State.takeFree_cores (s : State) : s.takeFree.2.cores = s.cores := rfl
@[simp] theorem State.setCore_cmds (s : State) (c : Nat) (k : Core) : (s.setCore c k).cmds = s.cmds := rfl
@[simp] theorem State.modCore_cmds (s : State) (c : Nat) (g : Core → Core) : (s.modCore c g).cmds = s.cmds := rfl
@[simp] theorem State.setBlock_cmds (s : State) (c q : Nat) (b : Block) : (s.setBlock c q b).cmds = s.cmds := rfl
@[simp] theorem State.putLatch_cmds (s : State) (k : Nat) (wide : Bool) (act : Mask) (v : Nat → BitVec 64) : (s.putLatch k wide act v).cmds = s.cmds := rfl
@[simp] theorem State.modBlock_cmds (s : State) (c q : Nat) (g : Block → Block) : (s.modBlock c q g).cmds = s.cmds := by
  unfold State.modBlock; split <;> rfl
@[simp] theorem State.modWarp_cmds (s : State) (r : WRef) (g : Warp → Warp) : (s.modWarp r g).cmds = s.cmds := by simp [State.modWarp]
@[simp] theorem State.setWarp_cmds (s : State) (r : WRef) (x : Warp) : (s.setWarp r x).cmds = s.cmds := by simp [State.setWarp]
@[simp] theorem State.modThreads_cmds (s : State) (r : WRef) (m : Mask) (g : Nat → Thread → Thread) : (s.modThreads r m g).cmds = s.cmds := by
  simp [State.modThreads]
@[simp] theorem State.modMembers_cmds (s : State) (ms : List Member) (g : Member → Warp → Warp) : (s.modMembers ms g).cmds = s.cmds := by
  unfold State.modMembers; induction ms generalizing s with
  | nil => rfl
  | cons m r ih => simp [ih]
@[simp] theorem State.clearLatch_cmds (g : Group) (s : State) : (clearLatch g s).cmds = s.cmds := rfl
@[simp] theorem State.modObj_cmds (s : State) (o : BitVec 24) (g : Obj → Obj) : (s.modObj o g).cmds = s.cmds := by
  unfold State.modObj; split <;> rfl
@[simp] theorem State.fresh_cmds (s : State) : s.fresh.2.cmds = s.cmds := rfl
@[simp] theorem State.takeFree_cmds (s : State) : s.takeFree.2.cmds = s.cmds := rfl
@[simp] theorem State.advance_cmds (s : State) : s.advance.cmds = s.cmds := by simp [State.advance]
@[simp] theorem State.putD_cmds (s : State) (c : Ctl) (d : Fld) (act : Mask) (v : Nat → BitVec 64) (a : Member → Word × Word) :
    (s.putD c d act v a).cmds = s.cmds := by unfold State.putD; split <;> simp
@[simp] theorem State.putP_cmds (s : State) (p : Nat) (act : Mask) (v : Nat → Bool) : (s.putP p act v).cmds = s.cmds := by simp [State.putP]
@[simp] theorem orFlags_cmds (fl : List (WRef × Nat × BitVec 6)) (s : State) : (orFlags fl s).cmds = s.cmds := by
  unfold orFlags; induction fl generalizing s with
  | nil => rfl
  | cons x r ih => simp [ih]
@[simp] theorem State.setCore_gangs (s : State) (c : Nat) (k : Core) : (s.setCore c k).gangs = s.gangs := rfl
@[simp] theorem State.modCore_gangs (s : State) (c : Nat) (g : Core → Core) : (s.modCore c g).gangs = s.gangs := rfl
@[simp] theorem State.setBlock_gangs (s : State) (c q : Nat) (b : Block) : (s.setBlock c q b).gangs = s.gangs := rfl
@[simp] theorem State.putLatch_gangs (s : State) (k : Nat) (wide : Bool) (act : Mask) (v : Nat → BitVec 64) : (s.putLatch k wide act v).gangs = s.gangs := rfl
@[simp] theorem State.modBlock_gangs (s : State) (c q : Nat) (g : Block → Block) : (s.modBlock c q g).gangs = s.gangs := by
  unfold State.modBlock; split <;> rfl
@[simp] theorem State.modWarp_gangs (s : State) (r : WRef) (g : Warp → Warp) : (s.modWarp r g).gangs = s.gangs := by simp [State.modWarp]
@[simp] theorem State.setWarp_gangs (s : State) (r : WRef) (x : Warp) : (s.setWarp r x).gangs = s.gangs := by simp [State.setWarp]
@[simp] theorem State.modThreads_gangs (s : State) (r : WRef) (m : Mask) (g : Nat → Thread → Thread) : (s.modThreads r m g).gangs = s.gangs := by
  simp [State.modThreads]
@[simp] theorem State.modMembers_gangs (s : State) (ms : List Member) (g : Member → Warp → Warp) : (s.modMembers ms g).gangs = s.gangs := by
  unfold State.modMembers; induction ms generalizing s with
  | nil => rfl
  | cons m r ih => simp [ih]
@[simp] theorem State.clearLatch_gangs (g : Group) (s : State) : (clearLatch g s).gangs = s.gangs := rfl
@[simp] theorem State.modObj_gangs (s : State) (o : BitVec 24) (g : Obj → Obj) : (s.modObj o g).gangs = s.gangs := by
  unfold State.modObj; split <;> rfl
@[simp] theorem State.fresh_gangs (s : State) : s.fresh.2.gangs = s.gangs := rfl
@[simp] theorem State.takeFree_gangs (s : State) : s.takeFree.2.gangs = s.gangs := rfl
@[simp] theorem State.advance_gangs (s : State) : s.advance.gangs = s.gangs := by simp [State.advance]
@[simp] theorem State.putD_gangs (s : State) (c : Ctl) (d : Fld) (act : Mask) (v : Nat → BitVec 64) (a : Member → Word × Word) :
    (s.putD c d act v a).gangs = s.gangs := by unfold State.putD; split <;> simp
@[simp] theorem State.putP_gangs (s : State) (p : Nat) (act : Mask) (v : Nat → Bool) : (s.putP p act v).gangs = s.gangs := by simp [State.putP]
@[simp] theorem orFlags_gangs (fl : List (WRef × Nat × BitVec 6)) (s : State) : (orFlags fl s).gangs = s.gangs := by
  unfold orFlags; induction fl generalizing s with
  | nil => rfl
  | cons x r ih => simp [ih]
@[simp] theorem State.setCore_saved (s : State) (c : Nat) (k : Core) : (s.setCore c k).saved = s.saved := rfl
@[simp] theorem State.modCore_saved (s : State) (c : Nat) (g : Core → Core) : (s.modCore c g).saved = s.saved := rfl
@[simp] theorem State.setBlock_saved (s : State) (c q : Nat) (b : Block) : (s.setBlock c q b).saved = s.saved := rfl
@[simp] theorem State.putLatch_saved (s : State) (k : Nat) (wide : Bool) (act : Mask) (v : Nat → BitVec 64) : (s.putLatch k wide act v).saved = s.saved := rfl
@[simp] theorem State.modBlock_saved (s : State) (c q : Nat) (g : Block → Block) : (s.modBlock c q g).saved = s.saved := by
  unfold State.modBlock; split <;> rfl
@[simp] theorem State.modWarp_saved (s : State) (r : WRef) (g : Warp → Warp) : (s.modWarp r g).saved = s.saved := by simp [State.modWarp]
@[simp] theorem State.setWarp_saved (s : State) (r : WRef) (x : Warp) : (s.setWarp r x).saved = s.saved := by simp [State.setWarp]
@[simp] theorem State.modThreads_saved (s : State) (r : WRef) (m : Mask) (g : Nat → Thread → Thread) : (s.modThreads r m g).saved = s.saved := by
  simp [State.modThreads]
@[simp] theorem State.modMembers_saved (s : State) (ms : List Member) (g : Member → Warp → Warp) : (s.modMembers ms g).saved = s.saved := by
  unfold State.modMembers; induction ms generalizing s with
  | nil => rfl
  | cons m r ih => simp [ih]
@[simp] theorem State.clearLatch_saved (g : Group) (s : State) : (clearLatch g s).saved = s.saved := rfl
@[simp] theorem State.modObj_saved (s : State) (o : BitVec 24) (g : Obj → Obj) : (s.modObj o g).saved = s.saved := by
  unfold State.modObj; split <;> rfl
@[simp] theorem State.fresh_saved (s : State) : s.fresh.2.saved = s.saved := rfl
@[simp] theorem State.takeFree_saved (s : State) : s.takeFree.2.saved = s.saved := rfl
@[simp] theorem State.advance_saved (s : State) : s.advance.saved = s.saved := by simp [State.advance]
@[simp] theorem State.putD_saved (s : State) (c : Ctl) (d : Fld) (act : Mask) (v : Nat → BitVec 64) (a : Member → Word × Word) :
    (s.putD c d act v a).saved = s.saved := by unfold State.putD; split <;> simp
@[simp] theorem State.putP_saved (s : State) (p : Nat) (act : Mask) (v : Nat → Bool) : (s.putP p act v).saved = s.saved := by simp [State.putP]
@[simp] theorem orFlags_saved (fl : List (WRef × Nat × BitVec 6)) (s : State) : (orFlags fl s).saved = s.saved := by
  unfold orFlags; induction fl generalizing s with
  | nil => rfl
  | cons x r ih => simp [ih]
@[simp] theorem State.setCore_ops (s : State) (c : Nat) (k : Core) : (s.setCore c k).ops = s.ops := rfl
@[simp] theorem State.modCore_ops (s : State) (c : Nat) (g : Core → Core) : (s.modCore c g).ops = s.ops := rfl
@[simp] theorem State.setBlock_ops (s : State) (c q : Nat) (b : Block) : (s.setBlock c q b).ops = s.ops := rfl
@[simp] theorem State.putLatch_ops (s : State) (k : Nat) (wide : Bool) (act : Mask) (v : Nat → BitVec 64) : (s.putLatch k wide act v).ops = s.ops := rfl
@[simp] theorem State.modBlock_ops (s : State) (c q : Nat) (g : Block → Block) : (s.modBlock c q g).ops = s.ops := by
  unfold State.modBlock; split <;> rfl
@[simp] theorem State.modWarp_ops (s : State) (r : WRef) (g : Warp → Warp) : (s.modWarp r g).ops = s.ops := by simp [State.modWarp]
@[simp] theorem State.setWarp_ops (s : State) (r : WRef) (x : Warp) : (s.setWarp r x).ops = s.ops := by simp [State.setWarp]
@[simp] theorem State.modThreads_ops (s : State) (r : WRef) (m : Mask) (g : Nat → Thread → Thread) : (s.modThreads r m g).ops = s.ops := by
  simp [State.modThreads]
@[simp] theorem State.modMembers_ops (s : State) (ms : List Member) (g : Member → Warp → Warp) : (s.modMembers ms g).ops = s.ops := by
  unfold State.modMembers; induction ms generalizing s with
  | nil => rfl
  | cons m r ih => simp [ih]
@[simp] theorem State.clearLatch_ops (g : Group) (s : State) : (clearLatch g s).ops = s.ops := rfl
@[simp] theorem State.modObj_ops (s : State) (o : BitVec 24) (g : Obj → Obj) : (s.modObj o g).ops = s.ops := by
  unfold State.modObj; split <;> rfl
@[simp] theorem State.fresh_ops (s : State) : s.fresh.2.ops = s.ops := rfl
@[simp] theorem State.takeFree_ops (s : State) : s.takeFree.2.ops = s.ops := rfl
@[simp] theorem State.advance_ops (s : State) : s.advance.ops = s.ops := by simp [State.advance]
@[simp] theorem State.putD_ops (s : State) (c : Ctl) (d : Fld) (act : Mask) (v : Nat → BitVec 64) (a : Member → Word × Word) :
    (s.putD c d act v a).ops = s.ops := by unfold State.putD; split <;> simp
@[simp] theorem State.putP_ops (s : State) (p : Nat) (act : Mask) (v : Nat → Bool) : (s.putP p act v).ops = s.ops := by simp [State.putP]
@[simp] theorem orFlags_ops (fl : List (WRef × Nat × BitVec 6)) (s : State) : (orFlags fl s).ops = s.ops := by
  unfold orFlags; induction fl generalizing s with
  | nil => rfl
  | cons x r ih => simp [ih]
@[simp] theorem State.setCore_deferred (s : State) (c : Nat) (k : Core) : (s.setCore c k).deferred = s.deferred := rfl
@[simp] theorem State.modCore_deferred (s : State) (c : Nat) (g : Core → Core) : (s.modCore c g).deferred = s.deferred := rfl
@[simp] theorem State.setBlock_deferred (s : State) (c q : Nat) (b : Block) : (s.setBlock c q b).deferred = s.deferred := rfl
@[simp] theorem State.putLatch_deferred (s : State) (k : Nat) (wide : Bool) (act : Mask) (v : Nat → BitVec 64) : (s.putLatch k wide act v).deferred = s.deferred := rfl
@[simp] theorem State.modBlock_deferred (s : State) (c q : Nat) (g : Block → Block) : (s.modBlock c q g).deferred = s.deferred := by
  unfold State.modBlock; split <;> rfl
@[simp] theorem State.modWarp_deferred (s : State) (r : WRef) (g : Warp → Warp) : (s.modWarp r g).deferred = s.deferred := by simp [State.modWarp]
@[simp] theorem State.setWarp_deferred (s : State) (r : WRef) (x : Warp) : (s.setWarp r x).deferred = s.deferred := by simp [State.setWarp]
@[simp] theorem State.modThreads_deferred (s : State) (r : WRef) (m : Mask) (g : Nat → Thread → Thread) : (s.modThreads r m g).deferred = s.deferred := by
  simp [State.modThreads]
@[simp] theorem State.modMembers_deferred (s : State) (ms : List Member) (g : Member → Warp → Warp) : (s.modMembers ms g).deferred = s.deferred := by
  unfold State.modMembers; induction ms generalizing s with
  | nil => rfl
  | cons m r ih => simp [ih]
@[simp] theorem State.clearLatch_deferred (g : Group) (s : State) : (clearLatch g s).deferred = s.deferred := rfl
@[simp] theorem State.modObj_deferred (s : State) (o : BitVec 24) (g : Obj → Obj) : (s.modObj o g).deferred = s.deferred := by
  unfold State.modObj; split <;> rfl
@[simp] theorem State.fresh_deferred (s : State) : s.fresh.2.deferred = s.deferred := rfl
@[simp] theorem State.takeFree_deferred (s : State) : s.takeFree.2.deferred = s.deferred := rfl
@[simp] theorem State.advance_deferred (s : State) : s.advance.deferred = s.deferred := by simp [State.advance]
@[simp] theorem State.putD_deferred (s : State) (c : Ctl) (d : Fld) (act : Mask) (v : Nat → BitVec 64) (a : Member → Word × Word) :
    (s.putD c d act v a).deferred = s.deferred := by unfold State.putD; split <;> simp
@[simp] theorem State.putP_deferred (s : State) (p : Nat) (act : Mask) (v : Nat → Bool) : (s.putP p act v).deferred = s.deferred := by simp [State.putP]
@[simp] theorem orFlags_deferred (fl : List (WRef × Nat × BitVec 6)) (s : State) : (orFlags fl s).deferred = s.deferred := by
  unfold orFlags; induction fl generalizing s with
  | nil => rfl
  | cons x r ih => simp [ih]
@[simp] theorem State.setCore_rstores (s : State) (c : Nat) (k : Core) : (s.setCore c k).rstores = s.rstores := rfl
@[simp] theorem State.modCore_rstores (s : State) (c : Nat) (g : Core → Core) : (s.modCore c g).rstores = s.rstores := rfl
@[simp] theorem State.setBlock_rstores (s : State) (c q : Nat) (b : Block) : (s.setBlock c q b).rstores = s.rstores := rfl
@[simp] theorem State.putLatch_rstores (s : State) (k : Nat) (wide : Bool) (act : Mask) (v : Nat → BitVec 64) : (s.putLatch k wide act v).rstores = s.rstores := rfl
@[simp] theorem State.modBlock_rstores (s : State) (c q : Nat) (g : Block → Block) : (s.modBlock c q g).rstores = s.rstores := by
  unfold State.modBlock; split <;> rfl
@[simp] theorem State.modWarp_rstores (s : State) (r : WRef) (g : Warp → Warp) : (s.modWarp r g).rstores = s.rstores := by simp [State.modWarp]
@[simp] theorem State.setWarp_rstores (s : State) (r : WRef) (x : Warp) : (s.setWarp r x).rstores = s.rstores := by simp [State.setWarp]
@[simp] theorem State.modThreads_rstores (s : State) (r : WRef) (m : Mask) (g : Nat → Thread → Thread) : (s.modThreads r m g).rstores = s.rstores := by
  simp [State.modThreads]
@[simp] theorem State.modMembers_rstores (s : State) (ms : List Member) (g : Member → Warp → Warp) : (s.modMembers ms g).rstores = s.rstores := by
  unfold State.modMembers; induction ms generalizing s with
  | nil => rfl
  | cons m r ih => simp [ih]
@[simp] theorem State.clearLatch_rstores (g : Group) (s : State) : (clearLatch g s).rstores = s.rstores := rfl
@[simp] theorem State.modObj_rstores (s : State) (o : BitVec 24) (g : Obj → Obj) : (s.modObj o g).rstores = s.rstores := by
  unfold State.modObj; split <;> rfl
@[simp] theorem State.fresh_rstores (s : State) : s.fresh.2.rstores = s.rstores := rfl
@[simp] theorem State.takeFree_rstores (s : State) : s.takeFree.2.rstores = s.rstores := rfl
@[simp] theorem State.advance_rstores (s : State) : s.advance.rstores = s.rstores := by simp [State.advance]
@[simp] theorem State.putD_rstores (s : State) (c : Ctl) (d : Fld) (act : Mask) (v : Nat → BitVec 64) (a : Member → Word × Word) :
    (s.putD c d act v a).rstores = s.rstores := by unfold State.putD; split <;> simp
@[simp] theorem State.putP_rstores (s : State) (p : Nat) (act : Mask) (v : Nat → Bool) : (s.putP p act v).rstores = s.rstores := by simp [State.putP]
@[simp] theorem orFlags_rstores (fl : List (WRef × Nat × BitVec 6)) (s : State) : (orFlags fl s).rstores = s.rstores := by
  unfold orFlags; induction fl generalizing s with
  | nil => rfl
  | cons x r ih => simp [ih]
@[simp] theorem State.setCore_collapses (s : State) (c : Nat) (k : Core) : (s.setCore c k).collapses = s.collapses := rfl
@[simp] theorem State.modCore_collapses (s : State) (c : Nat) (g : Core → Core) : (s.modCore c g).collapses = s.collapses := rfl
@[simp] theorem State.setBlock_collapses (s : State) (c q : Nat) (b : Block) : (s.setBlock c q b).collapses = s.collapses := rfl
@[simp] theorem State.putLatch_collapses (s : State) (k : Nat) (wide : Bool) (act : Mask) (v : Nat → BitVec 64) : (s.putLatch k wide act v).collapses = s.collapses := rfl
@[simp] theorem State.modBlock_collapses (s : State) (c q : Nat) (g : Block → Block) : (s.modBlock c q g).collapses = s.collapses := by
  unfold State.modBlock; split <;> rfl
@[simp] theorem State.modWarp_collapses (s : State) (r : WRef) (g : Warp → Warp) : (s.modWarp r g).collapses = s.collapses := by simp [State.modWarp]
@[simp] theorem State.setWarp_collapses (s : State) (r : WRef) (x : Warp) : (s.setWarp r x).collapses = s.collapses := by simp [State.setWarp]
@[simp] theorem State.modThreads_collapses (s : State) (r : WRef) (m : Mask) (g : Nat → Thread → Thread) : (s.modThreads r m g).collapses = s.collapses := by
  simp [State.modThreads]
@[simp] theorem State.modMembers_collapses (s : State) (ms : List Member) (g : Member → Warp → Warp) : (s.modMembers ms g).collapses = s.collapses := by
  unfold State.modMembers; induction ms generalizing s with
  | nil => rfl
  | cons m r ih => simp [ih]
@[simp] theorem State.clearLatch_collapses (g : Group) (s : State) : (clearLatch g s).collapses = s.collapses := rfl
@[simp] theorem State.modObj_collapses (s : State) (o : BitVec 24) (g : Obj → Obj) : (s.modObj o g).collapses = s.collapses := by
  unfold State.modObj; split <;> rfl
@[simp] theorem State.fresh_collapses (s : State) : s.fresh.2.collapses = s.collapses := rfl
@[simp] theorem State.takeFree_collapses (s : State) : s.takeFree.2.collapses = s.collapses := rfl
@[simp] theorem State.advance_collapses (s : State) : s.advance.collapses = s.collapses := by simp [State.advance]
@[simp] theorem State.putD_collapses (s : State) (c : Ctl) (d : Fld) (act : Mask) (v : Nat → BitVec 64) (a : Member → Word × Word) :
    (s.putD c d act v a).collapses = s.collapses := by unfold State.putD; split <;> simp
@[simp] theorem State.putP_collapses (s : State) (p : Nat) (act : Mask) (v : Nat → Bool) : (s.putP p act v).collapses = s.collapses := by simp [State.putP]
@[simp] theorem orFlags_collapses (fl : List (WRef × Nat × BitVec 6)) (s : State) : (orFlags fl s).collapses = s.collapses := by
  unfold orFlags; induction fl generalizing s with
  | nil => rfl
  | cons x r ih => simp [ih]
@[simp] theorem State.setCore_posts (s : State) (c : Nat) (k : Core) : (s.setCore c k).posts = s.posts := rfl
@[simp] theorem State.modCore_posts (s : State) (c : Nat) (g : Core → Core) : (s.modCore c g).posts = s.posts := rfl
@[simp] theorem State.setBlock_posts (s : State) (c q : Nat) (b : Block) : (s.setBlock c q b).posts = s.posts := rfl
@[simp] theorem State.putLatch_posts (s : State) (k : Nat) (wide : Bool) (act : Mask) (v : Nat → BitVec 64) : (s.putLatch k wide act v).posts = s.posts := rfl
@[simp] theorem State.modBlock_posts (s : State) (c q : Nat) (g : Block → Block) : (s.modBlock c q g).posts = s.posts := by
  unfold State.modBlock; split <;> rfl
@[simp] theorem State.modWarp_posts (s : State) (r : WRef) (g : Warp → Warp) : (s.modWarp r g).posts = s.posts := by simp [State.modWarp]
@[simp] theorem State.setWarp_posts (s : State) (r : WRef) (x : Warp) : (s.setWarp r x).posts = s.posts := by simp [State.setWarp]
@[simp] theorem State.modThreads_posts (s : State) (r : WRef) (m : Mask) (g : Nat → Thread → Thread) : (s.modThreads r m g).posts = s.posts := by
  simp [State.modThreads]
@[simp] theorem State.modMembers_posts (s : State) (ms : List Member) (g : Member → Warp → Warp) : (s.modMembers ms g).posts = s.posts := by
  unfold State.modMembers; induction ms generalizing s with
  | nil => rfl
  | cons m r ih => simp [ih]
@[simp] theorem State.clearLatch_posts (g : Group) (s : State) : (clearLatch g s).posts = s.posts := rfl
@[simp] theorem State.modObj_posts (s : State) (o : BitVec 24) (g : Obj → Obj) : (s.modObj o g).posts = s.posts := by
  unfold State.modObj; split <;> rfl
@[simp] theorem State.fresh_posts (s : State) : s.fresh.2.posts = s.posts := rfl
@[simp] theorem State.takeFree_posts (s : State) : s.takeFree.2.posts = s.posts := rfl
@[simp] theorem State.advance_posts (s : State) : s.advance.posts = s.posts := by simp [State.advance]
@[simp] theorem State.putD_posts (s : State) (c : Ctl) (d : Fld) (act : Mask) (v : Nat → BitVec 64) (a : Member → Word × Word) :
    (s.putD c d act v a).posts = s.posts := by unfold State.putD; split <;> simp
@[simp] theorem State.putP_posts (s : State) (p : Nat) (act : Mask) (v : Nat → Bool) : (s.putP p act v).posts = s.posts := by simp [State.putP]
@[simp] theorem orFlags_posts (fl : List (WRef × Nat × BitVec 6)) (s : State) : (orFlags fl s).posts = s.posts := by
  unfold orFlags; induction fl generalizing s with
  | nil => rfl
  | cons x r ih => simp [ih]
@[simp] theorem State.setCore_armed (s : State) (c : Nat) (k : Core) : (s.setCore c k).armed = s.armed := rfl
@[simp] theorem State.modCore_armed (s : State) (c : Nat) (g : Core → Core) : (s.modCore c g).armed = s.armed := rfl
@[simp] theorem State.setBlock_armed (s : State) (c q : Nat) (b : Block) : (s.setBlock c q b).armed = s.armed := rfl
@[simp] theorem State.putLatch_armed (s : State) (k : Nat) (wide : Bool) (act : Mask) (v : Nat → BitVec 64) : (s.putLatch k wide act v).armed = s.armed := rfl
@[simp] theorem State.modBlock_armed (s : State) (c q : Nat) (g : Block → Block) : (s.modBlock c q g).armed = s.armed := by
  unfold State.modBlock; split <;> rfl
@[simp] theorem State.modWarp_armed (s : State) (r : WRef) (g : Warp → Warp) : (s.modWarp r g).armed = s.armed := by simp [State.modWarp]
@[simp] theorem State.setWarp_armed (s : State) (r : WRef) (x : Warp) : (s.setWarp r x).armed = s.armed := by simp [State.setWarp]
@[simp] theorem State.modThreads_armed (s : State) (r : WRef) (m : Mask) (g : Nat → Thread → Thread) : (s.modThreads r m g).armed = s.armed := by
  simp [State.modThreads]
@[simp] theorem State.modMembers_armed (s : State) (ms : List Member) (g : Member → Warp → Warp) : (s.modMembers ms g).armed = s.armed := by
  unfold State.modMembers; induction ms generalizing s with
  | nil => rfl
  | cons m r ih => simp [ih]
@[simp] theorem State.clearLatch_armed (g : Group) (s : State) : (clearLatch g s).armed = s.armed := rfl
@[simp] theorem State.modObj_armed (s : State) (o : BitVec 24) (g : Obj → Obj) : (s.modObj o g).armed = s.armed := by
  unfold State.modObj; split <;> rfl
@[simp] theorem State.fresh_armed (s : State) : s.fresh.2.armed = s.armed := rfl
@[simp] theorem State.takeFree_armed (s : State) : s.takeFree.2.armed = s.armed := rfl
@[simp] theorem State.advance_armed (s : State) : s.advance.armed = s.armed := by simp [State.advance]
@[simp] theorem State.putD_armed (s : State) (c : Ctl) (d : Fld) (act : Mask) (v : Nat → BitVec 64) (a : Member → Word × Word) :
    (s.putD c d act v a).armed = s.armed := by unfold State.putD; split <;> simp
@[simp] theorem State.putP_armed (s : State) (p : Nat) (act : Mask) (v : Nat → Bool) : (s.putP p act v).armed = s.armed := by simp [State.putP]
@[simp] theorem orFlags_armed (fl : List (WRef × Nat × BitVec 6)) (s : State) : (orFlags fl s).armed = s.armed := by
  unfold orFlags; induction fl generalizing s with
  | nil => rfl
  | cons x r ih => simp [ih]
@[simp] theorem State.setCore_turns (s : State) (c : Nat) (k : Core) : (s.setCore c k).turns = s.turns := rfl
@[simp] theorem State.modCore_turns (s : State) (c : Nat) (g : Core → Core) : (s.modCore c g).turns = s.turns := rfl
@[simp] theorem State.setBlock_turns (s : State) (c q : Nat) (b : Block) : (s.setBlock c q b).turns = s.turns := rfl
@[simp] theorem State.putLatch_turns (s : State) (k : Nat) (wide : Bool) (act : Mask) (v : Nat → BitVec 64) : (s.putLatch k wide act v).turns = s.turns := rfl
@[simp] theorem State.modBlock_turns (s : State) (c q : Nat) (g : Block → Block) : (s.modBlock c q g).turns = s.turns := by
  unfold State.modBlock; split <;> rfl
@[simp] theorem State.modWarp_turns (s : State) (r : WRef) (g : Warp → Warp) : (s.modWarp r g).turns = s.turns := by simp [State.modWarp]
@[simp] theorem State.setWarp_turns (s : State) (r : WRef) (x : Warp) : (s.setWarp r x).turns = s.turns := by simp [State.setWarp]
@[simp] theorem State.modThreads_turns (s : State) (r : WRef) (m : Mask) (g : Nat → Thread → Thread) : (s.modThreads r m g).turns = s.turns := by
  simp [State.modThreads]
@[simp] theorem State.modMembers_turns (s : State) (ms : List Member) (g : Member → Warp → Warp) : (s.modMembers ms g).turns = s.turns := by
  unfold State.modMembers; induction ms generalizing s with
  | nil => rfl
  | cons m r ih => simp [ih]
@[simp] theorem State.clearLatch_turns (g : Group) (s : State) : (clearLatch g s).turns = s.turns := rfl
@[simp] theorem State.modObj_turns (s : State) (o : BitVec 24) (g : Obj → Obj) : (s.modObj o g).turns = s.turns := by
  unfold State.modObj; split <;> rfl
@[simp] theorem State.fresh_turns (s : State) : s.fresh.2.turns = s.turns := rfl
@[simp] theorem State.takeFree_turns (s : State) : s.takeFree.2.turns = s.turns := rfl
@[simp] theorem State.advance_turns (s : State) : s.advance.turns = s.turns := by simp [State.advance]
@[simp] theorem State.putD_turns (s : State) (c : Ctl) (d : Fld) (act : Mask) (v : Nat → BitVec 64) (a : Member → Word × Word) :
    (s.putD c d act v a).turns = s.turns := by unfold State.putD; split <;> simp
@[simp] theorem State.putP_turns (s : State) (p : Nat) (act : Mask) (v : Nat → Bool) : (s.putP p act v).turns = s.turns := by simp [State.putP]
@[simp] theorem orFlags_turns (fl : List (WRef × Nat × BitVec 6)) (s : State) : (orFlags fl s).turns = s.turns := by
  unfold orFlags; induction fl generalizing s with
  | nil => rfl
  | cons x r ih => simp [ih]
@[simp] theorem State.setCore_hostMem (s : State) (c : Nat) (k : Core) : (s.setCore c k).hostMem = s.hostMem := rfl
@[simp] theorem State.modCore_hostMem (s : State) (c : Nat) (g : Core → Core) : (s.modCore c g).hostMem = s.hostMem := rfl
@[simp] theorem State.setBlock_hostMem (s : State) (c q : Nat) (b : Block) : (s.setBlock c q b).hostMem = s.hostMem := rfl
@[simp] theorem State.putLatch_hostMem (s : State) (k : Nat) (wide : Bool) (act : Mask) (v : Nat → BitVec 64) : (s.putLatch k wide act v).hostMem = s.hostMem := rfl
@[simp] theorem State.modBlock_hostMem (s : State) (c q : Nat) (g : Block → Block) : (s.modBlock c q g).hostMem = s.hostMem := by
  unfold State.modBlock; split <;> rfl
@[simp] theorem State.modWarp_hostMem (s : State) (r : WRef) (g : Warp → Warp) : (s.modWarp r g).hostMem = s.hostMem := by simp [State.modWarp]
@[simp] theorem State.setWarp_hostMem (s : State) (r : WRef) (x : Warp) : (s.setWarp r x).hostMem = s.hostMem := by simp [State.setWarp]
@[simp] theorem State.modThreads_hostMem (s : State) (r : WRef) (m : Mask) (g : Nat → Thread → Thread) : (s.modThreads r m g).hostMem = s.hostMem := by
  simp [State.modThreads]
@[simp] theorem State.modMembers_hostMem (s : State) (ms : List Member) (g : Member → Warp → Warp) : (s.modMembers ms g).hostMem = s.hostMem := by
  unfold State.modMembers; induction ms generalizing s with
  | nil => rfl
  | cons m r ih => simp [ih]
@[simp] theorem State.clearLatch_hostMem (g : Group) (s : State) : (clearLatch g s).hostMem = s.hostMem := rfl
@[simp] theorem State.modObj_hostMem (s : State) (o : BitVec 24) (g : Obj → Obj) : (s.modObj o g).hostMem = s.hostMem := by
  unfold State.modObj; split <;> rfl
@[simp] theorem State.fresh_hostMem (s : State) : s.fresh.2.hostMem = s.hostMem := rfl
@[simp] theorem State.takeFree_hostMem (s : State) : s.takeFree.2.hostMem = s.hostMem := rfl
@[simp] theorem State.advance_hostMem (s : State) : s.advance.hostMem = s.hostMem := by simp [State.advance]
@[simp] theorem State.putD_hostMem (s : State) (c : Ctl) (d : Fld) (act : Mask) (v : Nat → BitVec 64) (a : Member → Word × Word) :
    (s.putD c d act v a).hostMem = s.hostMem := by unfold State.putD; split <;> simp
@[simp] theorem State.putP_hostMem (s : State) (p : Nat) (act : Mask) (v : Nat → Bool) : (s.putP p act v).hostMem = s.hostMem := by simp [State.putP]
@[simp] theorem orFlags_hostMem (fl : List (WRef × Nat × BitVec 6)) (s : State) : (orFlags fl s).hostMem = s.hostMem := by
  unfold orFlags; induction fl generalizing s with
  | nil => rfl
  | cons x r ih => simp [ih]
@[simp] theorem State.setCore_msix (s : State) (c : Nat) (k : Core) : (s.setCore c k).msix = s.msix := rfl
@[simp] theorem State.modCore_msix (s : State) (c : Nat) (g : Core → Core) : (s.modCore c g).msix = s.msix := rfl
@[simp] theorem State.setBlock_msix (s : State) (c q : Nat) (b : Block) : (s.setBlock c q b).msix = s.msix := rfl
@[simp] theorem State.putLatch_msix (s : State) (k : Nat) (wide : Bool) (act : Mask) (v : Nat → BitVec 64) : (s.putLatch k wide act v).msix = s.msix := rfl
@[simp] theorem State.modBlock_msix (s : State) (c q : Nat) (g : Block → Block) : (s.modBlock c q g).msix = s.msix := by
  unfold State.modBlock; split <;> rfl
@[simp] theorem State.modWarp_msix (s : State) (r : WRef) (g : Warp → Warp) : (s.modWarp r g).msix = s.msix := by simp [State.modWarp]
@[simp] theorem State.setWarp_msix (s : State) (r : WRef) (x : Warp) : (s.setWarp r x).msix = s.msix := by simp [State.setWarp]
@[simp] theorem State.modThreads_msix (s : State) (r : WRef) (m : Mask) (g : Nat → Thread → Thread) : (s.modThreads r m g).msix = s.msix := by
  simp [State.modThreads]
@[simp] theorem State.modMembers_msix (s : State) (ms : List Member) (g : Member → Warp → Warp) : (s.modMembers ms g).msix = s.msix := by
  unfold State.modMembers; induction ms generalizing s with
  | nil => rfl
  | cons m r ih => simp [ih]
@[simp] theorem State.clearLatch_msix (g : Group) (s : State) : (clearLatch g s).msix = s.msix := rfl
@[simp] theorem State.modObj_msix (s : State) (o : BitVec 24) (g : Obj → Obj) : (s.modObj o g).msix = s.msix := by
  unfold State.modObj; split <;> rfl
@[simp] theorem State.fresh_msix (s : State) : s.fresh.2.msix = s.msix := rfl
@[simp] theorem State.takeFree_msix (s : State) : s.takeFree.2.msix = s.msix := rfl
@[simp] theorem State.advance_msix (s : State) : s.advance.msix = s.msix := by simp [State.advance]
@[simp] theorem State.putD_msix (s : State) (c : Ctl) (d : Fld) (act : Mask) (v : Nat → BitVec 64) (a : Member → Word × Word) :
    (s.putD c d act v a).msix = s.msix := by unfold State.putD; split <;> simp
@[simp] theorem State.putP_msix (s : State) (p : Nat) (act : Mask) (v : Nat → Bool) : (s.putP p act v).msix = s.msix := by simp [State.putP]
@[simp] theorem orFlags_msix (fl : List (WRef × Nat × BitVec 6)) (s : State) : (orFlags fl s).msix = s.msix := by
  unfold orFlags; induction fl generalizing s with
  | nil => rfl
  | cons x r ih => simp [ih]
@[simp] theorem State.setCore_hbm (s : State) (c : Nat) (k : Core) : (s.setCore c k).hbm = s.hbm := rfl
@[simp] theorem State.modCore_hbm (s : State) (c : Nat) (g : Core → Core) : (s.modCore c g).hbm = s.hbm := rfl
@[simp] theorem State.setBlock_hbm (s : State) (c q : Nat) (b : Block) : (s.setBlock c q b).hbm = s.hbm := rfl
@[simp] theorem State.putLatch_hbm (s : State) (k : Nat) (wide : Bool) (act : Mask) (v : Nat → BitVec 64) : (s.putLatch k wide act v).hbm = s.hbm := rfl
@[simp] theorem State.modBlock_hbm (s : State) (c q : Nat) (g : Block → Block) : (s.modBlock c q g).hbm = s.hbm := by
  unfold State.modBlock; split <;> rfl
@[simp] theorem State.modWarp_hbm (s : State) (r : WRef) (g : Warp → Warp) : (s.modWarp r g).hbm = s.hbm := by simp [State.modWarp]
@[simp] theorem State.setWarp_hbm (s : State) (r : WRef) (x : Warp) : (s.setWarp r x).hbm = s.hbm := by simp [State.setWarp]
@[simp] theorem State.modThreads_hbm (s : State) (r : WRef) (m : Mask) (g : Nat → Thread → Thread) : (s.modThreads r m g).hbm = s.hbm := by
  simp [State.modThreads]
@[simp] theorem State.modMembers_hbm (s : State) (ms : List Member) (g : Member → Warp → Warp) : (s.modMembers ms g).hbm = s.hbm := by
  unfold State.modMembers; induction ms generalizing s with
  | nil => rfl
  | cons m r ih => simp [ih]
@[simp] theorem State.clearLatch_hbm (g : Group) (s : State) : (clearLatch g s).hbm = s.hbm := rfl
@[simp] theorem State.modObj_hbm (s : State) (o : BitVec 24) (g : Obj → Obj) : (s.modObj o g).hbm = s.hbm := by
  unfold State.modObj; split <;> rfl
@[simp] theorem State.fresh_hbm (s : State) : s.fresh.2.hbm = s.hbm := rfl
@[simp] theorem State.takeFree_hbm (s : State) : s.takeFree.2.hbm = s.hbm := rfl
@[simp] theorem State.advance_hbm (s : State) : s.advance.hbm = s.hbm := by simp [State.advance]
@[simp] theorem State.putD_hbm (s : State) (c : Ctl) (d : Fld) (act : Mask) (v : Nat → BitVec 64) (a : Member → Word × Word) :
    (s.putD c d act v a).hbm = s.hbm := by unfold State.putD; split <;> simp
@[simp] theorem State.putP_hbm (s : State) (p : Nat) (act : Mask) (v : Nat → Bool) : (s.putP p act v).hbm = s.hbm := by simp [State.putP]
@[simp] theorem orFlags_hbm (fl : List (WRef × Nat × BitVec 6)) (s : State) : (orFlags fl s).hbm = s.hbm := by
  unfold orFlags; induction fl generalizing s with
  | nil => rfl
  | cons x r ih => simp [ih]
@[simp] theorem State.setCore_replicas (s : State) (c : Nat) (k : Core) : (s.setCore c k).replicas = s.replicas := rfl
@[simp] theorem State.modCore_replicas (s : State) (c : Nat) (g : Core → Core) : (s.modCore c g).replicas = s.replicas := rfl
@[simp] theorem State.setBlock_replicas (s : State) (c q : Nat) (b : Block) : (s.setBlock c q b).replicas = s.replicas := rfl
@[simp] theorem State.putLatch_replicas (s : State) (k : Nat) (wide : Bool) (act : Mask) (v : Nat → BitVec 64) : (s.putLatch k wide act v).replicas = s.replicas := rfl
@[simp] theorem State.modBlock_replicas (s : State) (c q : Nat) (g : Block → Block) : (s.modBlock c q g).replicas = s.replicas := by
  unfold State.modBlock; split <;> rfl
@[simp] theorem State.modWarp_replicas (s : State) (r : WRef) (g : Warp → Warp) : (s.modWarp r g).replicas = s.replicas := by simp [State.modWarp]
@[simp] theorem State.setWarp_replicas (s : State) (r : WRef) (x : Warp) : (s.setWarp r x).replicas = s.replicas := by simp [State.setWarp]
@[simp] theorem State.modThreads_replicas (s : State) (r : WRef) (m : Mask) (g : Nat → Thread → Thread) : (s.modThreads r m g).replicas = s.replicas := by
  simp [State.modThreads]
@[simp] theorem State.modMembers_replicas (s : State) (ms : List Member) (g : Member → Warp → Warp) : (s.modMembers ms g).replicas = s.replicas := by
  unfold State.modMembers; induction ms generalizing s with
  | nil => rfl
  | cons m r ih => simp [ih]
@[simp] theorem State.clearLatch_replicas (g : Group) (s : State) : (clearLatch g s).replicas = s.replicas := rfl
@[simp] theorem State.modObj_replicas (s : State) (o : BitVec 24) (g : Obj → Obj) : (s.modObj o g).replicas = s.replicas := by
  unfold State.modObj; split <;> rfl
@[simp] theorem State.fresh_replicas (s : State) : s.fresh.2.replicas = s.replicas := rfl
@[simp] theorem State.takeFree_replicas (s : State) : s.takeFree.2.replicas = s.replicas := rfl
@[simp] theorem State.advance_replicas (s : State) : s.advance.replicas = s.replicas := by simp [State.advance]
@[simp] theorem State.putD_replicas (s : State) (c : Ctl) (d : Fld) (act : Mask) (v : Nat → BitVec 64) (a : Member → Word × Word) :
    (s.putD c d act v a).replicas = s.replicas := by unfold State.putD; split <;> simp
@[simp] theorem State.putP_replicas (s : State) (p : Nat) (act : Mask) (v : Nat → Bool) : (s.putP p act v).replicas = s.replicas := by simp [State.putP]
@[simp] theorem orFlags_replicas (fl : List (WRef × Nat × BitVec 6)) (s : State) : (orFlags fl s).replicas = s.replicas := by
  unfold orFlags; induction fl generalizing s with
  | nil => rfl
  | cons x r ih => simp [ih]
@[simp] theorem State.setCore_bar2 (s : State) (c : Nat) (k : Core) : (s.setCore c k).bar2 = s.bar2 := rfl
@[simp] theorem State.modCore_bar2 (s : State) (c : Nat) (g : Core → Core) : (s.modCore c g).bar2 = s.bar2 := rfl
@[simp] theorem State.setBlock_bar2 (s : State) (c q : Nat) (b : Block) : (s.setBlock c q b).bar2 = s.bar2 := rfl
@[simp] theorem State.putLatch_bar2 (s : State) (k : Nat) (wide : Bool) (act : Mask) (v : Nat → BitVec 64) : (s.putLatch k wide act v).bar2 = s.bar2 := rfl
@[simp] theorem State.modBlock_bar2 (s : State) (c q : Nat) (g : Block → Block) : (s.modBlock c q g).bar2 = s.bar2 := by
  unfold State.modBlock; split <;> rfl
@[simp] theorem State.modWarp_bar2 (s : State) (r : WRef) (g : Warp → Warp) : (s.modWarp r g).bar2 = s.bar2 := by simp [State.modWarp]
@[simp] theorem State.setWarp_bar2 (s : State) (r : WRef) (x : Warp) : (s.setWarp r x).bar2 = s.bar2 := by simp [State.setWarp]
@[simp] theorem State.modThreads_bar2 (s : State) (r : WRef) (m : Mask) (g : Nat → Thread → Thread) : (s.modThreads r m g).bar2 = s.bar2 := by
  simp [State.modThreads]
@[simp] theorem State.modMembers_bar2 (s : State) (ms : List Member) (g : Member → Warp → Warp) : (s.modMembers ms g).bar2 = s.bar2 := by
  unfold State.modMembers; induction ms generalizing s with
  | nil => rfl
  | cons m r ih => simp [ih]
@[simp] theorem State.clearLatch_bar2 (g : Group) (s : State) : (clearLatch g s).bar2 = s.bar2 := rfl
@[simp] theorem State.modObj_bar2 (s : State) (o : BitVec 24) (g : Obj → Obj) : (s.modObj o g).bar2 = s.bar2 := by
  unfold State.modObj; split <;> rfl
@[simp] theorem State.fresh_bar2 (s : State) : s.fresh.2.bar2 = s.bar2 := rfl
@[simp] theorem State.takeFree_bar2 (s : State) : s.takeFree.2.bar2 = s.bar2 := rfl
@[simp] theorem State.advance_bar2 (s : State) : s.advance.bar2 = s.bar2 := by simp [State.advance]
@[simp] theorem State.putD_bar2 (s : State) (c : Ctl) (d : Fld) (act : Mask) (v : Nat → BitVec 64) (a : Member → Word × Word) :
    (s.putD c d act v a).bar2 = s.bar2 := by unfold State.putD; split <;> simp
@[simp] theorem State.putP_bar2 (s : State) (p : Nat) (act : Mask) (v : Nat → Bool) : (s.putP p act v).bar2 = s.bar2 := by simp [State.putP]
@[simp] theorem orFlags_bar2 (fl : List (WRef × Nat × BitVec 6)) (s : State) : (orFlags fl s).bar2 = s.bar2 := by
  unfold orFlags; induction fl generalizing s with
  | nil => rfl
  | cons x r ih => simp [ih]
@[simp] theorem State.setCore_bclock (s : State) (c : Nat) (k : Core) : (s.setCore c k).bclock = s.bclock := rfl
@[simp] theorem State.modCore_bclock (s : State) (c : Nat) (g : Core → Core) : (s.modCore c g).bclock = s.bclock := rfl
@[simp] theorem State.setBlock_bclock (s : State) (c q : Nat) (b : Block) : (s.setBlock c q b).bclock = s.bclock := rfl
@[simp] theorem State.putLatch_bclock (s : State) (k : Nat) (wide : Bool) (act : Mask) (v : Nat → BitVec 64) : (s.putLatch k wide act v).bclock = s.bclock := rfl
@[simp] theorem State.modBlock_bclock (s : State) (c q : Nat) (g : Block → Block) : (s.modBlock c q g).bclock = s.bclock := by
  unfold State.modBlock; split <;> rfl
@[simp] theorem State.modWarp_bclock (s : State) (r : WRef) (g : Warp → Warp) : (s.modWarp r g).bclock = s.bclock := by simp [State.modWarp]
@[simp] theorem State.setWarp_bclock (s : State) (r : WRef) (x : Warp) : (s.setWarp r x).bclock = s.bclock := by simp [State.setWarp]
@[simp] theorem State.modThreads_bclock (s : State) (r : WRef) (m : Mask) (g : Nat → Thread → Thread) : (s.modThreads r m g).bclock = s.bclock := by
  simp [State.modThreads]
@[simp] theorem State.modMembers_bclock (s : State) (ms : List Member) (g : Member → Warp → Warp) : (s.modMembers ms g).bclock = s.bclock := by
  unfold State.modMembers; induction ms generalizing s with
  | nil => rfl
  | cons m r ih => simp [ih]
@[simp] theorem State.clearLatch_bclock (g : Group) (s : State) : (clearLatch g s).bclock = s.bclock := rfl
@[simp] theorem State.modObj_bclock (s : State) (o : BitVec 24) (g : Obj → Obj) : (s.modObj o g).bclock = s.bclock := by
  unfold State.modObj; split <;> rfl
@[simp] theorem State.fresh_bclock (s : State) : s.fresh.2.bclock = s.bclock := rfl
@[simp] theorem State.takeFree_bclock (s : State) : s.takeFree.2.bclock = s.bclock := rfl
@[simp] theorem State.advance_bclock (s : State) : s.advance.bclock = s.bclock := by simp [State.advance]
@[simp] theorem State.putD_bclock (s : State) (c : Ctl) (d : Fld) (act : Mask) (v : Nat → BitVec 64) (a : Member → Word × Word) :
    (s.putD c d act v a).bclock = s.bclock := by unfold State.putD; split <;> simp
@[simp] theorem State.putP_bclock (s : State) (p : Nat) (act : Mask) (v : Nat → Bool) : (s.putP p act v).bclock = s.bclock := by simp [State.putP]
@[simp] theorem orFlags_bclock (fl : List (WRef × Nat × BitVec 6)) (s : State) : (orFlags fl s).bclock = s.bclock := by
  unfold orFlags; induction fl generalizing s with
  | nil => rfl
  | cons x r ih => simp [ih]
@[simp] theorem State.setCore_nextId (s : State) (c : Nat) (k : Core) : (s.setCore c k).nextId = s.nextId := rfl
@[simp] theorem State.modCore_nextId (s : State) (c : Nat) (g : Core → Core) : (s.modCore c g).nextId = s.nextId := rfl
@[simp] theorem State.setBlock_nextId (s : State) (c q : Nat) (b : Block) : (s.setBlock c q b).nextId = s.nextId := rfl
@[simp] theorem State.putLatch_nextId (s : State) (k : Nat) (wide : Bool) (act : Mask) (v : Nat → BitVec 64) : (s.putLatch k wide act v).nextId = s.nextId := rfl
@[simp] theorem State.modBlock_nextId (s : State) (c q : Nat) (g : Block → Block) : (s.modBlock c q g).nextId = s.nextId := by
  unfold State.modBlock; split <;> rfl
@[simp] theorem State.modWarp_nextId (s : State) (r : WRef) (g : Warp → Warp) : (s.modWarp r g).nextId = s.nextId := by simp [State.modWarp]
@[simp] theorem State.setWarp_nextId (s : State) (r : WRef) (x : Warp) : (s.setWarp r x).nextId = s.nextId := by simp [State.setWarp]
@[simp] theorem State.modThreads_nextId (s : State) (r : WRef) (m : Mask) (g : Nat → Thread → Thread) : (s.modThreads r m g).nextId = s.nextId := by
  simp [State.modThreads]
@[simp] theorem State.modMembers_nextId (s : State) (ms : List Member) (g : Member → Warp → Warp) : (s.modMembers ms g).nextId = s.nextId := by
  unfold State.modMembers; induction ms generalizing s with
  | nil => rfl
  | cons m r ih => simp [ih]
@[simp] theorem State.clearLatch_nextId (g : Group) (s : State) : (clearLatch g s).nextId = s.nextId := rfl
@[simp] theorem State.modObj_nextId (s : State) (o : BitVec 24) (g : Obj → Obj) : (s.modObj o g).nextId = s.nextId := by
  unfold State.modObj; split <;> rfl
@[simp] theorem State.takeFree_nextId (s : State) : s.takeFree.2.nextId = s.nextId := rfl
@[simp] theorem State.advance_nextId (s : State) : s.advance.nextId = s.nextId := by simp [State.advance]
@[simp] theorem State.putD_nextId (s : State) (c : Ctl) (d : Fld) (act : Mask) (v : Nat → BitVec 64) (a : Member → Word × Word) :
    (s.putD c d act v a).nextId = s.nextId := by unfold State.putD; split <;> simp
@[simp] theorem State.putP_nextId (s : State) (p : Nat) (act : Mask) (v : Nat → Bool) : (s.putP p act v).nextId = s.nextId := by simp [State.putP]
@[simp] theorem orFlags_nextId (fl : List (WRef × Nat × BitVec 6)) (s : State) : (orFlags fl s).nextId = s.nextId := by
  unfold orFlags; induction fl generalizing s with
  | nil => rfl
  | cons x r ih => simp [ih]
@[simp] theorem State.setCore_clock (s : State) (c : Nat) (k : Core) : (s.setCore c k).clock = s.clock := rfl
@[simp] theorem State.modCore_clock (s : State) (c : Nat) (g : Core → Core) : (s.modCore c g).clock = s.clock := rfl
@[simp] theorem State.setBlock_clock (s : State) (c q : Nat) (b : Block) : (s.setBlock c q b).clock = s.clock := rfl
@[simp] theorem State.putLatch_clock (s : State) (k : Nat) (wide : Bool) (act : Mask) (v : Nat → BitVec 64) : (s.putLatch k wide act v).clock = s.clock := rfl
@[simp] theorem State.modBlock_clock (s : State) (c q : Nat) (g : Block → Block) : (s.modBlock c q g).clock = s.clock := by
  unfold State.modBlock; split <;> rfl
@[simp] theorem State.modWarp_clock (s : State) (r : WRef) (g : Warp → Warp) : (s.modWarp r g).clock = s.clock := by simp [State.modWarp]
@[simp] theorem State.setWarp_clock (s : State) (r : WRef) (x : Warp) : (s.setWarp r x).clock = s.clock := by simp [State.setWarp]
@[simp] theorem State.modThreads_clock (s : State) (r : WRef) (m : Mask) (g : Nat → Thread → Thread) : (s.modThreads r m g).clock = s.clock := by
  simp [State.modThreads]
@[simp] theorem State.modMembers_clock (s : State) (ms : List Member) (g : Member → Warp → Warp) : (s.modMembers ms g).clock = s.clock := by
  unfold State.modMembers; induction ms generalizing s with
  | nil => rfl
  | cons m r ih => simp [ih]
@[simp] theorem State.clearLatch_clock (g : Group) (s : State) : (clearLatch g s).clock = s.clock := rfl
@[simp] theorem State.modObj_clock (s : State) (o : BitVec 24) (g : Obj → Obj) : (s.modObj o g).clock = s.clock := by
  unfold State.modObj; split <;> rfl
@[simp] theorem State.fresh_clock (s : State) : s.fresh.2.clock = s.clock := rfl
@[simp] theorem State.takeFree_clock (s : State) : s.takeFree.2.clock = s.clock := rfl
@[simp] theorem State.putD_clock (s : State) (c : Ctl) (d : Fld) (act : Mask) (v : Nat → BitVec 64) (a : Member → Word × Word) :
    (s.putD c d act v a).clock = s.clock := by unfold State.putD; split <;> simp
@[simp] theorem State.putP_clock (s : State) (p : Nat) (act : Mask) (v : Nat → Bool) : (s.putP p act v).clock = s.clock := by simp [State.putP]
@[simp] theorem orFlags_clock (fl : List (WRef × Nat × BitVec 6)) (s : State) : (orFlags fl s).clock = s.clock := by
  unfold orFlags; induction fl generalizing s with
  | nil => rfl
  | cons x r ih => simp [ih]
@[simp] theorem State.setCore_free (s : State) (c : Nat) (k : Core) : (s.setCore c k).free = s.free := rfl
@[simp] theorem State.modCore_free (s : State) (c : Nat) (g : Core → Core) : (s.modCore c g).free = s.free := rfl
@[simp] theorem State.setBlock_free (s : State) (c q : Nat) (b : Block) : (s.setBlock c q b).free = s.free := rfl
@[simp] theorem State.putLatch_free (s : State) (k : Nat) (wide : Bool) (act : Mask) (v : Nat → BitVec 64) : (s.putLatch k wide act v).free = s.free := rfl
@[simp] theorem State.modBlock_free (s : State) (c q : Nat) (g : Block → Block) : (s.modBlock c q g).free = s.free := by
  unfold State.modBlock; split <;> rfl
@[simp] theorem State.modWarp_free (s : State) (r : WRef) (g : Warp → Warp) : (s.modWarp r g).free = s.free := by simp [State.modWarp]
@[simp] theorem State.setWarp_free (s : State) (r : WRef) (x : Warp) : (s.setWarp r x).free = s.free := by simp [State.setWarp]
@[simp] theorem State.modThreads_free (s : State) (r : WRef) (m : Mask) (g : Nat → Thread → Thread) : (s.modThreads r m g).free = s.free := by
  simp [State.modThreads]
@[simp] theorem State.modMembers_free (s : State) (ms : List Member) (g : Member → Warp → Warp) : (s.modMembers ms g).free = s.free := by
  unfold State.modMembers; induction ms generalizing s with
  | nil => rfl
  | cons m r ih => simp [ih]
@[simp] theorem State.clearLatch_free (g : Group) (s : State) : (clearLatch g s).free = s.free := rfl
@[simp] theorem State.modObj_free (s : State) (o : BitVec 24) (g : Obj → Obj) : (s.modObj o g).free = s.free := by
  unfold State.modObj; split <;> rfl
@[simp] theorem State.fresh_free (s : State) : s.fresh.2.free = s.free := rfl
@[simp] theorem State.advance_free (s : State) : s.advance.free = s.free := by simp [State.advance]
@[simp] theorem State.putD_free (s : State) (c : Ctl) (d : Fld) (act : Mask) (v : Nat → BitVec 64) (a : Member → Word × Word) :
    (s.putD c d act v a).free = s.free := by unfold State.putD; split <;> simp
@[simp] theorem State.putP_free (s : State) (p : Nat) (act : Mask) (v : Nat → Bool) : (s.putP p act v).free = s.free := by simp [State.putP]
@[simp] theorem orFlags_free (fl : List (WRef × Nat × BitVec 6)) (s : State) : (orFlags fl s).free = s.free := by
  unfold orFlags; induction fl generalizing s with
  | nil => rfl
  | cons x r ih => simp [ih]
@[simp] theorem State.setCore_agenda (s : State) (c : Nat) (k : Core) : (s.setCore c k).agenda = s.agenda := rfl
@[simp] theorem State.modCore_agenda (s : State) (c : Nat) (g : Core → Core) : (s.modCore c g).agenda = s.agenda := rfl
@[simp] theorem State.setBlock_agenda (s : State) (c q : Nat) (b : Block) : (s.setBlock c q b).agenda = s.agenda := rfl
@[simp] theorem State.putLatch_agenda (s : State) (k : Nat) (wide : Bool) (act : Mask) (v : Nat → BitVec 64) : (s.putLatch k wide act v).agenda = s.agenda := rfl
@[simp] theorem State.modBlock_agenda (s : State) (c q : Nat) (g : Block → Block) : (s.modBlock c q g).agenda = s.agenda := by
  unfold State.modBlock; split <;> rfl
@[simp] theorem State.modWarp_agenda (s : State) (r : WRef) (g : Warp → Warp) : (s.modWarp r g).agenda = s.agenda := by simp [State.modWarp]
@[simp] theorem State.setWarp_agenda (s : State) (r : WRef) (x : Warp) : (s.setWarp r x).agenda = s.agenda := by simp [State.setWarp]
@[simp] theorem State.modThreads_agenda (s : State) (r : WRef) (m : Mask) (g : Nat → Thread → Thread) : (s.modThreads r m g).agenda = s.agenda := by
  simp [State.modThreads]
@[simp] theorem State.modMembers_agenda (s : State) (ms : List Member) (g : Member → Warp → Warp) : (s.modMembers ms g).agenda = s.agenda := by
  unfold State.modMembers; induction ms generalizing s with
  | nil => rfl
  | cons m r ih => simp [ih]
@[simp] theorem State.clearLatch_agenda (g : Group) (s : State) : (clearLatch g s).agenda = s.agenda := rfl
@[simp] theorem State.modObj_agenda (s : State) (o : BitVec 24) (g : Obj → Obj) : (s.modObj o g).agenda = s.agenda := by
  unfold State.modObj; split <;> rfl
@[simp] theorem State.fresh_agenda (s : State) : s.fresh.2.agenda = s.agenda := rfl
@[simp] theorem State.takeFree_agenda (s : State) : s.takeFree.2.agenda = s.agenda := rfl
@[simp] theorem State.advance_agenda (s : State) : s.advance.agenda = s.agenda := by simp [State.advance]
@[simp] theorem State.putD_agenda (s : State) (c : Ctl) (d : Fld) (act : Mask) (v : Nat → BitVec 64) (a : Member → Word × Word) :
    (s.putD c d act v a).agenda = s.agenda := by unfold State.putD; split <;> simp
@[simp] theorem State.putP_agenda (s : State) (p : Nat) (act : Mask) (v : Nat → Bool) : (s.putP p act v).agenda = s.agenda := by simp [State.putP]
@[simp] theorem orFlags_agenda (fl : List (WRef × Nat × BitVec 6)) (s : State) : (orFlags fl s).agenda = s.agenda := by
  unfold orFlags; induction fl generalizing s with
  | nil => rfl
  | cons x r ih => simp [ih]
@[simp] theorem State.setCore_cur (s : State) (c : Nat) (k : Core) : (s.setCore c k).cur = s.cur := rfl
@[simp] theorem State.modCore_cur (s : State) (c : Nat) (g : Core → Core) : (s.modCore c g).cur = s.cur := rfl
@[simp] theorem State.setBlock_cur (s : State) (c q : Nat) (b : Block) : (s.setBlock c q b).cur = s.cur := rfl
@[simp] theorem State.putLatch_cur (s : State) (k : Nat) (wide : Bool) (act : Mask) (v : Nat → BitVec 64) : (s.putLatch k wide act v).cur = s.cur := rfl
@[simp] theorem State.modBlock_cur (s : State) (c q : Nat) (g : Block → Block) : (s.modBlock c q g).cur = s.cur := by
  unfold State.modBlock; split <;> rfl
@[simp] theorem State.modWarp_cur (s : State) (r : WRef) (g : Warp → Warp) : (s.modWarp r g).cur = s.cur := by simp [State.modWarp]
@[simp] theorem State.setWarp_cur (s : State) (r : WRef) (x : Warp) : (s.setWarp r x).cur = s.cur := by simp [State.setWarp]
@[simp] theorem State.modThreads_cur (s : State) (r : WRef) (m : Mask) (g : Nat → Thread → Thread) : (s.modThreads r m g).cur = s.cur := by
  simp [State.modThreads]
@[simp] theorem State.modMembers_cur (s : State) (ms : List Member) (g : Member → Warp → Warp) : (s.modMembers ms g).cur = s.cur := by
  unfold State.modMembers; induction ms generalizing s with
  | nil => rfl
  | cons m r ih => simp [ih]
@[simp] theorem State.clearLatch_cur (g : Group) (s : State) : (clearLatch g s).cur = s.cur := rfl
@[simp] theorem State.modObj_cur (s : State) (o : BitVec 24) (g : Obj → Obj) : (s.modObj o g).cur = s.cur := by
  unfold State.modObj; split <;> rfl
@[simp] theorem State.fresh_cur (s : State) : s.fresh.2.cur = s.cur := rfl
@[simp] theorem State.takeFree_cur (s : State) : s.takeFree.2.cur = s.cur := rfl
@[simp] theorem State.advance_cur (s : State) : s.advance.cur = s.cur := by simp [State.advance]
@[simp] theorem State.putD_cur (s : State) (c : Ctl) (d : Fld) (act : Mask) (v : Nat → BitVec 64) (a : Member → Word × Word) :
    (s.putD c d act v a).cur = s.cur := by unfold State.putD; split <;> simp
@[simp] theorem State.putP_cur (s : State) (p : Nat) (act : Mask) (v : Nat → Bool) : (s.putP p act v).cur = s.cur := by simp [State.putP]
@[simp] theorem orFlags_cur (fl : List (WRef × Nat × BitVec 6)) (s : State) : (orFlags fl s).cur = s.cur := by
  unfold orFlags; induction fl generalizing s with
  | nil => rfl
  | cons x r ih => simp [ih]
@[simp] theorem State.advance_clock (s : State) : s.advance.clock = s.clock + 1 := by simp [State.advance]
@[simp] theorem State.fresh_nextId (s : State) : s.fresh.2.nextId = s.nextId + 1 := rfl
@[simp] theorem State.takeFree_free (s : State) : s.takeFree.2.free = s.free + 1 := rfl

/-! ### Fields of a warp, a block and a thread after an update -/

@[simp] theorem Warp.putGen_slice (x : Warp) (n l : Nat) (v : Word) : (x.putGen n l v).slice = x.slice := rfl
@[simp] theorem Warp.putUni_slice (x : Warp) (n : Nat) (v : Word) : (x.putUni n v).slice = x.slice := rfl
@[simp] theorem Warp.putAff_slice (x : Warp) (n : Nat) (v : Word × Word) : (x.putAff n v).slice = x.slice := rfl
@[simp] theorem Warp.putPred_slice (x : Warp) (p : Nat) (m v : Mask) : (x.putPred p m v).slice = x.slice := rfl
@[simp] theorem Warp.modThreads_slice (x : Warp) (m : Mask) (g : Nat → Thread → Thread) : (x.modThreads m g).slice = x.slice := rfl
@[simp] theorem Warp.mapThreads_slice (x : Warp) (g : Thread → Thread) : (x.mapThreads g).slice = x.slice := rfl
@[simp] theorem Warp.putGen_slot (x : Warp) (n l : Nat) (v : Word) : (x.putGen n l v).slot = x.slot := rfl
@[simp] theorem Warp.putUni_slot (x : Warp) (n : Nat) (v : Word) : (x.putUni n v).slot = x.slot := rfl
@[simp] theorem Warp.putAff_slot (x : Warp) (n : Nat) (v : Word × Word) : (x.putAff n v).slot = x.slot := rfl
@[simp] theorem Warp.putPred_slot (x : Warp) (p : Nat) (m v : Mask) : (x.putPred p m v).slot = x.slot := rfl
@[simp] theorem Warp.modThreads_slot (x : Warp) (m : Mask) (g : Nat → Thread → Thread) : (x.modThreads m g).slot = x.slot := rfl
@[simp] theorem Warp.mapThreads_slot (x : Warp) (g : Thread → Thread) : (x.mapThreads g).slot = x.slot := rfl
@[simp] theorem Warp.putGen_g (x : Warp) (n l : Nat) (v : Word) : (x.putGen n l v).g = x.g := rfl
@[simp] theorem Warp.putUni_g (x : Warp) (n : Nat) (v : Word) : (x.putUni n v).g = x.g := rfl
@[simp] theorem Warp.putAff_g (x : Warp) (n : Nat) (v : Word × Word) : (x.putAff n v).g = x.g := rfl
@[simp] theorem Warp.putPred_g (x : Warp) (p : Nat) (m v : Mask) : (x.putPred p m v).g = x.g := rfl
@[simp] theorem Warp.modThreads_g (x : Warp) (m : Mask) (g : Nat → Thread → Thread) : (x.modThreads m g).g = x.g := rfl
@[simp] theorem Warp.mapThreads_g (x : Warp) (g : Thread → Thread) : (x.mapThreads g).g = x.g := rfl
@[simp] theorem Warp.putGen_f (x : Warp) (n l : Nat) (v : Word) : (x.putGen n l v).f = x.f := rfl
@[simp] theorem Warp.putUni_f (x : Warp) (n : Nat) (v : Word) : (x.putUni n v).f = x.f := rfl
@[simp] theorem Warp.putAff_f (x : Warp) (n : Nat) (v : Word × Word) : (x.putAff n v).f = x.f := rfl
@[simp] theorem Warp.putPred_f (x : Warp) (p : Nat) (m v : Mask) : (x.putPred p m v).f = x.f := rfl
@[simp] theorem Warp.modThreads_f (x : Warp) (m : Mask) (g : Nat → Thread → Thread) : (x.modThreads m g).f = x.f := rfl
@[simp] theorem Warp.mapThreads_f (x : Warp) (g : Thread → Thread) : (x.mapThreads g).f = x.f := rfl
@[simp] theorem Warp.putGen_q (x : Warp) (n l : Nat) (v : Word) : (x.putGen n l v).q = x.q := rfl
@[simp] theorem Warp.putUni_q (x : Warp) (n : Nat) (v : Word) : (x.putUni n v).q = x.q := rfl
@[simp] theorem Warp.putAff_q (x : Warp) (n : Nat) (v : Word × Word) : (x.putAff n v).q = x.q := rfl
@[simp] theorem Warp.putPred_q (x : Warp) (p : Nat) (m v : Mask) : (x.putPred p m v).q = x.q := rfl
@[simp] theorem Warp.modThreads_q (x : Warp) (m : Mask) (g : Nat → Thread → Thread) : (x.modThreads m g).q = x.q := rfl
@[simp] theorem Warp.mapThreads_q (x : Warp) (g : Thread → Thread) : (x.mapThreads g).q = x.q := rfl
@[simp] theorem Warp.putUni_gen (x : Warp) (n : Nat) (v : Word) : (x.putUni n v).gen = x.gen := rfl
@[simp] theorem Warp.putAff_gen (x : Warp) (n : Nat) (v : Word × Word) : (x.putAff n v).gen = x.gen := rfl
@[simp] theorem Warp.putPred_gen (x : Warp) (p : Nat) (m v : Mask) : (x.putPred p m v).gen = x.gen := rfl
@[simp] theorem Warp.modThreads_gen (x : Warp) (m : Mask) (g : Nat → Thread → Thread) : (x.modThreads m g).gen = x.gen := rfl
@[simp] theorem Warp.mapThreads_gen (x : Warp) (g : Thread → Thread) : (x.mapThreads g).gen = x.gen := rfl
@[simp] theorem Warp.putGen_aff (x : Warp) (n l : Nat) (v : Word) : (x.putGen n l v).aff = x.aff := rfl
@[simp] theorem Warp.putUni_aff (x : Warp) (n : Nat) (v : Word) : (x.putUni n v).aff = x.aff := rfl
@[simp] theorem Warp.putPred_aff (x : Warp) (p : Nat) (m v : Mask) : (x.putPred p m v).aff = x.aff := rfl
@[simp] theorem Warp.modThreads_aff (x : Warp) (m : Mask) (g : Nat → Thread → Thread) : (x.modThreads m g).aff = x.aff := rfl
@[simp] theorem Warp.mapThreads_aff (x : Warp) (g : Thread → Thread) : (x.mapThreads g).aff = x.aff := rfl
@[simp] theorem Warp.putGen_uni (x : Warp) (n l : Nat) (v : Word) : (x.putGen n l v).uni = x.uni := rfl
@[simp] theorem Warp.putAff_uni (x : Warp) (n : Nat) (v : Word × Word) : (x.putAff n v).uni = x.uni := rfl
@[simp] theorem Warp.putPred_uni (x : Warp) (p : Nat) (m v : Mask) : (x.putPred p m v).uni = x.uni := rfl
@[simp] theorem Warp.modThreads_uni (x : Warp) (m : Mask) (g : Nat → Thread → Thread) : (x.modThreads m g).uni = x.uni := rfl
@[simp] theorem Warp.mapThreads_uni (x : Warp) (g : Thread → Thread) : (x.mapThreads g).uni = x.uni := rfl
@[simp] theorem Warp.putGen_preds (x : Warp) (n l : Nat) (v : Word) : (x.putGen n l v).preds = x.preds := rfl
@[simp] theorem Warp.putUni_preds (x : Warp) (n : Nat) (v : Word) : (x.putUni n v).preds = x.preds := rfl
@[simp] theorem Warp.putAff_preds (x : Warp) (n : Nat) (v : Word × Word) : (x.putAff n v).preds = x.preds := rfl
@[simp] theorem Warp.modThreads_preds (x : Warp) (m : Mask) (g : Nat → Thread → Thread) : (x.modThreads m g).preds = x.preds := rfl
@[simp] theorem Warp.mapThreads_preds (x : Warp) (g : Thread → Thread) : (x.mapThreads g).preds = x.preds := rfl
@[simp] theorem Warp.putGen_clauses (x : Warp) (n l : Nat) (v : Word) : (x.putGen n l v).clauses = x.clauses := rfl
@[simp] theorem Warp.putUni_clauses (x : Warp) (n : Nat) (v : Word) : (x.putUni n v).clauses = x.clauses := rfl
@[simp] theorem Warp.putAff_clauses (x : Warp) (n : Nat) (v : Word × Word) : (x.putAff n v).clauses = x.clauses := rfl
@[simp] theorem Warp.putPred_clauses (x : Warp) (p : Nat) (m v : Mask) : (x.putPred p m v).clauses = x.clauses := rfl
@[simp] theorem Warp.modThreads_clauses (x : Warp) (m : Mask) (g : Nat → Thread → Thread) : (x.modThreads m g).clauses = x.clauses := rfl
@[simp] theorem Warp.mapThreads_clauses (x : Warp) (g : Thread → Thread) : (x.mapThreads g).clauses = x.clauses := rfl
@[simp] theorem Warp.putGen_efs (x : Warp) (n l : Nat) (v : Word) : (x.putGen n l v).efs = x.efs := rfl
@[simp] theorem Warp.putUni_efs (x : Warp) (n : Nat) (v : Word) : (x.putUni n v).efs = x.efs := rfl
@[simp] theorem Warp.putAff_efs (x : Warp) (n : Nat) (v : Word × Word) : (x.putAff n v).efs = x.efs := rfl
@[simp] theorem Warp.putPred_efs (x : Warp) (p : Nat) (m v : Mask) : (x.putPred p m v).efs = x.efs := rfl
@[simp] theorem Warp.modThreads_efs (x : Warp) (m : Mask) (g : Nat → Thread → Thread) : (x.modThreads m g).efs = x.efs := rfl
@[simp] theorem Warp.mapThreads_efs (x : Warp) (g : Thread → Thread) : (x.mapThreads g).efs = x.efs := rfl
@[simp] theorem Warp.putGen_fpflags (x : Warp) (n l : Nat) (v : Word) : (x.putGen n l v).fpflags = x.fpflags := rfl
@[simp] theorem Warp.putUni_fpflags (x : Warp) (n : Nat) (v : Word) : (x.putUni n v).fpflags = x.fpflags := rfl
@[simp] theorem Warp.putAff_fpflags (x : Warp) (n : Nat) (v : Word × Word) : (x.putAff n v).fpflags = x.fpflags := rfl
@[simp] theorem Warp.putPred_fpflags (x : Warp) (p : Nat) (m v : Mask) : (x.putPred p m v).fpflags = x.fpflags := rfl
@[simp] theorem Warp.modThreads_fpflags (x : Warp) (m : Mask) (g : Nat → Thread → Thread) : (x.modThreads m g).fpflags = x.fpflags := rfl
@[simp] theorem Warp.mapThreads_fpflags (x : Warp) (g : Thread → Thread) : (x.mapThreads g).fpflags = x.fpflags := rfl
@[simp] theorem Warp.putGen_fpten (x : Warp) (n l : Nat) (v : Word) : (x.putGen n l v).fpten = x.fpten := rfl
@[simp] theorem Warp.putUni_fpten (x : Warp) (n : Nat) (v : Word) : (x.putUni n v).fpten = x.fpten := rfl
@[simp] theorem Warp.putAff_fpten (x : Warp) (n : Nat) (v : Word × Word) : (x.putAff n v).fpten = x.fpten := rfl
@[simp] theorem Warp.putPred_fpten (x : Warp) (p : Nat) (m v : Mask) : (x.putPred p m v).fpten = x.fpten := rfl
@[simp] theorem Warp.modThreads_fpten (x : Warp) (m : Mask) (g : Nat → Thread → Thread) : (x.modThreads m g).fpten = x.fpten := rfl
@[simp] theorem Warp.mapThreads_fpten (x : Warp) (g : Thread → Thread) : (x.mapThreads g).fpten = x.fpten := rfl
@[simp] theorem Warp.putGen_fprnd (x : Warp) (n l : Nat) (v : Word) : (x.putGen n l v).fprnd = x.fprnd := rfl
@[simp] theorem Warp.putUni_fprnd (x : Warp) (n : Nat) (v : Word) : (x.putUni n v).fprnd = x.fprnd := rfl
@[simp] theorem Warp.putAff_fprnd (x : Warp) (n : Nat) (v : Word × Word) : (x.putAff n v).fprnd = x.fprnd := rfl
@[simp] theorem Warp.putPred_fprnd (x : Warp) (p : Nat) (m v : Mask) : (x.putPred p m v).fprnd = x.fprnd := rfl
@[simp] theorem Warp.modThreads_fprnd (x : Warp) (m : Mask) (g : Nat → Thread → Thread) : (x.modThreads m g).fprnd = x.fprnd := rfl
@[simp] theorem Warp.mapThreads_fprnd (x : Warp) (g : Thread → Thread) : (x.mapThreads g).fprnd = x.fprnd := rfl
@[simp] theorem Warp.putGen_sp (x : Warp) (n l : Nat) (v : Word) : (x.putGen n l v).sp = x.sp := rfl
@[simp] theorem Warp.putUni_sp (x : Warp) (n : Nat) (v : Word) : (x.putUni n v).sp = x.sp := rfl
@[simp] theorem Warp.putAff_sp (x : Warp) (n : Nat) (v : Word × Word) : (x.putAff n v).sp = x.sp := rfl
@[simp] theorem Warp.putPred_sp (x : Warp) (p : Nat) (m v : Mask) : (x.putPred p m v).sp = x.sp := rfl
@[simp] theorem Warp.modThreads_sp (x : Warp) (m : Mask) (g : Nat → Thread → Thread) : (x.modThreads m g).sp = x.sp := rfl
@[simp] theorem Warp.mapThreads_sp (x : Warp) (g : Thread → Thread) : (x.mapThreads g).sp = x.sp := rfl
@[simp] theorem Warp.putGen_spill (x : Warp) (n l : Nat) (v : Word) : (x.putGen n l v).spill = x.spill := rfl
@[simp] theorem Warp.putUni_spill (x : Warp) (n : Nat) (v : Word) : (x.putUni n v).spill = x.spill := rfl
@[simp] theorem Warp.putAff_spill (x : Warp) (n : Nat) (v : Word × Word) : (x.putAff n v).spill = x.spill := rfl
@[simp] theorem Warp.putPred_spill (x : Warp) (p : Nat) (m v : Mask) : (x.putPred p m v).spill = x.spill := rfl
@[simp] theorem Warp.modThreads_spill (x : Warp) (m : Mask) (g : Nat → Thread → Thread) : (x.modThreads m g).spill = x.spill := rfl
@[simp] theorem Warp.mapThreads_spill (x : Warp) (g : Thread → Thread) : (x.mapThreads g).spill = x.spill := rfl
@[simp] theorem Warp.putGen_pvcnt (x : Warp) (n l : Nat) (v : Word) : (x.putGen n l v).pvcnt = x.pvcnt := rfl
@[simp] theorem Warp.putUni_pvcnt (x : Warp) (n : Nat) (v : Word) : (x.putUni n v).pvcnt = x.pvcnt := rfl
@[simp] theorem Warp.putAff_pvcnt (x : Warp) (n : Nat) (v : Word × Word) : (x.putAff n v).pvcnt = x.pvcnt := rfl
@[simp] theorem Warp.putPred_pvcnt (x : Warp) (p : Nat) (m v : Mask) : (x.putPred p m v).pvcnt = x.pvcnt := rfl
@[simp] theorem Warp.modThreads_pvcnt (x : Warp) (m : Mask) (g : Nat → Thread → Thread) : (x.modThreads m g).pvcnt = x.pvcnt := rfl
@[simp] theorem Warp.mapThreads_pvcnt (x : Warp) (g : Thread → Thread) : (x.mapThreads g).pvcnt = x.pvcnt := rfl
@[simp] theorem Warp.putGen_trap (x : Warp) (n l : Nat) (v : Word) : (x.putGen n l v).trap = x.trap := rfl
@[simp] theorem Warp.putUni_trap (x : Warp) (n : Nat) (v : Word) : (x.putUni n v).trap = x.trap := rfl
@[simp] theorem Warp.putAff_trap (x : Warp) (n : Nat) (v : Word × Word) : (x.putAff n v).trap = x.trap := rfl
@[simp] theorem Warp.putPred_trap (x : Warp) (p : Nat) (m v : Mask) : (x.putPred p m v).trap = x.trap := rfl
@[simp] theorem Warp.modThreads_trap (x : Warp) (m : Mask) (g : Nat → Thread → Thread) : (x.modThreads m g).trap = x.trap := rfl
@[simp] theorem Warp.mapThreads_trap (x : Warp) (g : Thread → Thread) : (x.mapThreads g).trap = x.trap := rfl
@[simp] theorem Warp.putGen_started (x : Warp) (n l : Nat) (v : Word) : (x.putGen n l v).started = x.started := rfl
@[simp] theorem Warp.putUni_started (x : Warp) (n : Nat) (v : Word) : (x.putUni n v).started = x.started := rfl
@[simp] theorem Warp.putAff_started (x : Warp) (n : Nat) (v : Word × Word) : (x.putAff n v).started = x.started := rfl
@[simp] theorem Warp.putPred_started (x : Warp) (p : Nat) (m v : Mask) : (x.putPred p m v).started = x.started := rfl
@[simp] theorem Warp.modThreads_started (x : Warp) (m : Mask) (g : Nat → Thread → Thread) : (x.modThreads m g).started = x.started := rfl
@[simp] theorem Warp.mapThreads_started (x : Warp) (g : Thread → Thread) : (x.mapThreads g).started = x.started := rfl
@[simp] theorem Warp.putGen_threads (x : Warp) (n l : Nat) (v : Word) : (x.putGen n l v).threads = x.threads := rfl
@[simp] theorem Warp.putUni_threads (x : Warp) (n : Nat) (v : Word) : (x.putUni n v).threads = x.threads := rfl
@[simp] theorem Warp.putAff_threads (x : Warp) (n : Nat) (v : Word × Word) : (x.putAff n v).threads = x.threads := rfl
@[simp] theorem Warp.putPred_threads (x : Warp) (p : Nat) (m v : Mask) : (x.putPred p m v).threads = x.threads := rfl
@[simp] theorem Block.setCap_origin (b : Block) (n : Nat) (c : Cap) : (b.setCap n c).origin = b.origin := rfl
@[simp] theorem Block.mapWarps_origin (b : Block) (g : Warp → Warp) : (b.mapWarps g).origin = b.origin := rfl
@[simp] theorem Block.setCap_uid (b : Block) (n : Nat) (c : Cap) : (b.setCap n c).uid = b.uid := rfl
@[simp] theorem Block.mapWarps_uid (b : Block) (g : Warp → Warp) : (b.mapWarps g).uid = b.uid := rfl
@[simp] theorem Block.setCap_part (b : Block) (n : Nat) (c : Cap) : (b.setCap n c).part = b.part := rfl
@[simp] theorem Block.mapWarps_part (b : Block) (g : Warp → Warp) : (b.mapWarps g).part = b.part := rfl
@[simp] theorem Block.setCap_job (b : Block) (n : Nat) (c : Cap) : (b.setCap n c).job = b.job := rfl
@[simp] theorem Block.mapWarps_job (b : Block) (g : Warp → Warp) : (b.mapWarps g).job = b.job := rfl
@[simp] theorem Block.setCap_load (b : Block) (n : Nat) (c : Cap) : (b.setCap n c).load = b.load := rfl
@[simp] theorem Block.mapWarps_load (b : Block) (g : Warp → Warp) : (b.mapWarps g).load = b.load := rfl
@[simp] theorem Block.setCap_code (b : Block) (n : Nat) (c : Cap) : (b.setCap n c).code = b.code := rfl
@[simp] theorem Block.mapWarps_code (b : Block) (g : Warp → Warp) : (b.mapWarps g).code = b.code := rfl
@[simp] theorem Block.setCap_image (b : Block) (n : Nat) (c : Cap) : (b.setCap n c).image = b.image := rfl
@[simp] theorem Block.mapWarps_image (b : Block) (g : Warp → Warp) : (b.mapWarps g).image = b.image := rfl
@[simp] theorem Block.setCap_depth (b : Block) (n : Nat) (c : Cap) : (b.setCap n c).depth = b.depth := rfl
@[simp] theorem Block.mapWarps_depth (b : Block) (g : Warp → Warp) : (b.mapWarps g).depth = b.depth := rfl
@[simp] theorem Block.setCap_gdim (b : Block) (n : Nat) (c : Cap) : (b.setCap n c).gdim = b.gdim := rfl
@[simp] theorem Block.mapWarps_gdim (b : Block) (g : Warp → Warp) : (b.mapWarps g).gdim = b.gdim := rfl
@[simp] theorem Block.mapWarps_caps (b : Block) (g : Warp → Warp) : (b.mapWarps g).caps = b.caps := rfl
@[simp] theorem Block.setCap_shared (b : Block) (n : Nat) (c : Cap) : (b.setCap n c).shared = b.shared := rfl
@[simp] theorem Block.mapWarps_shared (b : Block) (g : Warp → Warp) : (b.mapWarps g).shared = b.shared := rfl
@[simp] theorem Block.setCap_absent (b : Block) (n : Nat) (c : Cap) : (b.setCap n c).absent = b.absent := rfl
@[simp] theorem Block.mapWarps_absent (b : Block) (g : Warp → Warp) : (b.mapWarps g).absent = b.absent := rfl
@[simp] theorem Block.setCap_warps (b : Block) (n : Nat) (c : Cap) : (b.setCap n c).warps = b.warps := rfl
@[simp] theorem Block.setCap_retired (b : Block) (n : Nat) (c : Cap) : (b.setCap n c).retired = b.retired := rfl
@[simp] theorem Block.mapWarps_retired (b : Block) (g : Warp → Warp) : (b.mapWarps g).retired = b.retired := rfl
@[simp] theorem Block.setCap_kids (b : Block) (n : Nat) (c : Cap) : (b.setCap n c).kids = b.kids := rfl
@[simp] theorem Block.mapWarps_kids (b : Block) (g : Warp → Warp) : (b.mapWarps g).kids = b.kids := rfl
@[simp] theorem Block.setCap_grids (b : Block) (n : Nat) (c : Cap) : (b.setCap n c).grids = b.grids := rfl
@[simp] theorem Block.mapWarps_grids (b : Block) (g : Warp → Warp) : (b.mapWarps g).grids = b.grids := rfl
@[simp] theorem Block.setCap_mark (b : Block) (n : Nat) (c : Cap) : (b.setCap n c).mark = b.mark := rfl
@[simp] theorem Block.mapWarps_mark (b : Block) (g : Warp → Warp) : (b.mapWarps g).mark = b.mark := rfl
@[simp] theorem Block.setCap_quanta (b : Block) (n : Nat) (c : Cap) : (b.setCap n c).quanta = b.quanta := rfl
@[simp] theorem Block.mapWarps_quanta (b : Block) (g : Warp → Warp) : (b.mapWarps g).quanta = b.quanta := rfl
@[simp] theorem Block.setCap_sticky (b : Block) (n : Nat) (c : Cap) : (b.setCap n c).sticky = b.sticky := rfl
@[simp] theorem Block.mapWarps_sticky (b : Block) (g : Warp → Warp) : (b.mapWarps g).sticky = b.sticky := rfl
@[simp] theorem Block.setCap_done (b : Block) (n : Nat) (c : Cap) : (b.setCap n c).done = b.done := rfl
@[simp] theorem Block.mapWarps_done (b : Block) (g : Warp → Warp) : (b.mapWarps g).done = b.done := rfl
@[simp] theorem Block.setCap_stop (b : Block) (n : Nat) (c : Cap) : (b.setCap n c).stop = b.stop := rfl
@[simp] theorem Block.mapWarps_stop (b : Block) (g : Warp → Warp) : (b.mapWarps g).stop = b.stop := rfl
@[simp] theorem Block.setCap_mx (b : Block) (n : Nat) (c : Cap) : (b.setCap n c).mx = b.mx := rfl
@[simp] theorem Block.mapWarps_mx (b : Block) (g : Warp → Warp) : (b.mapWarps g).mx = b.mx := rfl
@[simp] theorem Thread.issued_obj (t : Thread) (clock : Nat) (pc : BitVec 32) : (t.issued clock pc).obj = t.obj := rfl
@[simp] theorem Thread.issued_ended (t : Thread) (clock : Nat) (pc : BitVec 32) : (t.issued clock pc).ended = t.ended := rfl
@[simp] theorem Thread.issued_wait (t : Thread) (clock : Nat) (pc : BitVec 32) : (t.issued clock pc).wait = t.wait := rfl
@[simp] theorem Thread.issued_inH (t : Thread) (clock : Nat) (pc : BitVec 32) : (t.issued clock pc).inH = t.inH := rfl
@[simp] theorem Thread.issued_ret (t : Thread) (clock : Nat) (pc : BitVec 32) : (t.issued clock pc).ret = t.ret := rfl
@[simp] theorem Thread.issued_rstack (t : Thread) (clock : Nat) (pc : BitVec 32) : (t.issued clock pc).rstack = t.rstack := rfl
@[simp] theorem Thread.issued_cychi (t : Thread) (clock : Nat) (pc : BitVec 32) : (t.issued clock pc).cychi = t.cychi := rfl
@[simp] theorem Thread.issued_item (t : Thread) (clock : Nat) (pc : BitVec 32) : (t.issued clock pc).item = t.item := rfl
@[simp] theorem Thread.issued_acq (t : Thread) (clock : Nat) (pc : BitVec 32) : (t.issued clock pc).acq = t.acq := rfl
@[simp] theorem Thread.issued_pc (t : Thread) (clock : Nat) (pc : BitVec 32) : (t.issued clock pc).pc = pc + 1 := rfl
@[simp] theorem Thread.issued_done (t : Thread) (clock : Nat) (pc : BitVec 32) : (t.issued clock pc).done = (t.done && t.inH) := rfl
@[simp] theorem Thread.issued_stamp (t : Thread) (clock : Nat) (pc : BitVec 32) : (t.issued clock pc).stamp = clock := rfl

/-! ### Accessors after an update -/

@[simp] theorem State.core_setCore_same (s : State) (c : Nat) (k : Core) : (s.setCore c k).core c = k := by
  simp [State.core, State.setCore]

theorem State.core_setCore_other (s : State) (c c' : Nat) (k : Core) (h : c' ≠ c) : (s.setCore c k).core c' = s.core c' := by
  simp [State.core, State.setCore, smGetD_smSet_other _ _ _ _ _ h]

@[simp] theorem State.core_modCore_same (s : State) (c : Nat) (g : Core → Core) : (s.modCore c g).core c = g (s.core c) := by
  simp [State.modCore]

theorem State.core_modCore_other (s : State) (c c' : Nat) (g : Core → Core) (h : c' ≠ c) : (s.modCore c g).core c' = s.core c' :=
  State.core_setCore_other s c c' _ h

/-- A block that has been replaced. -/
@[simp] theorem State.block?_setBlock_same (s : State) (c q : Nat) (b : Block) : (s.setBlock c q b).block? c q = some b := by
  simp [State.block?, State.setBlock, smGet_smSet_same]

/-- A block of another core or another sequencer. -/
theorem State.block?_setBlock_other (s : State) (c q c' q' : Nat) (b : Block) (h : c' ≠ c ∨ q' ≠ q) :
    (s.setBlock c q b).block? c' q' = s.block? c' q' := by
  unfold State.block? State.setBlock
  by_cases hc : c' = c
  · subst hc
    have hq : q' ≠ q := h.resolve_left (by simp)
    simp [smGet_smSet_other _ _ _ _ hq]
  · rw [State.core_modCore_other _ _ _ _ hc]

theorem State.block_modBlock_same (s : State) (c q : Nat) (g : Block → Block) (b : Block) (h : s.block? c q = some b) :
    (s.modBlock c q g).block c q = g b := by
  unfold State.modBlock; rw [h]; simp [State.block]

theorem State.block_modBlock_other (s : State) (c q c' q' : Nat) (g : Block → Block) (h : c' ≠ c ∨ q' ≠ q) :
    (s.modBlock c q g).block c' q' = s.block c' q' := by
  unfold State.modBlock
  split
  · simp [State.block, State.block?_setBlock_other s c q c' q' _ h]
  · rfl

/-- A warp of a resident block after a change. -/
theorem State.warp_modWarp_same (s : State) (r : WRef) (g : Warp → Warp) (b : Block) (h : s.block? r.core r.seq = some b) :
    (s.modWarp r g).warp r = g (s.warp r) := by
  have h1 : s.block r.core r.seq = b := by simp [State.block, h]
  unfold State.warp State.modWarp
  rw [State.block_modBlock_same s r.core r.seq _ b h, h1]
  simp

/-- Another warp. -/
theorem State.warp_modWarp_other (s : State) (r r' : WRef) (g : Warp → Warp) (h : r' ≠ r) :
    (s.modWarp r g).warp r' = s.warp r' := by
  unfold State.warp State.modWarp
  by_cases hb : r'.core = r.core ∧ r'.seq = r.seq
  · have hw : r'.warp ≠ r.warp := by
      intro hw; apply h; cases r; cases r'; simp_all
    obtain ⟨h1, h2⟩ := hb
    rw [h1, h2]
    cases hq : s.block? r.core r.seq with
    | none => simp [State.modBlock, hq]
    | some b =>
      rw [State.block_modBlock_same s _ _ _ b hq]
      have : s.block r.core r.seq = b := by simp [State.block, hq]
      rw [this]
      exact smGetD_smSet_other _ _ _ _ _ hw
  · rw [State.block_modBlock_other]
    by_cases hc : r'.core = r.core
    · exact .inr fun hq => hb ⟨hc, hq⟩
    · exact .inl hc

/-- The object that has been changed. -/
theorem State.obj?_modObj_same (s : State) (o : BitVec 24) (g : Obj → Obj) (x : Obj) (h : s.obj? o = some x) :
    (s.modObj o g).obj? o = some (g x) := by
  unfold State.modObj; rw [h]; simp [State.obj?, smGet_smSet_same]

/-- Another object. -/
theorem State.obj?_modObj_other (s : State) (o o' : BitVec 24) (g : Obj → Obj) (h : o' ≠ o) : (s.modObj o g).obj? o' = s.obj? o' := by
  unfold State.modObj
  split
  · have : o'.toNat ≠ o.toNat := fun h1 => h (BitVec.eq_of_toNat_eq h1)
    simp [State.obj?, smGet_smSet_other _ _ _ _ this]
  · rfl

end Sys2Proof.Machine
end

