-- ==== Sys2Proof/Laws/Issue.lean ====
section
/-!
SUPPORT. What the wrapper of every thread instruction can do: the instruction runs with its body's effect, it has no active lane, or it traps
with no effect; and what the bookkeeping of an issue leaves alone.
-/
set_option autoImplicit false

namespace Sys2Proof.Machine

/-! ### Folds over members keep what each change keeps -/

/-- A fold keeps what its step keeps. -/
theorem foldl_keeps {α β γ : Type} (g : β → γ) (f : β → α → β) (h : ∀ b a, g (f b a) = g b) (l : List α) (b : β) :
    g (l.foldl f b) = g b := by
  induction l generalizing b with
  | nil => rfl
  | cons a r ih => rw [List.foldl_cons, ih, h]

/-- A change of warps keeps every part of the state but the cores. -/
theorem modMembers_keeps {γ : Type} (g : State → γ) (h : ∀ s w f, g (State.modWarp s w f) = g s) (s : State) (ms : List Member)
    (f : Member → Warp → Warp) : g (s.modMembers ms f) = g s :=
  foldl_keeps g (fun s (m : Member) => s.modWarp m.w (f m)) (fun b m => h b m.w (f m)) ms s

@[simp] theorem modMembers_cur (s : State) (ms : List Member) (f : Member → Warp → Warp) : (s.modMembers ms f).cur = s.cur :=
  modMembers_keeps State.cur (fun _ _ _ => by simp) s ms f

@[simp] theorem modMembers_clock (s : State) (ms : List Member) (f : Member → Warp → Warp) : (s.modMembers ms f).clock = s.clock :=
  modMembers_keeps State.clock (fun _ _ _ => by simp) s ms f

@[simp] theorem modMembers_free (s : State) (ms : List Member) (f : Member → Warp → Warp) : (s.modMembers ms f).free = s.free :=
  modMembers_keeps State.free (fun _ _ _ => by simp) s ms f

@[simp] theorem modMembers_nextId (s : State) (ms : List Member) (f : Member → Warp → Warp) : (s.modMembers ms f).nextId = s.nextId :=
  modMembers_keeps State.nextId (fun _ _ _ => by simp) s ms f

@[simp] theorem modMembers_ops (s : State) (ms : List Member) (f : Member → Warp → Warp) : (s.modMembers ms f).ops = s.ops :=
  modMembers_keeps State.ops (fun _ _ _ => by simp) s ms f

@[simp] theorem modMembers_objs (s : State) (ms : List Member) (f : Member → Warp → Warp) : (s.modMembers ms f).objs = s.objs :=
  modMembers_keeps State.objs (fun _ _ _ => by simp) s ms f

@[simp] theorem advance_cur (s : State) : s.advance.cur = s.cur := by simp [State.advance]
@[simp] theorem advance_objs (s : State) : s.advance.objs = s.objs := by simp [State.advance]
@[simp] theorem advance_ops (s : State) : s.advance.ops = s.ops := by simp [State.advance]
@[simp] theorem advance_nextId (s : State) : s.advance.nextId = s.nextId := by simp [State.advance]
@[simp] theorem advance_free (s : State) : s.advance.free = s.free := by simp [State.advance]
@[simp] theorem advance_clock (s : State) : s.advance.clock = s.clock + 1 := by simp [State.advance]

/-! ### The wrapper -/

variable {c : Ctl} {u : Uses} {body : Mask → State → Chk State} {s t : State} {tr : TrapReq}

/-- The checks pass, a lane is active and the body answers a state: the instruction has that effect, and the hints follow. -/
theorem issue_runs (hc : s.issueChk u (s.active c) = .ok ()) (ha : s.active c ≠ 0) (hb : body (s.active c) s.advance = .ok t) :
    issue c u body s = .next (hints c u (s.active c) s t) := by
  simp only [issue, hc, hb, beq_eq_false_iff_ne.2 ha, if_neg Bool.false_ne_true]

/-- No lane is active: the instruction issues and has no effect of its own (R54). -/
theorem issue_idle (hc : s.issueChk u (s.active c) = .ok ()) (ha : s.active c = 0) :
    issue c u body s = .next (hints c u (s.active c) s s.advance) := by
  simp only [issue, hc]
  simp [ha]

/-- A check of the issue fails (R57, R62, R68). -/
theorem issue_refused (hc : s.issueChk u (s.active c) = .error tr) : issue c u body s = .next (raiseTrap tr s) := by
  simp [issue, hc]

/-- A check of the instruction's own fails: the trap is raised in the state before the instruction (R7). -/
theorem issue_traps (hc : s.issueChk u (s.active c) = .ok ()) (ha : s.active c ≠ 0) (hb : body (s.active c) s.advance = .error tr) :
    issue c u body s = .next (raiseTrap tr s) := by
  simp only [issue, hc, hb, beq_eq_false_iff_ne.2 ha, if_neg Bool.false_ne_true]

/-- All that the wrapper can do. -/
theorem issue_cases (h : issue c u body s = .next t) :
    (∃ x, s.issueChk u (s.active c) = .error x ∧ t = raiseTrap x s) ∨
    (s.issueChk u (s.active c) = .ok () ∧ s.active c = 0 ∧ t = hints c u (s.active c) s s.advance) ∨
    (∃ x, s.issueChk u (s.active c) = .ok () ∧ s.active c ≠ 0 ∧ body (s.active c) s.advance = .error x ∧ t = raiseTrap x s) ∨
    (∃ x, s.issueChk u (s.active c) = .ok () ∧ s.active c ≠ 0 ∧ body (s.active c) s.advance = .ok x ∧
      t = hints c u (s.active c) s x) := by
  unfold issue at h
  simp only [Host.Outcome.next.injEq] at h
  subst h
  cases hc : s.issueChk u (s.active c) with
  | error x => exact .inl ⟨x, rfl, by simp⟩
  | ok _ =>
    by_cases ha : s.active c = 0
    · exact .inr (.inl ⟨rfl, ha, by simp [ha]⟩)
    · have hz : (s.active c == 0) = false := beq_eq_false_iff_ne.2 ha
      cases hb : body (s.active c) s.advance with
      | error x => exact .inr (.inr (.inl ⟨x, rfl, ha, rfl, by simp only [hz, if_neg Bool.false_ne_true]⟩))
      | ok x => exact .inr (.inr (.inr ⟨x, rfl, ha, rfl, by simp only [hz, if_neg Bool.false_ne_true]⟩))

/-- Off the uniform sequencers a thread instruction is its wrapper alone. -/
theorem issueT_issue (hu : ∀ q, s.cur.unit ≠ .stream q) : issueT c u body s = issue c u body s := by
  unfold issueT
  split
  · exact absurd ‹_› (hu _)
  · rfl

theorem issueT_runs (hu : ∀ q, s.cur.unit ≠ .stream q) (hc : s.issueChk u (s.active c) = .ok ()) (ha : s.active c ≠ 0)
    (hb : body (s.active c) s.advance = .ok t) : issueT c u body s = .next (hints c u (s.active c) s t) := by
  rw [issueT_issue hu, issue_runs hc ha hb]

theorem issueT_traps (hu : ∀ q, s.cur.unit ≠ .stream q) (hc : s.issueChk u (s.active c) = .ok ()) (ha : s.active c ≠ 0)
    (hb : body (s.active c) s.advance = .error tr) : issueT c u body s = .next (raiseTrap tr s) := by
  rw [issueT_issue hu, issue_traps hc ha hb]

/-- A vector instruction whose shape and own checks pass writes D. -/
theorem alu_runs {sh : ShpRule} {aff : State → Member → Word × Word} {chk : Mask → State → Chk Unit} {f : State → Nat → BitVec 64} {d : Fld}
    (hu : ∀ q, s.cur.unit ≠ .stream q) (hc : s.issueChk u (s.active c) = .ok ()) (ha : s.active c ≠ 0)
    (hs : s.advance.shapeChk u (s.active c) (sh s.advance) = .ok ()) (hk : chk (s.active c) s.advance = .ok ()) (hd : u.d = some d) :
    alu c u sh aff chk f s = .next (hints c u (s.active c) s (s.advance.putD c d (s.active c) (f s.advance) (aff s.advance))) := by
  refine issueT_runs hu hc ha ?_
  simp [hs, hk, hd, bind, Except.bind]

/-- A cross-lane instruction whose checks pass writes D. -/
theorem cross_runs {sh : ShpRule} {aff : State → Member → Word × Word} {chk : Mask → State → Chk Unit} {f : State → Mask → Nat → BitVec 64}
    {d : Fld} (hu : ∀ q, s.cur.unit ≠ .stream q) (hc : s.issueChk u (s.active c) = .ok ()) (ha : s.active c ≠ 0)
    (hs : s.advance.shapeChk u (s.active c) (sh s.advance) = .ok ()) (hk : chk (s.active c) s.advance = .ok ()) (hd : u.d = some d) :
    cross c u sh aff chk f s = .next (hints c u (s.active c) s
      (s.advance.putD c d (s.active c) (fun l => f s.advance (s.advance.mates (s.active c) l) l) (aff s.advance))) := by
  refine issueT_runs hu hc ha ?_
  simp [hs, hk, hd, bind, Except.bind]

end Sys2Proof.Machine
end

