-- ==== Sys2Proof/Laws/Dispatch.lean ====
section
/-!
SUPPORT. Off the uniform sequencers every thread instruction is the one wrapper over a body of its own: its checks, its guard and its hints are
those of `issue`.
-/
set_option autoImplicit false

namespace Sys2Proof.Machine

/-- The instruction is the wrapper over some body. -/
def Issues (i : Instr) (s : State) : Prop := ∃ body, exec i s = issue (ctlOf i) (usesOf i) body s

theorem execNop_issue (c : Ctl) (m : Mods) (s : State) (hu : ∀ q, s.cur.unit ≠ .stream q) : Issues (.nop c m) s := by
  show ∃ body, execNop c m s = _
  unfold execNop
  split
  · exact absurd ‹_› (hu _)
  · exact ⟨_, rfl⟩
theorem execBra_issue (c : Ctl) (off : BitVec 32) (s : State) (hu : ∀ q, s.cur.unit ≠ .stream q) : Issues (.bra c off) s := by
  show ∃ body, execBra c off s = _
  unfold execBra
  split
  · exact absurd ‹_› (hu _)
  · exact ⟨_, rfl⟩
theorem execBrx_issue (c : Ctl) (o : OpsV) (s : State) (hu : ∀ q, s.cur.unit ≠ .stream q) : Issues (.brx c o) s := ⟨_, issueT_issue hu⟩
theorem execBrany_issue (c : Ctl) (p : BitVec 4) (off : BitVec 32) (s : State) (hu : ∀ q, s.cur.unit ≠ .stream q) : Issues (.brany c p off) s := ⟨_, issueT_issue hu⟩
theorem execBrall_issue (c : Ctl) (p : BitVec 4) (off : BitVec 32) (s : State) (hu : ∀ q, s.cur.unit ≠ .stream q) : Issues (.brall c p off) s := ⟨_, issueT_issue hu⟩
theorem execCall_issue (c : Ctl) (off : BitVec 32) (s : State) (hu : ∀ q, s.cur.unit ≠ .stream q) : Issues (.call c off) s := ⟨_, issueT_issue hu⟩
theorem execCallx_issue (c : Ctl) (o : OpsV) (s : State) (hu : ∀ q, s.cur.unit ≠ .stream q) : Issues (.callx c o) s := ⟨_, issueT_issue hu⟩
theorem execRet_issue (c : Ctl) (m : Mods) (s : State) (hu : ∀ q, s.cur.unit ≠ .stream q) : Issues (.ret c m) s := ⟨_, issueT_issue hu⟩
theorem execExit_issue (c : Ctl) (m : Mods) (s : State) (hu : ∀ q, s.cur.unit ≠ .stream q) : Issues (.exit c m) s := by
  show ∃ body, execExit c m s = _
  unfold execExit
  split
  · exact absurd ‹_› (hu _)
  · exact ⟨_, rfl⟩
theorem execYield_issue (c : Ctl) (m : Mods) (s : State) (hu : ∀ q, s.cur.unit ≠ .stream q) : Issues (.yield c m) s := ⟨_, issueT_issue hu⟩
theorem execClen_issue (c : Ctl) (k : BitVec 4) (s : State) (hu : ∀ q, s.cur.unit ≠ .stream q) : Issues (.clen c k) s := ⟨_, issueT_issue hu⟩
theorem execClwait_issue (c : Ctl) (k : BitVec 4) (s : State) (hu : ∀ q, s.cur.unit ≠ .stream q) : Issues (.clwait c k) s := ⟨_, issueT_issue hu⟩
theorem execCldrop_issue (c : Ctl) (k : BitVec 4) (s : State) (hu : ∀ q, s.cur.unit ≠ .stream q) : Issues (.cldrop c k) s := ⟨_, issueT_issue hu⟩
theorem execClget_issue (c : Ctl) (d : VReg) (k : BitVec 4) (m : Mods) (s : State) (hu : ∀ q, s.cur.unit ≠ .stream q) : Issues (.clget c d k m) s := ⟨_, issueT_issue hu⟩
theorem execClset_issue (c : Ctl) (k : BitVec 4) (a : VReg) (m : Mods) (s : State) (hu : ∀ q, s.cur.unit ≠ .stream q) : Issues (.clset c k a m) s := ⟨_, issueT_issue hu⟩
theorem execIpref_issue (c : Ctl) (off : BitVec 32) (s : State) (hu : ∀ q, s.cur.unit ≠ .stream q) : Issues (.ipref c off) s := ⟨_, issueT_issue hu⟩
theorem execLoop_issue (c : Ctl) (d : VReg) (off : BitVec 32) (s : State) (hu : ∀ q, s.cur.unit ≠ .stream q) : Issues (.loop c d off) s := by
  show ∃ body, execLoop c d off s = _
  unfold execLoop
  split
  · exact absurd ‹_› (hu _)
  · exact ⟨_, rfl⟩
theorem execIadd_issue (c : Ctl) (o : OpsV) (s : State) (hu : ∀ q, s.cur.unit ≠ .stream q) : Issues (.iadd c o) s := by
  show ∃ body, execIadd c o s = _
  unfold execIadd sumLike
  split
  · exact absurd ‹_› (hu _)
  · exact ⟨_, issueT_issue hu⟩
theorem execIsub_issue (c : Ctl) (o : OpsV) (s : State) (hu : ∀ q, s.cur.unit ≠ .stream q) : Issues (.isub c o) s := ⟨_, issueT_issue hu⟩
theorem execIaddc_issue (c : Ctl) (o : OpsV) (s : State) (hu : ∀ q, s.cur.unit ≠ .stream q) : Issues (.iaddc c o) s := ⟨_, issueT_issue hu⟩
theorem execIsubb_issue (c : Ctl) (o : OpsV) (s : State) (hu : ∀ q, s.cur.unit ≠ .stream q) : Issues (.isubb c o) s := ⟨_, issueT_issue hu⟩
theorem execImul_issue (c : Ctl) (o : OpsV) (s : State) (hu : ∀ q, s.cur.unit ≠ .stream q) : Issues (.imul c o) s := ⟨_, issueT_issue hu⟩
theorem execImulh_issue (c : Ctl) (o : OpsV) (s : State) (hu : ∀ q, s.cur.unit ≠ .stream q) : Issues (.imulh c o) s := ⟨_, issueT_issue hu⟩
theorem execImad_issue (c : Ctl) (o : OpsV) (s : State) (hu : ∀ q, s.cur.unit ≠ .stream q) : Issues (.imad c o) s := ⟨_, issueT_issue hu⟩
theorem execIdiv_issue (c : Ctl) (o : OpsV) (s : State) (hu : ∀ q, s.cur.unit ≠ .stream q) : Issues (.idiv c o) s := ⟨_, issueT_issue hu⟩
theorem execIrem_issue (c : Ctl) (o : OpsV) (s : State) (hu : ∀ q, s.cur.unit ≠ .stream q) : Issues (.irem c o) s := ⟨_, issueT_issue hu⟩
theorem execIabs_issue (c : Ctl) (o : OpsV) (s : State) (hu : ∀ q, s.cur.unit ≠ .stream q) : Issues (.iabs c o) s := ⟨_, issueT_issue hu⟩
theorem execIneg_issue (c : Ctl) (o : OpsV) (s : State) (hu : ∀ q, s.cur.unit ≠ .stream q) : Issues (.ineg c o) s := ⟨_, issueT_issue hu⟩
theorem execImin_issue (c : Ctl) (o : OpsV) (s : State) (hu : ∀ q, s.cur.unit ≠ .stream q) : Issues (.imin c o) s := ⟨_, issueT_issue hu⟩
theorem execImax_issue (c : Ctl) (o : OpsV) (s : State) (hu : ∀ q, s.cur.unit ≠ .stream q) : Issues (.imax c o) s := ⟨_, issueT_issue hu⟩
theorem execAnd_issue (c : Ctl) (o : OpsV) (s : State) (hu : ∀ q, s.cur.unit ≠ .stream q) : Issues (.and c o) s := ⟨_, issueT_issue hu⟩
theorem execOr_issue (c : Ctl) (o : OpsV) (s : State) (hu : ∀ q, s.cur.unit ≠ .stream q) : Issues (.or c o) s := ⟨_, issueT_issue hu⟩
theorem execXor_issue (c : Ctl) (o : OpsV) (s : State) (hu : ∀ q, s.cur.unit ≠ .stream q) : Issues (.xor c o) s := ⟨_, issueT_issue hu⟩
theorem execAndn_issue (c : Ctl) (o : OpsV) (s : State) (hu : ∀ q, s.cur.unit ≠ .stream q) : Issues (.andn c o) s := ⟨_, issueT_issue hu⟩
theorem execNot_issue (c : Ctl) (o : OpsV) (s : State) (hu : ∀ q, s.cur.unit ≠ .stream q) : Issues (.not c o) s := ⟨_, issueT_issue hu⟩
theorem execShl_issue (c : Ctl) (o : OpsV) (s : State) (hu : ∀ q, s.cur.unit ≠ .stream q) : Issues (.shl c o) s := ⟨_, issueT_issue hu⟩
theorem execShr_issue (c : Ctl) (o : OpsV) (s : State) (hu : ∀ q, s.cur.unit ≠ .stream q) : Issues (.shr c o) s := ⟨_, issueT_issue hu⟩
theorem execSar_issue (c : Ctl) (o : OpsV) (s : State) (hu : ∀ q, s.cur.unit ≠ .stream q) : Issues (.sar c o) s := ⟨_, issueT_issue hu⟩
theorem execRol_issue (c : Ctl) (o : OpsV) (s : State) (hu : ∀ q, s.cur.unit ≠ .stream q) : Issues (.rol c o) s := ⟨_, issueT_issue hu⟩
theorem execPopc_issue (c : Ctl) (o : OpsV) (s : State) (hu : ∀ q, s.cur.unit ≠ .stream q) : Issues (.popc c o) s := ⟨_, issueT_issue hu⟩
theorem execClz_issue (c : Ctl) (o : OpsV) (s : State) (hu : ∀ q, s.cur.unit ≠ .stream q) : Issues (.clz c o) s := ⟨_, issueT_issue hu⟩
theorem execCtz_issue (c : Ctl) (o : OpsV) (s : State) (hu : ∀ q, s.cur.unit ≠ .stream q) : Issues (.ctz c o) s := ⟨_, issueT_issue hu⟩
theorem execBrev_issue (c : Ctl) (o : OpsV) (s : State) (hu : ∀ q, s.cur.unit ≠ .stream q) : Issues (.brev c o) s := ⟨_, issueT_issue hu⟩
theorem execBfx_issue (c : Ctl) (o : OpsV) (s : State) (hu : ∀ q, s.cur.unit ≠ .stream q) : Issues (.bfx c o) s := ⟨_, issueT_issue hu⟩
theorem execBfi_issue (c : Ctl) (o : OpsV) (s : State) (hu : ∀ q, s.cur.unit ≠ .stream q) : Issues (.bfi c o) s := ⟨_, issueT_issue hu⟩
theorem execBperm_issue (c : Ctl) (o : OpsV) (s : State) (hu : ∀ q, s.cur.unit ≠ .stream q) : Issues (.bperm c o) s := ⟨_, issueT_issue hu⟩
theorem execIsad_issue (c : Ctl) (o : OpsV) (s : State) (hu : ∀ q, s.cur.unit ≠ .stream q) : Issues (.isad c o) s := ⟨_, issueT_issue hu⟩
theorem execIadds_issue (c : Ctl) (o : OpsV) (s : State) (hu : ∀ q, s.cur.unit ≠ .stream q) : Issues (.iadds c o) s := ⟨_, issueT_issue hu⟩
theorem execImadw_issue (c : Ctl) (o : OpsV) (s : State) (hu : ∀ q, s.cur.unit ≠ .stream q) : Issues (.imadw c o) s := ⟨_, issueT_issue hu⟩
theorem execMov_issue (c : Ctl) (o : OpsV) (s : State) (hu : ∀ q, s.cur.unit ≠ .stream q) : Issues (.mov c o) s := ⟨_, issueT_issue hu⟩
theorem execMovi_issue (c : Ctl) (d : VReg) (imm : BitVec 32) (s : State) (hu : ∀ q, s.cur.unit ≠ .stream q) : Issues (.movi c d imm) s := by
  show ∃ body, execMovi c d imm s = _
  unfold execMovi
  split
  · exact absurd ‹_› (hu _)
  · exact ⟨_, issueT_issue hu⟩
theorem execMovx_issue (c : Ctl) (o : OpsV) (s : State) (hu : ∀ q, s.cur.unit ≠ .stream q) : Issues (.movx c o) s := ⟨_, issueT_issue hu⟩
theorem execMovxw_issue (c : Ctl) (o : OpsV) (s : State) (hu : ∀ q, s.cur.unit ≠ .stream q) : Issues (.movxw c o) s := ⟨_, issueT_issue hu⟩
theorem execSel_issue (c : Ctl) (o : OpsV) (s : State) (hu : ∀ q, s.cur.unit ≠ .stream q) : Issues (.sel c o) s := ⟨_, issueT_issue hu⟩
theorem execIcmp_issue (c : Ctl) (o : OpsPC) (s : State) (hu : ∀ q, s.cur.unit ≠ .stream q) : Issues (.icmp c o) s := ⟨_, issueT_issue hu⟩
theorem execPand_issue (c : Ctl) (o : OpsPP) (s : State) (hu : ∀ q, s.cur.unit ≠ .stream q) : Issues (.pand c o) s := ⟨_, issueT_issue hu⟩
theorem execPor_issue (c : Ctl) (o : OpsPP) (s : State) (hu : ∀ q, s.cur.unit ≠ .stream q) : Issues (.por c o) s := ⟨_, issueT_issue hu⟩
theorem execPxor_issue (c : Ctl) (o : OpsPP) (s : State) (hu : ∀ q, s.cur.unit ≠ .stream q) : Issues (.pxor c o) s := ⟨_, issueT_issue hu⟩
theorem execPnot_issue (c : Ctl) (o : OpsPP) (s : State) (hu : ∀ q, s.cur.unit ≠ .stream q) : Issues (.pnot c o) s := ⟨_, issueT_issue hu⟩
theorem execPmov_issue (c : Ctl) (o : OpsPP) (s : State) (hu : ∀ q, s.cur.unit ≠ .stream q) : Issues (.pmov c o) s := ⟨_, issueT_issue hu⟩
theorem execVote_issue (c : Ctl) (o : OpsPP) (s : State) (hu : ∀ q, s.cur.unit ≠ .stream q) : Issues (.vote c o) s := ⟨_, issueT_issue hu⟩
theorem execBallot_issue (c : Ctl) (o : OpsV) (s : State) (hu : ∀ q, s.cur.unit ≠ .stream q) : Issues (.ballot c o) s := ⟨_, issueT_issue hu⟩
theorem execShfl_issue (c : Ctl) (o : OpsV) (s : State) (hu : ∀ q, s.cur.unit ≠ .stream q) : Issues (.shfl c o) s := ⟨_, issueT_issue hu⟩
theorem execBcast_issue (c : Ctl) (o : OpsV) (s : State) (hu : ∀ q, s.cur.unit ≠ .stream q) : Issues (.bcast c o) s := ⟨_, issueT_issue hu⟩
theorem execAffine_issue (c : Ctl) (o : OpsV) (s : State) (hu : ∀ q, s.cur.unit ≠ .stream q) : Issues (.affine c o) s := ⟨_, issueT_issue hu⟩
theorem execLaneix_issue (c : Ctl) (o : OpsV) (s : State) (hu : ∀ q, s.cur.unit ≠ .stream q) : Issues (.laneix c o) s := ⟨_, issueT_issue hu⟩
theorem execScan_issue (c : Ctl) (o : OpsV) (s : State) (hu : ∀ q, s.cur.unit ≠ .stream q) : Issues (.scan c o) s := ⟨_, issueT_issue hu⟩
theorem execRed_issue (c : Ctl) (o : OpsV) (s : State) (hu : ∀ q, s.cur.unit ≠ .stream q) : Issues (.red c o) s := ⟨_, issueT_issue hu⟩
theorem execFadd_issue (c : Ctl) (o : OpsV) (s : State) (hu : ∀ q, s.cur.unit ≠ .stream q) : Issues (.fadd c o) s := ⟨_, issueT_issue hu⟩
theorem execFsub_issue (c : Ctl) (o : OpsV) (s : State) (hu : ∀ q, s.cur.unit ≠ .stream q) : Issues (.fsub c o) s := ⟨_, issueT_issue hu⟩
theorem execFmul_issue (c : Ctl) (o : OpsV) (s : State) (hu : ∀ q, s.cur.unit ≠ .stream q) : Issues (.fmul c o) s := ⟨_, issueT_issue hu⟩
theorem execFfma_issue (c : Ctl) (o : OpsV) (s : State) (hu : ∀ q, s.cur.unit ≠ .stream q) : Issues (.ffma c o) s := ⟨_, issueT_issue hu⟩
theorem execFmin_issue (c : Ctl) (o : OpsV) (s : State) (hu : ∀ q, s.cur.unit ≠ .stream q) : Issues (.fmin c o) s := ⟨_, issueT_issue hu⟩
theorem execFmax_issue (c : Ctl) (o : OpsV) (s : State) (hu : ∀ q, s.cur.unit ≠ .stream q) : Issues (.fmax c o) s := ⟨_, issueT_issue hu⟩
theorem execFcmp_issue (c : Ctl) (o : OpsPC) (s : State) (hu : ∀ q, s.cur.unit ≠ .stream q) : Issues (.fcmp c o) s := ⟨_, issueT_issue hu⟩
theorem execFclass_issue (c : Ctl) (o : OpsV) (s : State) (hu : ∀ q, s.cur.unit ≠ .stream q) : Issues (.fclass c o) s := ⟨_, issueT_issue hu⟩
theorem execFrcp_issue (c : Ctl) (o : OpsV) (s : State) (hu : ∀ q, s.cur.unit ≠ .stream q) : Issues (.frcp c o) s := ⟨_, issueT_issue hu⟩
theorem execFrsq_issue (c : Ctl) (o : OpsV) (s : State) (hu : ∀ q, s.cur.unit ≠ .stream q) : Issues (.frsq c o) s := ⟨_, issueT_issue hu⟩
theorem execFex2_issue (c : Ctl) (o : OpsV) (s : State) (hu : ∀ q, s.cur.unit ≠ .stream q) : Issues (.fex2 c o) s := ⟨_, issueT_issue hu⟩
theorem execFlg2_issue (c : Ctl) (o : OpsV) (s : State) (hu : ∀ q, s.cur.unit ≠ .stream q) : Issues (.flg2 c o) s := ⟨_, issueT_issue hu⟩
theorem execFsin_issue (c : Ctl) (o : OpsV) (s : State) (hu : ∀ q, s.cur.unit ≠ .stream q) : Issues (.fsin c o) s := ⟨_, issueT_issue hu⟩
theorem execFcos_issue (c : Ctl) (o : OpsV) (s : State) (hu : ∀ q, s.cur.unit ≠ .stream q) : Issues (.fcos c o) s := ⟨_, issueT_issue hu⟩
theorem execFdot2_issue (c : Ctl) (o : OpsV) (s : State) (hu : ∀ q, s.cur.unit ≠ .stream q) : Issues (.fdot2 c o) s := ⟨_, issueT_issue hu⟩
theorem execFmul2_issue (c : Ctl) (o : OpsV) (s : State) (hu : ∀ q, s.cur.unit ≠ .stream q) : Issues (.fmul2 c o) s := ⟨_, issueT_issue hu⟩
theorem execFfma2_issue (c : Ctl) (o : OpsV) (s : State) (hu : ∀ q, s.cur.unit ≠ .stream q) : Issues (.ffma2 c o) s := ⟨_, issueT_issue hu⟩
theorem execFround_issue (c : Ctl) (o : OpsV) (s : State) (hu : ∀ q, s.cur.unit ≠ .stream q) : Issues (.fround c o) s := ⟨_, issueT_issue hu⟩
theorem execFscalb_issue (c : Ctl) (o : OpsV) (s : State) (hu : ∀ q, s.cur.unit ≠ .stream q) : Issues (.fscalb c o) s := ⟨_, issueT_issue hu⟩
theorem execFsat_issue (c : Ctl) (o : OpsV) (s : State) (hu : ∀ q, s.cur.unit ≠ .stream q) : Issues (.fsat c o) s := ⟨_, issueT_issue hu⟩
theorem execCvt_issue (c : Ctl) (o : OpsV) (s : State) (hu : ∀ q, s.cur.unit ≠ .stream q) : Issues (.cvt c o) s := ⟨_, issueT_issue hu⟩
theorem execCvti_issue (c : Ctl) (o : OpsV) (s : State) (hu : ∀ q, s.cur.unit ≠ .stream q) : Issues (.cvti c o) s := ⟨_, issueT_issue hu⟩
theorem execCvtf_issue (c : Ctl) (o : OpsV) (s : State) (hu : ∀ q, s.cur.unit ≠ .stream q) : Issues (.cvtf c o) s := ⟨_, issueT_issue hu⟩
theorem execCvtef_issue (c : Ctl) (o : OpsV) (s : State) (hu : ∀ q, s.cur.unit ≠ .stream q) : Issues (.cvtef c o) s := ⟨_, issueT_issue hu⟩
theorem execEfclr_issue (c : Ctl) (e : BitVec 3) (s : State) (hu : ∀ q, s.cur.unit ≠ .stream q) : Issues (.efclr c e) s := ⟨_, issueT_issue hu⟩
theorem execEfmov_issue (c : Ctl) (wr : Bool) (r : VReg) (e : BitVec 3) (s : State) (hu : ∀ q, s.cur.unit ≠ .stream q) : Issues (.efmov c wr r e) s := ⟨_, issueT_issue hu⟩
theorem execPack4_issue (c : Ctl) (o : OpsV) (s : State) (hu : ∀ q, s.cur.unit ≠ .stream q) : Issues (.pack4 c o) s := ⟨_, issueT_issue hu⟩
theorem execPack6_issue (c : Ctl) (o : OpsV) (s : State) (hu : ∀ q, s.cur.unit ≠ .stream q) : Issues (.pack6 c o) s := ⟨_, issueT_issue hu⟩
theorem execPack8_issue (c : Ctl) (o : OpsV) (s : State) (hu : ∀ q, s.cur.unit ≠ .stream q) : Issues (.pack8 c o) s := ⟨_, issueT_issue hu⟩
theorem execUnpk_issue (c : Ctl) (o : OpsV) (s : State) (hu : ∀ q, s.cur.unit ≠ .stream q) : Issues (.unpk c o) s := ⟨_, issueT_issue hu⟩
theorem execBscale_issue (c : Ctl) (o : OpsV) (s : State) (hu : ∀ q, s.cur.unit ≠ .stream q) : Issues (.bscale c o) s := ⟨_, issueT_issue hu⟩
theorem execFlagrd_issue (c : Ctl) (o : OpsV) (s : State) (hu : ∀ q, s.cur.unit ≠ .stream q) : Issues (.flagrd c o) s := ⟨_, issueT_issue hu⟩
theorem execFlagclr_issue (c : Ctl) (m : Mods) (s : State) (hu : ∀ q, s.cur.unit ≠ .stream q) : Issues (.flagclr c m) s := ⟨_, issueT_issue hu⟩
theorem execRmode_issue (c : Ctl) (m : Mods) (s : State) (hu : ∀ q, s.cur.unit ≠ .stream q) : Issues (.rmode c m) s := ⟨_, issueT_issue hu⟩
theorem execLd_issue (c : Ctl) (o : OpsM) (s : State) (hu : ∀ q, s.cur.unit ≠ .stream q) : Issues (.ld c o) s := ⟨_, issueT_issue hu⟩
theorem execSt_issue (c : Ctl) (o : OpsM) (s : State) (hu : ∀ q, s.cur.unit ≠ .stream q) : Issues (.st c o) s := ⟨_, issueT_issue hu⟩
theorem execLdsp_issue (c : Ctl) (o : OpsM) (s : State) (hu : ∀ q, s.cur.unit ≠ .stream q) : Issues (.ldsp c o) s := ⟨_, issueT_issue hu⟩
theorem execStsp_issue (c : Ctl) (o : OpsM) (s : State) (hu : ∀ q, s.cur.unit ≠ .stream q) : Issues (.stsp c o) s := ⟨_, issueT_issue hu⟩
theorem execLdnp_issue (c : Ctl) (o : OpsM) (s : State) (hu : ∀ q, s.cur.unit ≠ .stream q) : Issues (.ldnp c o) s := ⟨_, issueT_issue hu⟩
theorem execLdv_issue (c : Ctl) (o : OpsM) (s : State) (hu : ∀ q, s.cur.unit ≠ .stream q) : Issues (.ldv c o) s := ⟨_, issueT_issue hu⟩
theorem execStv_issue (c : Ctl) (o : OpsM) (s : State) (hu : ∀ q, s.cur.unit ≠ .stream q) : Issues (.stv c o) s := ⟨_, issueT_issue hu⟩
theorem execLdu_issue (c : Ctl) (o : OpsM) (s : State) (hu : ∀ q, s.cur.unit ≠ .stream q) : Issues (.ldu c o) s := ⟨_, issueT_issue hu⟩
theorem execPrtest_issue (c : Ctl) (o : OpsMP) (s : State) (hu : ∀ q, s.cur.unit ≠ .stream q) : Issues (.prtest c o) s := ⟨_, issueT_issue hu⟩
theorem execPrwait_issue (c : Ctl) (o : OpsM) (s : State) (hu : ∀ q, s.cur.unit ≠ .stream q) : Issues (.prwait c o) s := ⟨_, issueT_issue hu⟩
theorem execCpkick_issue (c : Ctl) (o : OpsM) (s : State) (hu : ∀ q, s.cur.unit ≠ .stream q) : Issues (.cpkick c o) s := ⟨_, issueT_issue hu⟩
theorem execCpstat_issue (c : Ctl) (o : OpsV) (s : State) (hu : ∀ q, s.cur.unit ≠ .stream q) : Issues (.cpstat c o) s := ⟨_, issueT_issue hu⟩
theorem execCpcancel_issue (c : Ctl) (o : OpsV) (s : State) (hu : ∀ q, s.cur.unit ≠ .stream q) : Issues (.cpcancel c o) s := ⟨_, issueT_issue hu⟩
theorem execRltest_issue (c : Ctl) (o : OpsMP) (s : State) (hu : ∀ q, s.cur.unit ≠ .stream q) : Issues (.rltest c o) s := ⟨_, issueT_issue hu⟩
theorem execCpin_issue (c : Ctl) (o : OpsM) (s : State) (hu : ∀ q, s.cur.unit ≠ .stream q) : Issues (.cpin c o) s := ⟨_, issueT_issue hu⟩
theorem execCpout_issue (c : Ctl) (o : OpsM) (s : State) (hu : ∀ q, s.cur.unit ≠ .stream q) : Issues (.cpout c o) s := ⟨_, issueT_issue hu⟩
theorem execVld_issue (c : Ctl) (o : OpsM) (s : State) (hu : ∀ q, s.cur.unit ≠ .stream q) : Issues (.vld c o) s := ⟨_, issueT_issue hu⟩
theorem execVst_issue (c : Ctl) (o : OpsM) (s : State) (hu : ∀ q, s.cur.unit ≠ .stream q) : Issues (.vst c o) s := ⟨_, issueT_issue hu⟩
theorem execVadd_issue (c : Ctl) (o : OpsM) (s : State) (hu : ∀ q, s.cur.unit ≠ .stream q) : Issues (.vadd c o) s := ⟨_, issueT_issue hu⟩
theorem execVprobe_issue (c : Ctl) (o : OpsM) (s : State) (hu : ∀ q, s.cur.unit ≠ .stream q) : Issues (.vprobe c o) s := ⟨_, issueT_issue hu⟩
theorem execVnbr_issue (c : Ctl) (o : OpsM) (s : State) (hu : ∀ q, s.cur.unit ≠ .stream q) : Issues (.vnbr c o) s := ⟨_, issueT_issue hu⟩
theorem execVtld_issue (c : Ctl) (o : OpsM) (s : State) (hu : ∀ q, s.cur.unit ≠ .stream q) : Issues (.vtld c o) s := ⟨_, issueT_issue hu⟩
theorem execValloc_issue (c : Ctl) (o : OpsM) (s : State) (hu : ∀ q, s.cur.unit ≠ .stream q) : Issues (.valloc c o) s := ⟨_, issueT_issue hu⟩
theorem execVfree_issue (c : Ctl) (o : OpsM) (s : State) (hu : ∀ q, s.cur.unit ≠ .stream q) : Issues (.vfree c o) s := ⟨_, issueT_issue hu⟩
theorem execVshoot_issue (c : Ctl) (o : OpsM) (s : State) (hu : ∀ q, s.cur.unit ≠ .stream q) : Issues (.vshoot c o) s := ⟨_, issueT_issue hu⟩
theorem execVbgrd_issue (c : Ctl) (o : OpsM) (s : State) (hu : ∀ q, s.cur.unit ≠ .stream q) : Issues (.vbgrd c o) s := ⟨_, issueT_issue hu⟩
theorem execGthr_issue (c : Ctl) (o : OpsM) (s : State) (hu : ∀ q, s.cur.unit ≠ .stream q) : Issues (.gthr c o) s := ⟨_, issueT_issue hu⟩
theorem execSctr_issue (c : Ctl) (o : OpsM) (s : State) (hu : ∀ q, s.cur.unit ≠ .stream q) : Issues (.sctr c o) s := ⟨_, issueT_issue hu⟩
theorem execSctra_issue (c : Ctl) (o : OpsM) (s : State) (hu : ∀ q, s.cur.unit ≠ .stream q) : Issues (.sctra c o) s := ⟨_, issueT_issue hu⟩
theorem execConfl_issue (c : Ctl) (o : OpsV) (s : State) (hu : ∀ q, s.cur.unit ≠ .stream q) : Issues (.confl c o) s := ⟨_, issueT_issue hu⟩
theorem execCmbn_issue (c : Ctl) (o : OpsV) (s : State) (hu : ∀ q, s.cur.unit ≠ .stream q) : Issues (.cmbn c o) s := ⟨_, issueT_issue hu⟩
theorem execSpawni_issue (c : Ctl) (o : OpsV) (s : State) (hu : ∀ q, s.cur.unit ≠ .stream q) : Issues (.spawni c o) s := ⟨_, issueT_issue hu⟩
theorem execItemloop_issue (c : Ctl) (k : BitVec 4) (d : VReg) (off : BitVec 32) (s : State) (hu : ∀ q, s.cur.unit ≠ .stream q) : Issues (.itemloop c k d off) s := ⟨_, issueT_issue hu⟩
theorem execItemget_issue (c : Ctl) (o : OpsV) (s : State) (hu : ∀ q, s.cur.unit ≠ .stream q) : Issues (.itemget c o) s := ⟨_, issueT_issue hu⟩
theorem execItemend_issue (c : Ctl) (m : Mods) (s : State) (hu : ∀ q, s.cur.unit ≠ .stream q) : Issues (.itemend c m) s := ⟨_, issueT_issue hu⟩
theorem execObres_issue (c : Ctl) (d : VReg) (a : VReg) (m : Mods) (s : State) (hu : ∀ q, s.cur.unit ≠ .stream q) : Issues (.obres c d a m) s := ⟨_, issueT_issue hu⟩
theorem execObrel_issue (c : Ctl) (m : Mods) (s : State) (hu : ∀ q, s.cur.unit ≠ .stream q) : Issues (.obrel c m) s := ⟨_, issueT_issue hu⟩
theorem execShape_issue (c : Ctl) (a : VReg) (b : VReg) (m : Mods) (s : State) (hu : ∀ q, s.cur.unit ≠ .stream q) : Issues (.shape c a b m) s := ⟨_, issueT_issue hu⟩
theorem execMxldb_issue (c : Ctl) (a : VReg) (m : Mods) (s : State) (hu : ∀ q, s.cur.unit ≠ .stream q) : Issues (.mxldb c a m) s := by
  show ∃ body, execMxldb c a m s = _
  unfold execMxldb mxLoadOp ownerMx
  split
  · exact absurd ‹_› (hu _)
  · exact ⟨_, rfl⟩
theorem execMxlda_issue (c : Ctl) (a : VReg) (m : Mods) (s : State) (hu : ∀ q, s.cur.unit ≠ .stream q) : Issues (.mxlda c a m) s := by
  show ∃ body, execMxlda c a m s = _
  unfold execMxlda mxLoadOp ownerMx
  split
  · exact absurd ‹_› (hu _)
  · exact ⟨_, rfl⟩
theorem execMxmac_issue (c : Ctl) (t : BitVec 4) (a : VReg) (m : Mods) (s : State) (hu : ∀ q, s.cur.unit ≠ .stream q) : Issues (.mxmac c t a m) s := by
  show ∃ body, execMxmac c t a m s = _
  unfold execMxmac mxOpOp ownerMx
  split
  · exact absurd ‹_› (hu _)
  · exact ⟨_, rfl⟩
theorem execMxmacs_issue (c : Ctl) (t : BitVec 4) (a : VReg) (m : Mods) (s : State) (hu : ∀ q, s.cur.unit ≠ .stream q) : Issues (.mxmacs c t a m) s := by
  show ∃ body, execMxmacs c t a m s = _
  unfold execMxmacs mxOpOp ownerMx
  split
  · exact absurd ‹_› (hu _)
  · exact ⟨_, rfl⟩
theorem execMxzero_issue (c : Ctl) (t : BitVec 4) (a : VReg) (m : Mods) (s : State) (hu : ∀ q, s.cur.unit ≠ .stream q) : Issues (.mxzero c t a m) s := by
  show ∃ body, execMxzero c t a m s = _
  unfold execMxzero mxOpOp ownerMx
  split
  · exact absurd ‹_› (hu _)
  · exact ⟨_, rfl⟩
theorem execMxst_issue (c : Ctl) (t : BitVec 4) (a : VReg) (b : VReg) (m : Mods) (s : State) (hu : ∀ q, s.cur.unit ≠ .stream q) : Issues (.mxst c t a b m) s := ⟨_, issueT_issue hu⟩
theorem execMxcvt_issue (c : Ctl) (t : BitVec 4) (a : VReg) (b : VReg) (m : Mods) (s : State) (hu : ∀ q, s.cur.unit ≠ .stream q) : Issues (.mxcvt c t a b m) s := ⟨_, issueT_issue hu⟩
theorem execMxver_issue (c : Ctl) (d : VReg) (t : BitVec 4) (s : State) (hu : ∀ q, s.cur.unit ≠ .stream q) : Issues (.mxver c d t) s := ⟨_, issueT_issue hu⟩
theorem execMxbar_issue (c : Ctl) (k : BitVec 4) (s : State) (hu : ∀ q, s.cur.unit ≠ .stream q) : Issues (.mxbar c k) s := ⟨_, issueT_issue hu⟩
theorem execMxwait_issue (c : Ctl) (k : BitVec 4) (s : State) (hu : ∀ q, s.cur.unit ≠ .stream q) : Issues (.mxwait c k) s := by
  show ∃ body, execMxwait c k s = _
  unfold execMxwait
  split
  · exact absurd ‹_› (hu _)
  · exact ⟨_, rfl⟩
theorem execMxacq_issue (c : Ctl) (m : Mods) (s : State) (hu : ∀ q, s.cur.unit ≠ .stream q) : Issues (.mxacq c m) s := ⟨_, issueT_issue hu⟩
theorem execMxrel_issue (c : Ctl) (m : Mods) (s : State) (hu : ∀ q, s.cur.unit ≠ .stream q) : Issues (.mxrel c m) s := ⟨_, issueT_issue hu⟩
theorem execMxflags_issue (c : Ctl) (d : VReg) (m : Mods) (s : State) (hu : ∀ q, s.cur.unit ≠ .stream q) : Issues (.mxflags c d m) s := ⟨_, issueT_issue hu⟩
theorem execSchrun_issue (c : Ctl) (o : OpsM) (s : State) (hu : ∀ q, s.cur.unit ≠ .stream q) : Issues (.schrun c o) s := ⟨_, issueT_issue hu⟩
theorem execDdiv_issue (c : Ctl) (o : OpsV) (s : State) (hu : ∀ q, s.cur.unit ≠ .stream q) : Issues (.ddiv c o) s := ⟨_, issueT_issue hu⟩
theorem execDsqrt_issue (c : Ctl) (o : OpsV) (s : State) (hu : ∀ q, s.cur.unit ≠ .stream q) : Issues (.dsqrt c o) s := ⟨_, issueT_issue hu⟩
theorem execPivchk_issue (c : Ctl) (o : OpsV) (s : State) (hu : ∀ q, s.cur.unit ≠ .stream q) : Issues (.pivchk c o) s := ⟨_, issueT_issue hu⟩
theorem execTrstep_issue (c : Ctl) (o : OpsV) (s : State) (hu : ∀ q, s.cur.unit ≠ .stream q) : Issues (.trstep c o) s := ⟨_, issueT_issue hu⟩
theorem execSchstat_issue (c : Ctl) (o : OpsV) (s : State) (hu : ∀ q, s.cur.unit ≠ .stream q) : Issues (.schstat c o) s := ⟨_, issueT_issue hu⟩
theorem execAtom_issue (c : Ctl) (o : OpsM) (s : State) (hu : ∀ q, s.cur.unit ≠ .stream q) : Issues (.atom c o) s := ⟨_, issueT_issue hu⟩
theorem execAtomc_issue (c : Ctl) (o : OpsM) (s : State) (hu : ∀ q, s.cur.unit ≠ .stream q) : Issues (.atomc c o) s := ⟨_, issueT_issue hu⟩
theorem execFence_issue (c : Ctl) (m : Mods) (s : State) (hu : ∀ q, s.cur.unit ≠ .stream q) : Issues (.fence c m) s := ⟨_, issueT_issue hu⟩
theorem execLdacq_issue (c : Ctl) (o : OpsM) (s : State) (hu : ∀ q, s.cur.unit ≠ .stream q) : Issues (.ldacq c o) s := ⟨_, issueT_issue hu⟩
theorem execStrel_issue (c : Ctl) (o : OpsM) (s : State) (hu : ∀ q, s.cur.unit ≠ .stream q) : Issues (.strel c o) s := ⟨_, issueT_issue hu⟩
theorem execCjinit_issue (c : Ctl) (o : OpsM) (s : State) (hu : ∀ q, s.cur.unit ≠ .stream q) : Issues (.cjinit c o) s := ⟨_, issueT_issue hu⟩
theorem execCjarr_issue (c : Ctl) (o : OpsM) (s : State) (hu : ∀ q, s.cur.unit ≠ .stream q) : Issues (.cjarr c o) s := ⟨_, issueT_issue hu⟩
theorem execCjdrop_issue (c : Ctl) (o : OpsM) (s : State) (hu : ∀ q, s.cur.unit ≠ .stream q) : Issues (.cjdrop c o) s := ⟨_, issueT_issue hu⟩
theorem execCjwait_issue (c : Ctl) (o : OpsM) (s : State) (hu : ∀ q, s.cur.unit ≠ .stream q) : Issues (.cjwait c o) s := ⟨_, issueT_issue hu⟩
theorem execCjbyte_issue (c : Ctl) (o : OpsM) (s : State) (hu : ∀ q, s.cur.unit ≠ .stream q) : Issues (.cjbyte c o) s := ⟨_, issueT_issue hu⟩
theorem execCjtest_issue (c : Ctl) (o : OpsM) (s : State) (hu : ∀ q, s.cur.unit ≠ .stream q) : Issues (.cjtest c o) s := ⟨_, issueT_issue hu⟩
theorem execSpawn_issue (c : Ctl) (o : OpsMP) (s : State) (hu : ∀ q, s.cur.unit ≠ .stream q) : Issues (.spawn c o) s := ⟨_, issueT_issue hu⟩
theorem execTjoin_issue (c : Ctl) (o : OpsV) (s : State) (hu : ∀ q, s.cur.unit ≠ .stream q) : Issues (.tjoin c o) s := ⟨_, issueT_issue hu⟩
theorem execTend_issue (c : Ctl) (m : Mods) (s : State) (hu : ∀ q, s.cur.unit ≠ .stream q) : Issues (.tend c m) s := ⟨_, issueT_issue hu⟩
theorem execTself_issue (c : Ctl) (o : OpsV) (s : State) (hu : ∀ q, s.cur.unit ≠ .stream q) : Issues (.tself c o) s := ⟨_, issueT_issue hu⟩
theorem execRpost_issue (c : Ctl) (o : OpsV) (s : State) (hu : ∀ q, s.cur.unit ≠ .stream q) : Issues (.rpost c o) s := ⟨_, issueT_issue hu⟩
theorem execRread_issue (c : Ctl) (o : OpsV) (s : State) (hu : ∀ q, s.cur.unit ≠ .stream q) : Issues (.rread c o) s := ⟨_, issueT_issue hu⟩
theorem execRset_issue (c : Ctl) (o : OpsV) (s : State) (hu : ∀ q, s.cur.unit ≠ .stream q) : Issues (.rset c o) s := ⟨_, issueT_issue hu⟩
theorem execInpost_issue (c : Ctl) (o : OpsM) (s : State) (hu : ∀ q, s.cur.unit ≠ .stream q) : Issues (.inpost c o) s := ⟨_, issueT_issue hu⟩
theorem execSnap_issue (c : Ctl) (o : OpsM) (s : State) (hu : ∀ q, s.cur.unit ≠ .stream q) : Issues (.snap c o) s := ⟨_, issueT_issue hu⟩
theorem execLaunch_issue (c : Ctl) (o : OpsMP) (s : State) (hu : ∀ q, s.cur.unit ≠ .stream q) : Issues (.launch c o) s := ⟨_, issueT_issue hu⟩
theorem execLwait_issue (c : Ctl) (o : OpsV) (s : State) (hu : ∀ q, s.cur.unit ≠ .stream q) : Issues (.lwait c o) s := ⟨_, issueT_issue hu⟩
theorem execCapld_issue (c : Ctl) (cd : BitVec 5) (ca : BitVec 5) (b : VReg) (m : Mods) (s : State) (hu : ∀ q, s.cur.unit ≠ .stream q) : Issues (.capld c cd ca b m) s := ⟨_, issueT_issue hu⟩
theorem execCapst_issue (c : Ctl) (cd : BitVec 5) (ca : BitVec 5) (b : VReg) (m : Mods) (s : State) (hu : ∀ q, s.cur.unit ≠ .stream q) : Issues (.capst c cd ca b m) s := ⟨_, issueT_issue hu⟩
theorem execCapnar_issue (c : Ctl) (cd : BitVec 5) (ca : BitVec 5) (b : VReg) (m : Mods) (s : State) (hu : ∀ q, s.cur.unit ≠ .stream q) : Issues (.capnar c cd ca b m) s := ⟨_, issueT_issue hu⟩
theorem execCapoff_issue (c : Ctl) (cd : BitVec 5) (ca : BitVec 5) (m : Mods) (s : State) (hu : ∀ q, s.cur.unit ≠ .stream q) : Issues (.capoff c cd ca m) s := ⟨_, issueT_issue hu⟩
theorem execCaptst_issue (c : Ctl) (d : VReg) (ca : BitVec 5) (b : VReg) (m : Mods) (s : State) (hu : ∀ q, s.cur.unit ≠ .stream q) : Issues (.captst c d ca b m) s := ⟨_, issueT_issue hu⟩
theorem execCapget_issue (c : Ctl) (d : VReg) (ca : BitVec 5) (m : Mods) (s : State) (hu : ∀ q, s.cur.unit ≠ .stream q) : Issues (.capget c d ca m) s := ⟨_, issueT_issue hu⟩
theorem execCapmov_issue (c : Ctl) (cd : BitVec 5) (ca : BitVec 5) (m : Mods) (s : State) (hu : ∀ q, s.cur.unit ≠ .stream q) : Issues (.capmov c cd ca m) s := ⟨_, issueT_issue hu⟩
theorem execSrd_issue (c : Ctl) (d : VReg) (m : Mods) (s : State) (hu : ∀ q, s.cur.unit ≠ .stream q) : Issues (.srd c d m) s := ⟨_, issueT_issue hu⟩
theorem execSwr_issue (c : Ctl) (a : VReg) (m : Mods) (s : State) (hu : ∀ q, s.cur.unit ≠ .stream q) : Issues (.swr c a m) s := ⟨_, issueT_issue hu⟩
theorem execTrap_issue (c : Ctl) (m : Mods) (s : State) (hu : ∀ q, s.cur.unit ≠ .stream q) : Issues (.trap c m) s := ⟨_, issueT_issue hu⟩
theorem execBrkpt_issue (c : Ctl) (m : Mods) (s : State) (hu : ∀ q, s.cur.unit ≠ .stream q) : Issues (.brkpt c m) s := ⟨_, issueT_issue hu⟩
theorem execEret_issue (c : Ctl) (m : Mods) (s : State) (hu : ∀ q, s.cur.unit ≠ .stream q) : Issues (.eret c m) s := ⟨_, issueT_issue hu⟩
theorem execBeat_issue (c : Ctl) (m : Mods) (s : State) (hu : ∀ q, s.cur.unit ≠ .stream q) : Issues (.beat c m) s := ⟨_, issueT_issue hu⟩
theorem execCtxsv_issue (c : Ctl) (o : OpsM) (s : State) (hu : ∀ q, s.cur.unit ≠ .stream q) : Issues (.ctxsv c o) s := by
  show ∃ body, execCtxsv c o s = _
  unfold execCtxsv ctxOp
  split
  · exact ⟨_, issueT_issue hu⟩
  · exact ⟨_, issueT_issue hu⟩
theorem execCtxld_issue (c : Ctl) (o : OpsM) (s : State) (hu : ∀ q, s.cur.unit ≠ .stream q) : Issues (.ctxld c o) s := by
  show ∃ body, execCtxld c o s = _
  unfold execCtxld ctxOp
  split
  · exact ⟨_, issueT_issue hu⟩
  · exact ⟨_, issueT_issue hu⟩
theorem execIcinv_issue (c : Ctl) (m : Mods) (s : State) (hu : ∀ q, s.cur.unit ≠ .stream q) : Issues (.icinv c m) s := ⟨_, issueT_issue hu⟩
theorem execWfi_issue (c : Ctl) (m : Mods) (s : State) (hu : ∀ q, s.cur.unit ≠ .stream q) : Issues (.wfi c m) s := ⟨_, issueT_issue hu⟩
theorem execRegq_issue (c : Ctl) (o : OpsV) (s : State) (hu : ∀ q, s.cur.unit ≠ .stream q) : Issues (.regq c o) s := ⟨_, issueT_issue hu⟩

/-- Every instruction that a word encodes is the wrapper over a body. -/
theorem exec_issues (i : Instr) (s : State) (h : i.raw ≠ none) (hu : ∀ q, s.cur.unit ≠ .stream q) : Issues i s := by
  cases i with
  | nop c m => exact execNop_issue c m s hu
  | bra c off => exact execBra_issue c off s hu
  | brx c o => exact execBrx_issue c o s hu
  | brany c p off => exact execBrany_issue c p off s hu
  | brall c p off => exact execBrall_issue c p off s hu
  | call c off => exact execCall_issue c off s hu
  | callx c o => exact execCallx_issue c o s hu
  | ret c m => exact execRet_issue c m s hu
  | exit c m => exact execExit_issue c m s hu
  | yield c m => exact execYield_issue c m s hu
  | clen c k => exact execClen_issue c k s hu
  | clwait c k => exact execClwait_issue c k s hu
  | cldrop c k => exact execCldrop_issue c k s hu
  | clget c d k m => exact execClget_issue c d k m s hu
  | clset c k a m => exact execClset_issue c k a m s hu
  | ipref c off => exact execIpref_issue c off s hu
  | loop c d off => exact execLoop_issue c d off s hu
  | iadd c o => exact execIadd_issue c o s hu
  | isub c o => exact execIsub_issue c o s hu
  | iaddc c o => exact execIaddc_issue c o s hu
  | isubb c o => exact execIsubb_issue c o s hu
  | imul c o => exact execImul_issue c o s hu
  | imulh c o => exact execImulh_issue c o s hu
  | imad c o => exact execImad_issue c o s hu
  | idiv c o => exact execIdiv_issue c o s hu
  | irem c o => exact execIrem_issue c o s hu
  | iabs c o => exact execIabs_issue c o s hu
  | ineg c o => exact execIneg_issue c o s hu
  | imin c o => exact execImin_issue c o s hu
  | imax c o => exact execImax_issue c o s hu
  | and c o => exact execAnd_issue c o s hu
  | or c o => exact execOr_issue c o s hu
  | xor c o => exact execXor_issue c o s hu
  | andn c o => exact execAndn_issue c o s hu
  | not c o => exact execNot_issue c o s hu
  | shl c o => exact execShl_issue c o s hu
  | shr c o => exact execShr_issue c o s hu
  | sar c o => exact execSar_issue c o s hu
  | rol c o => exact execRol_issue c o s hu
  | popc c o => exact execPopc_issue c o s hu
  | clz c o => exact execClz_issue c o s hu
  | ctz c o => exact execCtz_issue c o s hu
  | brev c o => exact execBrev_issue c o s hu
  | bfx c o => exact execBfx_issue c o s hu
  | bfi c o => exact execBfi_issue c o s hu
  | bperm c o => exact execBperm_issue c o s hu
  | isad c o => exact execIsad_issue c o s hu
  | iadds c o => exact execIadds_issue c o s hu
  | imadw c o => exact execImadw_issue c o s hu
  | mov c o => exact execMov_issue c o s hu
  | movi c d imm => exact execMovi_issue c d imm s hu
  | movx c o => exact execMovx_issue c o s hu
  | movxw c o => exact execMovxw_issue c o s hu
  | sel c o => exact execSel_issue c o s hu
  | icmp c o => exact execIcmp_issue c o s hu
  | pand c o => exact execPand_issue c o s hu
  | por c o => exact execPor_issue c o s hu
  | pxor c o => exact execPxor_issue c o s hu
  | pnot c o => exact execPnot_issue c o s hu
  | pmov c o => exact execPmov_issue c o s hu
  | vote c o => exact execVote_issue c o s hu
  | ballot c o => exact execBallot_issue c o s hu
  | shfl c o => exact execShfl_issue c o s hu
  | bcast c o => exact execBcast_issue c o s hu
  | affine c o => exact execAffine_issue c o s hu
  | laneix c o => exact execLaneix_issue c o s hu
  | scan c o => exact execScan_issue c o s hu
  | red c o => exact execRed_issue c o s hu
  | fadd c o => exact execFadd_issue c o s hu
  | fsub c o => exact execFsub_issue c o s hu
  | fmul c o => exact execFmul_issue c o s hu
  | ffma c o => exact execFfma_issue c o s hu
  | fmin c o => exact execFmin_issue c o s hu
  | fmax c o => exact execFmax_issue c o s hu
  | fcmp c o => exact execFcmp_issue c o s hu
  | fclass c o => exact execFclass_issue c o s hu
  | frcp c o => exact execFrcp_issue c o s hu
  | frsq c o => exact execFrsq_issue c o s hu
  | fex2 c o => exact execFex2_issue c o s hu
  | flg2 c o => exact execFlg2_issue c o s hu
  | fsin c o => exact execFsin_issue c o s hu
  | fcos c o => exact execFcos_issue c o s hu
  | fdot2 c o => exact execFdot2_issue c o s hu
  | fmul2 c o => exact execFmul2_issue c o s hu
  | ffma2 c o => exact execFfma2_issue c o s hu
  | fround c o => exact execFround_issue c o s hu
  | fscalb c o => exact execFscalb_issue c o s hu
  | fsat c o => exact execFsat_issue c o s hu
  | cvt c o => exact execCvt_issue c o s hu
  | cvti c o => exact execCvti_issue c o s hu
  | cvtf c o => exact execCvtf_issue c o s hu
  | cvtef c o => exact execCvtef_issue c o s hu
  | efclr c e => exact execEfclr_issue c e s hu
  | efmov c wr r e => exact execEfmov_issue c wr r e s hu
  | pack4 c o => exact execPack4_issue c o s hu
  | pack6 c o => exact execPack6_issue c o s hu
  | pack8 c o => exact execPack8_issue c o s hu
  | unpk c o => exact execUnpk_issue c o s hu
  | bscale c o => exact execBscale_issue c o s hu
  | flagrd c o => exact execFlagrd_issue c o s hu
  | flagclr c m => exact execFlagclr_issue c m s hu
  | rmode c m => exact execRmode_issue c m s hu
  | ld c o => exact execLd_issue c o s hu
  | st c o => exact execSt_issue c o s hu
  | ldsp c o => exact execLdsp_issue c o s hu
  | stsp c o => exact execStsp_issue c o s hu
  | ldnp c o => exact execLdnp_issue c o s hu
  | ldv c o => exact execLdv_issue c o s hu
  | stv c o => exact execStv_issue c o s hu
  | ldu c o => exact execLdu_issue c o s hu
  | prtest c o => exact execPrtest_issue c o s hu
  | prwait c o => exact execPrwait_issue c o s hu
  | cpkick c o => exact execCpkick_issue c o s hu
  | cpstat c o => exact execCpstat_issue c o s hu
  | cpcancel c o => exact execCpcancel_issue c o s hu
  | rltest c o => exact execRltest_issue c o s hu
  | cpin c o => exact execCpin_issue c o s hu
  | cpout c o => exact execCpout_issue c o s hu
  | vld c o => exact execVld_issue c o s hu
  | vst c o => exact execVst_issue c o s hu
  | vadd c o => exact execVadd_issue c o s hu
  | vprobe c o => exact execVprobe_issue c o s hu
  | vnbr c o => exact execVnbr_issue c o s hu
  | vtld c o => exact execVtld_issue c o s hu
  | valloc c o => exact execValloc_issue c o s hu
  | vfree c o => exact execVfree_issue c o s hu
  | vshoot c o => exact execVshoot_issue c o s hu
  | vbgrd c o => exact execVbgrd_issue c o s hu
  | gthr c o => exact execGthr_issue c o s hu
  | sctr c o => exact execSctr_issue c o s hu
  | sctra c o => exact execSctra_issue c o s hu
  | confl c o => exact execConfl_issue c o s hu
  | cmbn c o => exact execCmbn_issue c o s hu
  | spawni c o => exact execSpawni_issue c o s hu
  | itemloop c k d off => exact execItemloop_issue c k d off s hu
  | itemget c o => exact execItemget_issue c o s hu
  | itemend c m => exact execItemend_issue c m s hu
  | obres c d a m => exact execObres_issue c d a m s hu
  | obrel c m => exact execObrel_issue c m s hu
  | shape c a b m => exact execShape_issue c a b m s hu
  | mxldb c a m => exact execMxldb_issue c a m s hu
  | mxlda c a m => exact execMxlda_issue c a m s hu
  | mxmac c t a m => exact execMxmac_issue c t a m s hu
  | mxmacs c t a m => exact execMxmacs_issue c t a m s hu
  | mxzero c t a m => exact execMxzero_issue c t a m s hu
  | mxst c t a b m => exact execMxst_issue c t a b m s hu
  | mxcvt c t a b m => exact execMxcvt_issue c t a b m s hu
  | mxver c d t => exact execMxver_issue c d t s hu
  | mxbar c k => exact execMxbar_issue c k s hu
  | mxwait c k => exact execMxwait_issue c k s hu
  | mxacq c m => exact execMxacq_issue c m s hu
  | mxrel c m => exact execMxrel_issue c m s hu
  | mxflags c d m => exact execMxflags_issue c d m s hu
  | schrun c o => exact execSchrun_issue c o s hu
  | ddiv c o => exact execDdiv_issue c o s hu
  | dsqrt c o => exact execDsqrt_issue c o s hu
  | pivchk c o => exact execPivchk_issue c o s hu
  | trstep c o => exact execTrstep_issue c o s hu
  | schstat c o => exact execSchstat_issue c o s hu
  | atom c o => exact execAtom_issue c o s hu
  | atomc c o => exact execAtomc_issue c o s hu
  | fence c m => exact execFence_issue c m s hu
  | ldacq c o => exact execLdacq_issue c o s hu
  | strel c o => exact execStrel_issue c o s hu
  | cjinit c o => exact execCjinit_issue c o s hu
  | cjarr c o => exact execCjarr_issue c o s hu
  | cjdrop c o => exact execCjdrop_issue c o s hu
  | cjwait c o => exact execCjwait_issue c o s hu
  | cjbyte c o => exact execCjbyte_issue c o s hu
  | cjtest c o => exact execCjtest_issue c o s hu
  | spawn c o => exact execSpawn_issue c o s hu
  | tjoin c o => exact execTjoin_issue c o s hu
  | tend c m => exact execTend_issue c m s hu
  | tself c o => exact execTself_issue c o s hu
  | rpost c o => exact execRpost_issue c o s hu
  | rread c o => exact execRread_issue c o s hu
  | rset c o => exact execRset_issue c o s hu
  | inpost c o => exact execInpost_issue c o s hu
  | snap c o => exact execSnap_issue c o s hu
  | launch c o => exact execLaunch_issue c o s hu
  | lwait c o => exact execLwait_issue c o s hu
  | capld c cd ca b m => exact execCapld_issue c cd ca b m s hu
  | capst c cd ca b m => exact execCapst_issue c cd ca b m s hu
  | capnar c cd ca b m => exact execCapnar_issue c cd ca b m s hu
  | capoff c cd ca m => exact execCapoff_issue c cd ca m s hu
  | captst c d ca b m => exact execCaptst_issue c d ca b m s hu
  | capget c d ca m => exact execCapget_issue c d ca m s hu
  | capmov c cd ca m => exact execCapmov_issue c cd ca m s hu
  | srd c d m => exact execSrd_issue c d m s hu
  | swr c a m => exact execSwr_issue c a m s hu
  | trap c m => exact execTrap_issue c m s hu
  | brkpt c m => exact execBrkpt_issue c m s hu
  | eret c m => exact execEret_issue c m s hu
  | beat c m => exact execBeat_issue c m s hu
  | ctxsv c o => exact execCtxsv_issue c o s hu
  | ctxld c o => exact execCtxld_issue c o s hu
  | icinv c m => exact execIcinv_issue c m s hu
  | wfi c m => exact execWfi_issue c m s hu
  | regq c o => exact execRegq_issue c o s hu
  | nopCommand => exact absurd rfl h
  | launchCommand => exact absurd rfl h
  | start => exact absurd rfl h
  | stop => exact absurd rfl h
  | load => exact absurd rfl h
  | unload => exact absurd rfl h
  | objcreate => exact absurd rfl h
  | objdestroy => exact absurd rfl h
  | hcopy => exact absurd rfl h
  | waitcj => exact absurd rfl h
  | createq => exact absurd rfl h
  | destroyq => exact absurd rfl h
  | capmint => exact absurd rfl h
  | pageresume => exact absurd rfl h
  | partcfg => exact absurd rfl h
  | partdel => exact absurd rfl h
  | vfbind => exact absurd rfl h
  | gangpeers => exact absurd rfl h
  | shareobj => exact absurd rfl h
  | repair => exact absurd rfl h
  | fwstage => exact absurd rfl h
  | fwact => exact absurd rfl h
  | logread => exact absurd rfl h
  | dbgresume => exact absurd rfl h
  | commandCompletion => exact absurd rfl h
  | doorbell => exact absurd rfl h
  | aqctlEnable => exact absurd rfl h
  | aqctlDisable => exact absurd rfl h
  | adminQueueDrained => exact absurd rfl h
  | sysstatRead => exact absurd rfl h
  | registerWrite => exact absurd rfl h
  | conventionalReset => exact absurd rfl h
  | coldPowerOn => exact absurd rfl h
  | bootStageDone => exact absurd rfl h
  | failedStartReset => exact absurd rfl h
  | readyTimeout => exact absurd rfl h
  | functionLevelReset => exact absurd rfl h
  | ideStreamFault => exact absurd rfl h
  | dmaError => exact absurd rfl h
  | thermalWarning => exact absurd rfl h
  | thermalWarningClear => exact absurd rfl h
  | thermalStop => exact absurd rfl h
  | getVersion => exact absurd rfl h
  | getCapabilities => exact absurd rfl h
  | negotiateAlgorithms => exact absurd rfl h
  | getDigests => exact absurd rfl h
  | getCertificate => exact absurd rfl h
  | challenge => exact absurd rfl h
  | getMeasurements => exact absurd rfl h
  | keyExchange => exact absurd rfl h
  | finish => exact absurd rfl h
  | endSession => exact absurd rfl h
  | ideKm => exact absurd rfl h
  | beatWindowEnd => exact absurd rfl h
  | quantumEnd => exact absurd rfl h
  | runawayBlock => exact absurd rfl h
  | residentSetChoice => exact absurd rfl h
  | eviction => exact absurd rfl h
  | blockRestore => exact absurd rfl h
  | eccCorrected => exact absurd rfl h
  | mcheck => exact absurd rfl h
  | unhandledTrapAbort => exact absurd rfl h
  | idemAbort => exact absurd rfl h
  | icacheFill => exact absurd rfl h
  | yieldExpiry => exact absurd rfl h
  | loadDataArrival => exact absurd rfl h
  | longLatencyComplete => exact absurd rfl h
  | remoteStorePerformed => exact absurd rfl h
  | copyRecordStart => exact absurd rfl h
  | copyLineArrival => exact absurd rfl h
  | cpkickRegister => exact absurd rfl h
  | collapseRequest => exact absurd rfl h
  | collapseAck => exact absurd rfl h
  | sequencerWrite => exact absurd rfl h
  | pageCompress => exact absurd rfl h
  | pageExpand => exact absurd rfl h
  | clbWalk => exact absurd rfl h
  | tileLineFetch => exact absurd rfl h
  | tileAllocation => exact absurd rfl h
  | tileRemoval => exact absurd rfl h
  | shootdownMark => exact absurd rfl h
  | backgroundWrite => exact absurd rfl h
  | lexiconRowPerformed => exact absurd rfl h
  | itemRefill => exact absurd rfl h
  | matrixOpComplete => exact absurd rfl h
  | matrixOpStart => exact absurd rfl h
  | schrunRegister => exact absurd rfl h
  | ticketClaim => exact absurd rfl h
  | taskStart => exact absurd rfl h
  | steal => exact absurd rfl h
  | landingReturn => exact absurd rfl h
  | blockRetire => exact absurd rfl h
  | pendingRetry => exact absurd rfl h
  | gridComplete => exact absurd rfl h
  | gangReservation => exact absurd rfl h
  | settleDispatch => exact absurd rfl h
  | postApply => exact absurd rfl h
  | convergenceSweep => exact absurd rfl h
  | deferredActivation => exact absurd rfl h
  | tftpBlock => exact absurd rfl h
  | tftpRetry => exact absurd rfl h
  | vfEnable => exact absurd rfl h
  | pageKindChange => exact absurd rfl h

end Sys2Proof.Machine
end

