-- ==== Sys2Proof/Laws/PerInstr.lean ====
section
/-!
SUPPORT. The family RoundTrip: the opcode map's entry for an instruction's opcode rebuilds the instruction from the fields of its word, with every
operand at every value; a command or event has no word. One lemma for each constructor.
-/
set_option autoImplicit false

namespace Sys2Proof.Laws.RoundTrip

/-- The instruction that the opcode map rebuilds from the fields of a word (Tables 3.5 to 3.7). -/
def rebuild (r : Raw) : Option Instr :=
  match opMap[r.op.toNat / 64]? with
  | none => none
  | some g => match g[r.op.toNat % 64]? with
    | none => none
    | some mk => mk r

/-- The reserved bits of the instruction's word are zero, and its fields give the instruction back. -/
def Statement (i : Instr) : Prop := ∀ r, i.raw = some r → r.rsv = 0 ∧ rebuild r = some i

theorem nop (c : Ctl) (m : Mods) : Statement (.nop c m) := by
  rintro r ⟨⟩; exact ⟨rfl, by simp [rebuild, opMap, opGroup0, mkZ, Mods.unpack_pack]⟩

theorem bra (c : Ctl) (off : BitVec 32) : Statement (.bra c off) := by
  rintro r ⟨⟩; exact ⟨rfl, by simp [rebuild, opMap, opGroup0, mkJO]⟩

theorem brx (c : Ctl) (o : OpsV) : Statement (.brx c o) := by
  rintro r ⟨⟩; exact ⟨rfl, by simp [rebuild, opMap, opGroup0, mkV, Mods.unpack_pack]⟩

theorem brany (c : Ctl) (p : BitVec 4) (off : BitVec 32) : Statement (.brany c p off) := by
  rintro r ⟨⟩; exact ⟨rfl, by simp [rebuild, opMap, opGroup0, mkJP, decF_setWidth]⟩

theorem brall (c : Ctl) (p : BitVec 4) (off : BitVec 32) : Statement (.brall c p off) := by
  rintro r ⟨⟩; exact ⟨rfl, by simp [rebuild, opMap, opGroup0, mkJP, decF_setWidth]⟩

theorem call (c : Ctl) (off : BitVec 32) : Statement (.call c off) := by
  rintro r ⟨⟩; exact ⟨rfl, by simp [rebuild, opMap, opGroup0, mkJO]⟩

theorem callx (c : Ctl) (o : OpsV) : Statement (.callx c o) := by
  rintro r ⟨⟩; exact ⟨rfl, by simp [rebuild, opMap, opGroup0, mkV, Mods.unpack_pack]⟩

theorem ret (c : Ctl) (m : Mods) : Statement (.ret c m) := by
  rintro r ⟨⟩; exact ⟨rfl, by simp [rebuild, opMap, opGroup0, mkZ, Mods.unpack_pack]⟩

theorem exit (c : Ctl) (m : Mods) : Statement (.exit c m) := by
  rintro r ⟨⟩; exact ⟨rfl, by simp [rebuild, opMap, opGroup0, mkZ, Mods.unpack_pack]⟩

theorem yield (c : Ctl) (m : Mods) : Statement (.yield c m) := by
  rintro r ⟨⟩; exact ⟨rfl, by simp [rebuild, opMap, opGroup0, mkZ, Mods.unpack_pack]⟩

theorem clen (c : Ctl) (k : BitVec 4) : Statement (.clen c k) := by
  rintro r ⟨⟩; exact ⟨rfl, by simp [rebuild, opMap, opGroup0, mkS1, decF_setWidth]⟩

theorem clwait (c : Ctl) (k : BitVec 4) : Statement (.clwait c k) := by
  rintro r ⟨⟩; exact ⟨rfl, by simp [rebuild, opMap, opGroup0, mkS1, decF_setWidth]⟩

theorem cldrop (c : Ctl) (k : BitVec 4) : Statement (.cldrop c k) := by
  rintro r ⟨⟩; exact ⟨rfl, by simp [rebuild, opMap, opGroup0, mkS1, decF_setWidth]⟩

theorem clget (c : Ctl) (d : VReg) (k : BitVec 4) (m : Mods) : Statement (.clget c d k m) := by
  rintro r ⟨⟩; exact ⟨rfl, by simp [rebuild, opMap, opGroup0, mkCLG, decF_setWidth, Mods.unpack_pack]⟩

theorem clset (c : Ctl) (k : BitVec 4) (a : VReg) (m : Mods) : Statement (.clset c k a m) := by
  rintro r ⟨⟩; exact ⟨rfl, by simp [rebuild, opMap, opGroup0, mkCLS, decF_setWidth, Mods.unpack_pack]⟩

theorem ipref (c : Ctl) (off : BitVec 32) : Statement (.ipref c off) := by
  rintro r ⟨⟩; exact ⟨rfl, by simp [rebuild, opMap, opGroup0, mkJO]⟩

theorem loop (c : Ctl) (d : VReg) (off : BitVec 32) : Statement (.loop c d off) := by
  rintro r ⟨⟩; exact ⟨rfl, by simp [rebuild, opMap, opGroup0, mkJV]⟩

theorem iadd (c : Ctl) (o : OpsV) : Statement (.iadd c o) := by
  rintro r ⟨⟩; exact ⟨rfl, by simp [rebuild, opMap, opGroup1, mkV, Mods.unpack_pack]⟩

theorem isub (c : Ctl) (o : OpsV) : Statement (.isub c o) := by
  rintro r ⟨⟩; exact ⟨rfl, by simp [rebuild, opMap, opGroup1, mkV, Mods.unpack_pack]⟩

theorem iaddc (c : Ctl) (o : OpsV) : Statement (.iaddc c o) := by
  rintro r ⟨⟩; exact ⟨rfl, by simp [rebuild, opMap, opGroup1, mkV, Mods.unpack_pack]⟩

theorem isubb (c : Ctl) (o : OpsV) : Statement (.isubb c o) := by
  rintro r ⟨⟩; exact ⟨rfl, by simp [rebuild, opMap, opGroup1, mkV, Mods.unpack_pack]⟩

theorem imul (c : Ctl) (o : OpsV) : Statement (.imul c o) := by
  rintro r ⟨⟩; exact ⟨rfl, by simp [rebuild, opMap, opGroup1, mkV, Mods.unpack_pack]⟩

theorem imulh (c : Ctl) (o : OpsV) : Statement (.imulh c o) := by
  rintro r ⟨⟩; exact ⟨rfl, by simp [rebuild, opMap, opGroup1, mkV, Mods.unpack_pack]⟩

theorem imad (c : Ctl) (o : OpsV) : Statement (.imad c o) := by
  rintro r ⟨⟩; exact ⟨rfl, by simp [rebuild, opMap, opGroup1, mkV, Mods.unpack_pack]⟩

theorem idiv (c : Ctl) (o : OpsV) : Statement (.idiv c o) := by
  rintro r ⟨⟩; exact ⟨rfl, by simp [rebuild, opMap, opGroup1, mkV, Mods.unpack_pack]⟩

theorem irem (c : Ctl) (o : OpsV) : Statement (.irem c o) := by
  rintro r ⟨⟩; exact ⟨rfl, by simp [rebuild, opMap, opGroup1, mkV, Mods.unpack_pack]⟩

theorem iabs (c : Ctl) (o : OpsV) : Statement (.iabs c o) := by
  rintro r ⟨⟩; exact ⟨rfl, by simp [rebuild, opMap, opGroup1, mkV, Mods.unpack_pack]⟩

theorem ineg (c : Ctl) (o : OpsV) : Statement (.ineg c o) := by
  rintro r ⟨⟩; exact ⟨rfl, by simp [rebuild, opMap, opGroup1, mkV, Mods.unpack_pack]⟩

theorem imin (c : Ctl) (o : OpsV) : Statement (.imin c o) := by
  rintro r ⟨⟩; exact ⟨rfl, by simp [rebuild, opMap, opGroup1, mkV, Mods.unpack_pack]⟩

theorem imax (c : Ctl) (o : OpsV) : Statement (.imax c o) := by
  rintro r ⟨⟩; exact ⟨rfl, by simp [rebuild, opMap, opGroup1, mkV, Mods.unpack_pack]⟩

theorem and (c : Ctl) (o : OpsV) : Statement (.and c o) := by
  rintro r ⟨⟩; exact ⟨rfl, by simp [rebuild, opMap, opGroup1, mkV, Mods.unpack_pack]⟩

theorem or (c : Ctl) (o : OpsV) : Statement (.or c o) := by
  rintro r ⟨⟩; exact ⟨rfl, by simp [rebuild, opMap, opGroup1, mkV, Mods.unpack_pack]⟩

theorem xor (c : Ctl) (o : OpsV) : Statement (.xor c o) := by
  rintro r ⟨⟩; exact ⟨rfl, by simp [rebuild, opMap, opGroup1, mkV, Mods.unpack_pack]⟩

theorem andn (c : Ctl) (o : OpsV) : Statement (.andn c o) := by
  rintro r ⟨⟩; exact ⟨rfl, by simp [rebuild, opMap, opGroup1, mkV, Mods.unpack_pack]⟩

theorem not (c : Ctl) (o : OpsV) : Statement (.not c o) := by
  rintro r ⟨⟩; exact ⟨rfl, by simp [rebuild, opMap, opGroup1, mkV, Mods.unpack_pack]⟩

theorem shl (c : Ctl) (o : OpsV) : Statement (.shl c o) := by
  rintro r ⟨⟩; exact ⟨rfl, by simp [rebuild, opMap, opGroup1, mkV, Mods.unpack_pack]⟩

theorem shr (c : Ctl) (o : OpsV) : Statement (.shr c o) := by
  rintro r ⟨⟩; exact ⟨rfl, by simp [rebuild, opMap, opGroup1, mkV, Mods.unpack_pack]⟩

theorem sar (c : Ctl) (o : OpsV) : Statement (.sar c o) := by
  rintro r ⟨⟩; exact ⟨rfl, by simp [rebuild, opMap, opGroup1, mkV, Mods.unpack_pack]⟩

theorem rol (c : Ctl) (o : OpsV) : Statement (.rol c o) := by
  rintro r ⟨⟩; exact ⟨rfl, by simp [rebuild, opMap, opGroup1, mkV, Mods.unpack_pack]⟩

theorem popc (c : Ctl) (o : OpsV) : Statement (.popc c o) := by
  rintro r ⟨⟩; exact ⟨rfl, by simp [rebuild, opMap, opGroup1, mkV, Mods.unpack_pack]⟩

theorem clz (c : Ctl) (o : OpsV) : Statement (.clz c o) := by
  rintro r ⟨⟩; exact ⟨rfl, by simp [rebuild, opMap, opGroup1, mkV, Mods.unpack_pack]⟩

theorem ctz (c : Ctl) (o : OpsV) : Statement (.ctz c o) := by
  rintro r ⟨⟩; exact ⟨rfl, by simp [rebuild, opMap, opGroup1, mkV, Mods.unpack_pack]⟩

theorem brev (c : Ctl) (o : OpsV) : Statement (.brev c o) := by
  rintro r ⟨⟩; exact ⟨rfl, by simp [rebuild, opMap, opGroup1, mkV, Mods.unpack_pack]⟩

theorem bfx (c : Ctl) (o : OpsV) : Statement (.bfx c o) := by
  rintro r ⟨⟩; exact ⟨rfl, by simp [rebuild, opMap, opGroup1, mkV, Mods.unpack_pack]⟩

theorem bfi (c : Ctl) (o : OpsV) : Statement (.bfi c o) := by
  rintro r ⟨⟩; exact ⟨rfl, by simp [rebuild, opMap, opGroup1, mkV, Mods.unpack_pack]⟩

theorem bperm (c : Ctl) (o : OpsV) : Statement (.bperm c o) := by
  rintro r ⟨⟩; exact ⟨rfl, by simp [rebuild, opMap, opGroup1, mkV, Mods.unpack_pack]⟩

theorem isad (c : Ctl) (o : OpsV) : Statement (.isad c o) := by
  rintro r ⟨⟩; exact ⟨rfl, by simp [rebuild, opMap, opGroup1, mkV, Mods.unpack_pack]⟩

theorem iadds (c : Ctl) (o : OpsV) : Statement (.iadds c o) := by
  rintro r ⟨⟩; exact ⟨rfl, by simp [rebuild, opMap, opGroup1, mkV, Mods.unpack_pack]⟩

theorem imadw (c : Ctl) (o : OpsV) : Statement (.imadw c o) := by
  rintro r ⟨⟩; exact ⟨rfl, by simp [rebuild, opMap, opGroup1, mkV, Mods.unpack_pack]⟩

theorem mov (c : Ctl) (o : OpsV) : Statement (.mov c o) := by
  rintro r ⟨⟩; exact ⟨rfl, by simp [rebuild, opMap, opGroup2, mkV, Mods.unpack_pack]⟩

theorem movi (c : Ctl) (d : VReg) (imm : BitVec 32) : Statement (.movi c d imm) := by
  rintro r ⟨⟩; exact ⟨rfl, by simp [rebuild, opMap, opGroup2, mkW]⟩

theorem movx (c : Ctl) (o : OpsV) : Statement (.movx c o) := by
  rintro r ⟨⟩; exact ⟨rfl, by simp [rebuild, opMap, opGroup2, mkV, Mods.unpack_pack]⟩

theorem movxw (c : Ctl) (o : OpsV) : Statement (.movxw c o) := by
  rintro r ⟨⟩; exact ⟨rfl, by simp [rebuild, opMap, opGroup2, mkV, Mods.unpack_pack]⟩

theorem sel (c : Ctl) (o : OpsV) : Statement (.sel c o) := by
  rintro r ⟨⟩; exact ⟨rfl, by simp [rebuild, opMap, opGroup2, mkV, Mods.unpack_pack]⟩

theorem icmp (c : Ctl) (o : OpsPC) : Statement (.icmp c o) := by
  rintro r ⟨⟩; exact ⟨rfl, by simp [rebuild, opMap, opGroup2, mkPC, decP_encP, Mods.unpack_pack]⟩

theorem pand (c : Ctl) (o : OpsPP) : Statement (.pand c o) := by
  rintro r ⟨⟩; exact ⟨rfl, by simp [rebuild, opMap, opGroup2, mkPP, decP_encP, decF_setWidth, Mods.unpack_pack]⟩

theorem por (c : Ctl) (o : OpsPP) : Statement (.por c o) := by
  rintro r ⟨⟩; exact ⟨rfl, by simp [rebuild, opMap, opGroup2, mkPP, decP_encP, decF_setWidth, Mods.unpack_pack]⟩

theorem pxor (c : Ctl) (o : OpsPP) : Statement (.pxor c o) := by
  rintro r ⟨⟩; exact ⟨rfl, by simp [rebuild, opMap, opGroup2, mkPP, decP_encP, decF_setWidth, Mods.unpack_pack]⟩

theorem pnot (c : Ctl) (o : OpsPP) : Statement (.pnot c o) := by
  rintro r ⟨⟩; exact ⟨rfl, by simp [rebuild, opMap, opGroup2, mkPP, decP_encP, decF_setWidth, Mods.unpack_pack]⟩

theorem pmov (c : Ctl) (o : OpsPP) : Statement (.pmov c o) := by
  rintro r ⟨⟩; exact ⟨rfl, by simp [rebuild, opMap, opGroup2, mkPP, decP_encP, decF_setWidth, Mods.unpack_pack]⟩

theorem vote (c : Ctl) (o : OpsPP) : Statement (.vote c o) := by
  rintro r ⟨⟩; exact ⟨rfl, by simp [rebuild, opMap, opGroup2, mkPP, decP_encP, decF_setWidth, Mods.unpack_pack]⟩

theorem ballot (c : Ctl) (o : OpsV) : Statement (.ballot c o) := by
  rintro r ⟨⟩; exact ⟨rfl, by simp [rebuild, opMap, opGroup2, mkV, Mods.unpack_pack]⟩

theorem shfl (c : Ctl) (o : OpsV) : Statement (.shfl c o) := by
  rintro r ⟨⟩; exact ⟨rfl, by simp [rebuild, opMap, opGroup2, mkV, Mods.unpack_pack]⟩

theorem bcast (c : Ctl) (o : OpsV) : Statement (.bcast c o) := by
  rintro r ⟨⟩; exact ⟨rfl, by simp [rebuild, opMap, opGroup2, mkV, Mods.unpack_pack]⟩

theorem affine (c : Ctl) (o : OpsV) : Statement (.affine c o) := by
  rintro r ⟨⟩; exact ⟨rfl, by simp [rebuild, opMap, opGroup2, mkV, Mods.unpack_pack]⟩

theorem laneix (c : Ctl) (o : OpsV) : Statement (.laneix c o) := by
  rintro r ⟨⟩; exact ⟨rfl, by simp [rebuild, opMap, opGroup2, mkV, Mods.unpack_pack]⟩

theorem scan (c : Ctl) (o : OpsV) : Statement (.scan c o) := by
  rintro r ⟨⟩; exact ⟨rfl, by simp [rebuild, opMap, opGroup2, mkV, Mods.unpack_pack]⟩

theorem red (c : Ctl) (o : OpsV) : Statement (.red c o) := by
  rintro r ⟨⟩; exact ⟨rfl, by simp [rebuild, opMap, opGroup2, mkV, Mods.unpack_pack]⟩

theorem fadd (c : Ctl) (o : OpsV) : Statement (.fadd c o) := by
  rintro r ⟨⟩; exact ⟨rfl, by simp [rebuild, opMap, opGroup3, mkV, Mods.unpack_pack]⟩

theorem fsub (c : Ctl) (o : OpsV) : Statement (.fsub c o) := by
  rintro r ⟨⟩; exact ⟨rfl, by simp [rebuild, opMap, opGroup3, mkV, Mods.unpack_pack]⟩

theorem fmul (c : Ctl) (o : OpsV) : Statement (.fmul c o) := by
  rintro r ⟨⟩; exact ⟨rfl, by simp [rebuild, opMap, opGroup3, mkV, Mods.unpack_pack]⟩

theorem ffma (c : Ctl) (o : OpsV) : Statement (.ffma c o) := by
  rintro r ⟨⟩; exact ⟨rfl, by simp [rebuild, opMap, opGroup3, mkV, Mods.unpack_pack]⟩

theorem fmin (c : Ctl) (o : OpsV) : Statement (.fmin c o) := by
  rintro r ⟨⟩; exact ⟨rfl, by simp [rebuild, opMap, opGroup3, mkV, Mods.unpack_pack]⟩

theorem fmax (c : Ctl) (o : OpsV) : Statement (.fmax c o) := by
  rintro r ⟨⟩; exact ⟨rfl, by simp [rebuild, opMap, opGroup3, mkV, Mods.unpack_pack]⟩

theorem fcmp (c : Ctl) (o : OpsPC) : Statement (.fcmp c o) := by
  rintro r ⟨⟩; exact ⟨rfl, by simp [rebuild, opMap, opGroup3, mkPC, decP_encP, Mods.unpack_pack]⟩

theorem fclass (c : Ctl) (o : OpsV) : Statement (.fclass c o) := by
  rintro r ⟨⟩; exact ⟨rfl, by simp [rebuild, opMap, opGroup3, mkV, Mods.unpack_pack]⟩

theorem frcp (c : Ctl) (o : OpsV) : Statement (.frcp c o) := by
  rintro r ⟨⟩; exact ⟨rfl, by simp [rebuild, opMap, opGroup3, mkV, Mods.unpack_pack]⟩

theorem frsq (c : Ctl) (o : OpsV) : Statement (.frsq c o) := by
  rintro r ⟨⟩; exact ⟨rfl, by simp [rebuild, opMap, opGroup3, mkV, Mods.unpack_pack]⟩

theorem fex2 (c : Ctl) (o : OpsV) : Statement (.fex2 c o) := by
  rintro r ⟨⟩; exact ⟨rfl, by simp [rebuild, opMap, opGroup3, mkV, Mods.unpack_pack]⟩

theorem flg2 (c : Ctl) (o : OpsV) : Statement (.flg2 c o) := by
  rintro r ⟨⟩; exact ⟨rfl, by simp [rebuild, opMap, opGroup3, mkV, Mods.unpack_pack]⟩

theorem fsin (c : Ctl) (o : OpsV) : Statement (.fsin c o) := by
  rintro r ⟨⟩; exact ⟨rfl, by simp [rebuild, opMap, opGroup3, mkV, Mods.unpack_pack]⟩

theorem fcos (c : Ctl) (o : OpsV) : Statement (.fcos c o) := by
  rintro r ⟨⟩; exact ⟨rfl, by simp [rebuild, opMap, opGroup3, mkV, Mods.unpack_pack]⟩

theorem fdot2 (c : Ctl) (o : OpsV) : Statement (.fdot2 c o) := by
  rintro r ⟨⟩; exact ⟨rfl, by simp [rebuild, opMap, opGroup3, mkV, Mods.unpack_pack]⟩

theorem fmul2 (c : Ctl) (o : OpsV) : Statement (.fmul2 c o) := by
  rintro r ⟨⟩; exact ⟨rfl, by simp [rebuild, opMap, opGroup3, mkV, Mods.unpack_pack]⟩

theorem ffma2 (c : Ctl) (o : OpsV) : Statement (.ffma2 c o) := by
  rintro r ⟨⟩; exact ⟨rfl, by simp [rebuild, opMap, opGroup3, mkV, Mods.unpack_pack]⟩

theorem fround (c : Ctl) (o : OpsV) : Statement (.fround c o) := by
  rintro r ⟨⟩; exact ⟨rfl, by simp [rebuild, opMap, opGroup3, mkV, Mods.unpack_pack]⟩

theorem fscalb (c : Ctl) (o : OpsV) : Statement (.fscalb c o) := by
  rintro r ⟨⟩; exact ⟨rfl, by simp [rebuild, opMap, opGroup3, mkV, Mods.unpack_pack]⟩

theorem fsat (c : Ctl) (o : OpsV) : Statement (.fsat c o) := by
  rintro r ⟨⟩; exact ⟨rfl, by simp [rebuild, opMap, opGroup3, mkV, Mods.unpack_pack]⟩

theorem cvt (c : Ctl) (o : OpsV) : Statement (.cvt c o) := by
  rintro r ⟨⟩; exact ⟨rfl, by simp [rebuild, opMap, opGroup4, mkV, Mods.unpack_pack]⟩

theorem cvti (c : Ctl) (o : OpsV) : Statement (.cvti c o) := by
  rintro r ⟨⟩; exact ⟨rfl, by simp [rebuild, opMap, opGroup4, mkV, Mods.unpack_pack]⟩

theorem cvtf (c : Ctl) (o : OpsV) : Statement (.cvtf c o) := by
  rintro r ⟨⟩; exact ⟨rfl, by simp [rebuild, opMap, opGroup4, mkV, Mods.unpack_pack]⟩

theorem cvtef (c : Ctl) (o : OpsV) : Statement (.cvtef c o) := by
  rintro r ⟨⟩; exact ⟨rfl, by simp [rebuild, opMap, opGroup4, mkV, Mods.unpack_pack]⟩

theorem efclr (c : Ctl) (e : BitVec 3) : Statement (.efclr c e) := by
  rintro r ⟨⟩; exact ⟨rfl, by simp [rebuild, opMap, opGroup4, mkEC, decF_setWidth]⟩

theorem efmov (c : Ctl) (wr : Bool) (r : VReg) (e : BitVec 3) : Statement (.efmov c wr r e) := by
  intro r h; cases h
  cases wr <;>
  refine ⟨rfl, ?_⟩ <;> simp [rebuild, opMap, opGroup4, mkEM, decF_setWidth]

theorem pack4 (c : Ctl) (o : OpsV) : Statement (.pack4 c o) := by
  rintro r ⟨⟩; exact ⟨rfl, by simp [rebuild, opMap, opGroup4, mkV, Mods.unpack_pack]⟩

theorem pack6 (c : Ctl) (o : OpsV) : Statement (.pack6 c o) := by
  rintro r ⟨⟩; exact ⟨rfl, by simp [rebuild, opMap, opGroup4, mkV, Mods.unpack_pack]⟩

theorem pack8 (c : Ctl) (o : OpsV) : Statement (.pack8 c o) := by
  rintro r ⟨⟩; exact ⟨rfl, by simp [rebuild, opMap, opGroup4, mkV, Mods.unpack_pack]⟩

theorem unpk (c : Ctl) (o : OpsV) : Statement (.unpk c o) := by
  rintro r ⟨⟩; exact ⟨rfl, by simp [rebuild, opMap, opGroup4, mkV, Mods.unpack_pack]⟩

theorem bscale (c : Ctl) (o : OpsV) : Statement (.bscale c o) := by
  rintro r ⟨⟩; exact ⟨rfl, by simp [rebuild, opMap, opGroup4, mkV, Mods.unpack_pack]⟩

theorem flagrd (c : Ctl) (o : OpsV) : Statement (.flagrd c o) := by
  rintro r ⟨⟩; exact ⟨rfl, by simp [rebuild, opMap, opGroup4, mkV, Mods.unpack_pack]⟩

theorem flagclr (c : Ctl) (m : Mods) : Statement (.flagclr c m) := by
  rintro r ⟨⟩; exact ⟨rfl, by simp [rebuild, opMap, opGroup4, mkZ, Mods.unpack_pack]⟩

theorem rmode (c : Ctl) (m : Mods) : Statement (.rmode c m) := by
  rintro r ⟨⟩; exact ⟨rfl, by simp [rebuild, opMap, opGroup4, mkZ, Mods.unpack_pack]⟩

theorem ld (c : Ctl) (o : OpsM) : Statement (.ld c o) := by
  rintro r ⟨⟩; exact ⟨rfl, by simp [rebuild, opMap, opGroup5, mkM, decF_setWidth, Mods.unpack_pack]⟩

theorem st (c : Ctl) (o : OpsM) : Statement (.st c o) := by
  rintro r ⟨⟩; exact ⟨rfl, by simp [rebuild, opMap, opGroup5, mkM, decF_setWidth, Mods.unpack_pack]⟩

theorem ldsp (c : Ctl) (o : OpsM) : Statement (.ldsp c o) := by
  rintro r ⟨⟩; exact ⟨rfl, by simp [rebuild, opMap, opGroup5, mkM, decF_setWidth, Mods.unpack_pack]⟩

theorem stsp (c : Ctl) (o : OpsM) : Statement (.stsp c o) := by
  rintro r ⟨⟩; exact ⟨rfl, by simp [rebuild, opMap, opGroup5, mkM, decF_setWidth, Mods.unpack_pack]⟩

theorem ldnp (c : Ctl) (o : OpsM) : Statement (.ldnp c o) := by
  rintro r ⟨⟩; exact ⟨rfl, by simp [rebuild, opMap, opGroup5, mkM, decF_setWidth, Mods.unpack_pack]⟩

theorem ldv (c : Ctl) (o : OpsM) : Statement (.ldv c o) := by
  rintro r ⟨⟩; exact ⟨rfl, by simp [rebuild, opMap, opGroup5, mkM, decF_setWidth, Mods.unpack_pack]⟩

theorem stv (c : Ctl) (o : OpsM) : Statement (.stv c o) := by
  rintro r ⟨⟩; exact ⟨rfl, by simp [rebuild, opMap, opGroup5, mkM, decF_setWidth, Mods.unpack_pack]⟩

theorem ldu (c : Ctl) (o : OpsM) : Statement (.ldu c o) := by
  rintro r ⟨⟩; exact ⟨rfl, by simp [rebuild, opMap, opGroup5, mkM, decF_setWidth, Mods.unpack_pack]⟩

theorem prtest (c : Ctl) (o : OpsMP) : Statement (.prtest c o) := by
  rintro r ⟨⟩; exact ⟨rfl, by simp [rebuild, opMap, opGroup5, mkMP, decP_encP, decF_setWidth, Mods.unpack_pack]⟩

theorem prwait (c : Ctl) (o : OpsM) : Statement (.prwait c o) := by
  rintro r ⟨⟩; exact ⟨rfl, by simp [rebuild, opMap, opGroup5, mkM, decF_setWidth, Mods.unpack_pack]⟩

theorem cpkick (c : Ctl) (o : OpsM) : Statement (.cpkick c o) := by
  rintro r ⟨⟩; exact ⟨rfl, by simp [rebuild, opMap, opGroup6, mkM, decF_setWidth, Mods.unpack_pack]⟩

theorem cpstat (c : Ctl) (o : OpsV) : Statement (.cpstat c o) := by
  rintro r ⟨⟩; exact ⟨rfl, by simp [rebuild, opMap, opGroup6, mkV, Mods.unpack_pack]⟩

theorem cpcancel (c : Ctl) (o : OpsV) : Statement (.cpcancel c o) := by
  rintro r ⟨⟩; exact ⟨rfl, by simp [rebuild, opMap, opGroup6, mkV, Mods.unpack_pack]⟩

theorem rltest (c : Ctl) (o : OpsMP) : Statement (.rltest c o) := by
  rintro r ⟨⟩; exact ⟨rfl, by simp [rebuild, opMap, opGroup6, mkMP, decP_encP, decF_setWidth, Mods.unpack_pack]⟩

theorem cpin (c : Ctl) (o : OpsM) : Statement (.cpin c o) := by
  rintro r ⟨⟩; exact ⟨rfl, by simp [rebuild, opMap, opGroup6, mkM, decF_setWidth, Mods.unpack_pack]⟩

theorem cpout (c : Ctl) (o : OpsM) : Statement (.cpout c o) := by
  rintro r ⟨⟩; exact ⟨rfl, by simp [rebuild, opMap, opGroup6, mkM, decF_setWidth, Mods.unpack_pack]⟩

theorem vld (c : Ctl) (o : OpsM) : Statement (.vld c o) := by
  rintro r ⟨⟩; exact ⟨rfl, by simp [rebuild, opMap, opGroup7, mkM, decF_setWidth, Mods.unpack_pack]⟩

theorem vst (c : Ctl) (o : OpsM) : Statement (.vst c o) := by
  rintro r ⟨⟩; exact ⟨rfl, by simp [rebuild, opMap, opGroup7, mkM, decF_setWidth, Mods.unpack_pack]⟩

theorem vadd (c : Ctl) (o : OpsM) : Statement (.vadd c o) := by
  rintro r ⟨⟩; exact ⟨rfl, by simp [rebuild, opMap, opGroup7, mkM, decF_setWidth, Mods.unpack_pack]⟩

theorem vprobe (c : Ctl) (o : OpsM) : Statement (.vprobe c o) := by
  rintro r ⟨⟩; exact ⟨rfl, by simp [rebuild, opMap, opGroup7, mkM, decF_setWidth, Mods.unpack_pack]⟩

theorem vnbr (c : Ctl) (o : OpsM) : Statement (.vnbr c o) := by
  rintro r ⟨⟩; exact ⟨rfl, by simp [rebuild, opMap, opGroup7, mkM, decF_setWidth, Mods.unpack_pack]⟩

theorem vtld (c : Ctl) (o : OpsM) : Statement (.vtld c o) := by
  rintro r ⟨⟩; exact ⟨rfl, by simp [rebuild, opMap, opGroup7, mkM, decF_setWidth, Mods.unpack_pack]⟩

theorem valloc (c : Ctl) (o : OpsM) : Statement (.valloc c o) := by
  rintro r ⟨⟩; exact ⟨rfl, by simp [rebuild, opMap, opGroup7, mkM, decF_setWidth, Mods.unpack_pack]⟩

theorem vfree (c : Ctl) (o : OpsM) : Statement (.vfree c o) := by
  rintro r ⟨⟩; exact ⟨rfl, by simp [rebuild, opMap, opGroup7, mkM, decF_setWidth, Mods.unpack_pack]⟩

theorem vshoot (c : Ctl) (o : OpsM) : Statement (.vshoot c o) := by
  rintro r ⟨⟩; exact ⟨rfl, by simp [rebuild, opMap, opGroup7, mkM, decF_setWidth, Mods.unpack_pack]⟩

theorem vbgrd (c : Ctl) (o : OpsM) : Statement (.vbgrd c o) := by
  rintro r ⟨⟩; exact ⟨rfl, by simp [rebuild, opMap, opGroup7, mkM, decF_setWidth, Mods.unpack_pack]⟩

theorem gthr (c : Ctl) (o : OpsM) : Statement (.gthr c o) := by
  rintro r ⟨⟩; exact ⟨rfl, by simp [rebuild, opMap, opGroup8, mkM, decF_setWidth, Mods.unpack_pack]⟩

theorem sctr (c : Ctl) (o : OpsM) : Statement (.sctr c o) := by
  rintro r ⟨⟩; exact ⟨rfl, by simp [rebuild, opMap, opGroup8, mkM, decF_setWidth, Mods.unpack_pack]⟩

theorem sctra (c : Ctl) (o : OpsM) : Statement (.sctra c o) := by
  rintro r ⟨⟩; exact ⟨rfl, by simp [rebuild, opMap, opGroup8, mkM, decF_setWidth, Mods.unpack_pack]⟩

theorem confl (c : Ctl) (o : OpsV) : Statement (.confl c o) := by
  rintro r ⟨⟩; exact ⟨rfl, by simp [rebuild, opMap, opGroup8, mkV, Mods.unpack_pack]⟩

theorem cmbn (c : Ctl) (o : OpsV) : Statement (.cmbn c o) := by
  rintro r ⟨⟩; exact ⟨rfl, by simp [rebuild, opMap, opGroup8, mkV, Mods.unpack_pack]⟩

theorem spawni (c : Ctl) (o : OpsV) : Statement (.spawni c o) := by
  rintro r ⟨⟩; exact ⟨rfl, by simp [rebuild, opMap, opGroup8, mkV, Mods.unpack_pack]⟩

theorem itemloop (c : Ctl) (k : BitVec 4) (d : VReg) (off : BitVec 32) : Statement (.itemloop c k d off) := by
  rintro r ⟨⟩; exact ⟨rfl, by simp [rebuild, opMap, opGroup8, mkJK, decF_setWidth]⟩

theorem itemget (c : Ctl) (o : OpsV) : Statement (.itemget c o) := by
  rintro r ⟨⟩; exact ⟨rfl, by simp [rebuild, opMap, opGroup8, mkV, Mods.unpack_pack]⟩

theorem itemend (c : Ctl) (m : Mods) : Statement (.itemend c m) := by
  rintro r ⟨⟩; exact ⟨rfl, by simp [rebuild, opMap, opGroup8, mkZ, Mods.unpack_pack]⟩

theorem obres (c : Ctl) (d : VReg) (a : VReg) (m : Mods) : Statement (.obres c d a m) := by
  rintro r ⟨⟩; exact ⟨rfl, by simp [rebuild, opMap, opGroup9, mkOBR, Mods.unpack_pack]⟩

theorem obrel (c : Ctl) (m : Mods) : Statement (.obrel c m) := by
  rintro r ⟨⟩; exact ⟨rfl, by simp [rebuild, opMap, opGroup9, mkZ, Mods.unpack_pack]⟩

theorem shape (c : Ctl) (a : VReg) (b : VReg) (m : Mods) : Statement (.shape c a b m) := by
  rintro r ⟨⟩; exact ⟨rfl, by simp [rebuild, opMap, opGroup9, mkSHP, Mods.unpack_pack]⟩

theorem mxldb (c : Ctl) (a : VReg) (m : Mods) : Statement (.mxldb c a m) := by
  rintro r ⟨⟩; exact ⟨rfl, by simp [rebuild, opMap, opGroup9, mkSA, Mods.unpack_pack]⟩

theorem mxlda (c : Ctl) (a : VReg) (m : Mods) : Statement (.mxlda c a m) := by
  rintro r ⟨⟩; exact ⟨rfl, by simp [rebuild, opMap, opGroup9, mkSA, Mods.unpack_pack]⟩

theorem mxmac (c : Ctl) (t : BitVec 4) (a : VReg) (m : Mods) : Statement (.mxmac c t a m) := by
  rintro r ⟨⟩; exact ⟨rfl, by simp [rebuild, opMap, opGroup9, mkTA, decF_setWidth, Mods.unpack_pack]⟩

theorem mxmacs (c : Ctl) (t : BitVec 4) (a : VReg) (m : Mods) : Statement (.mxmacs c t a m) := by
  rintro r ⟨⟩; exact ⟨rfl, by simp [rebuild, opMap, opGroup9, mkTA, decF_setWidth, Mods.unpack_pack]⟩

theorem mxzero (c : Ctl) (t : BitVec 4) (a : VReg) (m : Mods) : Statement (.mxzero c t a m) := by
  rintro r ⟨⟩; exact ⟨rfl, by simp [rebuild, opMap, opGroup9, mkTA, decF_setWidth, Mods.unpack_pack]⟩

theorem mxst (c : Ctl) (t : BitVec 4) (a : VReg) (b : VReg) (m : Mods) : Statement (.mxst c t a b m) := by
  rintro r ⟨⟩; exact ⟨rfl, by simp [rebuild, opMap, opGroup9, mkTAB, decF_setWidth, Mods.unpack_pack]⟩

theorem mxcvt (c : Ctl) (t : BitVec 4) (a : VReg) (b : VReg) (m : Mods) : Statement (.mxcvt c t a b m) := by
  rintro r ⟨⟩; exact ⟨rfl, by simp [rebuild, opMap, opGroup9, mkTAB, decF_setWidth, Mods.unpack_pack]⟩

theorem mxver (c : Ctl) (d : VReg) (t : BitVec 4) : Statement (.mxver c d t) := by
  rintro r ⟨⟩; exact ⟨rfl, by simp [rebuild, opMap, opGroup9, mkDT, decF_setWidth]⟩

theorem mxbar (c : Ctl) (k : BitVec 4) : Statement (.mxbar c k) := by
  rintro r ⟨⟩; exact ⟨rfl, by simp [rebuild, opMap, opGroup9, mkS1, decF_setWidth]⟩

theorem mxwait (c : Ctl) (k : BitVec 4) : Statement (.mxwait c k) := by
  rintro r ⟨⟩; exact ⟨rfl, by simp [rebuild, opMap, opGroup9, mkS1, decF_setWidth]⟩

theorem mxacq (c : Ctl) (m : Mods) : Statement (.mxacq c m) := by
  rintro r ⟨⟩; exact ⟨rfl, by simp [rebuild, opMap, opGroup9, mkZ, Mods.unpack_pack]⟩

theorem mxrel (c : Ctl) (m : Mods) : Statement (.mxrel c m) := by
  rintro r ⟨⟩; exact ⟨rfl, by simp [rebuild, opMap, opGroup9, mkZ, Mods.unpack_pack]⟩

theorem mxflags (c : Ctl) (d : VReg) (m : Mods) : Statement (.mxflags c d m) := by
  rintro r ⟨⟩; exact ⟨rfl, by simp [rebuild, opMap, opGroup9, mkSD, Mods.unpack_pack]⟩

theorem schrun (c : Ctl) (o : OpsM) : Statement (.schrun c o) := by
  rintro r ⟨⟩; exact ⟨rfl, by simp [rebuild, opMap, opGroup10, mkM, decF_setWidth, Mods.unpack_pack]⟩

theorem ddiv (c : Ctl) (o : OpsV) : Statement (.ddiv c o) := by
  rintro r ⟨⟩; exact ⟨rfl, by simp [rebuild, opMap, opGroup10, mkV, Mods.unpack_pack]⟩

theorem dsqrt (c : Ctl) (o : OpsV) : Statement (.dsqrt c o) := by
  rintro r ⟨⟩; exact ⟨rfl, by simp [rebuild, opMap, opGroup10, mkV, Mods.unpack_pack]⟩

theorem pivchk (c : Ctl) (o : OpsV) : Statement (.pivchk c o) := by
  rintro r ⟨⟩; exact ⟨rfl, by simp [rebuild, opMap, opGroup10, mkV, Mods.unpack_pack]⟩

theorem trstep (c : Ctl) (o : OpsV) : Statement (.trstep c o) := by
  rintro r ⟨⟩; exact ⟨rfl, by simp [rebuild, opMap, opGroup10, mkV, Mods.unpack_pack]⟩

theorem schstat (c : Ctl) (o : OpsV) : Statement (.schstat c o) := by
  rintro r ⟨⟩; exact ⟨rfl, by simp [rebuild, opMap, opGroup10, mkV, Mods.unpack_pack]⟩

theorem atom (c : Ctl) (o : OpsM) : Statement (.atom c o) := by
  rintro r ⟨⟩; exact ⟨rfl, by simp [rebuild, opMap, opGroup11, mkM, decF_setWidth, Mods.unpack_pack]⟩

theorem atomc (c : Ctl) (o : OpsM) : Statement (.atomc c o) := by
  rintro r ⟨⟩; exact ⟨rfl, by simp [rebuild, opMap, opGroup11, mkM, decF_setWidth, Mods.unpack_pack]⟩

theorem fence (c : Ctl) (m : Mods) : Statement (.fence c m) := by
  rintro r ⟨⟩; exact ⟨rfl, by simp [rebuild, opMap, opGroup11, mkZ, Mods.unpack_pack]⟩

theorem ldacq (c : Ctl) (o : OpsM) : Statement (.ldacq c o) := by
  rintro r ⟨⟩; exact ⟨rfl, by simp [rebuild, opMap, opGroup11, mkM, decF_setWidth, Mods.unpack_pack]⟩

theorem strel (c : Ctl) (o : OpsM) : Statement (.strel c o) := by
  rintro r ⟨⟩; exact ⟨rfl, by simp [rebuild, opMap, opGroup11, mkM, decF_setWidth, Mods.unpack_pack]⟩

theorem cjinit (c : Ctl) (o : OpsM) : Statement (.cjinit c o) := by
  rintro r ⟨⟩; exact ⟨rfl, by simp [rebuild, opMap, opGroup11, mkM, decF_setWidth, Mods.unpack_pack]⟩

theorem cjarr (c : Ctl) (o : OpsM) : Statement (.cjarr c o) := by
  rintro r ⟨⟩; exact ⟨rfl, by simp [rebuild, opMap, opGroup11, mkM, decF_setWidth, Mods.unpack_pack]⟩

theorem cjdrop (c : Ctl) (o : OpsM) : Statement (.cjdrop c o) := by
  rintro r ⟨⟩; exact ⟨rfl, by simp [rebuild, opMap, opGroup11, mkM, decF_setWidth, Mods.unpack_pack]⟩

theorem cjwait (c : Ctl) (o : OpsM) : Statement (.cjwait c o) := by
  rintro r ⟨⟩; exact ⟨rfl, by simp [rebuild, opMap, opGroup11, mkM, decF_setWidth, Mods.unpack_pack]⟩

theorem cjbyte (c : Ctl) (o : OpsM) : Statement (.cjbyte c o) := by
  rintro r ⟨⟩; exact ⟨rfl, by simp [rebuild, opMap, opGroup11, mkM, decF_setWidth, Mods.unpack_pack]⟩

theorem cjtest (c : Ctl) (o : OpsM) : Statement (.cjtest c o) := by
  rintro r ⟨⟩; exact ⟨rfl, by simp [rebuild, opMap, opGroup11, mkM, decF_setWidth, Mods.unpack_pack]⟩

theorem spawn (c : Ctl) (o : OpsMP) : Statement (.spawn c o) := by
  rintro r ⟨⟩; exact ⟨rfl, by simp [rebuild, opMap, opGroup12, mkMP, decP_encP, decF_setWidth, Mods.unpack_pack]⟩

theorem tjoin (c : Ctl) (o : OpsV) : Statement (.tjoin c o) := by
  rintro r ⟨⟩; exact ⟨rfl, by simp [rebuild, opMap, opGroup12, mkV, Mods.unpack_pack]⟩

theorem tend (c : Ctl) (m : Mods) : Statement (.tend c m) := by
  rintro r ⟨⟩; exact ⟨rfl, by simp [rebuild, opMap, opGroup12, mkZ, Mods.unpack_pack]⟩

theorem tself (c : Ctl) (o : OpsV) : Statement (.tself c o) := by
  rintro r ⟨⟩; exact ⟨rfl, by simp [rebuild, opMap, opGroup12, mkV, Mods.unpack_pack]⟩

theorem rpost (c : Ctl) (o : OpsV) : Statement (.rpost c o) := by
  rintro r ⟨⟩; exact ⟨rfl, by simp [rebuild, opMap, opGroup12, mkV, Mods.unpack_pack]⟩

theorem rread (c : Ctl) (o : OpsV) : Statement (.rread c o) := by
  rintro r ⟨⟩; exact ⟨rfl, by simp [rebuild, opMap, opGroup12, mkV, Mods.unpack_pack]⟩

theorem rset (c : Ctl) (o : OpsV) : Statement (.rset c o) := by
  rintro r ⟨⟩; exact ⟨rfl, by simp [rebuild, opMap, opGroup12, mkV, Mods.unpack_pack]⟩

theorem inpost (c : Ctl) (o : OpsM) : Statement (.inpost c o) := by
  rintro r ⟨⟩; exact ⟨rfl, by simp [rebuild, opMap, opGroup12, mkM, decF_setWidth, Mods.unpack_pack]⟩

theorem snap (c : Ctl) (o : OpsM) : Statement (.snap c o) := by
  rintro r ⟨⟩; exact ⟨rfl, by simp [rebuild, opMap, opGroup12, mkM, decF_setWidth, Mods.unpack_pack]⟩

theorem launch (c : Ctl) (o : OpsMP) : Statement (.launch c o) := by
  rintro r ⟨⟩; exact ⟨rfl, by simp [rebuild, opMap, opGroup12, mkMP, decP_encP, decF_setWidth, Mods.unpack_pack]⟩

theorem lwait (c : Ctl) (o : OpsV) : Statement (.lwait c o) := by
  rintro r ⟨⟩; exact ⟨rfl, by simp [rebuild, opMap, opGroup12, mkV, Mods.unpack_pack]⟩

theorem capld (c : Ctl) (cd : BitVec 5) (ca : BitVec 5) (b : VReg) (m : Mods) : Statement (.capld c cd ca b m) := by
  rintro r ⟨⟩; exact ⟨rfl, by simp [rebuild, opMap, opGroup13, mkCCB, decF_setWidth, Mods.unpack_pack]⟩

theorem capst (c : Ctl) (cd : BitVec 5) (ca : BitVec 5) (b : VReg) (m : Mods) : Statement (.capst c cd ca b m) := by
  rintro r ⟨⟩; exact ⟨rfl, by simp [rebuild, opMap, opGroup13, mkCCB, decF_setWidth, Mods.unpack_pack]⟩

theorem capnar (c : Ctl) (cd : BitVec 5) (ca : BitVec 5) (b : VReg) (m : Mods) : Statement (.capnar c cd ca b m) := by
  rintro r ⟨⟩; exact ⟨rfl, by simp [rebuild, opMap, opGroup13, mkCCB, decF_setWidth, Mods.unpack_pack]⟩

theorem capoff (c : Ctl) (cd : BitVec 5) (ca : BitVec 5) (m : Mods) : Statement (.capoff c cd ca m) := by
  rintro r ⟨⟩; exact ⟨rfl, by simp [rebuild, opMap, opGroup13, mkCC, decF_setWidth, Mods.unpack_pack]⟩

theorem captst (c : Ctl) (d : VReg) (ca : BitVec 5) (b : VReg) (m : Mods) : Statement (.captst c d ca b m) := by
  rintro r ⟨⟩; exact ⟨rfl, by simp [rebuild, opMap, opGroup13, mkDCB, decF_setWidth, Mods.unpack_pack]⟩

theorem capget (c : Ctl) (d : VReg) (ca : BitVec 5) (m : Mods) : Statement (.capget c d ca m) := by
  rintro r ⟨⟩; exact ⟨rfl, by simp [rebuild, opMap, opGroup13, mkDC, decF_setWidth, Mods.unpack_pack]⟩

theorem capmov (c : Ctl) (cd : BitVec 5) (ca : BitVec 5) (m : Mods) : Statement (.capmov c cd ca m) := by
  rintro r ⟨⟩; exact ⟨rfl, by simp [rebuild, opMap, opGroup13, mkCC, decF_setWidth, Mods.unpack_pack]⟩

theorem srd (c : Ctl) (d : VReg) (m : Mods) : Statement (.srd c d m) := by
  rintro r ⟨⟩; exact ⟨rfl, by simp [rebuild, opMap, opGroup14, mkSD, Mods.unpack_pack]⟩

theorem swr (c : Ctl) (a : VReg) (m : Mods) : Statement (.swr c a m) := by
  rintro r ⟨⟩; exact ⟨rfl, by simp [rebuild, opMap, opGroup14, mkSA, Mods.unpack_pack]⟩

theorem trap (c : Ctl) (m : Mods) : Statement (.trap c m) := by
  rintro r ⟨⟩; exact ⟨rfl, by simp [rebuild, opMap, opGroup14, mkZ, Mods.unpack_pack]⟩

theorem brkpt (c : Ctl) (m : Mods) : Statement (.brkpt c m) := by
  rintro r ⟨⟩; exact ⟨rfl, by simp [rebuild, opMap, opGroup14, mkZ, Mods.unpack_pack]⟩

theorem eret (c : Ctl) (m : Mods) : Statement (.eret c m) := by
  rintro r ⟨⟩; exact ⟨rfl, by simp [rebuild, opMap, opGroup14, mkZ, Mods.unpack_pack]⟩

theorem beat (c : Ctl) (m : Mods) : Statement (.beat c m) := by
  rintro r ⟨⟩; exact ⟨rfl, by simp [rebuild, opMap, opGroup14, mkZ, Mods.unpack_pack]⟩

theorem ctxsv (c : Ctl) (o : OpsM) : Statement (.ctxsv c o) := by
  rintro r ⟨⟩; exact ⟨rfl, by simp [rebuild, opMap, opGroup14, mkM, decF_setWidth, Mods.unpack_pack]⟩

theorem ctxld (c : Ctl) (o : OpsM) : Statement (.ctxld c o) := by
  rintro r ⟨⟩; exact ⟨rfl, by simp [rebuild, opMap, opGroup14, mkM, decF_setWidth, Mods.unpack_pack]⟩

theorem icinv (c : Ctl) (m : Mods) : Statement (.icinv c m) := by
  rintro r ⟨⟩; exact ⟨rfl, by simp [rebuild, opMap, opGroup14, mkZ, Mods.unpack_pack]⟩

theorem wfi (c : Ctl) (m : Mods) : Statement (.wfi c m) := by
  rintro r ⟨⟩; exact ⟨rfl, by simp [rebuild, opMap, opGroup14, mkZ, Mods.unpack_pack]⟩

theorem regq (c : Ctl) (o : OpsV) : Statement (.regq c o) := by
  rintro r ⟨⟩; exact ⟨rfl, by simp [rebuild, opMap, opGroup14, mkV, Mods.unpack_pack]⟩

theorem nopCommand (h : CmdHdr) : Statement (.nopCommand h) := by intro r h; cases h

theorem launchCommand (h : CmdHdr) (b : LaunchBody) : Statement (.launchCommand h b) := by intro r h; cases h

theorem start (h : CmdHdr) (b : LaunchBody) : Statement (.start h b) := by intro r h; cases h

theorem stop (h : CmdHdr) (loadh : BitVec 64) (progidx : BitVec 16) : Statement (.stop h loadh progidx) := by intro r h; cases h

theorem load (h : CmdHdr) (iova : BitVec 64) (len : BitVec 32) : Statement (.load h iova len) := by intro r h; cases h

theorem unload (h : CmdHdr) (loadh : BitVec 64) : Statement (.unload h loadh) := by intro r h; cases h

theorem objcreate (h : CmdHdr) (b : ObjCreateBody) : Statement (.objcreate h b) := by intro r h; cases h

theorem objdestroy (h : CmdHdr) (oid : BitVec 24) : Statement (.objdestroy h oid) := by intro r h; cases h

theorem hcopy (h : CmdHdr) (b : HcopyBody) : Statement (.hcopy h b) := by intro r h; cases h

theorem waitcj (h : CmdHdr) (oid : BitVec 32) (off : BitVec 64) (token : BitVec 32) : Statement (.waitcj h oid off token) := by intro r h; cases h

theorem createq (h : CmdHdr) (b : CreateqBody) : Statement (.createq h b) := by intro r h; cases h

theorem destroyq (h : CmdHdr) (qn : BitVec 16) : Statement (.destroyq h qn) := by intro r h; cases h

theorem capmint (h : CmdHdr) (b : CapmintBody) : Statement (.capmint h b) := by intro r h; cases h

theorem pageresume (h : CmdHdr) (oid : BitVec 32) (off : BitVec 64) : Statement (.pageresume h oid off) := by intro r h; cases h

theorem partcfg (h : CmdHdr) (b : PartcfgBody) : Statement (.partcfg h b) := by intro r h; cases h

theorem partdel (h : CmdHdr) (part : BitVec 8) : Statement (.partdel h part) := by intro r h; cases h

theorem vfbind (h : CmdHdr) (vf : BitVec 16) (part : BitVec 8) : Statement (.vfbind h vf part) := by intro r h; cases h

theorem gangpeers (h : CmdHdr) (vf : BitVec 16) (peers : List (BitVec 16)) : Statement (.gangpeers h vf peers) := by intro r h; cases h

theorem shareobj (h : CmdHdr) (b : ShareobjBody) : Statement (.shareobj h b) := by intro r h; cases h

theorem repair (h : CmdHdr) (core : BitVec 16) : Statement (.repair h core) := by intro r h; cases h

theorem fwstage (h : CmdHdr) (iova : BitVec 64) (len : BitVec 32) : Statement (.fwstage h iova len) := by intro r h; cases h

theorem fwact (h : CmdHdr) : Statement (.fwact h) := by intro r h; cases h

theorem logread (h : CmdHdr) (b : LogreadBody) : Statement (.logread h b) := by intro r h; cases h

theorem dbgresume (h : CmdHdr) (part : BitVec 8) (block : BitVec 32) : Statement (.dbgresume h part block) := by intro r h; cases h

theorem commandCompletion (k : Nat) : Statement (.commandCompletion k) := by intro r h; cases h

theorem doorbell (vi q : Nat) (tail : BitVec 32) : Statement (.doorbell vi q tail) := by intro r h; cases h

theorem aqctlEnable (vi : Nat) : Statement (.aqctlEnable vi) := by intro r h; cases h

theorem aqctlDisable (vi : Nat) : Statement (.aqctlDisable vi) := by intro r h; cases h

theorem adminQueueDrained (vi : Nat) : Statement (.adminQueueDrained vi) := by intro r h; cases h

theorem sysstatRead  : Statement .sysstatRead := by intro r h; cases h

theorem registerWrite (vi off : Nat) (val : BitVec 64) : Statement (.registerWrite vi off val) := by intro r h; cases h

theorem conventionalReset  : Statement .conventionalReset := by intro r h; cases h

theorem coldPowerOn  : Statement .coldPowerOn := by intro r h; cases h

theorem bootStageDone (image : List (BitVec 8)) (pass : Bool) : Statement (.bootStageDone image pass) := by intro r h; cases h

theorem failedStartReset  : Statement .failedStartReset := by intro r h; cases h

theorem readyTimeout  : Statement .readyTimeout := by intro r h; cases h

theorem functionLevelReset (vf : Nat) : Statement (.functionLevelReset vf) := by intro r h; cases h

theorem ideStreamFault  : Statement .ideStreamFault := by intro r h; cases h

theorem dmaError (k : Nat) (onStatus : Bool) : Statement (.dmaError k onStatus) := by intro r h; cases h

theorem thermalWarning (compute hub : BitVec 8) : Statement (.thermalWarning compute hub) := by intro r h; cases h

theorem thermalWarningClear (compute hub : BitVec 8) : Statement (.thermalWarningClear compute hub) := by intro r h; cases h

theorem thermalStop (compute hub : BitVec 8) : Statement (.thermalStop compute hub) := by intro r h; cases h

theorem getVersion (port : Nat) : Statement (.getVersion port) := by intro r h; cases h

theorem getCapabilities (port : Nat) : Statement (.getCapabilities port) := by intro r h; cases h

theorem negotiateAlgorithms (port : Nat) : Statement (.negotiateAlgorithms port) := by intro r h; cases h

theorem getDigests (port : Nat) : Statement (.getDigests port) := by intro r h; cases h

theorem getCertificate (port slot : Nat) : Statement (.getCertificate port slot) := by intro r h; cases h

theorem challenge (port : Nat) (nonce : BitVec 256) : Statement (.challenge port nonce) := by intro r h; cases h

theorem getMeasurements (port : Nat) : Statement (.getMeasurements port) := by intro r h; cases h

theorem keyExchange (port : Nat) : Statement (.keyExchange port) := by intro r h; cases h

theorem finish (port : Nat) : Statement (.finish port) := by intro r h; cases h

theorem endSession (port : Nat) : Statement (.endSession port) := by intro r h; cases h

theorem ideKm (port : Nat) (key : BitVec 256) : Statement (.ideKm port key) := by intro r h; cases h

theorem beatWindowEnd  : Statement .beatWindowEnd := by intro r h; cases h

theorem quantumEnd (core : Nat) : Statement (.quantumEnd core) := by intro r h; cases h

theorem runawayBlock (core seq : Nat) : Statement (.runawayBlock core seq) := by intro r h; cases h

theorem residentSetChoice (part : Nat) (keep : List (Nat × Nat)) : Statement (.residentSetChoice part keep) := by intro r h; cases h

theorem eviction (core seq : Nat) : Statement (.eviction core seq) := by intro r h; cases h

theorem blockRestore (k core : Nat) : Statement (.blockRestore k core) := by intro r h; cases h

theorem eccCorrected (site : EccSite) : Statement (.eccCorrected site) := by intro r h; cases h

theorem mcheck (site : EccSite) : Statement (.mcheck site) := by intro r h; cases h

theorem unhandledTrapAbort (core seq : Nat) : Statement (.unhandledTrapAbort core seq) := by intro r h; cases h

theorem idemAbort (core seq : Nat) : Statement (.idemAbort core seq) := by intro r h; cases h

theorem icacheFill (core k : Nat) : Statement (.icacheFill core k) := by intro r h; cases h

theorem yieldExpiry (core slice stamp : Nat) : Statement (.yieldExpiry core slice stamp) := by intro r h; cases h

theorem loadDataArrival (k : Nat) : Statement (.loadDataArrival k) := by intro r h; cases h

theorem longLatencyComplete (k : Nat) : Statement (.longLatencyComplete k) := by intro r h; cases h

theorem remoteStorePerformed (k : Nat) : Statement (.remoteStorePerformed k) := by intro r h; cases h

theorem copyRecordStart (core k : Nat) : Statement (.copyRecordStart core k) := by intro r h; cases h

theorem copyLineArrival (core k n : Nat) : Statement (.copyLineArrival core k n) := by intro r h; cases h

theorem cpkickRegister (k : Nat) : Statement (.cpkickRegister k) := by intro r h; cases h

theorem collapseRequest (k : Nat) : Statement (.collapseRequest k) := by intro r h; cases h

theorem collapseAck (k die : Nat) : Statement (.collapseAck k die) := by intro r h; cases h

theorem sequencerWrite (k : Nat) : Statement (.sequencerWrite k) := by intro r h; cases h

theorem pageCompress (oid page : Nat) (slot : BitVec 24) : Statement (.pageCompress oid page slot) := by intro r h; cases h

theorem pageExpand (oid page : Nat) (frame : Option (BitVec 24)) : Statement (.pageExpand oid page frame) := by intro r h; cases h

theorem clbWalk (k : Nat) : Statement (.clbWalk k) := by intro r h; cases h

theorem tileLineFetch (k : Nat) : Statement (.tileLineFetch k) := by intro r h; cases h

theorem tileAllocation (k : Nat) : Statement (.tileAllocation k) := by intro r h; cases h

theorem tileRemoval (k : Nat) : Statement (.tileRemoval k) := by intro r h; cases h

theorem shootdownMark (k core : Nat) : Statement (.shootdownMark k core) := by intro r h; cases h

theorem backgroundWrite (k : Nat) : Statement (.backgroundWrite k) := by intro r h; cases h

theorem lexiconRowPerformed (k : Nat) : Statement (.lexiconRowPerformed k) := by intro r h; cases h

theorem itemRefill (core cls : Nat) : Statement (.itemRefill core cls) := by intro r h; cases h

theorem matrixOpComplete (core seq k : Nat) : Statement (.matrixOpComplete core seq k) := by intro r h; cases h

theorem matrixOpStart (core seq k : Nat) : Statement (.matrixOpStart core seq k) := by intro r h; cases h

theorem schrunRegister (k : Nat) : Statement (.schrunRegister k) := by intro r h; cases h

theorem ticketClaim (core : Nat) : Statement (.ticketClaim core) := by intro r h; cases h

theorem taskStart (core : Nat) : Statement (.taskStart core) := by intro r h; cases h

theorem steal (core : Nat) : Statement (.steal core) := by intro r h; cases h

theorem landingReturn (core : Nat) : Statement (.landingReturn core) := by intro r h; cases h

theorem blockRetire (core seq : Nat) : Statement (.blockRetire core seq) := by intro r h; cases h

theorem pendingRetry (core : Nat) : Statement (.pendingRetry core) := by intro r h; cases h

theorem gridComplete (g : Nat) : Statement (.gridComplete g) := by intro r h; cases h

theorem gangReservation (gang : BitVec 32) : Statement (.gangReservation gang) := by intro r h; cases h

theorem settleDispatch (die : Nat) : Statement (.settleDispatch die) := by intro r h; cases h

theorem postApply (k : Nat) : Statement (.postApply k) := by intro r h; cases h

theorem convergenceSweep (prog : Nat) : Statement (.convergenceSweep prog) := by intro r h; cases h

theorem deferredActivation  : Statement .deferredActivation := by intro r h; cases h

theorem tftpBlock (data : List (BitVec 8)) : Statement (.tftpBlock data) := by intro r h; cases h

theorem tftpRetry  : Statement .tftpRetry := by intro r h; cases h

theorem vfEnable (n : Nat) : Statement (.vfEnable n) := by intro r h; cases h

theorem pageKindChange (oid page : Nat) (kind : BitVec 2) : Statement (.pageKindChange oid page kind) := by intro r h; cases h

end Sys2Proof.Laws.RoundTrip
end

