-- ==== Sys2Proof/Laws/Warps.lean ====
section
/-!
SUPPORT. What a change of a core, a block or a warp does to every core, block and warp, and what changing the members of a group can do.
-/
set_option autoImplicit false

namespace Sys2Proof.Machine

/-! ### Cores -/

theorem core_setCore (s : State) (c k : Nat) (x : Core) : (s.setCore c x).core k = if k = c then x else s.core k := by
  by_cases h : k = c
  · subst h; simp [State.setCore, State.core, smGetD_smSet_same]
  · simp [State.setCore, State.core, smGetD_smSet_other _ _ _ _ _ h, h]

theorem core_modCore (s : State) (c k : Nat) (f : Core → Core) : (s.modCore c f).core k = if k = c then f (s.core c) else s.core k :=
  core_setCore s c k _

/-- A change of a core keeps what the change keeps of each core. -/
theorem core_modCore_keeps {γ : Type} (g : Core → γ) (s : State) (c k : Nat) (f : Core → Core) (h : ∀ x, g (f x) = g x) :
    g ((s.modCore c f).core k) = g (s.core k) := by
  rw [core_modCore]; split
  · rename_i e; rw [e, h]
  · rfl

/-! ### Blocks -/

theorem block?_setBlock (s : State) (c q c' q' : Nat) (b : Block) :
    (s.setBlock c q b).block? c' q' = if c' = c ∧ q' = q then some b else s.block? c' q' := by
  simp only [State.setBlock, State.block?, core_modCore]
  by_cases hc : c' = c
  · subst hc
    by_cases hq : q' = q
    · subst hq; simp [smGet_smSet_same]
    · simp [smGet_smSet_other _ _ _ _ hq, hq]
  · simp [hc]

theorem block?_modBlock (s : State) (c q c' q' : Nat) (f : Block → Block) :
    (s.modBlock c q f).block? c' q' = if c' = c ∧ q' = q then (s.block? c q).map f else s.block? c' q' := by
  unfold State.modBlock
  cases hb : s.block? c q with
  | none => by_cases h : c' = c ∧ q' = q <;> simp [h, hb]
  | some b => rw [block?_setBlock]; simp

/-- A change of a core that leaves its blocks leaves every block. -/
theorem block?_modCore (s : State) (c c' q' : Nat) (f : Core → Core) (h : ∀ x, (f x).blocks = x.blocks) :
    (s.modCore c f).block? c' q' = s.block? c' q' := by
  simp only [State.block?, core_modCore]
  by_cases e : c' = c <;> simp [e, h]

/-- A change of a block keeps what the change keeps of each block. -/
theorem block_modBlock_keeps {γ : Type} (g : Block → γ) (s : State) (c q c' q' : Nat) (f : Block → Block) (h : ∀ x, g (f x) = g x) :
    g ((s.modBlock c q f).block c' q') = g (s.block c' q') := by
  simp only [State.block, block?_modBlock]
  by_cases e : c' = c ∧ q' = q
  · rw [if_pos e, e.1, e.2]; cases s.block? c q <;> simp [h]
  · rw [if_neg e]

/-- A change of a block keeps what a change of a core's blocks keeps. -/
theorem core_modBlock_keeps {γ : Type} (g : Core → γ) (hg : ∀ k l, g { k with blocks := l } = g k) (s : State) (c q k : Nat) (f : Block → Block) :
    g ((s.modBlock c q f).core k) = g (s.core k) := by
  unfold State.modBlock
  cases s.block? c q with
  | none => rfl
  | some b => exact core_modCore_keeps g s c k _ fun x => hg x _

/-! ### Warps -/

/-- A change of a warp of a resident block, seen at every warp. -/
theorem warp_modWarp (s : State) (w v : WRef) (f : Warp → Warp) (hb : (s.block? w.core w.seq).isSome) :
    (s.modWarp w f).warp v = if v = w then f (s.warp w) else s.warp v := by
  obtain ⟨b, hb⟩ := Option.isSome_iff_exists.1 hb
  simp only [State.modWarp, State.warp, State.block, block?_modBlock, hb]
  by_cases hh : v.core = w.core ∧ v.seq = w.seq
  · by_cases hw : v.warp = w.warp
    · have : v = w := by cases v; cases w; simp_all
      subst this; simp [smGetD_smSet_same]
    · have : v ≠ w := fun e => hw (by rw [e])
      simp [hh, hb, this, smGetD_smSet_other _ _ _ _ _ hw]
  · have : v ≠ w := fun e => hh (by rw [e]; exact ⟨rfl, rfl⟩)
    simp [hh, this]

/-- Without a resident block nothing changes. -/
theorem modWarp_absent (s : State) (w : WRef) (f : Warp → Warp) (hb : s.block? w.core w.seq = none) : s.modWarp w f = s := by
  simp [State.modWarp, State.modBlock, hb]

/-- A warp of no resident block is empty. -/
theorem warp_absent (s : State) (w : WRef) (hb : s.block? w.core w.seq = none) : s.warp w = {} := by
  simp [State.warp, State.block, hb, smGetD, smGet?]

/-- A change of a warp: every warp is as before, or it is that warp, changed. -/
theorem warp_modWarp_cases (s : State) (w v : WRef) (f : Warp → Warp) :
    (s.modWarp w f).warp v = s.warp v ∨ (v = w ∧ (s.modWarp w f).warp v = f (s.warp w)) := by
  cases hb : s.block? w.core w.seq with
  | none => exact .inl (by rw [modWarp_absent _ _ _ hb])
  | some b =>
    rw [warp_modWarp _ _ _ _ (by simp [hb])]
    by_cases h : v = w <;> simp [h]

theorem block?_modWarp_isSome (s : State) (w : WRef) (f : Warp → Warp) (c q : Nat) :
    ((s.modWarp w f).block? c q).isSome = (s.block? c q).isSome := by
  rw [State.modWarp, block?_modBlock]
  by_cases e : c = w.core ∧ q = w.seq
  · rw [if_pos e, e.1, e.2]; simp
  · rw [if_neg e]

/-- A warp that no member names is as before. -/
theorem warp_modMembers_other (s : State) (ms : List Member) (f : Member → Warp → Warp) (w : WRef) (h : ∀ m ∈ ms, m.w ≠ w) :
    (s.modMembers ms f).warp w = s.warp w := by
  induction ms generalizing s with
  | nil => rfl
  | cons a r ih =>
    rw [State.modMembers, List.foldl_cons, ← State.modMembers, ih _ fun m hm => h m (List.mem_cons_of_mem _ hm)]
    rcases warp_modWarp_cases s a.w w (f a) with e | ⟨e, -⟩
    · exact e
    · exact absurd e.symm (h a List.mem_cons_self)

/-- What the changes of the members keep of a warp, the whole change keeps. -/
theorem warp_modMembers_induct (P : Warp → Prop) (s : State) (ms : List Member) (f : Member → Warp → Warp) (w : WRef)
    (h0 : P (s.warp w)) (hs : ∀ m ∈ ms, m.w = w → ∀ x, P x → P (f m x)) : P ((s.modMembers ms f).warp w) := by
  induction ms generalizing s with
  | nil => exact h0
  | cons a r ih =>
    rw [State.modMembers, List.foldl_cons, ← State.modMembers]
    refine ih _ ?_ fun m hm => hs m (List.mem_cons_of_mem _ hm)
    rcases warp_modWarp_cases s a.w w (f a) with e | ⟨e1, e2⟩
    · rw [e]; exact h0
    · rw [e2]; exact hs a List.mem_cons_self e1.symm _ (e1 ▸ h0)

theorem warp_modMembers_keeps {γ : Type} (g : Warp → γ) (s : State) (ms : List Member) (f : Member → Warp → Warp) (w : WRef)
    (h : ∀ m x, g (f m x) = g x) : g ((s.modMembers ms f).warp w) = g (s.warp w) :=
  warp_modMembers_induct (fun x => g x = g (s.warp w)) s ms f w rfl fun m _ _ x hx => (h m x).trans hx

/-- Members of distinct warps: each member's warp takes its own change once. -/
theorem warp_modMembers (s : State) (ms : List Member) (f : Member → Warp → Warp) (m : Member) (hm : m ∈ ms)
    (hd : (ms.map fun x => x.w).Nodup) (hb : (s.block? m.w.core m.w.seq).isSome) : (s.modMembers ms f).warp m.w = f m (s.warp m.w) := by
  induction ms generalizing s with
  | nil => simp at hm
  | cons a r ih =>
    rw [List.map_cons, List.nodup_cons] at hd
    rw [State.modMembers, List.foldl_cons, ← State.modMembers]
    rcases List.mem_cons.1 hm with rfl | hr
    · rw [warp_modMembers_other _ _ _ _ fun x hx e => hd.1 (List.mem_map.2 ⟨x, hx, e⟩), warp_modWarp _ _ _ _ hb, if_pos rfl]
    · have hne : m.w ≠ a.w := fun e => hd.1 (List.mem_map.2 ⟨m, hr, e⟩)
      rw [ih _ hr hd.2 (by rw [block?_modWarp_isSome]; exact hb)]
      congr 1
      rcases warp_modWarp_cases s a.w m.w (f a) with e | ⟨e, -⟩
      · exact e
      · exact absurd e hne

/-- The members' changes keep what a change of a block's warps keeps. -/
theorem block_modMembers_keeps {γ : Type} (g : Block → γ) (hg : ∀ b l, g { b with warps := l } = g b) (s : State) (ms : List Member)
    (f : Member → Warp → Warp) (c q : Nat) : g ((s.modMembers ms f).block c q) = g (s.block c q) :=
  foldl_keeps (fun t : State => g (t.block c q)) (fun t (m : Member) => t.modWarp m.w (f m))
    (fun t m => block_modBlock_keeps g t m.w.core m.w.seq c q _ fun b => hg b _) ms s

/-- The members' changes keep what a change of a core's blocks keeps. -/
theorem core_modMembers_keeps {γ : Type} (g : Core → γ) (hg : ∀ k l, g { k with blocks := l } = g k) (s : State) (ms : List Member)
    (f : Member → Warp → Warp) (k : Nat) : g ((s.modMembers ms f).core k) = g (s.core k) :=
  foldl_keeps (fun t : State => g (t.core k)) (fun t (m : Member) => t.modWarp m.w (f m))
    (fun t m => core_modBlock_keeps g hg t m.w.core m.w.seq k _) ms s

/-- A change of a core that leaves its blocks leaves every warp. -/
theorem warp_modCore (s : State) (c : Nat) (w : WRef) (f : Core → Core) (h : ∀ x, (f x).blocks = x.blocks) :
    (s.modCore c f).warp w = s.warp w := by
  simp only [State.warp, State.block, block?_modCore s c _ _ f h]

end Sys2Proof.Machine
end

