-- ==== Sys2Proof/Laws/Work.lean ====
section
/-!
SUPPORT. What the shared operations on records and commands can do: a push on a deque, and a command's access to its capability store.
-/
set_option autoImplicit false

namespace Sys2Proof.Machine

@[simp] theorem spillRecs_cores (rs : List TaskRec) (s : State) : (spillRecs rs s).cores = s.cores := by
  induction rs generalizing s with
  | nil => rfl
  | cons r rs ih =>
    rw [spillRecs, List.foldl_cons]
    refine (ih _).trans ?_
    simp only [State.modJob]; split <;> rfl

/-- What a push that succeeds can do to its deque (R10, R396): the record is at the bottom, and of a full deque the oldest 128 have left. -/
theorem pushDeque_deque {core : Nat} {r : TaskRec} {s t : State} (h : pushDeque core r s = some t) :
    (s.core core).deque.length < 255 ∧ (t.core core).deque = (s.core core).deque ++ [r] ∨
    255 ≤ (s.core core).deque.length ∧ (t.core core).deque = (s.core core).deque.drop 128 ++ [r] := by
  have hc : ∀ rs, (spillRecs rs s).core core = s.core core := fun rs => by simp only [State.core, spillRecs_cores]
  simp only [pushDeque] at h
  split at h
  · cases h; left; exact ⟨‹_›, by simp⟩
  · split at h
    · cases h; right; exact ⟨by omega, by simp [Core.rechosen, hc]⟩
    · cases h

/-- A push never leaves more than the 256 records of R10. -/
theorem pushDeque_bound {core : Nat} {r : TaskRec} {s t : State} (h : pushDeque core r s = some t) (hs : (s.core core).deque.length ≤ 256) :
    (t.core core).deque.length ≤ 256 := by
  obtain ⟨_, e⟩ | ⟨_, e⟩ := pushDeque_deque h <;> simp [e] <;> omega

/-- A command whose access to its capability store aborts completes PAGEABORT with the page; any other has its effect (R123). -/
theorem withStore_cases (h : CmdHdr) (a : Option (BitVec 32 × Nat)) (run : State → State) (s : State) :
    (∃ p, (a.bind (storeGate s)).join = some p ∧ withStore h a run s = finish h 9 (BitVec.ofNat 32 p) s) ∨
    (a.bind (storeGate s)).join = none ∧ withStore h a run s = run s := by
  unfold withStore
  cases a.bind (storeGate s) with
  | none => exact .inr ⟨rfl, rfl⟩
  | some x => cases x with
    | none => exact .inr ⟨rfl, rfl⟩
    | some p => exact .inl ⟨p, rfl, rfl⟩

end Sys2Proof.Machine
end

