-- ==== Sys2Proof/Tests/Slice0.lean ====
section
/-!
SUPPORT. The model's own tests: ill-formed terms are refused, words written out from the spec's encodings decode to their instructions, each
statement's hypotheses are met by a concrete state, and small steps give what the spec's rules give.
-/
set_option autoImplicit false

open Sys2Proof Sys2Proof.Machine Sys2Proof.Spec

namespace Sys2Proof.Tests

set_option Elab.async false

/-! ### A small machine

One block of core 0 with one warp of 16 general, 8 affine and 8 uniform registers and two threads, which form the group. Register n of lane l
holds n + l in the general class. -/

/-- The general registers. -/
def gens : SMap Word := (List.range 16).flatMap fun n => (List.range 2).filterMap fun l => if n + l = 0 then none else some (32 * n + l, BitVec.ofNat 32 (n + l))
/-- The warp. -/
def wp : Warp :=
  { g := 16, f := 8, q := 8, gen := gens, aff := [(16, (100, 4))], uni := [(24, 7), (25, 1)], preds := [(1, 1), (2, 3)]
    threads := List.replicate 2 { pc := 5, obj := 1, stamp := 1 } }
/-- The block that holds the warp. -/
def blk : Block := { origin := .grid 0 0 0 0, uid := 9, code := 1, image := { shared := 256, gen := 16, aff := 8, unif := 8 }, warps := [(0, wp)] }
/-- The group of the two threads. -/
def grp : Group := { mems := [{ w := ⟨0, 0, 0⟩, lanes := 3 }], obj := 1, pc := 5 }
/-- The machine with this block. -/
def st (b : Block := blk) : State :=
  { cores := [(0, { part := some 0, blocks := [(0, b)] })], parts := [(0, { cores := [0] })], cur := grp
    objs := [(1, { kind := .code, owner := 0, size := 1200, rights := 4 })] }
/-- The machine with another warp. -/
def stw (w : Warp) : State := st { blk with warps := [(0, w)] }

/-- Operands v5, v6, v7 with a type. -/
def vo (ty : Ty) (m : Mods := {}) : OpsV := { d := .v 5, a := .v 6, b := .v 7, m := { m with ty := ty } }
/-- Unary operands v5, v6 with a type. -/
def vu (ty : Ty) (m : Mods := {}) : OpsV := { d := .v 5, a := .v 6, b := .zero, m := { m with ty := ty } }
/-- Even registers, for pairs. -/
def vp (ty : Ty) (m : Mods := {}) : OpsV := { d := .v 4, a := .v 6, b := .v 8, m := { m with ty := ty } }

/-- A check that passes. -/
def okB {α : Type} : Chk α → Bool
  | .ok _ => true
  | .error _ => false
/-- A group runs the instruction. -/
def runsB (i : Instr) (s : State) : Bool :=
  (match s.cur.unit with | .stream _ => false | _ => true) && act i s != 0 && okB (s.issueChk (usesOf i) (act i s))
/-- What the next state holds. -/
def after (i : Instr) (s : State) (f : State → Bool) : Bool := match exec i s with | .next t => f t | _ => false
/-- Register n of a lane of the warp, after an instruction. -/
def reg (i : Instr) (s : State) (n l : Nat) : Word := match exec i s with | .next t => (t.warp ⟨0, 0, 0⟩).readReg n l | _ => 0
/-- The warp after an instruction. -/
def wafter (i : Instr) (s : State) : Warp := match exec i s with | .next t => t.warp ⟨0, 0, 0⟩ | _ => {}
/-- The cause and lanes of the trap that the warp handles, or that stopped the block. -/
def trapped (i : Instr) (s : State) : Option (BitVec 8 × Mask) := match exec i s with
  | .next t => (match (t.block 0 0).stop with | some (.trap x) => some (x.cause, x.lanes) | _ => none)
  | _ => none

theorem okB_ok {x : Chk Unit} (h : okB x = true) : x = .ok () := by
  cases x with
  | ok a => rfl
  | error e => simp [okB] at h

theorem runs {i : Instr} {s : State} (h : runsB i s = true) : Runs i s := by
  simp only [runsB, Bool.and_eq_true] at h
  refine ⟨fun q e => ?_, by simpa using h.1.2, okB_ok h.2⟩
  rw [e] at h; simp at h

/-- Each instruction runs, and its destination accepts a result of the shape. -/
def fits (s : State) (l : List (Instr × ShpRule)) : Bool :=
  l.all fun x => runsB x.1 s && okB (s.advance.shapeChk (usesOf x.1) (act x.1 s) fun m => x.2 s.advance m) && (usesOf x.1).d.isSome

theorem fits_all {s : State} {l : List (Instr × ShpRule)} (h : fits s l = true) :
    ∀ i sh, (i, sh) ∈ l → Runs i s ∧ ShapeOk i s sh ∧ ∃ d, (usesOf i).d = some d := by
  intro i sh hm
  have := List.all_eq_true.1 h (i, sh) hm
  simp only [Bool.and_eq_true] at this
  exact ⟨runs this.1.1, okB_ok this.1.2, Option.isSome_iff_exists.1 this.2⟩

/-- Each instruction runs. -/
theorem runs_all {s : State} {l : List Instr} (h : l.all (fun i => runsB i s) = true) : ∀ i, i ∈ l → Runs i s :=
  fun i hm => runs (List.all_eq_true.1 h i hm)

/-- An instruction with the shape of R148. -/
def au (i : Instr) : Instr × ShpRule := (i, autoRule (usesOf i))

/-! ### Ill-formed terms

One term for each check of `Instr.wf`: hints, destinations, pairs, spaces, and each modifier. -/

theorem test_ill_formed_hints :
    [Instr.nop { hold := 1 } {}, .movi { hold := 2 } (.v 5) 0, .st { hold := 3 } { d := .v 5, cap := 0, b := .v 7, m := { ty := .i32 } },
     .frcp { hold := 3 } (vu .f32), .iadd { hold := 1, hslot := 3 } (vo .i32), .iadd { hslot := 1 } (vo .i32)].all (fun i => !i.wf) = true := by decide

theorem test_ill_formed_operands :
    [Instr.iadd {} { vo .i32 with d := .ones }, .iadd {} { vo .i64 with a := .v 7 }, .iabs {} (vo .i32), .brx {} (vo .i8), .loop {} .zero 0,
     .vld {} { d := .v 8, cap := 2, b := .zero, m := { ty := .f32 } }, .ldv {} { d := .v 6, cap := 0, b := .v 7, m := { sub := 3 } },
     .ld {} { d := .v 5, cap := 1, b := .v 7, m := { ty := .i32, sub := 1 } }, .atom {} { d := .v 5, cap := 1, b := .v 7, m := { ty := .i32, sub := 8 } },
     .vote {} { p := 0, a := 1, b := 1 }, .prwait {} { d := .v 5, cap := 0, b := .v 7 }, .capmov {} 4 1 { sub := 1 },
     .regq {} (vu .i8)].all (fun i => !i.wf) = true := by decide

theorem test_ill_formed_modifiers :
    [Instr.iadd {} (vo .f32), .iadd {} (vo .i32 { rnd := .rtz }), .iadd {} (vo .i32 { scope := .die }), .imulh {} (vo .i32 { sat := true }),
     .iadd {} (vo .i32 { fb := true }), .iadd {} (vo .i32 { sub := 1 }), .iadd {} (vo .i32 { imm := 4 }), .fadd {} (vo .f32 { rnd := .ef }),
     .iaddc {} (vo .n32 { imm := 15 }), .sel {} (vo .n32 { imm := 31 }), .fence {} { scope := .thr }, .rmode {} { imm := 5 }, .srd {} (.v 5) { imm := 0x7FFF },
     .swr {} (.v 5) { imm := 0 }, .gthr {} { d := .v 8, cap := 2, b := .v 7, m := { sub := 3, imm := 12 } }, .obres {} (.v 5) (.v 6) { imm := 16 },
     .mxcvt {} 4 (.v 6) (.v 7) { ty := .f16, imm := 0x40 }, .capnar {} 4 5 (.v 7) { imm := 0x100 }, .yield {} { sub := 1 }].all (fun i => !i.wf) = true := by decide

/-- An ill-formed word decodes to no instruction: an unlisted opcode, reserved bits, an illegal field and an unlisted modifier (R59, R66, R70). -/
theorem test_illegal_words :
    decodeWord 0xF01E00000000000000000000 = .error .opcode ∧ decodeWord 0x001E00000000000000000001 = .error .reserved ∧
    decodeWord 0x101F80003007202000000000 = .error .field ∧ decodeWord 0x001E00000000000100000000 = .error .entry := by decide

/-! ### Words (chapter 3 and the encoding tables)

Each word is the fields of Table 3.1 with the opcode of Tables 3.6 and 3.7, placed by hand as the entry's table gives them. -/

theorem test_words_0_0 :
    decodeWord 0x001E00000000000000000000 = .ok (.nop { gp := 15 } {}) ∧
    decodeWord 0x005E00000000FFFFFFFE0000 = .ok (.bra { gp := 15 } 0xFFFFFFFE) ∧
    decodeWord 0x009FFFC04FFF000000000000 = .ok (.brx { gp := 15 } { d := .zero, a := .v 9, b := .zero, m := {} }) ∧
    decodeWord 0x00DE00001800000000100000 = .ok (.brany { gp := 15 } 3 0x10) ∧
    decodeWord 0x011E00007800FFFFFFF00000 = .ok (.brall { gp := 15 } 15 0xFFFFFFF0) ∧
    decodeWord 0x015E00000000000123450000 = .ok (.call { gp := 15 } 0x00012345) ∧
    decodeWord 0x019FFFC05FFF0000001F0000 = .ok (.callx { gp := 15 } { d := .zero, a := .v 11, b := .zero, m := { imm := 31 } }) ∧
    decodeWord 0x01DE00000000000000000000 = .ok (.ret { gp := 15 } {}) ∧
    decodeWord 0x022800000000000000000000 = .ok (.exit { gn := true, gp := 4 } {}) ∧
    decodeWord 0x025E00000000000000070000 = .ok (.yield { gp := 15 } { imm := 7 }) ∧
    decodeWord 0x029E01400000000000000000 = .ok (.clen { gp := 15 } 5) ∧
    decodeWord 0x02DE01800000000000000000 = .ok (.clwait { gp := 15 } 6) := by decide

theorem test_words_0_1 :
    decodeWord 0x031E03C00000000000000000 = .ok (.cldrop { gp := 15 } 15) ∧
    decodeWord 0x035E02004800000100000000 = .ok (.clget { gp := 15 } (.v 8) 9 { sub := 1 }) ∧
    decodeWord 0x039E02806000000000000000 = .ok (.clset { gp := 15 } 10 (.v 12) {}) ∧
    decodeWord 0x03DE00000000000000400000 = .ok (.ipref { gp := 15 } 0x40) ∧
    decodeWord 0x041F7FC00000FFFFFF000000 = .ok (.loop { gp := 15 } (.v 1535) 0xFFFFFF00) := by decide

theorem test_words_1_0 :
    decodeWord 0x101E01403007202000000000 = .ok (.iadd { gp := 15 } { d := .v 5, a := .v 6, b := .v 7, m := { ty := .i32, sat := true } }) ∧
    decodeWord 0x105E014037FF5000FFFF0000 = .ok (.isub { gp := 15 } { d := .v 5, a := .v 6, b := .zero, m := { ty := .n16, imm := 65535 } }) ∧
    decodeWord 0x109E014030076000000E0000 = .ok (.iaddc { gp := 15 } { d := .v 5, a := .v 6, b := .v 7, m := { ty := .n32, imm := 14 } }) ∧
    decodeWord 0x10DE01403007600000030000 = .ok (.isubb { gp := 15 } { d := .v 5, a := .v 6, b := .v 7, m := { ty := .n32, imm := 3 } }) ∧
    decodeWord 0x111E0180400A300000000000 = .ok (.imul { gp := 15 } { d := .v 6, a := .v 8, b := .v 10, m := { ty := .i64 } }) ∧
    decodeWord 0x115E01403007000000000000 = .ok (.imulh { gp := 15 } { d := .v 5, a := .v 6, b := .v 7, m := { ty := .i8 } }) ∧
    decodeWord 0x119E01403007602000000000 = .ok (.imad { gp := 15 } { d := .v 5, a := .v 6, b := .v 7, m := { ty := .n32, sat := true } }) ∧
    decodeWord 0x11DE01403007200000000000 = .ok (.idiv { gp := 15 } { d := .v 5, a := .v 6, b := .v 7, m := { ty := .i32 } }) ∧
    decodeWord 0x121E01403007400000000000 = .ok (.irem { gp := 15 } { d := .v 5, a := .v 6, b := .v 7, m := { ty := .n8 } }) ∧
    decodeWord 0x125E014037FF100000000000 = .ok (.iabs { gp := 15 } { d := .v 5, a := .v 6, b := .zero, m := { ty := .i16 } }) ∧
    decodeWord 0x129E014037FF202000000000 = .ok (.ineg { gp := 15 } { d := .v 5, a := .v 6, b := .zero, m := { ty := .i32, sat := true } }) ∧
    decodeWord 0x12DE01403007200000000000 = .ok (.imin { gp := 15 } { d := .v 5, a := .v 6, b := .v 7, m := { ty := .i32 } }) := by decide

theorem test_words_1_1 :
    decodeWord 0x131E01403007600000000000 = .ok (.imax { gp := 15 } { d := .v 5, a := .v 6, b := .v 7, m := { ty := .n32 } }) ∧
    decodeWord 0x135E017FF7FA600000000000 = .ok (.and { gp := 15 } { d := .v 5, a := (.latch 0), b := .ones, m := { ty := .n32 } }) ∧
    decodeWord 0x139E017FD807200000000000 = .ok (.or { gp := 15 } { d := .v 5, a := .lane, b := .v 7, m := { ty := .i32 } }) ∧
    decodeWord 0x13DFFFC03007600000000E00 = .ok (.xor { gp := 15, hold := 3, hslot := 2 } { d := .zero, a := .v 6, b := .v 7, m := { ty := .n32 } }) ∧
    decodeWord 0x141E01403007600000000000 = .ok (.andn { gp := 15 } { d := .v 5, a := .v 6, b := .v 7, m := { ty := .n32 } }) ∧
    decodeWord 0x145E014037FF600000000000 = .ok (.not { gp := 15 } { d := .v 5, a := .v 6, b := .zero, m := { ty := .n32 } }) ∧
    decodeWord 0x149E014037FF202000040000 = .ok (.shl { gp := 15 } { d := .v 5, a := .v 6, b := .zero, m := { ty := .i32, sat := true, imm := 4 } }) ∧
    decodeWord 0x14DE01403007600000000000 = .ok (.shr { gp := 15 } { d := .v 5, a := .v 6, b := .v 7, m := { ty := .n32 } }) ∧
    decodeWord 0x151E01403007200000000000 = .ok (.sar { gp := 15 } { d := .v 5, a := .v 6, b := .v 7, m := { ty := .i32 } }) ∧
    decodeWord 0x155E01804007700000000000 = .ok (.rol { gp := 15 } { d := .v 6, a := .v 8, b := .v 7, m := { ty := .n64 } }) ∧
    decodeWord 0x159E014037FF700000000000 = .ok (.popc { gp := 15 } { d := .v 5, a := .v 6, b := .zero, m := { ty := .n64 } }) ∧
    decodeWord 0x15DE014037FF600000000000 = .ok (.clz { gp := 15 } { d := .v 5, a := .v 6, b := .zero, m := { ty := .n32 } }) := by decide

theorem test_words_1_2 :
    decodeWord 0x161E014037FF600000000000 = .ok (.ctz { gp := 15 } { d := .v 5, a := .v 6, b := .zero, m := { ty := .n32 } }) ∧
    decodeWord 0x165E014037FF600000000000 = .ok (.brev { gp := 15 } { d := .v 5, a := .v 6, b := .zero, m := { ty := .n32 } }) ∧
    decodeWord 0x169E01403007200000000000 = .ok (.bfx { gp := 15 } { d := .v 5, a := .v 6, b := .v 7, m := { ty := .i32 } }) ∧
    decodeWord 0x16DE01403007600000000000 = .ok (.bfi { gp := 15 } { d := .v 5, a := .v 6, b := .v 7, m := { ty := .n32 } }) ∧
    decodeWord 0x171E01403007600000000000 = .ok (.bperm { gp := 15 } { d := .v 5, a := .v 6, b := .v 7, m := { ty := .n32 } }) ∧
    decodeWord 0x175E01403007402000000000 = .ok (.isad { gp := 15 } { d := .v 5, a := .v 6, b := .v 7, m := { ty := .n8, sat := true } }) ∧
    decodeWord 0x179E01403007600F00000000 = .ok (.iadds { gp := 15 } { d := .v 5, a := .v 6, b := .v 7, m := { ty := .n32, sub := 15 } }) ∧
    decodeWord 0x17DE01803808200000000000 = .ok (.imadw { gp := 15 } { d := .v 6, a := .v 7, b := .v 8, m := { ty := .i32 } }) := by decide

theorem test_words_2_0 :
    decodeWord 0x201E014037FF600000000000 = .ok (.mov { gp := 15 } { d := .v 5, a := .v 6, b := .zero, m := { ty := .n32 } }) ∧
    decodeWord 0x205E01400000DEADBEEF0000 = .ok (.movi { gp := 15 } (.v 5) 0xDEADBEEF) ∧
    decodeWord 0x209E014037FF000001230000 = .ok (.movx { gp := 15 } { d := .v 5, a := .v 6, b := .zero, m := { imm := 291 } }) ∧
    decodeWord 0x20DFFFC03007000000450000 = .ok (.movxw { gp := 15 } { d := .zero, a := .v 6, b := .v 7, m := { imm := 69 } }) ∧
    decodeWord 0x211E01403007600000120000 = .ok (.sel { gp := 15 } { d := .v 5, a := .v 6, b := .v 7, m := { ty := .n32, imm := 18 } }) ∧
    decodeWord 0x215E00C03007200400000000 = .ok (.icmp { gp := 15 } { p := 3, a := .v 6, b := .v 7, m := { ty := .i32, sub := 4 } }) ∧
    decodeWord 0x219E00401003000300000000 = .ok (.pand { gp := 15 } { p := 1, a := 2, b := 3, m := { sub := 3 } }) ∧
    decodeWord 0x21DE0100280F000100000000 = .ok (.por { gp := 15 } { p := 4, a := 5, b := 15, m := { sub := 1 } }) ∧
    decodeWord 0x221E01803808000000000000 = .ok (.pxor { gp := 15 } { p := 6, a := 7, b := 8, m := {} }) ∧
    decodeWord 0x225E02405000000000000000 = .ok (.pnot { gp := 15 } { p := 9, a := 10, b := 0, m := {} }) ∧
    decodeWord 0x229E02C06000000000000000 = .ok (.pmov { gp := 15 } { p := 11, a := 12, b := 0, m := {} }) ∧
    decodeWord 0x22DE03806800000100000000 = .ok (.vote { gp := 15 } { p := 14, a := 13, b := 0, m := { sub := 1 } }) := by decide

theorem test_words_2_1 :
    decodeWord 0x231E017FFFFF0000001E0000 = .ok (.ballot { gp := 15 } { d := .v 5, a := .zero, b := .zero, m := { imm := 30 } }) ∧
    decodeWord 0x235E01403007600200000000 = .ok (.shfl { gp := 15 } { d := .v 5, a := .v 6, b := .v 7, m := { ty := .n32, sub := 2 } }) ∧
    decodeWord 0x239E01403007600000000000 = .ok (.bcast { gp := 15 } { d := .v 5, a := .v 6, b := .v 7, m := { ty := .n32 } }) ∧
    decodeWord 0x23DE01403007000000000000 = .ok (.affine { gp := 15 } { d := .v 5, a := .v 6, b := .v 7, m := {} }) ∧
    decodeWord 0x241E017FFFFF000000000000 = .ok (.laneix { gp := 15 } { d := .v 5, a := .zero, b := .zero, m := {} }) ∧
    decodeWord 0x245E014037FF200800000000 = .ok (.scan { gp := 15 } { d := .v 5, a := .v 6, b := .zero, m := { ty := .i32, sub := 8 } }) ∧
    decodeWord 0x249E014037FF600500000000 = .ok (.red { gp := 15 } { d := .v 5, a := .v 6, b := .zero, m := { ty := .n32, sub := 5 } }) := by decide

theorem test_words_3_0 :
    decodeWord 0x302401403007A20000002D00 = .ok (.fadd { gn := true, gp := 2, la := 2, hold := 3, hslot := 1 } { d := .v 5, a := .v 6, b := .v 7, m := { ty := .f32, rnd := .rtz } }) ∧
    decodeWord 0x305E01403007840000000000 = .ok (.fsub { gp := 15 } { d := .v 5, a := .v 6, b := .v 7, m := { ty := .f16, rnd := .rdn } }) ∧
    decodeWord 0x309E0180400AB60000000000 = .ok (.fmul { gp := 15 } { d := .v 6, a := .v 8, b := .v 10, m := { ty := .f64, rnd := .rup } }) ∧
    decodeWord 0x30DE01403007982000000000 = .ok (.ffma { gp := 15 } { d := .v 5, a := .v 6, b := .v 7, m := { ty := .bf16, rnd := .rna, sat := true } }) ∧
    decodeWord 0x311E01403007A00000000000 = .ok (.fmin { gp := 15 } { d := .v 5, a := .v 6, b := .v 7, m := { ty := .f32 } }) ∧
    decodeWord 0x315E01403007800000000000 = .ok (.fmax { gp := 15 } { d := .v 5, a := .v 6, b := .v 7, m := { ty := .f16 } }) ∧
    decodeWord 0x319E00803007A00500000000 = .ok (.fcmp { gp := 15 } { p := 2, a := .v 6, b := .v 7, m := { ty := .f32, sub := 5 } }) ∧
    decodeWord 0x31DE014037FFA00000000000 = .ok (.fclass { gp := 15 } { d := .v 5, a := .v 6, b := .zero, m := { ty := .f32 } }) ∧
    decodeWord 0x321E014037FFA00000003000 = .ok (.frcp { gp := 15, la := 3 } { d := .v 5, a := .v 6, b := .zero, m := { ty := .f32 } }) ∧
    decodeWord 0x325E014037FFA00000003000 = .ok (.frsq { gp := 15, la := 3 } { d := .v 5, a := .v 6, b := .zero, m := { ty := .f32 } }) ∧
    decodeWord 0x329E014037FFA00000003000 = .ok (.fex2 { gp := 15, la := 3 } { d := .v 5, a := .v 6, b := .zero, m := { ty := .f32 } }) ∧
    decodeWord 0x32DE014037FFA00000003000 = .ok (.flg2 { gp := 15, la := 3 } { d := .v 5, a := .v 6, b := .zero, m := { ty := .f32 } }) := by decide

theorem test_words_3_1 :
    decodeWord 0x331E014037FFA00000003000 = .ok (.fsin { gp := 15, la := 3 } { d := .v 5, a := .v 6, b := .zero, m := { ty := .f32 } }) ∧
    decodeWord 0x335E014037FFA00000003000 = .ok (.fcos { gp := 15, la := 3 } { d := .v 5, a := .v 6, b := .zero, m := { ty := .f32 } }) ∧
    decodeWord 0x339E014030078C0000000000 = .ok (.fdot2 { gp := 15 } { d := .v 5, a := .v 6, b := .v 7, m := { ty := .f16, rnd := .dyn } }) ∧
    decodeWord 0x33DE01003008900000000000 = .ok (.fmul2 { gp := 15 } { d := .v 4, a := .v 6, b := .v 8, m := { ty := .bf16 } }) ∧
    decodeWord 0x341E01003008AC0000000000 = .ok (.ffma2 { gp := 15 } { d := .v 4, a := .v 6, b := .v 8, m := { ty := .f32, rnd := .dyn } }) ∧
    decodeWord 0x345E014037FFA20000000000 = .ok (.fround { gp := 15 } { d := .v 5, a := .v 6, b := .zero, m := { ty := .f32, rnd := .rtz } }) ∧
    decodeWord 0x349E01403007A00000000000 = .ok (.fscalb { gp := 15 } { d := .v 5, a := .v 6, b := .v 7, m := { ty := .f32 } }) ∧
    decodeWord 0x34DE014037FFA00100000000 = .ok (.fsat { gp := 15 } { d := .v 5, a := .v 6, b := .zero, m := { ty := .f32, sub := 1 } }) := by decide

theorem test_words_4_0 :
    decodeWord 0x401E014037FF820A00000000 = .ok (.cvt { gp := 15 } { d := .v 5, a := .v 6, b := .zero, m := { ty := .f16, rnd := .rtz, sub := 10 } }) ∧
    decodeWord 0x405E014037FF240A00000000 = .ok (.cvti { gp := 15 } { d := .v 5, a := .v 6, b := .zero, m := { ty := .i32, rnd := .rdn, sub := 10 } }) ∧
    decodeWord 0x409E014037FFA00600000000 = .ok (.cvtf { gp := 15 } { d := .v 5, a := .v 6, b := .zero, m := { ty := .f32, sub := 6 } }) ∧
    decodeWord 0x40DE014037FF8A0000030000 = .ok (.cvtef { gp := 15 } { d := .v 5, a := .v 6, b := .zero, m := { ty := .f16, rnd := .ef, imm := 3 } }) ∧
    decodeWord 0x411E01C00000000000000000 = .ok (.efclr { gp := 15 } 7) ∧
    decodeWord 0x415E01404800000100000000 = .ok (.efmov { gp := 15 } true (.v 9) 5) ∧
    decodeWord 0x419E01403007A00600000000 = .ok (.pack4 { gp := 15 } { d := .v 5, a := .v 6, b := .v 7, m := { ty := .f32, sub := 6 } }) ∧
    decodeWord 0x41DE01403007A00200000000 = .ok (.pack6 { gp := 15 } { d := .v 5, a := .v 6, b := .v 7, m := { ty := .f32, sub := 2 } }) ∧
    decodeWord 0x421E01403007A80400000000 = .ok (.pack8 { gp := 15 } { d := .v 5, a := .v 6, b := .v 7, m := { ty := .f32, rnd := .rna, sub := 4 } }) ∧
    decodeWord 0x425E01403007A02100000000 = .ok (.unpk { gp := 15 } { d := .v 5, a := .v 6, b := .v 7, m := { ty := .f32, sat := true, sub := 1 } }) ∧
    decodeWord 0x429E014037FFA00700000000 = .ok (.bscale { gp := 15 } { d := .v 5, a := .v 6, b := .zero, m := { ty := .f32, sub := 7 } }) ∧
    decodeWord 0x42DE017FFFFF000100000000 = .ok (.flagrd { gp := 15 } { d := .v 5, a := .zero, b := .zero, m := { sub := 1 } }) := by decide

theorem test_words_4_1 :
    decodeWord 0x431E000000000000003F0000 = .ok (.flagclr { gp := 15 } { imm := 63 }) ∧
    decodeWord 0x435E00000000000000040000 = .ok (.rmode { gp := 15 } { imm := 4 }) := by decide

theorem test_words_5_0 :
    decodeWord 0x501E014000070001FFFCF000 = .ok (.ld { gp := 15, la := 15 } { d := .v 5, cap := 0, b := .v 7, m := { ty := .i8, sub := 1, imm := 65532 } }) ∧
    decodeWord 0x505E01404807600000100000 = .ok (.st { gp := 15 } { d := .v 5, cap := 9, b := .v 7, m := { ty := .n32, imm := 16 } }) ∧
    decodeWord 0x509E014007FF200000080000 = .ok (.ldsp { gp := 15 } { d := .v 5, cap := 0, b := .zero, m := { ty := .i32, imm := 8 } }) ∧
    decodeWord 0x50DFFFC007FF0001FFF00000 = .ok (.stsp { gp := 15 } { d := .zero, cap := 0, b := .zero, m := { sub := 1, imm := 65520 } }) ∧
    decodeWord 0x511E0140F807500000020000 = .ok (.ldnp { gp := 15 } { d := .v 5, cap := 31, b := .v 7, m := { ty := .n16, imm := 2 } }) ∧
    decodeWord 0x515E02000007000300200000 = .ok (.ldv { gp := 15 } { d := .v 8, cap := 0, b := .v 7, m := { sub := 3, imm := 32 } }) ∧
    decodeWord 0x519E02000807000200300000 = .ok (.stv { gp := 15 } { d := .v 8, cap := 1, b := .v 7, m := { sub := 2, imm := 48 } }) ∧
    decodeWord 0x51DE01401007600000040000 = .ok (.ldu { gp := 15 } { d := .v 5, cap := 2, b := .v 7, m := { ty := .n32, imm := 4 } }) ∧
    decodeWord 0x521E00C00007000100400000 = .ok (.prtest { gp := 15 } { p := 3, cap := 0, b := .v 7, m := { sub := 1, imm := 64 } }) ∧
    decodeWord 0x525FFFC02007000000800000 = .ok (.prwait { gp := 15 } { d := .zero, cap := 4, b := .v 7, m := { imm := 128 } }) := by decide

theorem test_words_6_0 :
    decodeWord 0x601E01403007000001000000 = .ok (.cpkick { gp := 15 } { d := .v 5, cap := 6, b := .v 7, m := { imm := 256 } }) ∧
    decodeWord 0x605E017FFFFF000100000000 = .ok (.cpstat { gp := 15 } { d := .v 5, a := .zero, b := .zero, m := { sub := 1 } }) ∧
    decodeWord 0x609E017FFFFF000000000000 = .ok (.cpcancel { gp := 15 } { d := .v 5, a := .zero, b := .zero, m := {} }) ∧
    decodeWord 0x60DE03800007300100000000 = .ok (.rltest { gp := 15 } { p := 14, cap := 0, b := .v 7, m := { ty := .i64, sub := 1 } }) ∧
    decodeWord 0x611E01401807000000400000 = .ok (.cpin { gp := 15 } { d := .v 5, cap := 3, b := .v 7, m := { imm := 64 } }) ∧
    decodeWord 0x615E014018070000FFC00000 = .ok (.cpout { gp := 15 } { d := .v 5, cap := 3, b := .v 7, m := { imm := 65472 } }) := by decide

theorem test_words_7_0 :
    decodeWord 0x701E0200100CA003000F0000 = .ok (.vld { gp := 15 } { d := .v 8, cap := 2, b := .v 12, m := { ty := .f32, sub := 3, imm := 15 } }) ∧
    decodeWord 0x705E0200100C400000010000 = .ok (.vst { gp := 15 } { d := .v 8, cap := 2, b := .v 12, m := { ty := .n8, imm := 1 } }) ∧
    decodeWord 0x709E0200100C202000000000 = .ok (.vadd { gp := 15 } { d := .v 8, cap := 2, b := .v 12, m := { ty := .i32, sat := true } }) ∧
    decodeWord 0x70DE0200100C000000000000 = .ok (.vprobe { gp := 15 } { d := .v 8, cap := 2, b := .v 12, m := {} }) ∧
    decodeWord 0x711E0200100C000000000000 = .ok (.vnbr { gp := 15 } { d := .v 8, cap := 2, b := .v 12, m := {} }) ∧
    decodeWord 0x715E0200100C000000000000 = .ok (.vtld { gp := 15 } { d := .v 8, cap := 2, b := .v 12, m := {} }) ∧
    decodeWord 0x719E0200100C000000000000 = .ok (.valloc { gp := 15 } { d := .v 8, cap := 2, b := .v 12, m := {} }) ∧
    decodeWord 0x71DE0200100C000000000000 = .ok (.vfree { gp := 15 } { d := .v 8, cap := 2, b := .v 12, m := {} }) ∧
    decodeWord 0x721E0200100C000000040000 = .ok (.vshoot { gp := 15 } { d := .v 8, cap := 2, b := .v 12, m := { imm := 4 } }) ∧
    decodeWord 0x725E020017FF800101030000 = .ok (.vbgrd { gp := 15 } { d := .v 8, cap := 2, b := .zero, m := { ty := .f16, sub := 1, imm := 259 } }) := by decide

theorem test_words_8_0 :
    decodeWord 0x801E02001007000300400000 = .ok (.gthr { gp := 15 } { d := .v 8, cap := 2, b := .v 7, m := { sub := 3, imm := 64 } }) ∧
    decodeWord 0x805E02001007000000040000 = .ok (.sctr { gp := 15 } { d := .v 8, cap := 2, b := .v 7, m := { imm := 4 } }) ∧
    decodeWord 0x809E02001007A00100080000 = .ok (.sctra { gp := 15 } { d := .v 8, cap := 2, b := .v 7, m := { ty := .f32, sub := 1, imm := 8 } }) ∧
    decodeWord 0x80DE014037FF000100000000 = .ok (.confl { gp := 15 } { d := .v 5, a := .v 6, b := .zero, m := { sub := 1 } }) ∧
    decodeWord 0x811E01403007200200000000 = .ok (.cmbn { gp := 15 } { d := .v 5, a := .v 6, b := .v 7, m := { ty := .i32, sub := 2 } }) ∧
    decodeWord 0x815E014037FF0000000F0000 = .ok (.spawni { gp := 15 } { d := .v 5, a := .v 6, b := .zero, m := { imm := 15 } }) ∧
    decodeWord 0x819E02403000FFFFFFFD0000 = .ok (.itemloop { gp := 15 } 6 (.v 9) 0xFFFFFFFD) ∧
    decodeWord 0x81DE017FFFFF000000030000 = .ok (.itemget { gp := 15 } { d := .v 5, a := .zero, b := .zero, m := { imm := 3 } }) ∧
    decodeWord 0x821E00000000000000000000 = .ok (.itemend { gp := 15 } {}) := by decide

theorem test_words_9_0 :
    decodeWord 0x901E01403000000000070000 = .ok (.obres { gp := 15 } (.v 5) (.v 6) { imm := 7 }) ∧
    decodeWord 0x905E00000000000100000000 = .ok (.obrel { gp := 15 } { sub := 1 }) ∧
    decodeWord 0x909E000030080000000F0000 = .ok (.shape { gp := 15 } (.v 6) (.v 8) { imm := 15 }) ∧
    decodeWord 0x90DE00003000000007FF0000 = .ok (.mxldb { gp := 15 } (.v 6) { imm := 0x7FF }) ∧
    decodeWord 0x911E003FF8000000003E0000 = .ok (.mxlda { gp := 15 } .zero { imm := 0x3E }) ∧
    decodeWord 0x915E01403000000001A70000 = .ok (.mxmac { gp := 15 } 5 (.v 6) { imm := 0x1A7 }) ∧
    decodeWord 0x919E03FFF800000000010000 = .ok (.mxmacs { gp := 15 } 15 .zero { imm := 1 }) ∧
    decodeWord 0x91DE00FFF800B00000000000 = .ok (.mxzero { gp := 15 } 3 .zero { ty := .f64 }) ∧
    decodeWord 0x921E01003007A000003F0000 = .ok (.mxst { gp := 15 } 4 (.v 6) (.v 7) { ty := .f32, imm := 63 }) ∧
    decodeWord 0x925E01003007CA2001450000 = .ok (.mxcvt { gp := 15 } 4 (.v 6) (.v 7) { ty := .e4m3, rnd := .ef, sat := true, imm := 0x145 }) ∧
    decodeWord 0x929E01405800000000000000 = .ok (.mxver { gp := 15 } (.v 5) 11) ∧
    decodeWord 0x92DE03000000000000000000 = .ok (.mxbar { gp := 15 } 12) := by decide

theorem test_words_9_1 :
    decodeWord 0x931E03400000000000000000 = .ok (.mxwait { gp := 15 } 13) ∧
    decodeWord 0x935E00000000000000000000 = .ok (.mxacq { gp := 15 } {}) ∧
    decodeWord 0x939E00000000000000000000 = .ok (.mxrel { gp := 15 } {}) ∧
    decodeWord 0x93DE01400000000200000000 = .ok (.mxflags { gp := 15 } (.v 5) { sub := 2 }) := by decide

theorem test_words_10_0 :
    decodeWord 0xA01E01400007BC0100400000 = .ok (.schrun { gp := 15 } { d := .v 5, cap := 0, b := .v 7, m := { ty := .f64, rnd := .dyn, sub := 1, imm := 64 } }) ∧
    decodeWord 0xA05E0180400AB62000000000 = .ok (.ddiv { gp := 15 } { d := .v 6, a := .v 8, b := .v 10, m := { ty := .f64, rnd := .rup, sat := true } }) ∧
    decodeWord 0xA09E014037FFA00000000000 = .ok (.dsqrt { gp := 15 } { d := .v 5, a := .v 6, b := .zero, m := { ty := .f32 } }) ∧
    decodeWord 0xA0DE01403007A00000000000 = .ok (.pivchk { gp := 15 } { d := .v 5, a := .v 6, b := .v 7, m := { ty := .f32 } }) ∧
    decodeWord 0xA11E0180400AB00000000000 = .ok (.trstep { gp := 15 } { d := .v 6, a := .v 8, b := .v 10, m := { ty := .f64 } }) ∧
    decodeWord 0xA15E017FFFFF000200000000 = .ok (.schstat { gp := 15 } { d := .v 5, a := .zero, b := .zero, m := { sub := 2 } }) := by decide

theorem test_words_11_0 :
    decodeWord 0xB01E0140000760CE00040000 = .ok (.atom { gp := 15 } { d := .v 5, cap := 0, b := .v 7, m := { ty := .n32, scope := .die, sub := 14, imm := 4 } }) ∧
    decodeWord 0xB05E01801807714000080000 = .ok (.atomc { gp := 15 } { d := .v 6, cap := 3, b := .v 7, m := { ty := .n64, scope := .sys, imm := 8 } }) ∧
    decodeWord 0xB09E00000000010200000000 = .ok (.fence { gp := 15 } { scope := .dev, sub := 2 }) ∧
    decodeWord 0xB0DE01401807204000000000 = .ok (.ldacq { gp := 15 } { d := .v 5, cap := 3, b := .v 7, m := { ty := .i32, scope := .blk } }) ∧
    decodeWord 0xB11E01400007508800000000 = .ok (.strel { gp := 15 } { d := .v 5, cap := 0, b := .v 7, m := { ty := .n16, scope := .core, sub := 8 } }) ∧
    decodeWord 0xB15E0140180700C100000000 = .ok (.cjinit { gp := 15 } { d := .v 5, cap := 3, b := .v 7, m := { scope := .die, sub := 1 } }) ∧
    decodeWord 0xB19E01401807010000000000 = .ok (.cjarr { gp := 15 } { d := .v 5, cap := 3, b := .v 7, m := { scope := .dev } }) ∧
    decodeWord 0xB1DE01400007004800000000 = .ok (.cjdrop { gp := 15 } { d := .v 5, cap := 0, b := .v 7, m := { scope := .blk, sub := 8 } }) ∧
    decodeWord 0xB21E0140180700C000100000 = .ok (.cjwait { gp := 15 } { d := .v 5, cap := 3, b := .v 7, m := { scope := .die, imm := 16 } }) ∧
    decodeWord 0xB25E01401807014000000000 = .ok (.cjbyte { gp := 15 } { d := .v 5, cap := 3, b := .v 7, m := { scope := .sys } }) ∧
    decodeWord 0xB29E0140180700C300000000 = .ok (.cjtest { gp := 15 } { d := .v 5, cap := 3, b := .v 7, m := { scope := .die, sub := 3 } }) := by decide

theorem test_words_12_0 :
    decodeWord 0xC01E00801807000200400000 = .ok (.spawn { gp := 15 } { p := 2, cap := 3, b := .v 7, m := { sub := 2, imm := 64 } }) ∧
    decodeWord 0xC05E014037FF000000000000 = .ok (.tjoin { gp := 15 } { d := .v 5, a := .v 6, b := .zero, m := {} }) ∧
    decodeWord 0xC09E00000000000000000000 = .ok (.tend { gp := 15 } {}) ∧
    decodeWord 0xC0DE017FFFFF000700000000 = .ok (.tself { gp := 15 } { d := .v 5, a := .zero, b := .zero, m := { sub := 7 } }) ∧
    decodeWord 0xC11E014037FF000000000000 = .ok (.rpost { gp := 15 } { d := .v 5, a := .v 6, b := .zero, m := {} }) ∧
    decodeWord 0xC15E014037FF0000000F0000 = .ok (.rread { gp := 15 } { d := .v 5, a := .v 6, b := .zero, m := { imm := 15 } }) ∧
    decodeWord 0xC19E01403007000000090000 = .ok (.rset { gp := 15 } { d := .v 5, a := .v 6, b := .v 7, m := { imm := 9 } }) ∧
    decodeWord 0xC1DE01401807000000100000 = .ok (.inpost { gp := 15 } { d := .v 5, cap := 3, b := .v 7, m := { imm := 16 } }) ∧
    decodeWord 0xC21E01400007000300000000 = .ok (.snap { gp := 15 } { d := .v 5, cap := 0, b := .v 7, m := { sub := 3 } }) ∧
    decodeWord 0xC25E01001807000000200000 = .ok (.launch { gp := 15 } { p := 4, cap := 3, b := .v 7, m := { imm := 32 } }) ∧
    decodeWord 0xC29E014037FF000000000000 = .ok (.lwait { gp := 15 } { d := .v 5, a := .v 6, b := .zero, m := {} }) := by decide

theorem test_words_13_0 :
    decodeWord 0xD01E01002807000000200000 = .ok (.capld { gp := 15 } 4 5 (.v 7) { imm := 0x20 }) ∧
    decodeWord 0xD05E07C02FFF000000300000 = .ok (.capst { gp := 15 } 31 5 .zero { imm := 0x30 }) ∧
    decodeWord 0xD09E01002807000000FF0000 = .ok (.capnar { gp := 15 } 4 5 (.v 7) { imm := 0xFF }) ∧
    decodeWord 0xD0DE01002800000012340000 = .ok (.capoff { gp := 15 } 4 5 { imm := 0x1234 }) ∧
    decodeWord 0xD11E02402807000400030000 = .ok (.captst { gp := 15 } (.v 9) 5 (.v 7) { sub := 4, imm := 3 }) ∧
    decodeWord 0xD15E02402800000600000000 = .ok (.capget { gp := 15 } (.v 9) 5 { sub := 6 }) ∧
    decodeWord 0xD19E01000000000100000000 = .ok (.capmov { gp := 15 } 4 0 { sub := 1 }) := by decide

theorem test_words_14_0 :
    decodeWord 0xE01E01400000000000100000 = .ok (.srd { gp := 15 } (.v 5) { imm := 0x10 }) ∧
    decodeWord 0xE05E00003000000000110000 = .ok (.swr { gp := 15 } (.v 6) { imm := 0x11 }) ∧
    decodeWord 0xE09E000000000000ABCD0000 = .ok (.trap { gp := 15 } { imm := 43981 }) ∧
    decodeWord 0xE0DE00000000000000010000 = .ok (.brkpt { gp := 15 } { imm := 1 }) ∧
    decodeWord 0xE11E00000000000100000000 = .ok (.eret { gp := 15 } { sub := 1 }) ∧
    decodeWord 0xE15E00000000000000090000 = .ok (.beat { gp := 15 } { imm := 9 }) ∧
    decodeWord 0xE19E01401807000000400000 = .ok (.ctxsv { gp := 15 } { d := .v 5, cap := 3, b := .v 7, m := { imm := 64 } }) ∧
    decodeWord 0xE1DE01401807000100000000 = .ok (.ctxld { gp := 15 } { d := .v 5, cap := 3, b := .v 7, m := { sub := 1 } }) ∧
    decodeWord 0xE21E00000000000000000000 = .ok (.icinv { gp := 15 } {}) ∧
    decodeWord 0xE25E00000000000000000000 = .ok (.wfi { gp := 15 } {}) ∧
    decodeWord 0xE29E014037FF000500000000 = .ok (.regq { gp := 15 } { d := .v 5, a := .v 6, b := .zero, m := { sub := 5 } }) := by decide

/-! ### Witnesses: the machine as a whole -/

/-- An instruction in the code object, with the slice's issue on the agenda. -/
def placed (w : Nat) : State := { st with agenda := [.issue 0 0], objs := [(1, placedCode 96 w)] }
/-- The block whose threads are at index 0 and whose line is present. -/
def st0 (w : Nat) (b : Block := blk) : State :=
  let x : Warp := { wp with threads := List.replicate 2 { pc := 0, obj := 1, stamp := 1 } }
  { st with agenda := [.issue 0 0], objs := [(1, placedCode 96 w)]
            cores := [(0, { part := some 0, blocks := [(0, { b with warps := [(0, x)] })], icache := [(1, 0)] })] }

theorem wit_step_slice :
    (∃ g w i, (({ st0 0x101E01403007202000000000 with agenda := [] } : State).refreshTable 0).formGroup 0 0 = some g ∧ (st0 0x101E01403007202000000000).fetch g.obj g.pc = some w ∧
      decodeWord w = .ok i) ∧
    (∃ g w x, (({ st0 0xF01E00000000000000000000 with agenda := [] } : State).refreshTable 0).formGroup 0 0 = some g ∧ (st0 0xF01E00000000000000000000).fetch g.obj g.pc = some w ∧
      decodeWord w = .error x) := ⟨⟨_, _, _, rfl, rfl, rfl⟩, ⟨_, _, _, rfl, rfl, rfl⟩⟩

/-- An index outside the code object, on a slice. -/
theorem wit_step_outside : ∃ g, (({ st with agenda := [], objs := [] } : State).refreshTable 0).formGroup 0 0 = some g ∧ ({ st with objs := [] } : State).fetch g.obj g.pc = none :=
  ⟨_, rfl, rfl⟩

/-- R161, R157: a ready key takes an entry and an entry without a ready thread is given back; a line that arrives becomes the newest, once. -/
theorem test_table_and_lines :
    ((((st0 0).modCore 0 fun k => { k with igt := [(3, 7, 9)] }).refreshTable 0).core 0).igt = [(0, 1, 0)] ∧
    (({ icache := [(1, 0), (1, 1)], imiss := [(1, 2)] } : Core).addLine [] (1, 2)).icache = [(1, 2), (1, 0), (1, 1)] ∧
    (({ icache := [(1, 0), (1, 1)] } : Core).useLine (1, 1)).icache = [(1, 1), (1, 0)] ∧
    keepFirst (· < 5) 1 [1, 9, 2, 8] = [1, 9, 8] := by decide +kernel

/-- The agent and a sequencer with an instruction. -/
def stAgent (w : Nat) : State :=
  { st with agenda := [.agent 0], objs := [(1, placedCode 96 w)]
            cores := [(0, { part := some 0, icache := [(1, 0)]
                            blocks := [(16, { agentBlock with warps := [(0, { agentWarp with threads := [{ obj := 1 }] })] })] })] }
def stStream (w : Nat) : State :=
  { st with agenda := [.stream 0 0], objs := [(1, placedCode 96 w)]
            cores := [(0, { part := some 0, icache := [(1, 0)], blocks := [(0, { blk with mx := { st := .running } })] })] }
theorem wit_step_agent : agentReady { stAgent 0xE15E00000000000000090000 with agenda := [] } 0 = true ∧
    (∃ w i, (stAgent 0xE15E00000000000000090000).fetch 1 0 = some w ∧ decodeWord w = .ok i) := ⟨by decide, _, _, rfl, rfl⟩
theorem wit_step_stream : ∃ b, ({ stStream 0x001E00000000000000000000 with agenda := [] } : State).block? 0 0 = some b ∧
    streamReady { stStream 0x001E00000000000000000000 with agenda := [] } 0 b = true ∧
    (∃ w i, (stStream 0x001E00000000000000000000).fetch b.code b.mx.pc = some w ∧ decodeWord w = .ok i) := ⟨_, rfl, by decide, _, _, rfl, rfl⟩

/-- A queue of virtual interface 1 whose first entry is a NOP command. -/
def stQueue : State := { st with sys := { mode := .running }, agenda := [.command 1 1], vis := [(1, { part := some 0, enabled := true, queues := [(1, { base := 0x1000, tail := 1 })] })] }
theorem wit_step_command : nextQueue { stQueue with agenda := [] } (stQueue.viPart 1) = some (1, 1) ∧
    (∃ t i, popHead 1 1 { stQueue with agenda := [] } = (t, some i)) := ⟨by decide, _, _, rfl⟩
theorem wit_step_event : isEvent (.quantumEnd 0) = true ∧ (∃ m l, m ∈ st.cur.mems ∧ m.lanes.getLsbD l = true ∧ l < (st.warp m.w).threads.length) :=
  ⟨by decide, ⟨⟨0, 0, 0⟩, 3⟩, 1, by decide, by decide, by decide⟩

/-- The premises of the privileged instructions and of the checks that come first; each check fails somewhere, and a group may have no active lane. -/
theorem wit_issue_checks :
    st.cur.unit = .slice ∧ (0x8000 : BitVec 16).toNat ≥ 0x8000 ∧ (Instr.iadd {} (vo .i32)).raw ≠ none ∧
    st.regsIn (usesOf (.iadd {} { vo .i32 with a := .v 32 })) = false ∧ st.regsIn (usesOf (.iadd {} { vo .i32 with a := .v 31 })) = true ∧
    st.latchesOk (usesOf (.iadd {} { vo .i32 with a := .latch 0 })) (act (.iadd {} { vo .i32 with a := .latch 0 }) st) = false ∧
    st.latchesOk (usesOf (.iadd { gp := 3 } (vo .i32))) (act (.iadd { gp := 3 } (vo .i32)) st) = true ∧ act (.iadd { gp := 3 } (vo .i32)) st = 0 := by decide

theorem test_privileged : trapped (.beat {} {}) st = some (0x14, 3) ∧ trapped (.srd {} (.v 5) { imm := 0x8000 }) st = some (0x14, 3) := by decide
/-- REGRANGE at T = 32 and LATCH for a slot never written, in the whole group with no active lane (R54, R57, R62). -/
theorem test_first_checks : trapped (.iadd { gp := 3 } { vo .i32 with a := .v 32 }) st = some (0x02, 3) ∧
    trapped (.iadd { gp := 3 } { vo .i32 with b := .latch 1 }) st = some (0x18, 3) := by decide

theorem wit_registers : wp.cls 15 = .gen ∧ wp.cls 16 = .aff ∧ wp.cls 23 = .aff ∧ wp.cls 24 = .uni ∧ wp.cls 31 = .uni ∧ wp.cls 32 = .out ∧
    ({ r := .zero } : Fld).r = .zero := by decide
/-- An affine register reads base + lane · stride (R147). -/
theorem test_affine_read : wp.readReg 16 1 = 104 ∧ wp.readReg 24 1 = 7 ∧ wp.readReg 15 1 = 16 := by decide

/-- The frames' premises: an instruction of each list runs, answers a next state and does not trap. -/
theorem wit_frames : (∀ i, i ∈ [Instr.isub {} (vo .i32), .movi {} (.v 5) 1, .shfl {} (vo .n32), .fadd {} (vo .f32), .vote {} { p := 3, a := 1, b := 0 }, .bra {} 7] → Runs i st) ∧
    ([Instr.isub {} (vo .i32), .movi {} (.v 5) 1, .shfl {} (vo .n32), .fadd {} (vo .f32), .vote {} { p := 3, a := 1, b := 0 }, .bra {} 7].all fun i =>
      after i st fun t => (t.block 0 0).stop == none && (t.warp ⟨0, 0, 0⟩).trap == none) = true :=
  ⟨runs_all (by decide), by decide⟩

/-- A store's premises: the group is on a slice, and byte 40 lies outside the lanes' words at 24 and 28 while byte 31 lies inside. -/
theorem wit_memory_frame : (∀ q, st.cur.unit ≠ .stream q) ∧
    ((List.range 32).all fun l => !(act (.st {} { d := .v 5, cap := 0, b := .v 24, m := { ty := .i32, sub := 1, imm := 17 } }) st).getLsbD l ||
      (opdM { d := .v 5, cap := 0, b := .v 24, m := { ty := .i32, sub := 1, imm := 17 } } true).ea st.advance l == 24) = true := ⟨by simp [st, grp], by decide⟩

/-- A trap vector that may be entered: c31 names the code object with the execute right. -/
def blkV : Block := { blk with caps := [(31, { valid := true, oid := 1, rights := 4, lower := 96, upper := 1200 })] }
theorem wit_trap_entry : (⟨⟨0, 0, 0⟩, 3⟩ : Member) ∈ (st blkV).cur.mems ∧ ((st blkV).cur.mems.map fun x => x.w).Nodup ∧ (st blkV).block? 0 0 = some blkV ∧
    blkV.stop = none ∧ olderPending (st blkV).cur (st blkV) = false ∧ ((st blkV).core 0).agtctl.getLsbD 0 = false ∧
    ({ cores := [(0, { part := some 0, agtctl := 0x101, blocks := [(0, blkV)] })], cur := grp } : State).core 0 ≠ {} := by decide
/-- A handler is entered where AGTCTL bit 0 is set, with the trap registers of R427. -/
def stV (b : Block := blkV) : State := { st with cores := [(0, { part := some 0, agtctl := 0x101, blocks := [(0, b)] })] }
theorem wit_trap_enters : ((stV).core 0).agtctl.getLsbD 0 = true ∧ (stV).vectorOk blkV = true ∧ ((stV).warp ⟨0, 0, 0⟩).trap = none := by decide
/-- A trap behind an older long-latency instruction is deferred (R61). -/
theorem wit_trap_deferred : olderPending (stV { blkV with warps := [(0, { wp with threads := [{ las := [(1, 2)] }] })] }).cur
    (stV { blkV with warps := [(0, { wp with threads := [{ las := [(1, 2)] }] })] }) = true := by decide
/-- IDIVZ in lane 0 only (R192, R427): TRLANE, TRPC, and the handler at 96 / 12. -/
theorem test_trap_entry : ((wafter (.idiv {} { vo .i32 with b := .v 0 }) stV).trap.map fun t => (t.cause, t.lanes, t.pc)) = some (0x0A, 1, 5) ∧
    ((wafter (.idiv {} { vo .i32 with b := .v 0 }) stV).thread 1).pc = 8 ∧ ((wafter (.idiv {} { vo .i32 with b := .v 0 }) stV).thread 1).inH = true := by decide
theorem test_trap_unhandled : trapped (.idiv {} { vo .i32 with b := .v 0 }) (st blkV) = some (0x0A, 1) := by decide

theorem wit_decode_of_encode : (Instr.iadd {} (vo .i32)).wf = true ∧ (∃ r, (Instr.iadd {} (vo .i32)).raw = some r) := ⟨by decide, _, rfl⟩
theorem wit_security_version : (0 : BitVec 32) ≤ ({ State.reset with agenda := [.idle] } : State).sys.svnMin ∧
    (∃ t, step { State.reset with agenda := [.idle] } = .next t) := ⟨by decide, _, rfl⟩

/-! ### Integer and lane instructions (chapter 9) -/

theorem wit_integer : fits st ([Instr.imul {} (vo .i32), .imad {} (vo .n32), .iabs {} (vu .i32), .ineg {} (vu .i32), .imin {} (vo .i32), .imax {} (vo .i32)].map au ++
    [(.iadd {} (vo .i32), sumShp (usesOf (.iadd {} (vo .i32))) (vo .i32).m), (.isub {} (vo .i32), sumShp (usesOf (.isub {} (vo .i32))) (vo .i32).m)]) = true := by decide
theorem wit_wide_and_carry : fits st ([Instr.imulh {} (vo .i32), .iadds {} (vo .i32), .imadw {} (vp .i32), .isad {} (vo .n8)].map au ++
    [(.iaddc {} (vo .n32), genRule), (.isubb {} (vo .n32), genRule)]) = true := by decide
theorem wit_division : fits st ([Instr.idiv {} (vo .i32), .irem {} (vo .i32), .idiv {} (vu .i32), .irem {} (vu .i32), .idiv {} (vu .i32 { sat := true }),
    .irem {} (vu .i32 { sat := true })].map au) = true ∧ divZero (.idiv {} (vo .i32)) (vo .i32).m st = 0 ∧ divZero (.irem {} (vo .i32)) (vo .i32).m st = 0 ∧
    divZero (.idiv {} (vu .i32)) (vu .i32).m st = 3 ∧ divZero (.irem {} (vu .i32)) (vu .i32).m st = 3 := by decide
theorem wit_bitwise : fits st ([Instr.and {} (vo .n32), .or {} (vo .n32), .xor {} (vo .n32), .andn {} (vo .n32), .not {} (vu .n32), .brev {} (vu .n32), .popc {} (vu .n32),
    .clz {} (vu .n32), .ctz {} (vu .n32), .bfx {} (vo .n32), .bfi {} (vo .n32), .bperm {} (vo .n32), .shl {} (vo .n32), .shr {} (vo .n32), .sar {} (vo .i32),
    .rol {} (vo .n32)].map au) = true := by decide
theorem wit_moves : fits st [(.mov {} (vu .n32), fun r m => srcShp (r.warp m.w) (vu .n32).a), (.movi {} (.v 5) 1, uniRule), (.sel {} (vo .n32), genRule),
    (.movx {} (vu .i8), genRule)] = true ∧ okB (indexChk (vu .i8) 3 st.advance) = true ∧ runsB (.movxw {} { d := .zero, a := .v 6, b := .v 7 }) st = true ∧
    (acting (.movxw {} { d := .zero, a := .v 6, b := .v 7 }) st).all (movxwOk st.advance { d := .zero, a := .v 6, b := .v 7 }) = true := by decide
/-- A predicate operand. -/
def pp : OpsPP := { p := 3, a := 1, b := 2 }
theorem wit_predicates : (∀ i, i ∈ [Instr.pand {} pp, .por {} pp, .pxor {} pp, .pnot {} pp, .pmov {} pp, .vote {} pp] → Runs i st) ∧
    Runs (.icmp {} { p := 3, a := .v 6, b := .v 7, m := { ty := .i32 } }) st ∧ ShapeOk (.icmp {} { p := 3, a := .v 6, b := .v 7, m := { ty := .i32 } }) st genRule :=
  ⟨runs_all (by decide), runs (by decide), rfl⟩
theorem wit_cross_lane : fits st [(.ballot {} (vu .i8), uniRule), (.affine {} { d := .v 16, a := .v 24, b := .v 25 }, fun _ _ => .aff), (.laneix {} { d := .v 16, a := .zero, b := .zero }, fun _ _ => .aff),
    (.laneix {} (vu .i8 { sub := 1 }), genRule), (.laneix {} (vu .i8 { sub := 2 }), uniRule), (.laneix {} (vu .i8 { sub := 3 }), uniRule), (.scan {} (vu .i32), genRule),
    (.red {} (vu .i32), uniRule), (.confl {} (vu .i8), genRule), (.cmbn {} (vo .i32), genRule)] = true ∧
    ((acting (.affine {} { d := .v 16, a := .v 24, b := .v 25 }) st).all fun m => autoShp (usesOf (.affine {} { d := .v 16, a := .v 24, b := .v 25 })) (st.advance.warp m.w) == .uni) = true := by decide
theorem wit_shuffle : fits st [(.shfl {} (vo .n32), genRule), (.bcast {} { vo .n32 with b := .v 25 }, uniRule)] = true ∧
    ((acting (.bcast {} { vo .n32 with b := .v 25 }) st).all fun m => (usesOf (.bcast {} { vo .n32 with b := .v 25 })).b.toList.all fun f => srcShp (st.advance.warp m.w) f.r == .uni) = true ∧
    (∀ k, (vo .n32).a ≠ .latch k) := ⟨by decide, by decide, by simp [vo]⟩

/-- Registers with v6 and v7 as given in lane 0. -/
def ab (a b : Word) (d : Word := 0) : State :=
  stw { wp with gen := (smPut (smPut (smPut wp.gen 192 a 0) 224 b 0) 160 d 0) }

theorem test_add_wraps : reg (.iadd {} (vo .i8)) (ab 0x7F 1) 5 0 = 0xFFFFFF80 ∧ reg (.iadd {} (vo .i8 { sat := true })) (ab 0x7F 1) 5 0 = 0x7F := by decide
theorem test_sub_imm : reg (.isub {} (vu .n16 { imm := 0xFFFF })) (ab 0 0) 5 0 = 1 ∧ reg (.isub {} (vu .i32 { imm := 0xFFFF })) (ab 0 0) 5 0 = 1 ∧
    reg (.isub {} (vu .n32 { imm := 1, sat := true })) (ab 0 0) 5 0 = 0 := by decide
theorem test_mul : reg (.imul {} (vo .i32)) (ab 0xFFFFFFFF 3) 5 0 = 0xFFFFFFFD ∧ reg (.imulh {} (vo .i32)) (ab 0xFFFFFFFF 3) 5 0 = 0xFFFFFFFF ∧
    reg (.imulh {} (vo .n32)) (ab 0xFFFFFFFF 3) 5 0 = 2 ∧ reg (.imad {} (vo .n32)) (ab 5 6 7) 5 0 = 37 := by decide
theorem test_divide : reg (.idiv {} (vo .i32)) (ab 0xFFFFFFF9 2) 5 0 = 0xFFFFFFFD ∧ reg (.irem {} (vo .i32)) (ab 0xFFFFFFF9 2) 5 0 = 0xFFFFFFFF ∧
    reg (.idiv {} (vo .n32)) (ab 0xFFFFFFF9 2) 5 0 = 0x7FFFFFFC ∧ reg (.idiv {} (vu .i32 { sat := true })) (ab 0xFFFFFFF9 0) 5 0 = 0x80000000 := by decide
theorem test_abs : reg (.iabs {} (vu .i32)) (ab 0x80000000 0) 5 0 = 0x80000000 ∧ reg (.iabs {} (vu .i32 { sat := true })) (ab 0x80000000 0) 5 0 = 0x7FFFFFFF ∧
    reg (.ineg {} (vu .i32)) (ab 5 0) 5 0 = 0xFFFFFFFB ∧ reg (.imin {} (vo .i32)) (ab 0xFFFFFFFF 1) 5 0 = 0xFFFFFFFF ∧ reg (.imax {} (vo .n32)) (ab 0xFFFFFFFF 1) 5 0 = 0xFFFFFFFF := by decide
theorem test_carry : reg (.iaddc {} (vo .n32 { imm := 3 })) (ab 0xFFFFFFFF 1) 5 0 = 0 ∧ ((wafter (.iaddc {} (vo .n32 { imm := 3 })) (ab 0xFFFFFFFF 1)).pred 3).getLsbD 0 = true ∧
    reg (.isubb {} (vo .n32 { imm := 1 })) (ab 0 0) 5 0 = 0xFFFFFFFF ∧ ((wafter (.isubb {} (vo .n32 { imm := 1 })) (ab 0 0)).pred 1).getLsbD 0 = true := by decide
theorem test_wide : reg (.imadw {} { vp .i32 with a := .v 6, b := .v 7 }) (stw { wp with gen := [(192, 0xFFFFFFFF), (224, 2)] }) 5 0 = 0xFFFFFFFF ∧
    reg (.imadw {} { vp .n32 with a := .v 6, b := .v 7 }) (stw { wp with gen := [(192, 0xFFFFFFFF), (224, 2)] }) 5 0 = 1 ∧
    reg (.isad {} (vo .i8)) (ab 0xFF 1 10) 5 0 = 12 ∧ reg (.iadds {} (vo .n32 { sub := 15 })) (ab 1 3) 5 0 = 0x18001 := by decide
theorem test_bits : reg (.andn {} (vo .n32)) (ab 0xFF 0x0F) 5 0 = 0xF0 ∧ reg (.not {} (vu .n32)) (ab 0 0) 5 0 = 0xFFFFFFFF := by decide
theorem test_brev : reg (.brev {} (vu .n32)) (ab 1 0) 5 0 = 0x80000000 := by decide +kernel
theorem test_popc : reg (.popc {} (vu .n32)) (ab 0xF0F0 0) 5 0 = 8 := by decide
theorem test_clz : reg (.clz {} (vu .n32)) (ab 0 0) 5 0 = 32 := by decide
theorem test_ctz : reg (.ctz {} (vu .n32)) (ab 8 0) 5 0 = 3 := by decide
theorem test_fields : reg (.bfx {} (vo .i32)) (ab 0x00000F00 0x0408) 5 0 = 0xFFFFFFFF ∧ reg (.bfx {} (vo .n32)) (ab 0x00000F00 0x0408) 5 0 = 0xF ∧
    reg (.bfi {} (vo .n32)) (ab 0x3 0x0204 0xFFFF) 5 0 = 0xFFFF ∧ reg (.bfi {} (vo .n32)) (ab 0 0x0204 0xFFFF) 5 0 = 0xFFCF := by decide
theorem test_shifts : reg (.shl {} (vo .n32)) (ab 1 32) 5 0 = 0 ∧ reg (.shl {} (vo .i32 { sat := true })) (ab 0x40000000 1) 5 0 = 0x7FFFFFFF ∧
    reg (.shr {} (vo .n32)) (ab 0x80000000 31) 5 0 = 1 ∧ reg (.sar {} (vo .i32)) (ab 0x80000000 40) 5 0 = 0xFFFFFFFF ∧ reg (.rol {} (vo .n32)) (ab 0x80000001 33) 5 0 = 3 := by decide
theorem test_moves : reg (.movi {} (.v 5) 0xDEADBEEF) st 5 1 = 0xDEADBEEF ∧ reg (.mov {} { vu .n32 with a := .lane }) st 5 1 = 1 ∧
    reg (.mov {} { vu .n32 with d := .v 16, a := .v 17 }) st 16 1 = 0 ∧ reg (.sel {} (vo .n32 { imm := 0x11 })) st 5 0 = 7 ∧ reg (.sel {} (vo .n32 { imm := 1 })) st 5 0 = 6 ∧
    reg (.movx {} (vu .i8 { imm := 3 })) st 5 0 = 9 ∧ reg (.movxw {} { d := .zero, a := .v 2, b := .v 7, m := { imm := 1 } }) st 3 0 = 7 := by decide
theorem test_movx_range : trapped (.movx {} (vu .i8 { imm := 25 })) st = some (0x02, 2) := by decide
theorem test_compare : ((wafter (.icmp {} { p := 3, a := .v 6, b := .v 7, m := { ty := .i32, sub := 2 } }) (ab 0xFFFFFFFF 1)).pred 3).getLsbD 0 = true ∧
    ((wafter (.icmp {} { p := 3, a := .v 6, b := .v 7, m := { ty := .n32, sub := 2 } }) (ab 0xFFFFFFFF 1)).pred 3).getLsbD 0 = false := by decide
theorem test_predicates : (wafter (.pand {} pp) st).pred 3 = 1 ∧ (wafter (.pand {} { pp with m := { sub := 1 } }) st).pred 3 = 2 ∧ (wafter (.por {} { pp with b := 15 }) st).pred 3 = 3 ∧
    (wafter (.pxor {} pp) st).pred 3 = 2 ∧ (wafter (.pnot {} pp) st).pred 3 = 2 ∧ (wafter (.pmov {} pp) st).pred 3 = 1 ∧
    (wafter (.vote {} pp) st).pred 3 = 3 ∧ (wafter (.vote {} { pp with m := { sub := 1 } }) st).pred 3 = 0 := by decide
theorem test_cross_lane : reg (.ballot {} (vu .i8 { imm := 0x11 })) st 5 0 = 2 ∧ reg (.shfl {} (vo .n32 { sub := 3 })) (ab 40 1) 5 0 = 7 ∧ reg (.shfl {} (vo .n32 { sub := 1 })) (ab 40 1) 5 0 = 40 ∧
    reg (.bcast {} { vo .n32 with b := .v 25 }) st 5 0 = 7 ∧ reg (.bcast {} (vu .n32 { sub := 1 })) st 5 1 = 6 ∧ reg (.affine {} { d := .v 16, a := .v 24, b := .v 25 }) st 16 3 = 10 ∧
    reg (.laneix {} (vu .i8 { sub := 3 })) st 5 0 = 3 ∧ reg (.laneix {} (vu .i8 { sub := 1 })) st 5 1 = 1 := by decide
theorem test_scan : reg (.scan {} (vu .i32)) st 5 1 = 13 ∧ reg (.scan {} (vu .i32 { sub := 8 })) st 5 1 = 6 ∧ reg (.red {} (vu .i32)) st 5 0 = 13 ∧ reg (.red {} (vu .i32 { sub := 2 })) st 5 0 = 7 := by decide
theorem test_conflicts : reg (.confl {} { vu .i8 with a := .v 24 }) st 5 1 = 3 ∧ reg (.confl {} { vu .i8 with a := .v 24, m := { sub := 1 } }) st 5 1 = 1 ∧
    reg (.cmbn {} { vo .i32 with a := .v 24 }) st 5 0 = 15 ∧ reg (.cmbn {} { vo .i32 with a := .v 24 }) st 5 1 = 0 := by decide

/-! ### Floating point and conversion (chapter 10) -/

/-- Group 3, 4 and 10 instructions on small operands. -/
def fArith : List Instr := [.fadd {} (vo .f32), .fsub {} (vo .f32), .fmul {} (vo .f32), .ffma {} (vo .f32), .trstep {} (vo .f32), .fmin {} (vo .f32), .fmax {} (vo .f32), .fclass {} (vu .f32),
  .fround {} (vu .f32), .fscalb {} (vo .f32), .fsat {} (vu .f32), .fdot2 {} (vo .f16), .fmul2 {} (vp .f16), .ffma2 {} (vp .f16)]
/-- The machine with every FPTEN bit set. -/
def stT (a b : Word) : State := stw { wp with fpten := 0x1F, gen := smPut (smPut (smPut (smPut wp.gen 192 a 0) 224 b 0) 193 a 0) 225 b 0 }
theorem wit_float : fits (ab 0x40000000 0x3F800000) (fArith.map au) = true ∧
    (fpTrap (ab 0x40000000 0x3F800000).advance (ab 0x40000000 0x3F800000).advance.cur.mems (flagsOf (.fadd {} (vo .f32)) (ab 0x40000000 0x3F800000) (fun r l => rounded (vo .f32).m r l
      (addV (r.mode (vo .f32).m l) (fA (.fadd {} (vo .f32)) .f32 r l) (fB (.fadd {} (vo .f32)) .f32 r l))))).isNone = true ∧
    (fpTrap (stT 0x7F800000 0xFF800000).advance (stT 0x7F800000 0xFF800000).advance.cur.mems (flagsOf (.fadd {} (vo .f32)) (stT 0x7F800000 0xFF800000) (fun r l => rounded (vo .f32).m r l
      (addV (r.mode (vo .f32).m l) (fA (.fadd {} (vo .f32)) .f32 r l) (fB (.fadd {} (vo .f32)) .f32 r l))))).isSome = true := by decide +kernel
theorem wit_long_float : fits (ab 0x40000000 0x3F800000) ([Instr.frcp {} (vu .f32), .frsq {} (vu .f32), .fex2 {} (vu .f32), .flg2 {} (vu .f32), .fsin {} (vu .f32), .fcos {} (vu .f32),
    .ddiv {} (vo .f32), .dsqrt {} (vu .f32)].map au) = true := by decide +kernel
theorem wit_conversion : fits (ab 0x40000000 0x3F800000) ([Instr.cvt {} (vu .f16 { sub := 10 }), .cvti {} (vu .i32 { sub := 10 }), .cvtf {} (vu .f32 { sub := 2 })].map au ++
    [(.cvtef {} (vu .f16 { rnd := .ef }), genRule), (.efmov {} false (.v 5) 3, genRule), (.bscale {} (vu .f32), uniRule)]) = true ∧
    runsB (.efclr {} 3) st = true ∧ runsB (.efmov {} true (.v 6) 3) st = true ∧ okB (st.advance.shapeChk (usesOf (.efmov {} true (.v 6) 3)) 3 fun m => genRule st.advance m) = true := by decide +kernel
theorem wit_pack : fits st [(.pack4 {} (vo .f32), genRule), (.pack6 {} (vo .f32 { sub := 1 }), genRule), (.pack6 {} { vo .f32 { sub := 1 } with d := .zero }, genRule), (.pack8 {} (vo .f32 { sub := 3 }), genRule), (.unpk {} (vo .f32), genRule),
    (.unpk {} (vo .f32 { sub := 1 }), genRule)] = true ∧ elemBits 0 = 4 ∧ elemBits 1 = 6 ∧ elemBits 3 = 8 ∧ okB (st.advance.reachChk (.v 5) 2 [.gen] 3) = true ∧
    okB (st.advance.reachChk (.v 6) 2 [.gen] 3) = true ∧ (fpTrap st.advance st.advance.cur.mems []).isNone = true := by decide +kernel
theorem wit_comparison : fits st [(.pivchk {} (vo .f32), genRule), (.flagrd {} { d := .v 5, a := .zero, b := .zero }, uniRule), (.flagrd {} { d := .v 5, a := .zero, b := .zero, m := { sub := 1 } }, uniRule)] = true ∧
    runsB (.fcmp {} { p := 3, a := .v 6, b := .v 7, m := { ty := .f32 } }) st = true ∧
    okB (st.advance.shapeChk (usesOf (.fcmp {} { p := 3, a := .v 6, b := .v 7, m := { ty := .f32 } })) 3 fun m => genRule st.advance m) = true ∧
    runsB (.flagclr {} { imm := 3 }) st = true ∧ runsB (.rmode {} { imm := 4 }) st = true ∧ (fpTrap st.advance st.advance.cur.mems []).isNone = true := by decide +kernel

/-- 1 + 2^-24 is a tie (R217): RNE gives 1, RUP the next number, and NX is raised. -/
theorem test_fadd_rounds : reg (.fadd {} (vo .f32)) (ab 0x3F800000 0x33800000) 5 0 = 0x3F800000 ∧ reg (.fadd {} (vo .f32 { rnd := .rup })) (ab 0x3F800000 0x33800000) 5 0 = 0x3F800001 ∧
    reg (.fadd {} (vo .f32 { rnd := .rna })) (ab 0x3F800000 0x33800000) 5 0 = 0x3F800001 := by decide +kernel
/-- ∞ − ∞ is the canonical NaN, and traps where NV is enabled. -/
theorem test_fsub_invalid : reg (.fsub {} (vo .f32)) (ab 0x7F800000 0x7F800000) 5 0 = 0x7FC00000 ∧ trapped (.fsub {} (vo .f32)) (stT 0x7F800000 0x7F800000) = some (0x09, 3) := by decide +kernel
theorem test_fmul_overflow : reg (.fmul {} (vo .f32)) (ab 0x7F7FFFFF 0x40000000) 5 0 = 0x7F800000 ∧ reg (.fmul {} (vo .f32 { rnd := .rtz })) (ab 0x7F7FFFFF 0x40000000) 5 0 = 0x7F7FFFFF ∧
    reg (.ffma {} (vo .f32)) (ab 0x40000000 0x40400000 0xC0C00000) 5 0 = 0 := by decide +kernel
theorem test_fmin_zero : reg (.fmin {} (vo .f32)) (ab 0x80000000 0) 5 0 = 0x80000000 ∧ reg (.fmax {} (vo .f32)) (ab 0x80000000 0) 5 0 = 0 ∧ reg (.fmax {} (vo .f32)) (ab 0x7FC00000 0x3F800000) 5 0 = 0x3F800000 := by decide +kernel
theorem test_fround : reg (.fround {} (vu .f32)) (ab 0x40200000 0) 5 0 = 0x40000000 ∧ reg (.fround {} (vu .f32 { rnd := .rup })) (ab 0x40200000 0) 5 0 = 0x40400000 ∧
    reg (.fscalb {} (vo .f32)) (ab 0x3F800000 3) 5 0 = 0x41000000 ∧ reg (.fsat {} (vu .f32)) (ab 0xC0000000 0) 5 0 = 0 ∧ reg (.fsat {} (vu .f32 { sub := 1 })) (ab 0xC0000000 0) 5 0 = 0xBF800000 := by decide +kernel
theorem test_pairs : reg (.fdot2 {} (vo .f16)) (ab 0x3C004000 0x40003C00 0x3F800000) 5 0 = 0x40A00000 ∧
    reg (.fmul2 {} (vp .f16)) (stw { wp with gen := [(192, 0x3C004000), (256, 0x40004000)] }) 4 0 = 0x40004400 := by decide +kernel
theorem test_fcmp_nan : ((wafter (.fcmp {} { p := 3, a := .v 6, b := .v 7, m := { ty := .f32, sub := 1 } }) (ab 0x7FC00000 0)).pred 3).getLsbD 0 = true ∧
    ((wafter (.fcmp {} { p := 3, a := .v 6, b := .v 7, m := { ty := .f32, sub := 0 } }) (ab 0x80000000 0)).pred 3).getLsbD 0 = true := by decide +kernel
theorem test_convert : reg (.cvt {} (vu .f16 { sub := 10 })) (ab 0x3F800000 0) 5 0 = 0x3C00 ∧ reg (.cvt {} (vu .e4m3 { sub := 10, sat := true })) (ab 0x7F800000 0) 5 0 = 0x7E ∧
    reg (.cvti {} (vu .i32 { sub := 10, rnd := .rtz })) (ab 0xBFC00000 0) 5 0 = 0xFFFFFFFF ∧ reg (.cvtf {} (vu .f32 { sub := 2 })) (ab 0xFFFFFFFE 0) 5 0 = 0xC0000000 := by decide +kernel
theorem test_companions : (wafter (.efmov {} true (.v 6) 3) st).efs = [(96, 6), (97, 7)] ∧ (wafter (.efclr {} 3) (stw { wp with efs := [(96, 1), (128, 2)] })).efs = [(128, 2)] ∧
    reg (.efmov {} false (.v 5) 3) (stw { wp with efs := [(96, 9)] }) 5 0 = 9 := by decide +kernel
theorem test_flags : reg (.flagrd {} { d := .v 5, a := .zero, b := .zero, m := { sub := 1 } }) (stw { wp with fpflags := 0x21 }) 5 0 = 0x21 ∧
    (wafter (.flagrd {} { d := .v 5, a := .zero, b := .zero, m := { sub := 1 } }) (stw { wp with fpflags := 0x21 })).fpflags = 0 ∧
    (wafter (.flagclr {} { imm := 1 }) (stw { wp with fpflags := 0x21 })).fpflags = 0x20 ∧ (wafter (.rmode {} { imm := 4 }) st).fprnd = 4 := by decide +kernel
/-- A long-latency result arrives when the instruction completes (R60, R168): 1 / 2, and the square root of 4. -/
theorem test_frcp : (match exec (.frcp {} (vu .f32)) (ab 0x40000000 0) with | .next t => (t.ops.map fun o => o.rws.head?) | _ => []) = [some (.gen ⟨0, 0, 0⟩ 5 0 0x3F000000)] := by decide +kernel
theorem test_dsqrt : (match exec (.dsqrt {} (vu .f32)) (ab 0x40800000 0) with | .next t => (t.ops.map fun o => o.rws.head?) | _ => []) = [some (.gen ⟨0, 0, 0⟩ 5 0 0x40000000)] := by decide +kernel

/-! ### Control and sequencers (chapters 8 and 14) -/

/-- The threads with return stacks of some depth, and a second code object behind c2. -/
def stC (n : Nat) : State :=
  st { blk with caps := [(2, { valid := true, oid := 1, rights := 4, lower := 120, upper := 1200 })],
                warps := [(0, { wp with threads := List.replicate 2 { pc := 5, obj := 1, rstack := List.replicate n (1, 77) } })] }
theorem wit_branches : (∀ i, i ∈ [Instr.nop {} {}, .bra {} 7, .brx {} { d := .zero, a := .v 6, b := .zero }, .brany {} 1 7, .brall {} 1 7] → Runs i st) ∧
    Runs (.loop {} (.v 5) 7) st ∧ ShapeOk (.loop {} (.v 5) 7) st (fun r mm => srcShp (r.warp mm.w) (.v 5)) := ⟨runs_all (by decide +kernel), runs (by decide +kernel), rfl⟩
theorem wit_calls : ([Instr.call {} 7, .callx {} { d := .zero, a := .v 6, b := .zero, m := { imm := 2 } }, .ret {} {}, .exit {} {}, .tend {} {}, .yield {} {}, .ipref {} 1].all fun i => runsB i (stC 15)) = true ∧
    (stC 15).advance.lanesWith 3 (fun _ th => decide (16 ≤ th.rstack.length)) = 0 ∧ (stC 16).advance.lanesWith 3 (fun _ th => decide (16 ≤ th.rstack.length)) = 3 ∧
    okB (callxChk (stC 15).advance 2 { d := .zero, a := .v 6, b := .zero, m := { imm := 2 } } 3) = true ∧ (stC 1).advance.lanesWith 3 (fun _ th => th.rstack.isEmpty) = 0 ∧
    (stC 0).advance.lanesWith 3 (fun _ th => th.rstack.isEmpty) = 3 := by decide +kernel
theorem wit_clauses : ([Instr.clen {} 4, .clwait {} 4, .cldrop {} 4, .clget {} (.v 5) 4 {}, .clset {} 4 (.v 24) {}].all fun i => runsB i st) = true ∧
    fits st [(.clget {} (.v 5) 4 {}, genRule)] = true ∧ okB (st.advance.uniformChk (.v 24) 3) = true := by decide +kernel
/-- A group on a sequencer of the block, with a stream at index 5. -/
def stS (m : Mx := { st := .running, pc := 5 }) : State := { st { blk with mx := m } with cur := { unit := .stream 0, obj := 1, pc := 5 } }
theorem wit_sequencer : stS.cur.unit = .stream 0 ∧ ({} : Ctl).gp = 15 ∧ ({} : Ctl).gn = false ∧ ({} : Ctl).hold = 0 ∧ (5 : Fin 1536).val < 64 ∧ (stS.core 0).owned = false ∧
    (stS.block 0 0).mx.ops = [] ∧ (vu .n32).m.ty.bits = 32 ∧ (vu .n32).m.sat = false := by decide +kernel
theorem test_branches : ((wafter (.bra {} 0xFFFFFFFE) st).thread 1).pc = 3 ∧ ((wafter (.brx {} { d := .zero, a := .v 6, b := .zero }) st).thread 1).pc = 7 ∧
    ((wafter (.brany {} 1 4) st).thread 1).pc = 9 ∧ ((wafter (.brall {} 1 4) st).thread 1).pc = 6 ∧ ((wafter (.bra { gp := 1 } 4) st).thread 1).pc = 6 ∧ ((wafter (.nop {} {}) st).thread 0).pc = 6 := by decide +kernel
theorem test_loop : ((wafter (.loop {} (.v 1) 0xFFFFFFFD) st).thread 0).pc = 6 ∧ ((wafter (.loop {} (.v 1) 0xFFFFFFFD) st).thread 1).pc = 2 ∧ reg (.loop {} (.v 0) 1) st 0 0 = 0xFFFFFFFF := by decide +kernel
theorem test_calls : ((wafter (.call {} 7) (stC 0)).thread 0).rstack = [(1, 6)] ∧ ((wafter (.call {} 7) (stC 0)).thread 0).pc = 12 ∧ trapped (.call {} 7) (stC 16) = some (0x15, 3) ∧
    ((wafter (.ret {} {}) (stC 1)).thread 0).pc = 77 ∧ trapped (.ret {} {}) (stC 0) = some (0x15, 3) ∧
    ((wafter (.callx {} { d := .zero, a := .v 6, b := .zero, m := { imm := 2 } }) (stC 0)).thread 0).pc = 16 := by decide +kernel
theorem test_ends : ((wafter (.exit {} {}) st).thread 0).ended = true ∧ ((wafter (.tend { gp := 1 } {}) st).thread 1).ended = false ∧ ((wafter (.yield {} { imm := 2 }) st).thread 0).yclk = true := by decide +kernel
/-- One lane waits in an enrolled clause of two (R171); the second arrival releases both. -/
def stK (arr : Mask) : State := stw { wp with clauses := [(4, (3, arr))] }
theorem test_clauses : ((wafter (.clwait { gp := 1 } 4) (stK 0)).thread 0).wait = .clause 4 ∧ ((wafter (.clwait {} 4) (stK 0)).thread 0).wait = .none ∧
    (wafter (.clen {} 4) st).clauses = [(4, (3, 0))] ∧ (wafter (.cldrop { gp := 1 } 4) (stK 1)).clauses = [(4, (2, 0))] ∧ reg (.clget {} (.v 5) 4 {}) (stK 1) 5 1 = 3 ∧
    reg (.clget {} (.v 5) 4 { sub := 1 }) (stK 1) 5 0 = 1 ∧ (wafter (.clset {} 4 (.v 25) {}) (stK 1)).clauses = [(4, (1, 1))] := by decide +kernel
/-- The block's matrix resources after an instruction. -/
def mxAfter (i : Instr) (s : State) : Mx := match exec i s with | .next t => (t.block 0 0).mx | _ => {}
theorem test_sequencer : (mxAfter (.movi {} (.v 3) 9) stS).regs = [(3, 9)] ∧ (mxAfter (.bra {} 4) stS).pc = 9 ∧ (mxAfter (.exit {} {}) stS).st = .ended ∧
    (mxAfter (.loop {} (.v 3) 4) (stS { st := .running, pc := 5, regs := [(3, 2)] })).pc = 9 ∧ (mxAfter (.isub {} (vo .i32)) stS).st = .faulted 1 0 := by decide +kernel
/-- The frames' premises for the instructions on companions, flags, modes, clauses and return stacks, and for those that write more than D. -/
theorem wit_frames_more :
    ([Instr.movxw {} { d := .zero, a := .v 2, b := .v 7, m := { imm := 1 } }, .confl {} (vu .n32), .cmbn {} (vo .i32), .trstep {} (vo .f32), .cvt {} (vu .f16 { sub := 10 }), .cvti {} (vu .i32 { sub := 10 }), .cvtf {} (vu .f32 { sub := 2 }),
      .cvtef {} (vu .f16 { rnd := .ef }), .efclr {} 3, .efmov {} true (.v 6) 3, .efmov {} false (.v 5) 3, .pack4 {} (vo .f32), .pack6 {} (vo .f32 { sub := 1 }), .pack8 {} (vo .f32 { sub := 3 }), .unpk {} (vo .f32), .bscale {} { vu .f32 with d := .v 25 },
      .fcmp {} { p := 3, a := .v 6, b := .v 7, m := { ty := .f32 } }, .pivchk {} (vo .f32), .flagrd {} { d := .v 5, a := .zero, b := .zero }, .flagclr {} { imm := 3 }, .rmode {} { imm := 4 }, .loop {} (.v 5) 7, .call {} 7,
      .callx {} { d := .zero, a := .v 6, b := .zero, m := { imm := 2 } }, .ret {} {}, .clen {} 4, .clwait {} 4, .cldrop {} 4, .clget {} (.v 5) 4 {}, .clset {} 4 (.v 24) {}].all fun i =>
      runsB i (stC 1) && after i (stC 1) fun t => (t.block 0 0).stop == none && (t.warp ⟨0, 0, 0⟩).trap == none) = true := by decide +kernel
/-- A full return stack is no place for CALLX either (R176, R177). -/
theorem test_callx_full : okB (callxChk (stC 16).advance 2 { d := .zero, a := .v 6, b := .zero, m := { imm := 2 } } 3) = true ∧ trapped (.callx {} { d := .zero, a := .v 6, b := .zero, m := { imm := 2 } }) (stC 16) = some (0x15, 3) := by decide +kernel

/-! ### Memory, copies, volumes, rows and items (chapters 11 to 13) -/

/-- A capability with every right over the first bytes of an object. -/
def capTo (oid : BitVec 24) (upper : BitVec 48) : Cap := { valid := true, oid := oid, rights := 0xFF, upper := upper }
/-- Bytes 4 to 7 and 24 to 27 of a volume's descriptor: FP32 elements, one channel, pool 5, 64 nodes (Table 12.1). -/
def volMem : Memory := memPutNat (memPutNat (memPutNat (memPutNat [] 6 1 0x0A) 17 3 5) 20 4 2048) 24 4 1
/-- Objects: code, scratch on core 0, data, a volume with its pool, a capability store, scratch on core 1. -/
def objsM : SMap Obj :=
  [(1, { kind := .code, owner := 0, size := 1200, rights := 4 }), (2, { kind := .scratch, owner := 0, size := 4096 }), (3, { kind := .data, owner := 0, size := 65536 }),
   (4, { kind := .volume, owner := 0, size := 4096, mem := volMem }), (5, { kind := .tilePool, owner := 0, size := 1048576 }),
   (6, { kind := .capStore, owner := 0, size := 4096, slots := [(2, capTo 3 64), (4, capTo 3 65536)] }), (7, { kind := .scratch, owner := 0, size := 4096, home := 1 })]
/-- The block with capabilities c2 to c7 to those objects, a spill region and shared memory. -/
def blkM : Block :=
  { blk with caps := [(2, capTo 2 4096), (3, capTo 3 65536), (4, capTo 4 4096), (5, capTo 5 1048576), (6, capTo 6 4096), (7, capTo 7 4096)]
             image := { shared := 4096, gen := 16, aff := 8, unif := 8, spill := 1024 }, shared := memPutNat [] 100 8 0x88776655_443322F1
             warps := [(0, { wp with sp := 0, spill := memPutNat [] 8 4 0xFEDCBA98 })] }
def stM (b : Block := blkM) : State := { st b with objs := objsM }
/-- Memory operands in shared memory, with the lanes' offsets in v16 (100 and 104). -/
def shm (ty : Ty) (sub : BitVec 4 := 1) (imm : BitVec 16 := 0) (d : VReg := .v 5) : OpsM := { d := d, cap := 0, b := .v 16, m := { ty := ty, sub := sub, imm := imm } }
/-- A memory operand through a capability at an immediate offset. -/
def at0 (cap : BitVec 5) (ty : Ty := .i8) (sub : BitVec 4 := 0) (imm : BitVec 16 := 0) (d : VReg := .v 5) : OpsM := { d := d, cap := cap, b := .zero, m := { ty := ty, sub := sub, imm := imm } }
def shmP (imm : BitVec 16 := 0) (ty : Ty := .i8) : OpsMP := { p := 3, cap := 0, b := .v 16, m := { ty := ty, sub := 1, imm := imm } }

theorem wit_loads : fits stM [(.ld {} (shm .i32), genRule), (.ldnp {} (shm .i32), genRule), (.ldv {} { at0 0 with d := .v 4, m := { sub := 1 } }, genRule), (.ldu {} (at0 0 .i32 1 100), uniRule)] = true ∧
    okB ((opdM (shm .i32) true).check stM.advance 3 4 4 [0] [.scratch]) = true ∧ okB ((opdM (at0 2 .i32) false).check stM.advance 3 4 4 [0] [.scratch]) = true ∧
    okB ((opdM { at0 0 with d := .v 4, m := { sub := 1 } } true).check stM.advance 3 8 8 [0] [.scratch]) = true ∧ okB (stM.advance.reachChk (.v 4) 2 [.gen] 3) = true ∧
    okB (stM.advance.uniformChk .zero 3) = true ∧ okB ((opdM (at0 0 .i32 1 100) true).check stM.advance 3 4 4 [0] [.scratch]) = true := by decide +kernel
theorem wit_presence : ([Instr.prtest {} (shmP), .prwait {} { shm .i8 with d := .zero }, .rltest {} (shmP)].all fun i => runsB i stM) = true ∧
    okB ((opdP (shmP) true).check stM.advance 3 1 1 [0] [.scratch]) = true ∧ okB ((opdM { shm .i8 with d := .zero } true).check stM.advance 3 1 1 [0] [.scratch]) = true ∧
    ([Instr.prtest {} (shmP), .prwait {} { shm .i8 with d := .zero }, .rltest {} (shmP)].all fun i => okB (stM.advance.shapeChk (usesOf i) 3 fun m => genRule stM.advance m)) = true := by decide +kernel
theorem wit_stores : ([Instr.st {} (shm .i32), .stv {} { at0 0 with d := .v 4, m := { sub := 1 } }].all fun i => runsB i stM && okB (stM.advance.shapeChk (usesOf i) 3 fun m => genRule stM.advance m)) = true ∧
    okB ((opdM (shm .i32) true).check stM.advance 3 4 4 [1] [.scratch]) = true ∧ okB ((opdM (shm .i32) true).storeChk stM.advance 3 4) = true ∧
    okB ((opdM (at0 0 .i8 1) true).check stM.advance 3 8 8 [1] [.scratch]) = true ∧ okB ((opdM (at0 0 .i8 1) true).storeChk stM.advance 3 8) = true := by decide +kernel
theorem wit_spill : fits stM [(.ldsp {} (at0 0 .i8 1), uniRule), (.ldsp {} (at0 0 .i32 0 8), genRule)] = true ∧ runsB (.stsp {} (at0 0 .i8 1 16 .zero)) stM = true ∧ runsB (.stsp {} (at0 0 .i32 0 8)) stM = true ∧
    okB (spillChk (at0 0 .i32 0 8).m stM.advance 3) = true ∧ (((stM.advance.warp ⟨0, 0, 0⟩).sp : Int) + (16 : BitVec 16).toInt ≤ (stM.advance.block 0 0).image.spill) ∧
    okB (stM.advance.shapeChk (usesOf (.stsp {} (at0 0 .i32 0 8))) 3 fun m => genRule stM.advance m) = true := by decide +kernel

/-- A fill record of 64 bytes at 512 of shared memory (Table 11.2), and the machine that holds it at 256. -/
def fillRec : Nat := 0xAB * 2 ^ 384 + 2 ^ 368 + 2 ^ 358 + 2 ^ 176 + 2 ^ 160 + 64 * 2 ^ 128 + 2 ^ 117 + 512 * 2 ^ 64
/-- The block with the record, and v5 as 1 in both lanes (v24 is uniform 1 here). -/
def stK1 : State := stM { blkM with shared := memPutNat [] 256 64 fillRec, warps := [(0, { wp with uni := [(24, 1)] })] }
def kickAt : OpsM := { d := .v 24, cap := 0, b := .zero, m := { sub := 1, imm := 256 } }
/-- As many range-lock entries of other blocks as the table holds. -/
def stK0 : State := { stK1 with cores := [(0, { part := some 0, blocks := [(0, { blkM with shared := memPutNat [] 256 64 fillRec, warps := [(0, { wp with uni := [(24, 1)] })] })],
                                                copies := (List.range 64).map fun n => { id := 2 ^ 20 + n, seq := 1, uid := 5, entry := true, srcSide := none, dstSide := .obj 3, todo := [] } })] }
theorem wit_copies : runsB (.cpkick {} kickAt) stK1 = true ∧ runsB (.cpkick {} kickAt) stK0 = true ∧ (opD (.cpkick {} kickAt) stK1.advance 0).toNat % 2 ^ 32 = 1 ∧ okB (kickAddr (opdM kickAt true) stK1.advance 0 1) = true ∧
    okB (stK1.advance.shapeChk (usesOf (.cpkick {} kickAt)) 3 fun m => genRule stK1.advance m) = true ∧
    (match recordsChk stK1.advance ⟨0, 0, 0⟩ (stK1.advance.blockAt 0) (.shm 0 0) 1 0 256 [] with | .ok cs => decide (cs.length ≤ freeEntries stK1.advance 0) && decide (cs.length = 1) | .error _ => false) = true ∧
    (match recordsChk stK0.advance ⟨0, 0, 0⟩ (stK0.advance.blockAt 0) (.shm 0 0) 1 0 256 [] with | .ok cs => decide (freeEntries stK0.advance 0 < cs.length) | .error _ => false) = true ∧
    fits stM [(.cpstat {} { d := .v 5, a := .zero, b := .zero }, uniRule), (.cpcancel {} { d := .v 5, a := .zero, b := .zero }, uniRule)] = true ∧
    ([stK1, stK0].all fun s => ((holdEngine 3 s.advance).or (holdPlaces false [(.shm 0 0, 256, 64)] s.advance)).isNone) = true := by decide +kernel
/-- CPIN and CPOUT of line 64 of a data object, with v0 as the line of shared memory (the lanes' v0 are 0 and 1, so lane 0 alone acts). -/
def lineOps : OpsM := { d := .v 0, cap := 3, b := .zero, m := { imm := 64 } }
theorem wit_lines : runsB (.cpin { gp := 1 } lineOps) stM = true ∧ runsB (.cpout { gp := 1 } lineOps) stM = true ∧
    okB (lineChk (usesOf (.cpin { gp := 1 } lineOps)) (opdM lineOps false) 4
      (fun l => (({ shm := true, cap := 0, b := .zero, imm := 0 } : MemOpd).side stM.advance l, lineOff (usesOf (.cpin { gp := 1 } lineOps)) stM.advance l)) stM.advance 1) = true ∧
    okB (lineChk (usesOf (.cpout { gp := 1 } lineOps)) (opdM lineOps false) 3 (fun l => ((opdM lineOps false).side stM.advance l, (opdM lineOps false).ea stM.advance l)) stM.advance 1) = true ∧
    (holdLines 1 (fun _ => [(.shm 0 0, 0), (.obj 3, 64)]) stM.advance).isNone = true ∧ (holdLines 1 (fun _ => [(.obj 3, 64)]) stM.advance).isNone = true := by decide +kernel
/-- Volume operands: c4, the coordinates in v1 to v3, data in v8. -/
def vol (m : Mods := { ty := .f32 }) (b : VReg := .v 1) (d : VReg := .v 8) : OpsM := { d := d, cap := 4, b := b, m := m }
theorem wit_volumes : fits stM ([Instr.vld {} (vol), .vprobe {} (vol {}), .vnbr {} (vol {}), .valloc {} (vol {}), .vfree {} (vol {})].map fun i => (i, genRule)) = true ∧
    fits stM [(.vshoot {} (vol {}), uniRule), (.vbgrd {} (vol { ty := .f32 } .zero), uniRule)] = true ∧
    ([Instr.vst {} (vol), .vadd {} (vol), .vtld {} (vol {} (.v 1) (.v 0)), .vbgrd {} (vol { ty := .f32, imm := 0x100 } .zero)].all fun i =>
      runsB i stM && okB (stM.advance.shapeChk (usesOf i) 3 fun m => genRule stM.advance m)) = true ∧
    okB (stM.advance.reachChk (.v 1) 3 [.gen, .aff, .uni] 3) = true ∧ okB (stM.advance.reachChk (.v 8) 1 [.gen] 3) = true ∧ okB (stM.advance.reachChk (.v 8) 1 [.gen, .uni] 3) = true ∧
    okB (volCapChk stM.advance 3 4 [0, 1, 6]) = true ∧ okB (coordChk stM.advance 3 (.v 1)) = true ∧ okB (typeChk stM.advance 3 4 .f32 0 1) = true ∧ okB (bgShapes stM.advance 3 (.v 8) 1) = true := by decide +kernel
theorem wit_tile_load : lowest 3 = 1 ∧ okB (volCapChk stM.advance 1 4 [0, 6]) = true ∧ okB (coordChk stM.advance 1 (.v 1)) = true ∧
    (opD (.vtld {} (vol {} (.v 1) (.v 0))) stM.advance 0).toNat % 2 ^ 32 % 64 = 0 ∧ stM.advance.slotSize (volAt stM.advance 4 0) = 2048 ∧
    (stM.advance.blockAt 0).image.shared = 4096 ∧ stM.advance.locked 0 true (.shm 0 0) (0, 2048) = false ∧ (holdLines 1 (fun _ => (linesOf 0 2048).map fun n => (.shm 0 0, 64 * n)) stM.advance).isNone = true := by decide +kernel
/-- Rows of c3 numbered by v1. -/
def rowOps (ty : Ty := .i8) : OpsM := { d := .v 8, cap := 3, b := .v 1, m := { ty := ty, imm := 16, sub := 1 } }
theorem wit_rows : ([Instr.gthr {} (rowOps), .sctr {} (rowOps), .sctra {} (rowOps .i32)].all fun i => runsB i stM) = true ∧
    okB (rowChk (usesOf (.gthr {} (rowOps))) (rowOps) [0] false stM.advance 3) = true ∧ okB (rowChk (usesOf (.sctr {} (rowOps))) (rowOps) [1] true stM.advance 3) = true ∧
    okB (rowChk (usesOf (.sctra {} (rowOps .i32))) (rowOps .i32) [0, 1] true stM.advance 3) = true := by decide +kernel
theorem wit_items : fits st [(.spawni {} (vu .i8 { imm := 2 }), genRule), (.itemloop {} 2 (.v 8) 9, genRule), (.itemget {} { d := .v 8, a := .zero, b := .zero, m := { imm := 2 } }, genRule)] = true ∧
    runsB (.itemend {} {}) st = true ∧ okB (st.advance.reachChk (.v 6) 3 [.gen, .aff, .uni] 3) = true ∧ okB (st.advance.reachChk (.v 8) 3 [.gen] 3) = true ∧ okB (st.advance.reachChk (.v 8) 4 [.gen] 3) = true ∧ (holdUntil false 3 st.advance).isNone = true := by decide +kernel

/-- The register writes that the first outstanding instruction delivers. -/
def results (i : Instr) (s : State) : List RW := match exec i s with | .next t => (t.ops.head?.map (·.rws)).getD [] | _ => []
/-- Bytes of a side after an instruction. -/
def bytesAt (i : Instr) (s : State) (sd : Side) (a n : Nat) : Nat := match exec i s with | .next t => t.readNat sd a n | _ => 0
/-- A load extends in its type, each lane at its own address (R183, R267). -/
theorem test_load : results (.ld {} (shm .i8)) stM = [.gen ⟨0, 0, 0⟩ 5 0 0xFFFFFFF1, .gen ⟨0, 0, 0⟩ 5 1 0x55] ∧ results (.ld {} (shm .n16)) stM = [.gen ⟨0, 0, 0⟩ 5 0 0x22F1, .gen ⟨0, 0, 0⟩ 5 1 0x6655] ∧
    results (.ldu {} (at0 0 .i32 1 104 (.v 25))) stM = [.uni ⟨0, 0, 0⟩ 25 0x88776655] ∧ results (.ldv { gp := 1 } { at0 0 with d := .v 4, m := { sub := 1, imm := 104 } }) stM = [.gen ⟨0, 0, 0⟩ 4 0 0x88776655, .gen ⟨0, 0, 0⟩ 5 0 0] := by decide +kernel
/-- Lanes that store to one byte leave the highest lane's (R268); each lane's own word otherwise. -/
theorem test_store : bytesAt (.st {} (at0 0 .i8 1 8)) stM (.shm 0 0) 8 2 = 6 ∧ bytesAt (.st {} (shm .i32)) stM (.shm 0 0) 100 8 = 0x00000006_00000005 ∧ bytesAt (.st {} (at0 2 .i16 0 8)) stM (.obj 2) 8 2 = 6 ∧
    bytesAt (.stv { gp := 1 } { at0 0 with d := .v 4, m := { sub := 1, imm := 8 } }) stM (.shm 0 0) 8 8 = 0x00000005_00000004 := by decide +kernel
/-- A store to a line homed on another core is on its way there (R248). -/
theorem test_remote_store : (match exec (.st { gp := 1 } (at0 7 .i32)) stM with | .next t => (t.rstores.map fun r => (r.off, r.bytes), t.readNat (.obj 7) 0 4) | _ => ([], 9)) = ([(0, [5, 0, 0, 0])], 0) := by decide +kernel
/-- An atomic of the warp that has not reached word 0 of the remote scratch object. -/
def stAt : State := { stM with ops := [{ id := 7, core := 0, mems := [{ w := ⟨0, 0, 0⟩, lanes := 3 }], obj := 1, pc := 4, marks := []
                                         work := .mem [{ w := ⟨0, 0, 0⟩, lanes := 1, side := .obj 7, off := 0, n := 4, act := .rmw 0 .n32 false 1 }] }] }
/-- A store behind it waits for it (R250, R364), and one beside it does not. -/
theorem test_store_behind : (match exec (.st { gp := 1 } (at0 7 .i32)) stAt with | .next t => (t.rstores.length, t.ops.length) | _ => (9, 9)) = (0, 2) ∧
    (match exec (.st { gp := 1 } (at0 7 .i32 0 4)) stAt with | .next t => (t.rstores.length, t.ops.map fun o => o.work == .results) | _ => (9, [])) = (1, [false, true]) ∧
    ((storeSteps stAt.advance 1 (opdM (at0 7 .i32) false) 4 fun _ _ => []).any (stAt.advance.stepAfter 0 0x400)) = true := by decide +kernel
theorem test_bounds : trapped (.ld {} (at0 0 .i32 1 4092)) stM = none ∧ trapped (.ld {} (at0 0 .i32 1 4096)) stM = some (0x04, 3) ∧ trapped (.ld {} (at0 0 .i32 1 0xFFFC)) stM = some (0x04, 3) ∧
    trapped (.ld {} (at0 0 .i32 1 2)) stM = some (0x08, 3) ∧ trapped (.st {} (at0 9 .i32)) stM = some (0x06, 3) ∧ trapped (.st {} (at0 3 .i32)) stM = some (0x05, 3) := by decide +kernel
theorem test_spill : results (.ldsp { gp := 1 } (at0 0 .i32 0 8)) stM = [.gen ⟨0, 0, 0⟩ 5 0 0xFEDCBA98] ∧ (wafter (.stsp {} (at0 0 .i8 1 16 .zero)) stM).sp = 16 ∧
    (wafter (.stsp {} (at0 0 .i8 0 0)) stM).spill.take 2 = [(0, 5), (1, 6)] := by decide +kernel
/-- A line under a copy: PRTEST reads 0, PRWAIT parks, RLTEST says that a store would trap, and the store does (R252 to R254, R271, R276). -/
def stP : State := stM { blkM with absent := [1] }
theorem test_presence : results (.rltest {} { p := 3, cap := 0, b := .zero, m := { ty := .i32, sub := 1, imm := 64 } }) stP = [.pred ⟨0, 0, 0⟩ 3 3 3] ∧
    (wafter (.prtest {} { p := 2, cap := 0, b := .zero, m := { sub := 1, imm := 64 } }) stP).pred 2 = 0 ∧ ((wafter (.prwait {} (at0 0 .i8 1 64 .zero)) stP).thread 0).wait = .load 0x400 ∧
    trapped (.st {} (at0 0 .i32 1 64)) stP = some (0x07, 3) := by decide +kernel
theorem test_copy_kick : (match exec (.cpkick {} kickAt) stK1 with | .next t => ((t.core 0).copies.map fun k => (k.dstR, k.entry), (t.block 0 0).absent) | _ => ([], [])) = ([((512, 576), true)], [8]) ∧
    ((wafter (.cpkick {} kickAt) stK0).thread 1).wait = .copy 0x400 ∧ results (.cpstat {} { d := .v 5, a := .zero, b := .zero }) stK0 = [.gen ⟨0, 0, 0⟩ 5 0 0, .gen ⟨0, 0, 0⟩ 5 1 0] := by decide +kernel
/-- A kick follows the stores that its core has sent (R259). -/
theorem test_kick_after : (let x := wafter (.cpkick {} kickAt) { stK1 with rstores := [{ core := 0, uid := 9, w := ⟨0, 0, 0⟩, lanes := 1, oid := 7, off := 8, bytes := [1, 2] }] }
    ((x.thread 0).wait, (x.thread 0).pc)) = (.answer 0x400, ((stK1.warp ⟨0, 0, 0⟩).thread 0).pc) := by decide +kernel
theorem test_lines : (match exec (.cpin { gp := 1 } lineOps) stM with | .next t => (t.core 0).copies.map fun k => (k.dstSide, k.todo.map fun p => (p.dst, p.len, p.src)) | _ => []) = [(.shm 0 0, [(0, 64, some 64)])] := by decide +kernel
/-- The machine after an instruction, and after the performing of the rows that it has still to make (R312). -/
def rowsDone (i : Instr) (k : Nat) (s : State) : State := (List.range k).foldl (fun s _ => match execLexiconRowPerformed 0 s with | .next t => t | _ => s) (match exec i s with | .next t => t | _ => s)
/-- Both lanes name row 1 or 2: row bytes 16 to 23 and 32 to 39; nothing is stored before a row is performed. -/
theorem test_rows : (rowsDone (.sctr {} (rowOps)) 0 stM).readNat (.obj 3) 16 8 = 0 ∧ (rowsDone (.sctr {} (rowOps)) 2 stM).readNat (.obj 3) 16 8 = 0x00000009_00000008 ∧ (rowsDone (.sctra {} (rowOps .i32)) 2 stM).readNat (.obj 3) 32 8 = 0x0000000A_00000009 ∧
    ([(8, 0), (9, 0), (8, 1)].map fun x => ((rowsDone (.gthr { gp := 1 } (rowOps)) 1 stM).warp ⟨0, 0, 0⟩).readReg x.1 x.2) = [0, 0, 9] := by decide +kernel
theorem test_items : (match exec (.spawni {} (vu .i8 { imm := 2 })) { st with cores := [(0, { part := some 0, blocks := [(0, blk)], items := [(2, { owner := 0 })] })] } with
    | .next t => ((smGetD (t.core 0).items 2 { owner := 9 }).items.map fun x => x.arg0) | _ => []) = [6, 7] := by decide +kernel

/-! ### Matrix unit (chapter 14) -/

/-- Reservation 0 of 1024 bytes of bf16 at 0, and its shape 0: one row of two elements, rows 64 bytes apart. -/
def win0 : Resv := { base := 0, extent := 1024, scaleoff := 0, planeoff := 0, fmt := 0, blk := false }
def shape0 : Shape := { resv := 0, base := 0, stride := 64, rows := 1, cols := 2 }
/-- The operands of the example of chapter 14: 256 and 1 + 2^-7 in A, two ones in B. -/
def opA : Operand := { fmt := 0, rows := 1, cols := 2, elems := [(0, 0x4380), (1, 0x3F81)] }
def opB : Operand := { fmt := 0, rows := 1, cols := 2, elems := [(0, 0x3F80), (1, 0x3F80)] }
/-- A block's matrix resources: four tiles and two macros, with both operands loaded; tile 1 is at version 2. -/
def mx0 : Mx := { claim := some (4, 2), tiles := [(1, { ver := 2, elems := [(0, 0x43808000)] })], cims := [(0, [(0, opB)])], rbufs := [(0, opA)], resv := [(0, win0)], shapes := [(0, shape0)], mxf := 0x10, pc := 5 }
/-- The machine with matrix resources, uniform registers v24 on, an owner of the unit where asked, and a team of two. -/
def stX (m : Mx := mx0) (u : SMap Word := []) (own : Bool := false) (solo : Bool := true) : State :=
  { stM { blkM with mx := m, image := { blkM.image with team := 2 }, warps := [(0, { wp with uni := u })] } with
    cores := [(0, { part := some 0, mxsolo := solo, owned := own, owners := if own then [(0, 0)] else []
                    blocks := [(0, { blkM with mx := m, image := { blkM.image with team := 2 }, warps := [(0, { wp with uni := u })] })] })] }
def mem0 : Member := { w := ⟨0, 0, 0⟩, lanes := 3 }
/-- The premises that most entries share, for the group of the one warp. -/
def oneWarp (i : Instr) (s : State) : Bool := runsB i s && okB (wholeChk s.advance (act i s)) && decide (acting i s = [mem0])
def oneWarpU (i : Instr) (s : State) : Bool := oneWarp i s && okB (s.advance.shapeChk (usesOf i) (act i s) fun m => uniRule s.advance m)
/-- Two readers of tile 1: at its version, and one ahead; to bytes 512 on, with a stride of 512. -/
def stR (v : Word) : State := stX mx0 [(24, 512), (25, 0x02000000 + v)]
theorem wit_readers : ([(2 : Word), 3].all fun v => [false, true].all fun cvt =>
      let i : Instr := if cvt then .mxcvt {} 1 (.v 24) (.v 25) { ty := .bf16 } else .mxst {} 1 (.v 24) (.v 25) { ty := .f32 }
      oneWarp i (stR v) && okB (uniOperand (stR v).advance (.v 24) 1 false 3) && okB (uniOperand (stR v).advance (.v 25) 1 false 3) &&
      okB (readChk 3 (stR v).advance 0 { w := ⟨0, 0, 0⟩, lanes := 3, tile := 1, ver := v.setWidth 16, off := 512, stride := 512, n := 1
                                         ty := if cvt then .bf16 else .f32, cvt := cvt, rnd := 0, sat := false, comp := none }) &&
      (holdLines 3 (fun _ => [(.shm 0 0, 512)]) (stR v).advance).isNone) = true := by decide +kernel
/-- OBRES.WIN of 1024 bytes of bf16 at 0 in a free slot, and a claim of 16 tiles and 32 macros. -/
def stO (w : Word) : State := stX { mx0 with claim := none, resv := [] } [(24, w), (25, 1024)]
theorem wit_matrix_setup : oneWarpU (.obres {} (.v 29) (.v 24) {}) (stO 0) = true ∧ okB (uniOperand (stO 0).advance (.v 24) 4 false 3) = true ∧ okB (obresWin 3 0 4096 0 1024 0 0 { mx0 with claim := none, resv := [] }) = true ∧
    oneWarpU (.obres {} (.v 29) (.v 24) { sub := 1 }) (stO 0x2010) = true ∧ okB (uniOperand (stO 0x2010).advance (.v 24) 1 false 3) = true ∧ ((stO 0x2010).block 0 0).mx.claim = none ∧
    (claimed ((stO 0x2010).core 0)).1 + 16 ≤ 16 ∧ oneWarpU (.obrel {} {}) (stX) = true ∧ oneWarpU (.obrel {} { sub := 1 }) (stX) = true ∧ ((stX.block 0 0).mx.claim.isSome) = true ∧
    oneWarpU (.shape {} (.v 24) (.v 26) {}) (stX mx0 [(25, 64), (26, 0x0201)]) = true ∧ okB (uniOperand (stX mx0 [(25, 64), (26, 0x0201)]).advance (.v 24) 2 false 3) = true ∧
    okB (uniOperand (stX mx0 [(25, 64), (26, 0x0201)]).advance (.v 26) 1 false 3) = true ∧ outsideExtent win0 shape0 0 = false ∧ outsideExtent win0 { shape0 with base := 960 } 960 = false ∧ outsideExtent win0 { shape0 with base := 1024 } 1024 = true ∧
    oneWarpU (.mxver {} (.v 29) 3) stX = true ∧ ((3 : BitVec 4).toNat < (stX.mx ⟨0, 0, 0⟩).tileCount) ∧ ([(0 : BitVec 4), 1, 2, 3].all fun x => oneWarpU (.mxflags {} (.v 29) { sub := x }) stX) = true := by decide +kernel
/-- The owner issues each operation; the loads answer a next state, and so do the operations at the version of the tile. -/
def nextB : MxAns → Bool
  | .next _ => true
  | _ => false
theorem wit_warp_matrix : ([Instr.mxldb {} .zero {}, .mxlda {} .zero {}, .mxmac {} 0 .zero {}, .mxmacs {} 0 .zero {}, .mxzero {} 0 .zero { ty := .f32 }].all fun i => oneWarpU i (stX mx0 [] true) && okB (uniOperand (stX mx0 [] true).advance .zero 1 true 3)) = true ∧
    ownsUnit (stX mx0 [] true).advance ⟨0, 0, 0⟩ = true ∧ nextB (mxLoad 0 0 true 0 0 (stX mx0 [] true).advance) = true ∧ nextB (mxLoad 0 0 false 0 0 (stX mx0 [] true).advance) = true ∧
    nextB (mxMac 0 0 false 0 0 0 (stX mx0 [] true).advance) = true ∧ nextB (mxMac 0 0 true 0 0 0 (stX mx0 [] true).advance) = true ∧ nextB (mxZero 0 0 false 0 0 (stX mx0 [] true).advance) = true := by decide +kernel
theorem wit_warp_matrix_queues : oneWarp (.mxbar {} 0) stX = true ∧ okB (recordedFault 3 mx0) = true ∧ 0 < (stX.block 0 0).image.team ∧ oneWarp (.mxbar {} 0) (stX { mx0 with bars := [(0, 1)] }) = true ∧ oneWarp (.mxacq {} {}) stX = true ∧
    (stX.core 0).mxsolo = true ∧ (stX.core 0).owners.contains (0, 0) = false ∧ oneWarp (.mxrel {} {}) (stX mx0 [] true) = true ∧ runsB (.mxwait {} 0) stX = true ∧ (holdUntil false 3 (stX).advance).isNone = true ∧
    (holdUntil false 3 (stX { mx0 with bars := [(0, 1)] }).advance).isNone = true := by decide +kernel
theorem wit_matrix_effects : smGet? mx0.shapes 0 = some shape0 ∧ smGet? mx0.resv shape0.resv = some win0 ∧ (shape0.base + 960) % 64 = 0 ∧ outsideExtent win0 shape0 960 = false ∧ 0 % 32 < mx0.cimCount ∧ 0 < mxSlots win0.fmt ∧
    ((mxLines win0 shape0 960).any ((stX).block 0 0).absent.contains) = false ∧ mx0.ops = [] ∧ macChk mx0 0 0 0 0 = none ∧ ((2 : Word).setWidth 16 = (mx0.tile 1).ver + BitVec.ofNat 16 (mx0.started 1)) ∧ 2 % 2 = 0 ∧ 2 + 1 < mx0.tileCount := by decide +kernel
/-- Sixty-four bytes of bf16: 256 and 1 + 2^-7 (chapter 14). -/
def shmX : Memory := memPutNat [] 0 4 0x3F814380
theorem test_matrix_load : ((loadOperand shmX win0 shape0 0).elems = opA.elems) ∧ ((loadOperand (memPutNat [] 0 2 0x7F80) win0 shape0 0).nonfin = 1) ∧ (mxAfter (.mxlda {} .zero {}) (stX { mx0 with rbufs := [] } [] true)).rbufs.length = 1 := by decide +kernel
/-- An MXZERO.F64 that has not completed makes the pair FP64 for the operations after it, which wait for it (R335, R337, R346). -/
theorem test_matrix_kind : (let m : Mx := { mx0 with ops := [{ kind := 0, tile := 0, f64 := true, ver := 0, started := true }] }
    (m.kind64 0, m.kind64 1, m.kind64 2, m.busy { kind := 1, tile := 1, ver := 0 }, m.busy { kind := 1, tile := 2, ver := 0 })) = (true, true, false, true, false) := by decide +kernel
/-- The example of chapter 14: 256 + 1.0078125 accumulates as 257, with NX from the alignment; a completed MXZERO advances the version. -/
theorem test_matrix_mac : (macElem false (opA.row 0) (opB.row 0) 0).v = 0x43808000 ∧ (macElem false (opA.row 0) (opB.row 0) 0).fl = 0x10 ∧
    (let x := mxAfter (.matrixOpComplete 0 0 0) (stX { mx0 with ops := [{ kind := 0, tile := 0, ver := 0, started := true }] }); ((x.tile 0).ver, x.ops)) = (1, []) := by decide +kernel
theorem test_matrix_setup : (mxAfter (.obres {} (.v 29) (.v 24) {}) (stO 0)).resv = [(0, win0)] ∧ trapped (.obres {} (.v 29) (.v 24) {}) (stO 64 ) = none ∧ trapped (.obres {} (.v 29) (.v 24) {}) (stO 4096) = some (0x0F, 3) ∧
    (mxAfter (.obres {} (.v 29) (.v 24) { sub := 1 }) (stO 0x2010)).claim = some (16, 32) ∧ trapped (.obres {} (.v 29) (.v 24) { sub := 1 }) (stO 0x2011) = some (0x0E, 3) ∧
    (mxAfter (.shape {} (.v 24) (.v 26) {}) (stX { mx0 with shapes := [] } [(25, 64), (26, 0x0201)])).shapes = [(0, shape0)] ∧ reg (.mxver {} (.v 29) 1) stX 29 0 = 2 ∧ reg (.mxflags {} (.v 29) {}) stX 29 0 = 0x10 ∧
    reg (.mxflags {} (.v 29) { sub := 3 }) stX 29 0 = 5 := by decide +kernel
theorem test_matrix_reader : bytesAt (.mxst {} 1 (.v 24) (.v 25) { ty := .f32 }) (stR 2) (.shm 0 0) 512 4 = 0 ∧
    (match exec (.mxst {} 1 (.v 24) (.v 25) { ty := .f32 }) (stR 2) with | .next t => ((t.block 0 0).absent, (t.core 0).copies.map fun (c : Copy) => (c.todo.take 1).map fun p => (p.dst, p.bytes.take 4)) | _ => ([], []))
      = ([8, 9, 10, 11, 12, 13, 14, 15], [[(512, [0, 0x80, 0x80, 0x43])]]) ∧
    ((wafter (.mxst {} 1 (.v 24) (.v 25) { ty := .f32 }) (stR 3)).thread 0).wait = .mxver 1 3 ∧ trapped (.mxst {} 1 (.v 24) (.v 25) { ty := .f32 }) (stR 1) = some (0x11, 3) := by decide +kernel
theorem test_matrix_barrier : (mxAfter (.mxbar {} 0) stX).bars = [(0, 1)] ∧ ((wafter (.mxbar {} 0) (stX { mx0 with bars := [(0, 1)] })).thread 0).wait = .mxbar 0 ∧ (mxAfter (.mxwait {} 0) (stS { st := .running, bars := [(0, 0xFFFF)] })).bars = [] ∧
    trapped (.mxwait {} 0) stX = some (0x11, 3) := by decide +kernel
/-- The same on a sequencer whose unit is free. -/
theorem wit_sequencer_matrix : (let s := stS { mx0 with st := .running }
    let r := modMx 0 0 (fun m => { m with pc := s.cur.pc + 1, st := .running }) { s with clock := s.clock + 1 }
    (s.core 0).owned = false ∧ (s.block 0 0).mx.ops = [] ∧ nextB (mxLoad 0 0 true 0 0 r) = true ∧ nextB (mxLoad 0 0 false 0 0 r) = true ∧ nextB (mxMac 0 0 false 0 0 0 r) = true ∧
      nextB (mxMac 0 0 true 0 0 0 r) = true ∧ nextB (mxZero 0 0 false 0 0 r) = true) := by decide +kernel

/-! ### Solver, fences, atomics and Conjunctions (chapters 15 and 16) -/

/-- A step w0 = w0 + w1·w2 at 256 of shared memory, and the window at 512: 1, 2 and 3 in f32 (R350, R351). The registers name the window and one step. -/
def stepMem : Memory := memPutNat (memPutNat (memPutNat (memPutNat [] 256 8 0x100002) 512 4 0x3F800000) 516 4 0x40000000) 520 4 0x40400000
def stD (full : Bool := false) : State := { stM { blkM with shared := stepMem, warps := [(0, { wp with uni := [(24, 512), (25, 1)] })] } with
  cores := [(0, { part := some 0, blocks := [(0, { blkM with shared := stepMem, warps := [(0, { wp with uni := [(24, 512), (25, 1)] })] })]
                  copies := if full then (stK0.core 0).copies else [] })] }
def schAt : OpsM := { d := .v 24, cap := 0, b := .zero, m := { ty := .f32, sub := 1, imm := 256 } }
theorem wit_solver : runsB (.schrun {} schAt) (stD) = true ∧ runsB (.schrun {} schAt) (stD true) = true ∧ okB ((stD).advance.reachChk (.v 24) 2 [.gen, .aff, .uni] 3) = true ∧
    okB ((stD).advance.shapeChk (usesOf (.schrun {} schAt)) 3 fun m => genRule (stD).advance m) = true ∧ okB ((opdM schAt true).place (stD).advance 1 8 8) = true ∧ 512 % 4 = 0 ∧
    ((stD).advance.srcMore (.v 24) 0 0).toNat = 512 ∧ ((stD).advance.srcMore (.v 24) 1 0).toNat = 1 ∧ schedErr 4 512 4096 0 [0x100002] = none ∧ (stD).advance.locked 0 true (.shm 0 0) (512, 524) = false ∧
    0 < freeEntries (stD).advance 0 ∧ freeEntries (stD true).advance 0 = 0 ∧ ([stD, stD true].all fun s => ((holdEngine 3 s.advance).or (holdPlaces false [(.shm 0 0, 256, 8)] s.advance)).isNone) = true ∧ schedErr 4 512 4096 0 [0xC000000000000000] = some (0x61, 0) ∧ schedErr 4 512 520 0 [0x100002] = some (0x62, 0) ∧
    ([(0 : BitVec 4), 1, 2].all fun x => fits st [(.schstat {} { d := .v 5, a := .zero, b := .zero, m := { sub := x } }, uniRule)]) = true := by decide +kernel
theorem test_solver : ((wafter (.schrun {} schAt) (stD true)).thread 1).wait = .copy 0x400 ∧ (match exec (.schrun {} schAt) (stD) with | .next t => (t.block 0 0).absent | _ => []) = [8] ∧
    trapped (.schrun {} { schAt with m := { ty := .f32, sub := 1, imm := 264 } }) (stD) = none ∧ reg (.schstat {} { d := .v 5, a := .zero, b := .zero, m := { sub := 1 } }) (stw { wp with pvcnt := 77 }) 5 0 = 77 := by decide +kernel
/-- FMA in single precision: 1 + 2·3 is 7. -/
theorem test_solver_step : reg (.ffma {} { vo .f32 with d := .v 5 }) (stw { wp with gen := [(160, 0x3F800000), (192, 0x40000000), (224, 0x40400000)] }) 5 0 = 0x40E00000 := by decide +kernel

/-- A load of the group that has not answered. -/
def stL : State := { st with ops := [{ id := 7, core := 0, mems := [mem0], obj := 1, pc := 4, work := .mem [{ w := ⟨0, 0, 0⟩, lanes := 3, side := .obj 3, off := 0, n := 4, act := .load (.ext .i32) }] }], nextId := 8 }
theorem wit_fences : runsB (.fence {} {}) stM = true ∧ fenceMet 0 0x400 0 [mem0] stM = true ∧ runsB (.fence {} {}) stL = true ∧ fenceMet 0 8 0 [mem0] stL = false := by decide +kernel
/-- An operand in shared memory at 256, with a sub-operation. -/
def sh256 (sub : BitVec 4) (ty : Ty := .n32) (d : VReg := .v 5) : OpsM := { d := d, cap := 0, b := .zero, m := { ty := ty, sub := 8 + sub, imm := 256 } }
theorem wit_atomics : ([Instr.atom {} (sh256 0), .atomc {} (sh256 0 .n32 (.v 6)), .ldacq {} (sh256 0), .strel {} (sh256 0)].all fun i => runsB i stM && okB (stM.advance.shapeChk (usesOf i) 3 fun m => genRule stM.advance m)) = true ∧
    okB ((opdS (sh256 0)).check stM.advance 3 4 4 [0, 1] [.data, .scratch]) = true ∧ okB ((opdS (sh256 0)).storeChk stM.advance 3 4) = true ∧ okB ((opdS (sh256 0)).check stM.advance 3 8 8 [0, 1] [.data, .scratch]) = true ∧ okB ((opdS (sh256 0)).storeChk stM.advance 3 8) = true ∧
    okB ((opdS (sh256 0)).check stM.advance 3 4 4 [0] [.data, .scratch]) = true ∧ okB ((opdS (sh256 0)).check stM.advance 3 4 4 [1] [.data, .scratch]) = true ∧ okB (stM.advance.reachChk (.v 6) 2 [.gen, .aff, .uni] 3) = true := by decide +kernel
/-- Shared memory with a word at 256. -/
def stW (v : Nat) (n : Nat := 4) (o : Nat := 256) : State := stM { blkM with shared := memPutNat [] o n v }
theorem test_fences : ((wafter (.fence {} {}) stL).thread 0).wait = .answer 8 ∧ ((wafter (.fence {} {}) stM).thread 0).wait = .none := by decide +kernel
/-- ATOM adds 5 and 6 to 100, lane by lane, and each lane receives what it found; ATOMC stores 7 where it finds 6 (R385, R386). -/
theorem test_atomics : bytesAt (.atom {} (sh256 0)) (stW 100) (.shm 0 0) 256 4 = 111 ∧ results (.atom {} (sh256 0)) (stW 100) = [.gen ⟨0, 0, 0⟩ 5 0 100, .gen ⟨0, 0, 0⟩ 5 1 105] ∧
    bytesAt (.atomc { gp := 1 } (sh256 0 .n32 (.v 6))) (stW 6) (.shm 0 0) 256 4 = 7 ∧ results (.atomc { gp := 1 } (sh256 0 .n32 (.v 6))) (stW 9) = [.gen ⟨0, 0, 0⟩ 6 0 9] ∧
    results (.ldacq {} (sh256 0)) (stW 9) = [.gen ⟨0, 0, 0⟩ 5 0 9, .gen ⟨0, 0, 0⟩ 5 1 9] ∧ bytesAt (.strel { gp := 1 } (sh256 0)) stM (.shm 0 0) 256 4 = 5 := by decide +kernel

/-- A Conjunction object at 256 of shared memory: its count, expectation, phase and mode (Table 16.4). -/
def stCj (count expect phase : Nat) (flags : Nat := 0) (u : Word := 1) : State :=
  stM { blkM with shared := memPutNat [] 256 64 (count + expect * 2 ^ 64 + phase * 2 ^ 128 + flags * 2 ^ 160), warps := [(0, { wp with uni := [(24, 0), (25, u)] })] }
def cjB (i : Instr) (kind : Nat) (o : OpsM) (sh : Shp) (s : State) : Bool :=
  let r := s.advance
  let req : CjReq := { kind := kind, sub := o.m.sub.toNat % 8, side := (opdS o).side r 0, off := (opdS o).ea r 0, d := o.d, vals := (lanesOf (act i s)).map fun l => (l, (opD i r l).setWidth 32)
                       rel := !(kind == 3 || kind == 5) && scopeDie o.m, acq := (kind == 3 || kind == 5) && scopeDie o.m }
  runsB i s && okB (r.shapeChk (usesOf i) 3 fun _ => sh) && okB ((opdS o).check r 1 64 64 [if kind = 3 ∨ kind = 5 then 0 else 1] (if kind = 3 ∨ kind = 5 then [.data, .scratch, .report] else [.data, .scratch])) &&
    (kind == 3 || kind == 5 || okB ((opdS o).storeChk r 1 64)) && decide (cjGate r r.cur.core r.nextId (acting i s) false false req = .ok) && (kind == 3 || kind == 5 || kind == 0 || (cjLanes kind req.vals (r.cj req.side req.off)).1.isEmpty)
/-- An atomic at die scope on another core's line holds its threads until it has been performed, and at thread scope it does not (R370, R386); its
release waits for what the thread did before. -/
theorem test_atomic_order : ((wafter (.atom {} { at0 7 .n32 with m := { ty := .n32, scope := .die } }) stM).thread 0).wait = .answer 0x400 ∧
    ((wafter (.atom {} (at0 7 .n32)) stM).thread 0).wait = .none ∧ ((wafter (.atom {} { at0 2 .n32 with m := { ty := .n32, scope := .blk } }) stAt).thread 0).wait = .answer 0x400 ∧
    ((wafter (.atom {} { at0 2 .n32 with m := { ty := .n32, scope := .blk } }) stM).thread 0).wait = .none := by decide +kernel
theorem wit_conjunctions : cjB (.cjinit {} (sh256 0 .i8)) 0 (sh256 0 .i8) .gen (stCj 0 0 0) = true ∧ cjB (.cjarr {} (sh256 0 .i8)) 1 (sh256 0 .i8) .gen (stCj 11 11 0) = true ∧ cjB (.cjdrop {} (sh256 0 .i8)) 2 (sh256 0 .i8) .gen (stCj 2 2 0) = true ∧
    cjB (.cjbyte {} (sh256 0 .i8)) 4 (sh256 0 .i8) .gen (stCj 0 0 0 1) = true ∧ cjB (.cjwait {} (sh256 0 .i8 (.v 25))) 3 (sh256 0 .i8 (.v 25)) .uni (stCj 2 2 0) = true ∧ ((stCj 2 2 0).cj (.shm 0 0) 256).wakes 1 = true ∧
    cjB (.cjwait {} (sh256 1 .i8 (.v 25))) 3 (sh256 1 .i8 (.v 25)) .uni (stCj 2 2 1) = true ∧ ((stCj 2 2 1).cj (.shm 0 0) 256).wakes 1 = false ∧ ((stCj 2 2 1).cj (.shm 0 0) 256).ovf = false ∧
    cjB (.cjwait {} (sh256 0 .i8 (.v 25))) 3 (sh256 0 .i8 (.v 25)) .uni (stCj 2 2 1) = true ∧ cjB (.cjtest {} (sh256 3 .i8 (.v 25))) 5 (sh256 3 .i8 (.v 25)) .uni (stCj 2 2 1) = true := by decide +kernel
/-- Two arrivals of 5 and 6 complete a count of 11 and restore it; a drop lowers both counts; CJINIT by lane 0 alone; a wait on the current phase parks (R378 to R381, R390 to R393). -/
theorem test_conjunctions : bytesAt (.cjarr {} (sh256 0 .i8)) (stCj 11 11 7) (.shm 0 0) 256 20 = 11 + 11 * 2 ^ 64 + 8 * 2 ^ 128 ∧ bytesAt (.cjdrop {} (sh256 0 .i8)) (stCj 3 3 7) (.shm 0 0) 256 20 = 1 + 2 ^ 64 + 7 * 2 ^ 128 ∧
    bytesAt (.cjinit {} (sh256 0 .i8)) (stCj 3 3 7) (.shm 0 0) 256 24 = 5 + 5 * 2 ^ 64 ∧ bytesAt (.cjbyte {} (sh256 0 .i8)) (stCj 1 0 7 1) (.shm 0 0) 256 8 = 12 ∧ ((wafter (.cjwait {} (sh256 0 .i8 (.v 25))) (stCj 2 2 1)).thread 1).wait = .conj 0x400 ∧
    ((wafter (.cjwait {} (sh256 0 .i8 (.v 25))) (stCj 0 0 1)).thread 1).wait = .none ∧ reg (.cjtest {} (sh256 1 .i8 (.v 25))) (stCj 2 2 1) 25 0 = 2 ∧ reg (.cjtest {} (sh256 3 .i8 (.v 25))) (stCj 0 0 1) 25 0 = 4 := by decide +kernel

/-! ### Tasks and standing programs (chapters 5 and 17) -/

def hdr0 : CmdHdr := { vi := 1, q := 1, stat := 0, usertag := 0 }
def imgTask : Image := { task := true, gen := 8 }
def imgGrid : Image := { gen := 8 }
/-- A standing program of two declared blocks, the second depending on the first with weight 2; one input of 64 bytes; result map in object 9. -/
def imgP : ProgImage := { blocks := [{ decl := true, deps := [(1, 0x40000000)] }, { decl := true }], inputs := [(0, 64)] }
def prog0 : Prog := { job := 0, part := 0, slot := 0, load := 0, progidx := 0, img := imgP, caps := [], blks := [(0, { res := 0x3F800000 }), (1, { res := 0x40000000 })], inObj := 8, vmap := 9, holds := [(1, 9)] }
/-- The machine with a job, its load's images and its program; shared memory holds a zero SPAWN request at 0 and a LAUNCH request for image 1 with a 1 by 1 by 1 grid at 64. -/
def stJ (b : Block := blkM) (p : Prog := prog0) : State :=
  { stM { b with shared := memPutNat [] 64 64 (1 + 2 ^ 64 + 2 ^ 96 + 2 ^ 128) } with
    objs := objsM ++ [(8, { kind := .data, owner := 0, size := 4096 }), (9, { kind := .data, owner := 0, size := 4096 })]
    jobs := [(0, { part := 0, load := 0, hdr := hdr0, count := 1 })], loads := [(0, { part := 0, code := 1, images := [imgTask, imgGrid] })], progs := [(0, p)] }
def reqAt (imm : BitVec 16) (sub : BitVec 4 := 1) : OpsMP := { p := 3, cap := 0, b := .zero, m := { sub := sub, imm := imm } }
/-- Three kids and grids. -/
def blkJ : Block := { blkM with kids := 3, grids := 3 }
theorem wit_spawn : runsB (.spawn {} (reqAt 0)) (stJ) = true ∧ okB ((stJ).advance.shapeChk (usesOf (.spawn {} (reqAt 0))) 3 fun m => genRule (stJ).advance m) = true ∧
    okB (spawnChk (stJ).advance 3 (opdTP (reqAt 0)) false fun _ => 0) = true ∧ okB (localChk (opdTP (reqAt 0)) (stJ).advance 3 64) = true ∧ ((holdRecord 3 (stJ).advance).or (holdPlaces false [(.shm 0 0, 0, 64), (.shm 0 0, 0, 64)] (stJ).advance)).isNone = true ∧ (holdGate [] (stJ).advance).isNone = true ∧ (stJ).advance.readNat (.shm 0 0) 0 64 = 0 := by decide +kernel
theorem wit_launch : runsB (.launch {} (reqAt 64)) (stJ) = true ∧ okB ((stJ).advance.shapeChk (usesOf (.launch {} (reqAt 64))) 3 fun m => genRule (stJ).advance m) = true ∧ leaders (stJ).advance 3 = 1 ∧
    okB (launchChk (stJ).advance 3 1 (opdTP (reqAt 64)) fun l => (stJ).advance.readNat ((opdTP (reqAt 64)).side (stJ).advance l) ((opdTP (reqAt 64)).ea (stJ).advance l) 64) = true ∧
    okB (onLanes 3 (localChk (opdTP (reqAt 64)) (stJ).advance 1 64)) = true ∧ ((holdRecord 3 (stJ).advance).or (holdPlaces false [(.shm 0 0, 64, 64)] (stJ).advance)).isNone = true := by decide +kernel
def joinV (t : VReg) : OpsV := { d := .v 5, a := t, b := .zero }
theorem wit_joins : ([Instr.tjoin {} (joinV (.v 24)), .lwait {} (joinV (.v 24)), .tself {} { d := .v 5, a := .zero, b := .zero, m := { sub := 7 } }].all fun i => runsB i (stJ blkJ) && okB ((stJ blkJ).advance.shapeChk (usesOf i) 3 fun m => uniRule (stJ blkJ).advance m)) = true ∧
    okB ((stJ blkJ).advance.uniformChk (.v 24) 3) = true ∧ ((stJ blkJ).advance.blockAt 0).kids = 3 ∧ ((stJ blkJ).advance.blockAt 0).grids = 3 ∧ (stJ blkJ).advance.u32 (.v 24) 0 = 7 ∧ (stJ blkJ).advance.u32 (.v 25) 0 = 1 ∧
    ([Instr.tjoin {} (joinV (.v 25)), .lwait {} (joinV (.v 25))].all fun i => runsB i (stJ blkJ) && okB ((stJ blkJ).advance.shapeChk (usesOf i) 3 fun m => uniRule (stJ blkJ).advance m)) = true := by decide +kernel
/-- Both lanes push a record and read true; the leader alone launches a child; a join over its count parks, one under it gives the count (R404, R406, R417, R418). -/
theorem test_tasks : (match exec (.spawn {} (reqAt 0)) (stJ) with | .next t => ((t.core 0).deque.length, ((smGet? t.jobs 0).elim 0 (·.count)), (t.block 0 0).kids, (t.warp ⟨0, 0, 0⟩).pred 3) | _ => (0, 0, 0, 0)) = (2, 3, 2, 3) ∧
    (match exec (.launch {} (reqAt 64)) (stJ) with | .next t => (t.grids.map fun g => (g.2.dim, g.2.depth), (t.block 0 0).grids, (t.warp ⟨0, 0, 0⟩).pred 3) | _ => ([], 0, 0)) = ([((1, 1, 1), 1)], 1, 1) ∧
    ((wafter (.tjoin {} (joinV (.v 25))) (stJ blkJ)).thread 0).wait = .tjoin 9 1 ∧ results (.lwait { gp := 1 } (joinV (.v 24))) (stJ blkJ) = [.gen ⟨0, 0, 0⟩ 5 0 3] := by decide +kernel

/-- A dispatched block of the program's block 0. -/
def blkP : Block := { blkM with origin := .task { settle := true } }
/-- Blocks 0 and 1 named by the lanes of v1, and block 0 by every lane. -/
def lanesV (a : VReg) : OpsV := { d := .v 5, a := a, b := .v 6 }
/-- INPOST of 4 bytes at 192 of shared memory to input 0, with a record at 128 that names no pair. -/
def stI : State := { stJ with cores := [(0, { part := some 0, blocks := [(0, { blkM with shared := memPutNat (memPutNat [] 128 64 (4 * 2 ^ 64 + 192 * 2 ^ 96)) 192 4 0xAABBCCDD })] })] }
def inAt : OpsM := { d := .v 25, cap := 0, b := .zero, m := { sub := 1, imm := 128 } }
theorem wit_residuals : runsB (.rpost {} (lanesV (.v 24))) (stJ blkP) = true ∧ okB ((stJ blkP).advance.uniformChk (.v 24) 3) = true ∧ okB ((stJ blkP).advance.shapeChk (usesOf (.rpost {} (lanesV (.v 24)))) 3 fun m => uniRule (stJ blkP).advance m) = true ∧
    ((stJ blkP).advance.blockAt 0).origin = .task { settle := true } ∧ ((stJ blkP).advance.blockAt 0).done = false ∧ (holdRelease 3 (stJ blkP).advance).isNone = true ∧ (cutting? (stJ blkP).advance 0).isNone = true ∧
    runsB (.rread {} (lanesV (.v 0))) (stJ) = true ∧ okB ((stJ).advance.shapeChk (usesOf (.rread {} (lanesV (.v 0)))) 3 fun m => genRule (stJ).advance m) = true ∧ ((stJ).advance.slotProg 3 0).isSome = true ∧
    okB (failIn 3 .shaperec (fun l => decide (prog0.img.blocks.length ≤ (stJ).advance.u32 (.v 0) l)) 0x7A) = true ∧ okB (failIn 3 .shaperec (fun l => decide (prog0.img.blocks.length ≤ (stJ).advance.u32 (.v 1) l)) 0x7A) = false ∧
    runsB (.rset {} (lanesV (.v 0))) (stJ) = true ∧ okB ((stJ).advance.shapeChk (usesOf (.rset {} (lanesV (.v 0)))) 3 fun m => genRule (stJ).advance m) = true ∧ (holdRelease 3 (stJ).advance).isNone = true := by decide +kernel
theorem wit_inpost : runsB (.inpost {} inAt) stI = true ∧ okB (stI.advance.shapeChk (usesOf (.inpost {} inAt)) 3 fun m => uniRule stI.advance m) = true ∧ okB ((opdT inAt).check stI.advance 1 64 64 [0] [.data, .scratch]) = true ∧
    0 + bitsAt (stI.readNat (.shm 0 0) 128 64) 96 32 + bitsAt (stI.readNat (.shm 0 0) 128 64) 64 32 ≤ ((opdT inAt).bounds stI.advance 0).2 ∧
    okB (inpostChk 3 (some prog0) (stI.readNat (.shm 0 0) 128 64) []) = true ∧ ((holdRecord 3 stI.advance).or (holdPlaces false [(.shm 0 0, 128, 64)] stI.advance)).isNone = true ∧
    (holdPlaces false [(.shm 0 0, 192, 4), (.shm 0 0, 0, 0)] stI.advance).isNone = true ∧ (holdGate [(.obj 8, (prog0.img.inputs[0]?).elim 0 (·.1), 4)] stI.advance).isNone = true := by decide +kernel
/-- SNAP of slot 0 to c3 at 0 with hold 0, and the release of the block's hold 1. -/
def snapOps (sub : BitVec 4) (d : VReg) : OpsM := { d := d, cap := if sub = 0 then 3 else 0, b := .zero, m := { sub := sub } }
theorem wit_snap : runsB (.snap {} (snapOps 4 (.v 25))) (stJ { blkM with warps := [(0, { wp with uni := [(25, 256)] })] }) = true ∧ (4 : BitVec 4).toNat / 2 = 2 ∧ okB ((stJ).advance.uniformChk (.v 25) 3) = true ∧
    smGet? prog0.holds (256 / 256 % 4) = some blkM.uid ∧ runsB (.snap {} (snapOps 0 (.v 26))) (stJ) = true ∧ okB ((stJ).advance.uniformChk (.v 26) 3) = true ∧ ((stJ).advance.slotProg 3 0).isSome = true ∧
    okB ((opdT (snapOps 0 (.v 26))).check (stJ).advance 1 128 64 [1] [.data, .scratch]) = true ∧ (opdT (snapOps 0 (.v 26))).shm = false ∧ (holdGate [(.obj 3, 0, 128)] (stJ).advance).isNone = true ∧ prog0.mapBytes = 64 := by decide +kernel
/-- RPOST commits its block: the map bit of block 0 flips, one post of weight 2 leaves, and c1 is gone. RREAD and RSET give the residuals; RSET of NaN writes +∞. -/
theorem test_residuals : (match exec (.rpost {} (lanesV (.v 24))) (stJ blkP) with | .next t => (t.readNat (.obj 9) 0 1, t.posts.map fun (x : Post) => (x.blk, x.w, x.d), (t.block 0 0).done) | _ => (0, [], false)) = (1, [(1, 0x40000000, 7)], true) ∧
    results (.rread {} (lanesV (.v 0))) (stJ) = [.gen ⟨0, 0, 0⟩ 5 0 0x3F800000, .gen ⟨0, 0, 0⟩ 5 1 0x40000000] ∧ trapped (.rread {} (lanesV (.v 1))) (stJ) = some (0x0E, 2) ∧
    (match exec (.rset { gp := 1 } { lanesV (.v 0) with b := .ones }) (stJ) with | .next t => (smGet? t.progs 0).elim 0 (fun p => (p.blk 0).res) | _ => 0) = 0x7F800000 ∧
    bytesAt (.inpost {} inAt) stI (.obj 8) 0 4 = 0xAABBCCDD ∧ reg (.inpost {} inAt) stI 25 0 = 1 := by decide +kernel

/-! ### Capabilities, special registers, traps and the agent (chapters 4 and 18) -/

theorem wit_capabilities : runsB (.capld {} 9 6 .zero { imm := 2 }) stM = true ∧ okB (stM.advance.uniformChk .zero 3) = true ∧ okB (forBlocks (slotChk stM.advance 3 0 6 .zero { imm := 2 }) (stM.advance.actingBlocks 3)) = true ∧
    runsB (.capst {} 3 6 .zero { imm := 3 }) stM = true ∧ okB (forBlocks (slotChk stM.advance 3 1 6 .zero { imm := 255 }) (stM.advance.actingBlocks 3)) = true ∧ okB (forBlocks (slotChk stM.advance 3 1 6 .zero { imm := 256 }) (stM.advance.actingBlocks 3)) = false ∧
    stM.advance.actingBlocks 3 = [((0, 0), 0)] ∧ runsB (.capnar {} 9 3 (.v 26) { imm := 3 }) (stM { blkM with warps := [(0, { wp with uni := [(26, 64), (27, 65472)] })] }) = true ∧ okB (stM.advance.reachChk (.v 26) 2 [.uni] 3) = true ∧
    okB (stM.advance.uniformChk (.v 26) 3) = true ∧ stM.advance.usable 0 (capTo 3 65536) = true ∧ (capTo 3 65536).right 5 = true ∧ 64 + 65472 ≤ (capTo 3 65536).upper.toNat ∧ runsB (.capnar {} 9 3 .zero { imm := 3 }) stM = true ∧
    runsB (.capoff {} 9 3 { imm := 1024 }) stM = true ∧ 0 + 64 * (1024 : BitVec 16).toNat ≤ (capTo 3 65536).upper.toNat ∧ runsB (.capmov {} 9 3 {}) stM = true ∧ runsB (.capmov {} 9 0 { sub := 1 }) stM = true ∧
    fits stM [au (.captst {} (.v 5) 3 (.v 6) {}), (.capget {} (.v 5) 3 {}, uniRule)] = true := by decide +kernel
/-- The group over two blocks of core 0, in lanes 0 and 1 and in lane 2. -/
def stTwo (k : Block := blkM) : State :=
  { stM with cur := { grp with mems := [mem0, { w := ⟨0, 1, 0⟩, lanes := 4 }] }
             cores := [(0, { part := some 0, agtctl := 0x102, blocks := [(0, k), (1, { k with uid := 10, warps := [(0, { wp with threads := List.replicate 3 { pc := 5, obj := 1 } })] })] })] }
/-- The capability store's page is compressed. -/
def stSc : State := { stM with objs := smSet objsM 6 { kind := .capStore, owner := 0, size := 4096, proto := { comp := true } } }
/-- Every block of a group narrows, moves or loads a capability; a CAPLD whose slots lie on a compressed page waits (R76, R85). -/
theorem wit_capability_groups : stTwo.advance.actingBlocks 7 = [((0, 0), 0), ((0, 1), 2)] ∧ ([Instr.capnar {} 9 3 .zero { imm := 3 }, .capoff {} 9 3 { imm := 1024 }, .capmov {} 9 3 {}, .capld {} 9 6 .zero { imm := 2 }, .brkpt {} {}].all fun i => runsB i stTwo && act i stTwo == 7) = true ∧
    (stTwo.advance.actingBlocks 7).all (fun x => stTwo.advance.usable (stTwo.advance.block x.1.1 x.1.2).part ((stTwo.advance.block x.1.1 x.1.2).cap 3)) = true ∧
    okB (forBlocks (slotChk stTwo.advance 7 0 6 .zero { imm := 2 }) (stTwo.advance.actingBlocks 7)) = true ∧
    (holdSteps ((stTwo.advance.actingBlocks 7).map fun x => slotStep stTwo.advance 6 .zero { imm := 2 } 7 (fun _ => .capld x.1 9) x) stTwo.advance).isNone = true ∧
    runsB (.capld {} 9 6 .zero { imm := 2 }) stSc = true ∧ (holdSteps [slotStep stSc.advance 6 .zero { imm := 2 } 3 (fun _ => .capld (0, 0) 9) ((0, 0), 0)] stSc.advance).isSome = true ∧ (stTwo.advance.core 0).agtctl.getLsbD 1 = true := by decide +kernel
/-- What CAPOFF and BRKPT, with the debugger enabled, leave in both blocks; the CAPLD that waits writes nothing and issues again. -/
theorem test_capability_groups : (match exec (.capoff {} 9 3 { imm := 1 }) stTwo with | .next t => [((t.block 0 0).cap 9).lower.toNat, ((t.block 0 1).cap 9).lower.toNat] | _ => []) = [64, 64] ∧
    (match exec (.brkpt {} {}) stTwo with | .next t => [(t.block 0 0).stop.isSome, (t.block 0 1).stop.isSome] | _ => []) = [true, true] ∧
    (match exec (.capld {} 9 6 .zero { imm := 2 }) stSc with | .next t => (((t.block 0 0).cap 9).valid, ((t.warp ⟨0, 0, 0⟩).thread 0).pc) | _ => (true, 0)) = (false, 5) := by decide +kernel
/-- A capability register after an instruction. -/
def capAfter (i : Instr) (s : State) (n : Nat) : Cap := match exec i s with | .next t => (t.block 0 0).cap n | _ => {}
/-- Two uniform registers v26 and v27 bound CAPNAR: 64 on, 128 bytes. -/
def stN : State := stM { blkM with warps := [(0, { wp with uni := [(26, 64), (27, 128)] })] }
theorem test_capabilities : capAfter (.capld {} 9 6 .zero { imm := 2 }) stM 9 = capTo 3 64 ∧ capAfter (.capnar {} 9 3 (.v 26) { imm := 3 }) stN 9 = { capTo 3 192 with rights := 3, lower := 64 } ∧
    capAfter (.capoff {} 9 3 { imm := 1024 }) stM 9 = { capTo 3 65536 with lower := 65536 } ∧ trapped (.capoff {} 9 3 { imm := 1025 }) stM = some (0x04, 3) ∧ (capAfter (.capmov {} 9 0 { sub := 1 }) stM 9).valid = false ∧
    (match exec (.capst {} 3 6 .zero { imm := 3 }) stM with | .next t => (t.obj? 6).map fun o => smGet? o.slots 3 | _ => none) = some (some (capTo 3 65536)) ∧ reg (.captst {} (.v 5) 9 (.v 6) {}) stM 5 0 = 6 ∧
    trapped (.capld {} 9 3 .zero {}) stM = some (0x05, 3) := by decide +kernel

theorem wit_special : fits st [(.srd {} (.v 5) { imm := 2 }, uniRule), (.srd {} (.v 5) {}, uniRule), (.regq {} { vu .i8 { sub := 5 } with d := .v 5 }, genRule), (.regq {} { vu .i8 { sub := 0 } with a := .zero }, uniRule)] = true ∧ runsB (.swr {} (.v 24) { imm := 0x12 }) st = true ∧
    okB (st.advance.uniformChk (.v 24) 3) = true ∧ swrBad 0x12 4 = false ∧ swrBad 0x12 5 = true ∧ swrBad 0x10 0 = false := by decide +kernel
/-- The group on a warp in its handler, both threads. -/
def wh : Warp := { wp with trap := some { cause := 1, pc := 44, obj := 1, lanes := 3, info := 0 }, threads := List.replicate 2 { pc := 5, obj := 1, stamp := 1, inH := true } }
/-- The machine with the debugger of core 0 enabled. -/
def stDbg : State := { st with cores := [(0, { part := some 0, agtctl := 0x102, blocks := [(0, blk)] })] }
theorem wit_traps : runsB (.trap {} {}) st = true ∧ runsB (.brkpt {} {}) st = true ∧ (st.advance.core 0).agtctl.getLsbD 1 = false ∧ runsB (.brkpt {} {}) stDbg = true ∧ (stDbg.advance.core 0).agtctl.getLsbD 1 = true ∧ stDbg.advance.cur.mems = [mem0] ∧
    (stDbg.advance.block 0 0).stop = none ∧ runsB (.eret {} {}) (stw wh) = true ∧ (stw wh).advance.lanesWith 3 (fun _ th => !th.inH) = 0 ∧ runsB (.eret {} {}) st = true ∧ st.advance.lanesWith 3 (fun _ th => !th.inH) = 3 := by decide +kernel
theorem test_traps : trapped (.trap {} { imm := 9 }) st = some (0x17, 3) ∧ trapped (.brkpt {} {}) st = some (0x16, 3) ∧ (match exec (.brkpt {} {}) stDbg with | .next t => (match (t.block 0 0).stop with | some (.debug _ _) => true | _ => false) | _ => false) = true ∧
    ((wafter (.eret {} {}) (stw wh)).thread 0).pc = 44 ∧ ((wafter (.eret {} { sub := 1 }) (stw wh)).thread 1).pc = 45 ∧ (wafter (.eret {} {}) (stw wh)).trap = none ∧ trapped (.eret {} {}) st = some (0x01, 3) := by decide +kernel
/-- The agent of core 0, with capability c3 and v48 (uniform) as given. -/
def stAg (u : Word := 0) : State :=
  { stM with cur := { unit := .agent, obj := 1, pc := 0, mems := [{ w := ⟨0, 16, 0⟩, lanes := 1 }] }
             cores := [(0, { part := some 0, icache := [(1, 0)], blocks := [(0, { blkM with warps := [(0, { wp with threads := List.replicate 2 { pc := 5, obj := 1, wait := .tjoin 9 0 } })] }),
               (16, { agentBlock with caps := [(3, capTo 3 65536)], warps := [(0, { agentWarp with uni := [(80, u)], threads := [{ obj := 1 }] })] })] })] }
def ctxAt (sub : BitVec 4) : OpsM := { d := .v 80, cap := 3, b := .zero, m := { sub := sub } }
theorem wit_agent : ([Instr.beat {} {}, .wfi {} {}, .icinv {} {}].all fun i => runsB i (stAg)) = true ∧
    ([Instr.ctxsv {} (ctxAt 0), .ctxsv {} (ctxAt 1), .ctxld {} (ctxAt 0), .ctxld {} (ctxAt 1)].all fun i => runsB i (stAg) && okB ((stAg).advance.shapeChk (usesOf i) 1 fun m => uniRule (stAg).advance m)) = true ∧
    okB ((stAg).advance.uniformChk (.v 80) 1) = true ∧ okB (capChk (stAg).advance 1 3 [1] [.data]) = true ∧ okB (capChk (stAg).advance 1 3 [0] [.data]) = true ∧
    okB ((opdM (ctxAt 0) false).place (stAg).advance 1 (warpLen (stAg).advance 0 0) 64) = true ∧ okB ((opdM (ctxAt 0) false).place (stAg).advance 1 256 64) = true ∧ saveBusy (stAg).advance 0 = false := by decide +kernel
theorem test_agent : (match exec (.beat {} { imm := 7 }) (stAg) with | .next t => ((t.core 0).beatseq, (t.core 0).beats, (t.core 0).beat) | _ => (0, 0, none)) = (1, 1, some (1, 7)) ∧ (match exec (.icinv {} {}) (stAg) with | .next t => (t.core 0).icache | _ => [(1, 1)]) = [] ∧
    (match exec (.wfi {} {}) (stAg) with | .next t => (t.core 0).waitfi | _ => false) = true ∧ (match exec (.ctxsv {} (ctxAt 0)) (stAg) with | .next t => (t.saved.length, (t.block 0 0).warps.length) | _ => (0, 9)) = (1, 0) := by decide +kernel

/-! ### Commands (chapters 6 and 19) -/

/-- The 128 bytes of a command with fields at byte offsets. -/
def cmdB (fields : List (Nat × Nat)) : List Byte := (List.range 128).map fun i => BitVec.ofNat 8 ((fields.map fun p => if p.1 ≤ i ∧ i < p.1 + 8 then p.2 / 256 ^ (i - p.1) % 256 else 0).foldl (· + ·) 0)
/-- A plain header, and the bytes of one: USERTAG 7, STATADDR 0x4000, with BARRIER and IRQ. -/
def hdrT : CmdHdr := { vi := 1, q := 2, stat := 0x4000, usertag := 7, irq := true, barrier := true }
def hdrB (op : Nat) : List (Nat × Nat) := [(0, op), (2, 3), (16, 7), (24, 0x4000)]
/-- LAUNCH and START of image 2 of load 9 with CAPMASK 5, capability store 6 and a 3 by 2 by 1 grid on die 0 (Table 6.5). -/
def bodyL : LaunchBody := { loadh := 9, entryno := 2, minblk := 0, diemask := 1, capmask := 5, capstore := 6, gx := 3, gy := 2, gz := 1 }
def bytesL : List (Nat × Nat) := [(32, 3), (36, 2), (40, 1), (102, 6), (108, 5), (115, 16), (118, 2), (120, 9)]
theorem test_decode_queue_commands : decodeCommand 1 2 (cmdB (hdrB 0)) = some (.nopCommand hdrT) ∧ decodeCommand 1 2 (cmdB (hdrB 1 ++ bytesL)) = some (.launchCommand hdrT bodyL) ∧
    decodeCommand 1 2 (cmdB (hdrB 2 ++ bytesL)) = some (.start hdrT bodyL) ∧ decodeCommand 1 2 (cmdB (hdrB 3 ++ [(118, 2), (120, 9)])) = some (.stop hdrT 9 2) ∧
    decodeCommand 1 2 (cmdB (hdrB 4 ++ [(32, 0x1000), (40, 108)])) = some (.load hdrT 0x1000 108) ∧ decodeCommand 1 2 (cmdB (hdrB 5 ++ [(120, 9)])) = some (.unload hdrT 9) ∧
    decodeCommand 1 2 (cmdB (hdrB 6 ++ [(32, 4), (34, 1), (36, 0xFF), (37, 1), (40, 1024), (56, 10), (57, 1), (60, 64), (64, 5), (72, 6), (76, 3)])) =
      some (.objcreate hdrT { kind := 4, psize := 0, okind := 1, repl := 0, rights := 0xFF, flags := 1, size := 1024, home := 0, etype := 10, nch := 1, nnodes := 64, pool := 5, store := 6, slot := 3 }) ∧
    decodeCommand 1 2 (cmdB (hdrB 7 ++ [(32, 3)])) = some (.objdestroy hdrT 3) ∧
    decodeCommand 1 2 (cmdB (hdrB 8 ++ [(32, 1), (36, 3), (40, 0x2000), (48, 64), (56, 128)])) = some (.hcopy hdrT { dir := 1, oid := 3, iova := 0x2000, off := 64, len := 128 }) ∧
    decodeCommand 1 2 (cmdB (hdrB 9 ++ [(32, 3), (40, 64), (48, 2)])) = some (.waitcj hdrT 3 64 2) ∧
    decodeCommand 1 2 (cmdB (hdrB 12 ++ [(32, 3), (36, 6), (40, 1), (44, 3), (48, 64), (56, 128)])) = some (.capmint hdrT { oid := 3, store := 6, slot := 1, rights := 3, lower := 64, upper := 128 }) ∧
    decodeCommand 1 2 (cmdB (hdrB 13 ++ [(32, 3), (40, 65536)])) = some (.pageresume hdrT 3 65536) := by decide +kernel
/-- CREATEQ and DESTROYQ are queue 0's (R120), and the PF's commands. -/
theorem test_decode_admin_commands : decodeCommand 1 0 (cmdB (hdrB 10 ++ [(32, 1), (34, 6), (35, 2), (36, 4), (40, 0x80)])) = some (.createq { hdrT with q := 0 } { qn := 1, s := 6, prio := 2, vec := 4, ring := 0x80 }) ∧
    decodeCommand 1 2 (cmdB (hdrB 10 ++ [(32, 1), (34, 6)])) = none ∧ decodeCommand 1 0 (cmdB (hdrB 11 ++ [(32, 1)])) = some (.destroyq { hdrT with q := 0 } 1) ∧
    decodeCommand 1 2 (cmdB (hdrB 0x20 ++ [(32, 1), (33, 2), (34, 3), (36, 32), (40, 16), (48, 4096), (56, 3)])) = some (.partcfg hdrT { part := 1, slots := 2, flags := 3, s := 32, c := 16, share := 4096, cores := 3 }) ∧
    decodeCommand 1 2 (cmdB (hdrB 0x21 ++ [(32, 1)])) = some (.partdel hdrT 1) ∧ decodeCommand 1 2 (cmdB (hdrB 0x22 ++ [(32, 1), (34, 0xFF)])) = some (.vfbind hdrT 1 0xFF) ∧
    decodeCommand 1 2 (cmdB (hdrB 0x23 ++ [(32, 1), (34, 2), (62, 3)])) = some (.gangpeers hdrT 1 [2, 0, 0, 0, 0, 0, 0, 0, 0, 0, 0, 0, 0, 0, 3]) ∧
    decodeCommand 1 2 (cmdB (hdrB 0x24 ++ [(32, 3), (36, 1), (40, 6), (44, 2), (48, 3)])) = some (.shareobj hdrT { oid := 3, part := 1, store := 6, slot := 2, rights := 3 }) ∧
    decodeCommand 1 2 (cmdB (hdrB 0x25 ++ [(32, 191)])) = some (.repair hdrT 191) ∧ decodeCommand 1 2 (cmdB (hdrB 0x26 ++ [(32, 0x1000), (40, 160)])) = some (.fwstage hdrT 0x1000 160) ∧
    decodeCommand 1 2 (cmdB (hdrB 0x27)) = some (.fwact hdrT) ∧ decodeCommand 1 2 (cmdB (hdrB 0x28 ++ [(32, 1), (40, 0x1000), (48, 128), (52, 2)])) = some (.logread hdrT { log := 1, iova := 0x1000, len := 128, first := 2 }) ∧
    decodeCommand 1 2 (cmdB (hdrB 0x29 ++ [(32, 1), (36, 9)])) = some (.dbgresume hdrT 1 9) ∧ decodeCommand 1 2 (cmdB (hdrB 0x29 ++ [(33, 1)])) = none ∧ decodeCommand 1 2 (cmdB (hdrB 0x0E)) = none :=
  by decide +kernel

/-- A load of code alone: one CODE section of 12 bytes (R51), at 0x1000 of function 1's host memory. -/
def modFile : Nat := 0x4E5A4F46 + 2 ^ 32 + 2 ^ 48 + 2 ^ 64 + 64 * 2 ^ 160 + 140 * 2 ^ 320 + 2 ^ 512 * (12 * 2 ^ 64 + 128 * 2 ^ 128) + 2 ^ 1024 * 0x001E00000000000000000000
/-- A running part: partition 0 on core 0 with a share, interface 1 bound to it with one queue and a page abort, a load with an entry, a task and a standing program. -/
def stF : State :=
  { sys := { mode := .running }, parts := [(0, { cores := [0], share := 4096, room := [(0, 4096)] }), (1, { cores := [1], share := 4096, room := [(4096, 4096)] })], hbm := [(8192, 64)]
    cores := [(0, { part := some 0 }), (1, { part := some 1 })]
    vis := [(1, { part := some 0, enabled := true, queues := [(1, {})], aborts := [{ oid := 3, page := 0, q := 1, reason := 1 }], peers := [2] }), (2, {})]
    objs := objsM ++ [(10, { kind := .capStore, owner := 1, size := 64 }), (11, { kind := .data, owner := 0, size := 65536, shared := true }), (12, { kind := .report, owner := 0, size := 4096 })]
    loads := [(9, { part := 0, code := 1, images := [imgTask, imgGrid], progs := [{ imgP with blocks := [{ decl := true, arg := 4 }], report := 12 }] })], hostMem := memPutNat [] (2 ^ 64 + 0x1000) 140 modFile }
def h1 : CmdHdr := { vi := 1, q := 1, stat := 0x4000, usertag := 7 }
def h0 : CmdHdr := { vi := 0, q := 0, stat := 0x4000, usertag := 7 }
def bodyOc : ObjCreateBody := { kind := 0, psize := 0, okind := 0, repl := 0, rights := 3, flags := 1, size := 65536, home := 0, etype := 0, nch := 0, nnodes := 0, pool := 0, store := 6, slot := 1 }
theorem wit_object_commands : Issuer.any.admits true 1 stF = true ∧ Issuer.any.admits false 1 stF = true ∧ Issuer.vf.admits false 1 stF = true ∧ stF.viPart 1 = 0 ∧ createBad stF 0 .data bodyOc = false ∧ noRoom stF 0 (createObj stF 0 .data bodyOc) = false ∧
    kindOf bodyOc.kind = some .data ∧ (stF.ownObj 0 5 [.data, .capStore, .scratch, .volume, .tilePool, .report]).isSome = true ∧ (stF.ownObj 0 3 [.data, .scratch]).isSome = true ∧ storeOk stF 0 6 255 = true ∧ storeOk stF 0 6 256 = false ∧
    (0 : BitVec 64).toNat ≤ 65536 ∧ 65472 + 64 ≤ 65536 := by decide +kernel
/-- The capability stores' pages abort. -/
def stFa : State := { stF with objs := smSet (smSet stF.objs 6 { kind := .capStore, owner := 0, size := 4096, slots := [(2, capTo 3 64), (4, capTo 3 65536)], proto := { valid := false } }) 10 { kind := .capStore, owner := 1, size := 64, proto := { valid := false } } }
def bodyMint : CapmintBody := { oid := 3, store := 6, slot := 7, rights := 0xFF, lower := 64, upper := 0 }
theorem wit_store_aborts : createBad stFa 0 .data bodyOc = false ∧ noRoom stFa 0 (createObj stFa 0 .data bodyOc) = false ∧ storeAborts (.objcreate h1 bodyOc) stF = none ∧ storeAborts (.objcreate h1 bodyOc) stFa = some 0 ∧
    (stFa.ownObj 0 3 [.data]).isSome = true ∧ storeOk stFa 0 6 7 = true ∧ storeAborts (.capmint h1 bodyMint) stF = none ∧ storeAborts (.capmint h1 bodyMint) stFa = some 0 := by decide +kernel
theorem wit_destroy_pool : (match stF.ownObj 0 5 [.tilePool] with | some o => decide (o.kind = .tilePool) | none => false) = true ∧ poolServes { stF with objs := [(5, { kind := .tilePool, owner := 0, size := 1048576 })] } 5 = false := by decide +kernel
/-- LAUNCH of the grid entry and START of the standing program. -/
def bodyGrid : LaunchBody := { loadh := 9, entryno := 1, minblk := 0, diemask := 0, capmask := 4, capstore := 6, gx := 2, gy := 1, gz := 1 }
def bodyProg : LaunchBody := { loadh := 9, entryno := 0, minblk := 0, diemask := 0, capmask := 16, capstore := 6, gx := 0, gy := 0, gz := 0 }
theorem wit_run_commands : smGet? (stF.vi 1).queues 1023 = none ∧ (7 : BitVec 8).toNat ≤ (stF.vi 1).priocap.toNat ∧ (stF.queue? 1 1).isSome = true ∧ ((stF.queue? 1 1).elim true (·.dying)) = false ∧
    (stF.ownObj 0 3 [.data, .code, .capStore, .scratch, .volume, .tilePool, .report]).isSome = true ∧ ((stF.vi 1).aborts.any fun a => a.oid == 3 && a.page == 0) = true ∧
    (stF.loadFor 0 9).isSome = true ∧ (launchArgs stF h1 bodyGrid).isSome = true ∧ launchFits stF 0 imgGrid 0 = true ∧ (startArgs stF h1 bodyProg).isSome = true ∧ stF.rejected 0 9 = none ∧
    (match startArgs stF h1 bodyProg with | some (_, i, caps) => (startCheck stF 0 9 0 i caps, progLacks stF 0 i) | none => (some 9, true)) = (none, false) ∧
    ({ stF with loads := [(9, { part := 0, code := 0, st := .rejected 5 })] } : State).rejected 0 9 = some 5 := by decide +kernel
/-- The load's grid entry wants more shared memory than any core has. -/
def stFat : State := { stF with loads := [(9, { part := 0, code := 1, images := [imgTask, { imgGrid with shared := 2 ^ 23 }] })] }
theorem wit_launch_ends : (launchArgs stFa h1 bodyGrid).isSome = true ∧ storeAborts (.launchCommand h1 bodyGrid) stF = none ∧ storeAborts (.launchCommand h1 bodyGrid) stFa = some 0 ∧ (launchArgs stFat h1 bodyGrid).isSome = true ∧
    launchFits stFat 0 { imgGrid with shared := 2 ^ 23 } 0 = false ∧ (startArgs stFa h1 bodyProg).isSome = true ∧ storeAborts (.start h1 bodyProg) stF = none ∧ storeAborts (.start h1 bodyProg) stFa = some 0 ∧
    stFa.rejected 0 9 = none ∧ abortedPage stF 1 3 0 = some 0 ∧ abortedPage stF 1 3 1 = none := by decide +kernel
theorem wit_load : (match readModule stF.hostMem (hostAddr 1 0x1000) 140 with | some f => (match placeModule 9 0 f stF.hostMem (hostAddr 1 0x1000) stF with | .ok _ => true | .error _ => false) | none => false) = true := by decide +kernel
theorem wit_stop : (standing { stF with progs := [(0, { prog0 with load := 9 })] } 0 9 0).isSome = true := by decide +kernel
def bodyPc : PartcfgBody := { part := 2, slots := 1, flags := 7, s := 112, c := 16, share := 1, cores := 4 }
def bodySh : ShareobjBody := { oid := 11, part := 1, store := 10, slot := 3, rights := 3 }
theorem wit_physical_commands : Issuer.pf.admits false 0 stF = true ∧ Issuer.pf.admits true 0 { stF with sys := { mode := .minimal } } = true ∧ cfgBad bodyPc = false ∧ cfgRefused stF bodyPc = none ∧ cfgNoRoom stF bodyPc = false ∧ (smGet? stF.parts 1).isSome = true ∧
    (stF.vi 2).part = none ∧ (stF.vi 2).queues = [] ∧ (shareArgs stF bodySh).isSome = true ∧ ((shareArgs stF bodySh).elim false (·.shareable)) = true ∧
    (({ stF with cores := [(191, { halted := true })] } : State).core 191).halted = true ∧ smGetD stF.sys.spares 3 0 < 4 ∧ fwBlockers { stF with sys := { mode := .running, staged := some [] } } [] = [] ∧
    (stoppedFor { stF with cores := [(0, { part := some 0, blocks := [(0, { blk with stop := some (.debug { cause := 0x16, pc := 0, obj := 0, lanes := 0, info := 0 } 5) })] })] } 0 5) = some (0, 0) := by decide +kernel
def bodyLog : LogreadBody := { log := 1, iova := 0x2000, len := 64, first := 0 }
/-- A LOGREAD that has been answered for by the host, and a share whose store aborts. -/
theorem wit_log_and_share : (shareArgs stFa bodySh).isSome = true ∧ storeAborts (.shareobj h0 bodySh) stF = none ∧ storeAborts (.shareobj h0 bodySh) stFa = some 0 ∧ bodyLog.log.toNat ≤ 3 ∧
    ({ stF with cmds := [{ hdr := h0, wait := .logread bodyLog, dma := true }] } : State).cmds[0]? = some { hdr := h0, wait := .logread bodyLog, dma := true } ∧ stF.sys.ide = false := by decide +kernel
/-- The opcodes of Table 19.2, and those of Table 6.3 that the physical function does not accept. -/
def forPfs (h : CmdHdr) : List Instr :=
  [.partcfg h bodyPc, .partdel h 1, .vfbind h 2 1, .gangpeers h 1 [2], .shareobj h bodySh, .repair h 1, .fwstage h 0 0, .fwact h, .logread h bodyLog, .dbgresume h 0 5]
def forVfs (h : CmdHdr) : List Instr :=
  [.launchCommand h bodyGrid, .start h bodyProg, .stop h 9 0, .load h 0x1000 140, .unload h 9, .waitcj h 3 64 0, .capmint h bodyMint, .pageresume h 3 0]
def forBoth (h : CmdHdr) : List Instr := [.nopCommand h, .objcreate h bodyOc, .objdestroy h 3, .hcopy h { dir := 0, oid := 3, iova := 0x1000, off := 8, len := 4 }, .createq h { qn := 2, s := 6, prio := 7, vec := 3, ring := 0x80 }, .destroyq h 1]
/-- One refusal for each mode, each interface and each opcode. -/
def stMode (m : Mode) : State := { stF with sys := { mode := m } }
theorem wit_refused : stF.sys.mode = .running ∧ h1.vi ≠ 0 ∧ h0.vi = 0 ∧ ((forPfs h1).all fun i => cmdHdrOf i == some h1 && forPf i) = true ∧ ((forVfs h0).all fun i => cmdHdrOf i == some h0 && !forPf i && !forAll i) = true ∧
    (stMode .minimal).sys.mode = .minimal ∧ ((forVfs h1 ++ forBoth h1 ++ forPfs h1).all fun i => cmdHdrOf i == some h1) = true ∧
    (((forVfs h0 ++ (forBoth h0).drop 1 ++ forPfs h0).filter fun i => !forMinimal i).map cmdHdrOf) = List.replicate 20 (some h0) ∧ (stMode .booting).sys.mode = .booting ∧ (stMode .thermal).sys.mode = .thermal := by decide +kernel

/-- The commands outstanding after a command: what each still waits for and its code. -/
def cmdAfter (i : Instr) (s : State) : List (CmdWait × BitVec 8 × Word) := match exec i s with | .next t => t.cmds.map fun c => (c.wait, c.code, c.detail) | _ => []
/-- The machine after two instructions. -/
def afterBoth (i j : Instr) (s : State) : Option State := match exec i s with | .next t => (match exec j t with | .next u => some u | _ => none) | _ => none
theorem test_object_commands : cmdAfter (.nopCommand h1) stF = [(.done, 1, 0)] ∧ (match exec (.objcreate h1 bodyOc) stF with | .next t => (t.obj? 6).map fun o => ((smGetD o.slots 1 {}).rights, (smGetD o.slots 1 {}).upper) | _ => none) = some (3, 65536) ∧
    cmdAfter (.objcreate h1 { bodyOc with kind := 1 }) stF = [(.done, 2, 0)] ∧ cmdAfter (.objdestroy h1 3) stF = [(.destroy 3, 1, 0)] ∧
    (match exec (.capmint h1 { oid := 3, store := 6, slot := 7, rights := 0xFF, lower := 64, upper := 0 }) stF with | .next t => (t.obj? 6).map fun o => ((smGetD o.slots 7 {}).rights, (smGetD o.slots 7 {}).lower, (smGetD o.slots 7 {}).upper) | _ => none) = some (0, 64, 65536) ∧
    ((afterBoth (.hcopy h1 { dir := 0, oid := 3, iova := 0x1000, off := 8, len := 4 }) (.commandCompletion 0) stF).map fun t => t.readNat (.obj 3) 8 4) = some 0x4E5A4F46 ∧ cmdAfter (.waitcj h1 3 64 0) stF = [(.conj 3 64 0, 1, 0)] := by decide +kernel
theorem test_run_commands : (match exec (.createq h1 { qn := 2, s := 6, prio := 7, vec := 3, ring := 0x80 }) stF with | .next t => (t.queue? 1 2).map (·.base) | _ => none) = some 0x80 ∧ cmdAfter (.createq h1 { qn := 2, s := 5, prio := 0, vec := 3, ring := 0x80 }) stF = [(.done, 2, 0)] := by decide +kernel
theorem test_queue_commands : cmdAfter (.destroyq h1 1) stF = [(.destroyq 1, 1, 0)] ∧ (match exec (.pageresume h1 3 0) stF with | .next t => (t.vi 1).aborts | _ => (stF.vi 1).aborts) = [] ∧
    (match exec (.launchCommand h1 bodyGrid) stF with | .next t => t.grids.map fun g => (g.2.n, g.2.dim, g.2.code) | _ => []) = [(2, (2, 1, 1), 1)] ∧ cmdAfter (.launchCommand h1 { bodyGrid with entryno := 0 }) stF = [(.done, 2, 0)] := by decide +kernel
theorem test_load_commands : cmdAfter (.start h1 bodyProg) stF = [(.done, 1, 0)] ∧ cmdAfter (.start h1 { bodyProg with capmask := 0, capstore := 0 }) stF = [(.done, 4, 5)] ∧ (match exec (.load h1 0x1000 140) stF with | .next t => (t.loads.length, t.cmds.length) | _ => (0, 0)) = (2, 1) ∧ ((afterBoth (.load h1 0x1000 139) (.commandCompletion 0) stF).map fun t => memNat t.hostMem (2 ^ 64 + 0x4000) 8) = some (3 + 0xFFFFFFFF * 2 ^ 32) ∧ ((afterBoth (.load h1 0x1000 140) (.commandCompletion 0) stF).map fun t => (memNat t.hostMem (2 ^ 64 + 0x4000) 8, t.loads.map fun l => l.2.st == .loading)) = some (1 + 1024 * 2 ^ 32, [false, false]) ∧ cmdAfter (.unload h1 9) stF = [(.unload 9, 1, 0)] ∧
    cmdAfter (.stop h1 9 0) stF = [(.done, 2, 0)] := by decide +kernel
theorem test_physical_commands : cmdAfter (.partcfg h0 bodyPc) stF = [(.partcfg 2 [2], 1, 0)] ∧ cmdAfter (.partcfg h0 { bodyPc with cores := 1 }) stF = [(.done, 4, 1)] ∧ cmdAfter (.partdel h0 1) stF = [(.partdel 1, 1, 0)] ∧ cmdAfter (.partdel h1 1) stF = [(.done, 2, 0)] := by decide +kernel
theorem test_function_commands : (match exec (.vfbind h0 2 1) stF with | .next t => (t.vi 2).part | _ => none) = some 1 ∧ cmdAfter (.vfbind h0 1 1) stF = [(.done, 4, 4)] ∧ (match exec (.gangpeers h0 1 [2, 3]) stF with | .next t => (t.vi 1).peers | _ => []) = [2, 3] ∧
    (match exec (.shareobj h0 bodySh) stF with | .next t => (t.obj? 11).map (·.owner2) | _ => none) = some (some 1) ∧ cmdAfter (.repair h0 1) stF = [(.done, 4, 2)] ∧ cmdAfter (.logread h0 { log := 4, iova := 0, len := 64, first := 0 }) stF = [(.done, 2, 0)] := by decide +kernel
theorem test_firmware_commands : (let s : State := { stF with logs := { err := [List.replicate 64 9], errN := 0 } }
      (cmdAfter (.logread h0 { log := 1, iova := 0x2000, len := 64, first := 0 }) s, (afterBoth (.logread h0 { log := 1, iova := 0x2000, len := 64, first := 0 }) (.commandCompletion 0) s).map fun t => memNat t.hostMem 0x2000 2)) =
      ([(.logread { log := 1, iova := 0x2000, len := 64, first := 0 }, 1, 0)], some 0x0909) ∧ cmdAfter (.fwact h0) stF = [(.done, 2, 0)] ∧ cmdAfter (.dbgresume h0 0 5) stF = [(.done, 4, 7)] := by decide +kernel
/-- Each of those completes BADCMD and does nothing else: Table 19.2 on a VF, the VF's own commands on the PF, all but four in minimal mode (R119, R456, R467). -/
theorem test_refused : ((forPfs h1 ++ forVfs h0).all fun i => cmdAfter i stF == [(.done, 2, 0)]) = true ∧
    ((forVfs h1 ++ forBoth h1 ++ forPfs h1 ++ forVfs h0 ++ (forPfs h0 ++ (forBoth h0).drop 1).filter fun i => !forMinimal i).all fun i => cmdAfter i (stMode .minimal) == [(.done, 2, 0)]) = true ∧
    cmdAfter (.nopCommand h0) (stMode .minimal) = [(.done, 1, 0)] ∧ cmdAfter (.nopCommand h0) (stMode .booting) = [(.done, 2, 0)] ∧ cmdAfter (.nopCommand h0) (stMode .thermal) = [(.done, 2, 0)] := by decide +kernel
/-- A command whose access to its capability store meets an aborting page completes PAGEABORT with the page; a block that fits no core, NOMEM (R123, R126). -/
theorem test_command_ends : cmdAfter (.objcreate h1 bodyOc) stFa = [(.done, 9, 0)] ∧ cmdAfter (.capmint h1 bodyMint) stFa = [(.done, 9, 0)] ∧ cmdAfter (.launchCommand h1 bodyGrid) stFa = [(.done, 9, 0)] ∧
    cmdAfter (.shareobj h0 bodySh) stFa = [(.done, 9, 0)] ∧ cmdAfter (.launchCommand h1 bodyGrid) stFat = [(.done, 5, 0)] := by decide +kernel

/-! ### Events (chapters 6, 8, 12 and 17 to 19) -/

def doneCmd : Cmd := { hdr := h1, wait := .done, code := 1, detail := 0 }
/-- The interfaces with a command done, a VF with an admin queue's base and size set, and one whose admin queue has been disabled. -/
def stE : State :=
  { stF with cmds := [doneCmd]
             vis := [(1, { part := some 0, enabled := true, aqsize := 6, aqbase := 0x80, queues := [(1, {})] }), (2, { part := some 0, aqsize := 16, queues := [(0, {})] })] }
theorem wit_interface_events : stE.cmds[0]? = some doneCmd ∧ stE.sys.ide = false ∧ (settleCmd doneCmd stE).2 = some doneCmd ∧ (stE.queue? 1 1).isSome = true ∧ (stE.vi 1).enabled = true ∧ (stE.vi 1).aqen = false ∧ smGet? (stE.vi 1).queues 0 = none ∧
    6 ≤ (stE.vi 1).aqsize.toNat ∧ (stE.vi 1).aqbase.toNat % 128 = 0 ∧ (stE.vi 2).aqen = false ∧ othersOf stE 2 0 = false ∧ (stE.queue? 2 0).isSome = true ∧ ({ stE with cmds := [{ doneCmd with dma := true }] } : State).cmds[0]? = some { doneCmd with dma := true } ∧ stE.sys.mode ≠ .minimal ∧ (64 : Nat) ≤ 64 := by decide +kernel
/-- The status record of USERTAG 7 and code 1 goes to 0x4000 of function 1 (Table 6.4); a doorbell past the ring puts the queue in ERROR. -/
theorem test_interface_events : (match exec (.commandCompletion 0) stE with | .next t => (memNat t.hostMem (2 ^ 64 + 0x4000) 16, t.cmds) | _ => (0, [])) = (1 + 7 * 2 ^ 64, []) ∧
    (match exec (.doorbell 1 1 64) stE with | .next t => (t.queue? 1 1).map fun (q : Queue) => (q.tail, q.st) | _ => none) = some (64, .ok) ∧ (match exec (.doorbell 1 1 65) stE with | .next t => (t.queue? 1 1).map fun (q : Queue) => q.st | _ => none) = some .error ∧
    (match exec (.aqctlEnable 1) stE with | .next t => (t.vi 1).aqen | _ => false) = true ∧ (match exec (.adminQueueDrained 2) stE with | .next t => (t.vi 2).queues | _ => [(1, {})]) = [] ∧
    (match exec (.registerWrite 1 8 0x500000007) stE with | .next t => (t.vi 1).aqsize | _ => 0) = 7 ∧ (match exec (.functionLevelReset 1) stE with | .next t => ((t.vi 1).queues, (t.vi 1).aqsize) | _ => ([(9, {})], 9)) = ([], 0) ∧
    (match exec (.vfEnable 2) stE with | .next t => ((t.vi 2).enabled, (t.vi 3).enabled) | _ => (false, true)) = (true, false) ∧ (match exec (.dmaError 0 false) { stE with cmds := [{ doneCmd with dma := true }] } with | .next t => t.cmds.map fun (c : Cmd) => (c.code, c.detail) | _ => []) = [(8, 0x100)] := by decide +kernel
/-- A start at a stage; a failed start with so many failures; a network boot; a staged image that waits. -/
def stB (stage : Nat) : State := { sys := { stage := stage } }
def stFail (n : Nat) : State := { sys := { failed := true, fails := n } }
def stNet : State := { sys := { net := true, netname := true } }
def magic : List Byte := [0x57, 0x46, 0x5A, 0x4E]
def stLater : State := { sys := { stage := 4, later := [(4, magic)] } }
/-- A refused activation whose blocking queue has no job left. -/
def stDue : State := { sys := { staged := some [], actWait := true, blockers := [(1, 1)] } }
theorem wit_boot_events : (stFail 2).sys.fails < 3 ∧ (stFail 2).sys.mode = .booting ∧ (stFail 2).sys.failed = true ∧ stLater.sys.mode = .booting ∧ stLater.sys.failed = false ∧ stLater.sys.net = false ∧ smGet? stLater.sys.later 4 = some magic ∧ fwMagicOk magic = true ∧
    ({ stage := 3, net := true, netgot := true } : Sys).failed = false ∧ stF.sys.mode = .running ∧ (stF.parts.find? fun p => !p.2.sysimg).isSome = true ∧ max (99 : BitVec 8).toNat (100 : BitVec 8).toNat < 110 ∧ stDue.sys.blockers.all (queueOver stDue) = true ∧ 3 ≤ (stFail 3).sys.fails ∧ (stFail 3).sys.failed = true ∧ (stB 1).sys.mode = .booting ∧ (stB 3).sys.failed = false ∧ (stB 6).sys.stage = 6 ∧ stNet.sys.netgot = false ∧ stNet.sys.netname = true ∧ ([] : List (BitVec 8)).length ≤ 512 ∧
    100 ≤ max (99 : BitVec 8).toNat (100 : BitVec 8).toNat ∧ max (94 : BitVec 8).toNat (0 : BitVec 8).toNat < 95 ∧ 110 ≤ max (110 : BitVec 8).toNat (0 : BitVec 8).toNat ∧ stF.sys.mode ≠ .thermal ∧ stB 1 ≠ { sys := { warn := true } } ∧
    fwBlockers stDue [] = [] := by decide +kernel
theorem test_boot_events : (match exec (.bootStageDone [] true) (stB 1) with | .next t => t.sys.stage | _ => 0) = 2 ∧ (match exec .failedStartReset (stFail 3) with | .next t => t.sys.mode | _ => .thermal) = .minimal ∧
    (match exec (.tftpBlock [1, 2]) stNet with | .next t => (t.sys.netbuf, t.sys.netgot) | _ => ([], false)) = ([1, 2], true) ∧ (match exec (.bootStageDone [] true) (stB 6) with | .next t => t.sys.mode | _ => .thermal) = .running ∧
    (match exec (.thermalStop 110 0) stE with | .next t => (t.sys.mode, t.cmds.map fun (c : Cmd) => (c.code, c.detail), (t.core 191).halted) | _ => (.booting, [], false)) = (.thermal, [(8, 0x200)], true) ∧ (match exec (.thermalWarning 99 100) stF with | .next t => t.sys.warn | _ => false) = true := by decide +kernel
/-- A responder in each state of the order. -/
def stP2 (x : Spdm) : State := { spdm := [(2, x)] }
theorem wit_attestation : ((stP2 { version := true }).port 2).version = true ∧ ((stP2 { caps := true }).port 2).caps = true ∧ ((stP2 { algs := true }).port 2).algs = true ∧ ((stP2 { algs := true }).port 2).session = 0 ∧ ((stP2 { session := 1 }).port 2).session = 1 ∧
    ((stP2 { session := 2 }).port 2).session = 2 ∧ (2 : Nat) ≤ 2 := by decide
theorem test_attestation : (match exec (.getVersion 0) {} with | .next t => (t.spdmOut, (t.port 0).version) | _ => ([], false)) = ([(0, .versions [0x12, 0x13])], true) ∧ (match exec (.ideKm 2 9) (stP2 { session := 2 }) with | .next t => t.sys.idekey | _ => none) = some 9 ∧
    (match exec (.ideKm 1 9) { spdm := [(1, { session := 1 })] } with | .next t => t.sys.idekey | _ => some 1) = none := by decide +kernel
/-- A marked block whose threads all wait where they may be evicted, or not; a core at its quantum's end; a saved block; a block stopped by a trap; a block of an idempotent record whose copy reads an unusable page. -/
def blkW (w : Wait) (n : Nat := 16) : Block := { blk with mark := true, quanta := n, warps := [(0, { wp with threads := List.replicate 2 { pc := 5, obj := 1, wait := w } })] }
def stQe (b : Block) : State := { st b with sys := { mode := .running }, cores := [(0, { part := some 0, quantum := 5, issued := 5, blocks := [(0, b)] })], jobs := [(0, { part := 0, load := 0, hdr := h1 })], vis := [(1, { part := some 0, queues := [(1, {})] })], parts := [(0, { cores := [0], share := 4096, room := [(0, 4096)] })] }
def stSaved : State := { stQe blk with saved := [{ blk := blk }] }
def trapB : Block := { blk with stop := some (.trap { cause := 1, pc := 5, obj := 1, lanes := 1, info := 0 }) }
def stIdem : State :=
  { st with objs := objsM.filter (·.1 != 3) ++ [(13, { kind := .data, owner := 0, size := 65536, proto := { valid := false } })], jobs := [(0, { part := 0, load := 0, hdr := h1 })]
            cores := [(0, { part := some 0, blocks := [(0, { blk with origin := .task { idem := true } })]
                            copies := [{ id := 1, seq := 0, uid := 9, entry := true, srcSide := some (.obj 13), dstSide := .shm 0 0, todo := [{ dst := 0, len := 64, src := some 0 }] }] })] }
def siteS (u : Option Nat) (settle : Bool) : EccSite := { unit := 3, die := 1, stack := 0, core := none, loc := 0, user := u, settle := settle }
theorem wit_core_events : (stQe blk).sys.mode = .running ∧ ((stQe blk).core 0).quantum ≠ 0 ∧ ((stQe blk).core 0).quantum.toNat ≤ ((stQe blk).core 0).issued ∧ ((stQe blk).core 0).halted = false ∧ (blkW (.answer 3)).mark = true ∧ 16 ≤ (blkW (.answer 3)).quanta ∧
    evictable (stQe (blkW (.answer 3))) 0 0 = false ∧ ((stQe blk).core 0).noBeat = false ∧ evictable (stQe (blkW (.tjoin 9 0))) 0 0 = true ∧ (stQe (blkW (.tjoin 9 0))).storing blk.uid = false ∧ drained (stQe { blk with stop := some .aborted }) 0 0 = true ∧ (15 : Nat) ≠ 16 ∧ stSaved.saved[0]? = some { blk := blk } ∧ stSaved.workResident 0 = true ∧
    (siteS none true).settle = true ∧ (siteS (some 5) false).user = some 5 ∧ (stQe trapB).block? 0 0 = some trapB ∧ drained (stQe trapB) 0 0 = true ∧ engineAbort stIdem 0 0 = some (13, 0) ∧ (stIdem.block 0 0).sticky = false ∧ (stIdem.obj? 13).isSome = true := by decide +kernel
/-- PREEMPT is set, the block runs on, and a grid's ticket waits that fits beside nothing. -/
def stMark : State := { stQe blk with cores := [(0, { part := some 0, preempt := true, blocks := [(0, blk)] })]
                                      grids := [(5, { job := 0, part := 0, load := 0, image := { shared := 2 ^ 23 }, code := 1, dim := (2, 1, 1), n := 2 })] }
/-- A marked block that may be evicted, in a share with frames and in one with none. -/
def stOut (room : Frames) : State := { stQe (blkW (.tjoin 9 0)) with parts := [(0, { cores := [0], share := 4096, room := room })] }
def areaLacks (s : State) : Bool := (deliverAll 0 0 s).lacks (areaOf ((deliverAll 0 0 s).block 0 0).part (allSections (deliverAll 0 0 s) 0 0))
theorem wit_preempt_events : (stMark.core 0).preempt = true ∧ (stMark.block 0 0).mark = false ∧ roomWanted stMark 0 = true ∧
    (evictable (stMark.modBlock 0 0 fun x => { x with mark := true, quanta := 0 }) 0 0 && !(stMark.modBlock 0 0 fun x => { x with mark := true, quanta := 0 }).writing 0 0) = false ∧
    ([[(0, 4096)], []].all fun f => evictable (stOut f) 0 0 && !(stOut f).writing 0 0 && ((stOut f).block 0 0).mark) = true ∧ areaLacks (stOut [(0, 4096)]) = false ∧ areaLacks (stOut []) = true ∧
    (stSaved.saved[0]?.map fun x => (x.whole, classesFree stSaved 0 x, (stSaved.core 0).part == some x.blk.part, (stSaved.fits 0 x.blk.image (x.blk.mx.claim.getD (0, 0))).isSome)) = some (true, true, true, true) ∧
    (stSaved.core 0).freeSeq = some 1 ∧ (stQe trapB).block? 0 1 = none ∧ (stIdem.block 0 0).stop = none ∧ (stIdem.block? 0 0).map (·.origin) = some (.task { idem := true }) := by decide +kernel
/-- R436: the agent marks a block that is in the way; a share with no frame for its save area keeps it where it is (log entry 115). -/
theorem test_preempt_events : (match exec (.eviction 0 0) stMark with | .next t => ((t.block 0 0).mark, (t.core 0).preempt, t.saved.length) | _ => (false, false, 9)) = (true, true, 0) ∧
    (match exec (.eviction 0 0) (stOut []) with | .next t => ((t.core 0).blocks.length, t.saved.length) | _ => (9, 9)) = (1, 0) := by decide +kernel
theorem test_core_events : (match exec (.quantumEnd 0) (stQe (blkW (.tjoin 9 0) 3)) with | .next t => ((t.core 0).issued, (t.core 0).preempt, (t.block 0 0).quanta) | _ => (9, false, 0)) = (0, true, 4) ∧
    (match exec (.eviction 0 0) (stQe (blkW (.tjoin 9 0))) with | .next t => (t.saved.length, (t.core 0).blocks.length) | _ => (0, 9)) = (1, 0) ∧ (match exec (.blockRestore 0 0) stSaved with | .next t => t.saved.length | _ => 9) = 0 ∧
    (match exec (.mcheck (siteS (some 5) false)) (stQe blk) with | .next t => ((t.core 5).halted, t.logs.errN + t.logs.err.length) | _ => (false, 0)) = (true, 1) ∧ (match exec (.unhandledTrapAbort 0 0) (stQe trapB) with | .next t => (t.core 0).blocks.length | _ => 9) = 0 ∧
    (match exec (.idemAbort 0 0) stIdem with | .next t => ((t.core 0).blocks.length, (smGetD t.jobs 0 { part := 0, load := 0, hdr := h1 }).held.length) | _ => (9, 9)) = (0, 1) := by decide +kernel

/-- One outstanding instruction with this work, on core 0 for the group. -/
def op1 (w : Work) : LongOp := { id := 7, core := 0, mems := [mem0], obj := 1, pc := 5, work := w }
def stO1 (w : Work) (s : State := stM) : State := { s with ops := [op1 w] }
def loadStep (row : Bool) : MemStep := { w := ⟨0, 0, 0⟩, lanes := 1, side := .obj 3, off := 0, n := 4, act := .load (.ext .i32), d := some 5, row := row }
def copy1 : Copy := { id := 0x400, seq := 0, uid := 9, entry := true, srcSide := some (.obj 3), dstSide := .shm 0 0, srcR := (0, 64), dstR := (512, 576), todo := [{ dst := 512, len := 64, src := some 0 }] }
def sched1 : SchedRun := { w := ⟨0, 0, 0⟩, f64 := false, rnd := 0, base := 512, len := 12, entries := [0x100002] }
/-- A copy at its first line, a remote store on its way to another core's scratch, and a warp that wants its line. -/
def stCp : State := { stM with cores := [(0, { part := some 0, blocks := [(0, blkM)], copies := [copy1] })], rstores := [{ core := 0, uid := 9, w := ⟨0, 0, 0⟩, lanes := 1, oid := 7, off := 8, bytes := [1, 2] }] }
theorem wit_completion_events : (cacheReads stM 0)[0]? = some (1, 0) ∧ stM.runGate 0 (.obj 1) (192 * 0) 192 false true false = .ok ∧ (stO1 (.mem [loadStep false])).op? 7 = some (op1 (.mem [loadStep false])) ∧ ((stO1 .results).op? 7).isSome = true ∧
    (((stO1 .results).core 0).copies.any fun x => x.op == some 7) = false ∧ (stO1 (.mem [loadStep true])).rowsLeft[0]? = some (op1 (.mem [loadStep true]), 0) ∧ [copy1].length ≤ freeEntries (stO1 (.kick [copy1])) 0 ∧ (stO1 (.kick [copy1])).unreleased 0 (op1 (.kick [copy1])).mems = false ∧
    ([copy1].findIdx? fun c => ((stO1 (.kick [copy1])).core 0).copies.any fun x => conflicts x c) = none ∧ sched1.going = false ∧ 0 < freeEntries (stO1 (.sched sched1)) 0 ∧ (stO1 (.sched sched1)).locked 0 true (.shm 0 0) (512, 524) = false ∧
    stCp.rstores[0]? = some { core := 0, uid := 9, w := ⟨0, 0, 0⟩, lanes := 1, oid := 7, off := 8, bytes := [1, 2] } ∧ ((stCp.rstores.take 0).any fun x => x.core == 0) = false ∧ stCp.absentAt (.obj 7) 8 2 = false ∧
    (stCp.core 0).copies.find? (fun x => x.id == 0x400) = some copy1 ∧ copy1.todo[0]? = some { dst := 512, len := 64, src := some 0 } ∧ copy1.started = true ∧ partGate stCp 0 copy1 { dst := 512, len := 64, src := some 0 } false = .ok := by decide +kernel
/-- The one access that an instruction has left: a load, a store, and an atomic that adds 5. -/
def oneStep (a : MAct) (acq : Bool := false) : MemStep := { loadStep false with act := a, acq := acq }
def oneSteps : List MemStep := [oneStep (.load (.ext .i32)), oneStep (.store [1, 2, 3, 4]), oneStep (.rmw 0 .n32 false 5) true]
theorem wit_arrivals : (oneSteps.all fun st => !(stO1 (.mem [st])).stepAfter 0 7 st && (stO1 (.mem [st])).stepGate 0 true false st == .ok && (stO1 (.mem [st])).stepGate 0 true true st == .ok) = true ∧
    (oneStep (.load (.ext .i32))).np = false ∧ ((stO1 (.mem [loadStep false])).op? 7).isSome = true ∧ ((stO1 (.conj { kind := 1, sub := 0, side := .obj 3, off := 0, d := .v 5, vals := [], rel := false, acq := false })).op? 7).isSome = true ∧ ((stO1 (.vol { op := 0, ty := .f32, d := .v 8, todo := [] })).op? 7).isSome = true := by decide +kernel
theorem test_arrivals : (match exec (.loadDataArrival 7) (stO1 (.mem [oneStep (.store [1, 2])])) with | .next t => (t.readNat (.obj 3) 0 4, t.ops.map (·.work)) | _ => (0, [])) = (0x0201, [.results]) ∧
    (match exec (.loadDataArrival 7) (stO1 (.mem [oneStep (.rmw 0 .n32 false 5) true]) { stM with objs := [(3, { kind := .data, owner := 0, size := 65536, mem := memPutNat [] 0 4 77 })] }) with | .next t => (t.readNat (.obj 3) 0 4, (t.warp ⟨0, 0, 0⟩).readReg 5 0, ((t.warp ⟨0, 0, 0⟩).thread 0).acq) | _ => (0, 0, 0)) = (82, 77, stM.clock) ∧
    (match exec (.sequencerWrite 7) (stO1 (.mem [oneStep (.store [3])])) with | .next t => t.readNat (.obj 3) 0 4 | _ => 0) = 3 := by decide +kernel
theorem test_completion_events : (match exec (.loadDataArrival 7) (stO1 (.mem [loadStep false]) { stM with objs := [(3, { kind := .data, owner := 0, size := 65536, mem := memPutNat [] 0 4 77 })] }) with | .next t => ((t.warp ⟨0, 0, 0⟩).readReg 5 0, t.ops.map fun (o : LongOp) => o.work) | _ => (0, [])) = (77, [.results]) ∧
    (match exec (.longLatencyComplete 7) { stM with ops := [{ op1 .results with rws := [.gen ⟨0, 0, 0⟩ 5 0 78] }] } with | .next t => ((t.warp ⟨0, 0, 0⟩).readReg 5 0, t.ops.length) | _ => (0, 9)) = (78, 0) ∧
    (match exec (.remoteStorePerformed 0) stCp with | .next t => (t.readNat (.obj 7) 8 2, t.rstores) | _ => (0, [])) = (0x0201, []) ∧ (match exec (.copyLineArrival 0 0x400 0) stCp with | .next t => ((t.core 0).copies) | _ => [copy1]) = [] ∧
    (match exec (.cpkickRegister 7) (stO1 (.kick [copy1])) with | .next t => (t.core 0).copies.length | _ => 9) = 1 ∧ (match exec (.icacheFill 0 0) stM with | .next t => (t.core 0).icache | _ => []) = [(1, 0)] ∧
    (match exec (.schrunRegister 7) { stD with ops := [op1 (.sched sched1)] } with | .next t => (t.block 0 0).absent | _ => []) = [8] := by decide +kernel
/-- A lane's request on volume c4: its coordinates are all 0. -/
def lane0 : VLane := { w := ⟨0, 0, 0⟩, lane := 0, vol := 4, x := 0, y := 0, z := 0, vals := [5] }
def req0 (op : Nat) : VReq := { op := op, ty := .f32, d := .v 8, todo := [lane0] }
/-- The machine whose part has core 0 enabled for partition 0, with a volume request outstanding. -/
def stVr (r : VReq) (s : State := stM) : State := { s with ops := [op1 (.vol r)] }
/-- The volume with 64 node slots and 16 tile slots, and with a valid entry at the root. -/
def stRoom : State := (stM.writeNat (.obj 4) 24 4 64).writeNat (.obj 4) 28 4 16
def stRoot : State := stRoom.putNodeEntry (.obj 4) 848 { valid := true, busy := false, child := 4096 }
/-- The request with one translation that has no tile. -/
def lane1 : VLane := { lane0 with tr := [{ vol := 4, tx := 0, ty := 0, tz := 0, tile := none, depth := 0, at_ := 0 }] }
def req1 (op : Nat) : VReq := { req0 op with todo := [lane1], sent := true }
theorem wit_volume_events : volStuck (stVr (req0 0)) (req0 0) = none ∧ volStuck (stVr (req1 0)) (req1 0) = none ∧ volStuck (stVr (req1 6) stRoom) (req1 6) = none ∧ volStuck (stVr { req0 7 with level := 0 } stRoot) { req0 7 with level := 0 } = none ∧
    volStuck (stVr (req0 9)) (req0 9) = none ∧ engineLane (req1 6) = some lane1 ∧ (match homeTile 4 (tileAt 0 0 0) (stVr (req1 6)) with | .fail _ => true | _ => false) = true ∧ ((stVr (req0 0)).volReq? 7).isSome = true ∧ ((firstMiss (resolve (stVr (req0 0)) 0 (req0 0))).map (·.2)) = some (tileAt 0 0 0) ∧ ((stVr (req0 0)).walk 4 (tileAt 0 0 0)).busy = false ∧ (firstLine (stVr (req1 0)) 0 (req1 0)).isSome = true ∧
    engineFree (stVr (req1 6)) 4 = true ∧ lane1.tile (tileAt 0 0 0) = none ∧ (match homeTile 4 (tileAt 0 0 0) (stVr (req1 6) stRoom) with | .tile _ new _ => new | _ => false) = true ∧
    ((stVr { req0 7 with level := 0 } stRoot).walkTo 4 (tileAt 0 0 0) 0).busy = false ∧ 0 < ((stVr { req0 7 with level := 0 } stRoot).walkTo 4 (tileAt 0 0 0) 0).depth ∧ (req0 9).op = 9 ∧
    (stVr { req0 7 with level := 0, busy := true } stRoot).enabledCores.contains 0 = true ∧ drains (stVr { req0 7 with level := 0, busy := true } stRoot) 0 4 0 (tileAt 0 0 0) = true := by decide +kernel
/-- A read-replicated page that a store of the group needs (R83). -/
def stWp : State :=
  { stM with objs := [(3, { kind := .data, owner := 0, size := 65536, proto := { repl := 1 } })], ops := [{ op1 .results with work := .mem [{ loadStep false with act := .store [1] }] }]
             cores := [(0, { part := some 0, blocks := [(0, { blkM with warps := [(0, { wp with threads := List.replicate 2 { pc := 5, obj := 1, wait := .wprot 7 } })] })] })] }
def stCol : State := { stWp with collapses := [{ req := 7, oid := 3, page := 0, lo := 0, hi := 0, die := 0, acks := [1] }] }
/-- Pages: plain, compressed, and of an owner with nothing on the part. -/
def stPg (comp : Bool) : State := { objs := [(3, { kind := .data, owner := 0, size := 65536, proto := { comp := comp } })] }
def stPgF : State := { stPg true with parts := [(0, { cores := [0], share := 30, room := [(20, 10)] })] }
/-- An item queue with one item, and a lane that waits on it. -/
def stIt : State := { st with cores := [(0, { part := some 0, blocks := [(0, { blk with warps := [(0, { wp with threads := List.replicate 2 { pc := 5, obj := 1, wait := .itemq 2 (.v 8) 9 } })] })], items := [(2, { owner := 0, items := [{ cls := 2, arg0 := 41, arg1 := 0, arg2 := 0 }], o := 1 })] })] }
theorem wit_page_events : wprotPlace stWp 7 = some (0, 3, 0, 4) ∧ ((stWp.obj? 3).isSome) = true ∧ (stWp.collapses.any fun c => c.oid == 3) = false ∧ (stCol.collapses.find? (fun c => c.req == 7)).isSome = true ∧ ([1].contains 2) = false ∧
    ((List.range 4).all ([1] ++ [2]).contains) = false ∧ ((pageOf (stPg false) 3 0).map (·.2.2)) = some 0 ∧ inFlight (stPg false) 3 = false ∧ (((stPg true).obj? 3).map fun o => (o.page 0).comp) = some true ∧ (stWp.obj? 3).map (fun o => (o.page (o.pageKey 0)).large) = some false ∧ zoneTaken (stPg false) 0 9 = false ∧
    (((stPg true).obj? 3).map fun o => (expandFrame stPgF o (o.page 0) none, expandFrame stPgF o (o.page 0) (some 21), expandFrame (stPg true) o (o.page 0) none)) = some (some 20, some 21, none) ∧
    (((stPg false).obj? 3).map fun o => ((o.page 0).aborts, (o.page 0).comp, (o.page 0).repl, o.kind)) = some (false, false, 0, .data) ∧ (stIt.itemQ 0 2).isSome = true ∧ ((stIt.warp ⟨0, 0, 0⟩).itemLanes 2).length = 2 := by decide +kernel
/-- The owner's interface holds a pending abort of the page. -/
def stPgP : State := { stPg true with vis := [(1, { part := some 0, aborts := [{ oid := 3, page := 0, q := 1, reason := 4 }] })] }
theorem wit_page_gates : (stPg true).pagePending 3 0 = false ∧ stPgP.pagePending 3 0 = true ∧ ((pageOf stPgP 3 0).map fun x => (x.2.1.page x.2.2).comp) = some true ∧ (((stPg false).obj? 3).map fun o => o.atWork (stPg false)) = some false ∧
    (((stPg false).obj? 3).map fun o => o.atWork { stPg false with jobs := [(0, { part := 0, load := 0, hdr := hdr0 })] }) = some true := by decide +kernel
/-- R80: a page with a pending abort is not expanded under its threads; R82: a job of the owner keeps the page's kind. -/
theorem test_page_gates : (match exec (.pageExpand 3 0 none) { stPgP with parts := stPgF.parts } with | .next t => (t.obj? 3).map fun (o : Obj) => (o.page 0).comp | _ => none) = some true ∧
    (match exec (.pageExpand 3 0 none) stPgF with | .next t => (t.obj? 3).map fun (o : Obj) => (o.page 0).comp | _ => none) = some false ∧
    (match exec (.pageKindChange 3 0 1) { stPg false with jobs := [(0, { part := 0, load := 0, hdr := hdr0 })] } with | .next t => (t.obj? 3).map fun (o : Obj) => (o.page 0).kind | _ => none) = some 0 ∧
    (match exec (.pageKindChange 3 0 1) (stPg false) with | .next t => (t.obj? 3).map fun (o : Obj) => (o.page 0).kind | _ => none) = some 1 := by decide +kernel
theorem test_engine_events : (match exec (.clbWalk 7) (stVr (req0 6)) with | .next t => (t.core 0).clb.map fun (e : Clb) => (e.vol, e.tile, e.depth) | _ => []) = [(4, none, 0)] ∧
    (match exec (.tileAllocation 7) (stVr (req1 6) stRoom) with | .next t => (t.readNat (.obj 4) 32 4, t.readNat (.obj 4) 36 4) | _ => (0, 0)) = (5, 1) ∧ (match exec (.tileRemoval 7) (stVr { req0 7 with level := 0 } stRoot) with | .next t => (t.nodeEntry (.obj 4) 848).busy | _ => false) = true ∧
    (match exec (.backgroundWrite 7) (stVr (req0 9)) with | .next t => t.readNat (.obj 4) 64 4 | _ => 0) = 5 ∧ (match exec (.collapseRequest 7) stWp with | .next t => t.collapses.length | _ => 0) = 1 ∧
    (match exec (.collapseAck 7 2) stCol with | .next t => t.collapses.map (·.acks) | _ => []) = [[1, 2]] ∧ (match exec (.pageCompress 3 0 9) (stPg false) with | .next t => (t.obj? 3).map fun (o : Obj) => ((o.page 0).comp, (o.page 0).aux) | _ => none) = some (true, 9) ∧
    (match exec (.itemRefill 0 2) stIt with | .next t => (((t.warp ⟨0, 0, 0⟩).thread 0).wait, ((t.warp ⟨0, 0, 0⟩).thread 1).wait, ((smGetD (t.core 0).items 2 { owner := 9 }).items.length)) | _ => (.none, .none, 9)) = (.none, .itemq 2 (.v 8) 9, 0) := by decide +kernel

/-- The job's partition with interface 1 and its queue; a grid of two blocks; records in core 0's places. -/
def rec0 : TaskRec := { image := 0, jobid := 0 }
def stG : State :=
  { stJ with sys := { mode := .running }, vis := [(1, { part := some 0, enabled := true, queues := [(1, {})] })], grids := [(5, { job := 0, part := 0, load := 0, image := imgGrid, code := 1, dim := (2, 1, 1), n := 2 })], cores := [(0, { part := some 0 })] }
def stRec (k : Core) : State := { stG with cores := [(0, k)] }
/-- A block whose warp has ended. -/
def blkE : Block := { blkM with warps := [(0, { wp with threads := List.replicate 2 { pc := 5, obj := 1, ended := true } })] }
/-- A pending cell of core 0 at object 8, byte 0: nothing follows it. -/
def stPend : State := { stG with cores := [(0, { part := some 0, pend := [(8, 0)] })] }
def stSpill : State := { stG with jobs := [(0, { part := 0, load := 0, hdr := h1, count := 1, spill := [rec0] })] }
theorem wit_block_events : ((chooseGrid stG (claimable stG 0)).map (·.1)) = some 5 ∧ ((nextRecord (stRec { part := some 0, deque := [rec0] }) 0).map (·.2)) = some rec0 ∧ (recordBlock stG rec0).isSome = true ∧ (stG.fits 0 imgTask (0, 0)).isSome = true ∧
    spillJob stSpill 0 = some 0 ∧ (stSpill.core 0).freeSeq.isSome = true ∧ (stSpill.core 0).landing = none ∧ (stRec { part := some 0, landing := some rec0, preempt := true }).core 0 = { part := some 0, landing := some rec0, preempt := true } ∧
    retirable (stRec { part := some 0, blocks := [(0, blkE)] }) 0 0 = true ∧ blkE.origin = .grid 0 0 0 0 ∧ retirable (stRec { part := some 0, blocks := [(0, { blkE with origin := .task rec0 })] }) 0 0 = true ∧
    cellNext stPend 8 0 = (0, 0) ∧ (pushDeque 0 (cellRec stPend 8 0) stPend).isSome = true ∧ ({ job := 0, part := 0, load := 0, image := imgGrid, code := 1, dim := (1, 1, 1), n := 1, ticket := 1, parent := some 9 } : Grid).finished = true := by decide +kernel
/-- Two parts of gang 4: each interface has the other as its peer 1. -/
def hdrG (v : Nat) : CmdHdr := { vi := v, q := 1, stat := 0x4000, usertag := 7, gang := 4, peers := 2 }
def stGang : State :=
  { stF with vis := [(1, { part := some 0, enabled := true, queues := [(1, {})], peers := [2] }), (2, { part := some 1, enabled := true, queues := [(1, {})], peers := [1] })]
             loads := [(9, { part := 0, code := 1, images := [imgTask, imgGrid] }), (10, { part := 1, code := 1, images := [imgTask, imgGrid] })]
             gangs := [{ hdr := hdrG 1, body := { bodyGrid with capmask := 0, capstore := 0 }, isStart := false }, { hdr := hdrG 2, body := { bodyGrid with loadh := 10, capmask := 0, capstore := 0 }, isStart := false }] }
def gang1 : GangPart := { hdr := hdrG 1, body := { bodyGrid with capmask := 0, capstore := 0 }, isStart := false }
theorem wit_gang : gangClash stGang gang1 = false ∧ gangWhole stGang gang1 = true ∧ earlierGang stGang gang1 = false ∧ (match commitAll ((gangMates stGang gang1).foldl (fun l x => insertPart stGang x l) []) ((gangMates stGang gang1).foldl (fun t x => releaseHead x t) { stGang with gangs := stGang.gangs.filter fun x => !((gangMates stGang gang1).contains x) }) with | .ok _ => true | .error _ => false) = true := by decide +kernel
/-- A program with block 0 pending, nothing of it in flight; a post; a program that is quiet. -/
def progQ : Prog := { prog0 with blks := [(0, { res := 0 }), (1, { res := 0 })], img := { imgP with thresh := 0x3F800000 } }
theorem wit_program_events : smGet? stG.turns 0 = none ∧ ((heapsOn stG 0).head?.map fun x => (x.1, x.2.2.1, x.2.2.2)) = some (0, 0, [0, 1]) ∧ heapPick prog0 (smGetD prog0.heapk 0 0 % 16 == 15) [0, 1] = some 1 ∧ smGet? (stJ blkM progQ).progs 0 = some progQ ∧ progQ.recorded = false ∧
    sweepDue progQ = true ∧ (readSweep progQ).quiet = true ∧ ((stX { mx0 with ops := [{ kind := 0, tile := 0, ver := 0 }] }).block 0 0).mx.ops[0]? = some { kind := 0, tile := 0, ver := 0 } ∧ ((stX { mx0 with ops := [{ kind := 0, tile := 0, ver := 0 }] }).block 0 0).mx.busy { kind := 0, tile := 0, ver := 0 } = false := by decide +kernel
/-- A grid that has no ticket left; a core with both a record and a ticket; a deque that takes no more records. -/
def stLast : State := { stG with grids := [(5, { job := 0, part := 0, load := 0, image := imgGrid, code := 1, dim := (2, 1, 1), n := 2, ticket := 2 })] }
def stBoth (claims : Bool) : State := { stG with cores := [(0, { part := some 0, deque := [rec0], claims := claims })] }
def stDeep : State := { stPend with cores := [(0, { part := some 0, pend := [(8, 0)], deque := List.replicate 255 rec0 })], jobs := [(0, { part := 0, load := 0, hdr := h1, count := 1, spill := List.replicate 3969 rec0 })] }
theorem wit_turns : (stG.core 0).freeSeq = some 0 ∧ (nextRecord stG 0).isNone = true ∧ ((chooseGrid stLast (claimable stLast 0)).map fun x => decide (x.2.1.n ≤ x.2.1.ticket)) = some true ∧ (chooseGrid (stBoth true) (claimable (stBoth true) 0)).isSome = true ∧ ((stBoth true).core 0).claims = true ∧
    (nextRecord (stBoth false) 0).isSome = true ∧ ((stBoth false).core 0).claims = false ∧ (recordBlock (passTurn 0 true (stBoth false)) rec0).isSome = true ∧ ((passTurn 0 true (stBoth false)).fits 0 imgTask (0, 0)).isSome = true ∧
    (stG.core 0).pend = [] ∧ (stPend.core 0).pend = [(8, 0)] ∧ (stPend.obj? 8).isSome = true ∧ (pushDeque 0 (cellRec stDeep 8 0) stDeep).isNone = true ∧ (stDeep.obj? 8).isSome = true := by decide +kernel
/-- R396: a push that fails leaves the deque as it was; R398: the placement unit takes turns. -/
theorem test_turns : (match exec (.pendingRetry 0) stDeep with | .next t => ((t.core 0).deque.length, (t.core 0).pend) | _ => (0, [])) = (255, [(8, 0)]) ∧ (match exec (.ticketClaim 0) stLast with | .next t => (t.core 0).closed | _ => []) = [5] ∧
    (match exec (.ticketClaim 0) (stBoth true) with | .next t => ((t.core 0).blocks.map fun b => b.2.origin, (t.core 0).claims) | _ => ([], true)) = ([.grid 5 0 0 0], false) := by decide +kernel
theorem test_scheduling_events : (match exec (.ticketClaim 0) stG with | .next t => ((t.core 0).blocks.map fun b => b.2.origin, (smGet? t.grids 5).map (·.ticket)) | _ => ([], none)) = ([.grid 5 0 0 0], some 1) ∧
    (match exec (.taskStart 0) (stRec { part := some 0, deque := [rec0] }) with | .next t => ((t.core 0).blocks.map fun b => b.2.origin, (t.core 0).deque) | _ => ([], [])) = ([.task rec0], []) ∧ (match exec (.steal 0) stSpill with | .next t => (t.core 0).landing | _ => none) = some rec0 ∧
    (match exec (.landingReturn 0) (stRec { part := some 0, landing := some rec0, preempt := true }) with | .next t => (t.core 0).deque | _ => []) = [rec0] ∧ (match exec (.blockRetire 0 0) (stRec { part := some 0, blocks := [(0, { blkE with origin := .task rec0 })] }) with | .next t => ((t.core 0).blocks.length, (smGet? t.jobs 0).map (·.count)) | _ => (9, none)) = (0, some 0) := by decide +kernel
/-- A sweep that reads what the one before it read, of a quiet program, and one that does not (R410). -/
theorem wit_sweeps : (readSweep { progQ with last := some (readSweep progQ) }).quiet = true ∧ { progQ with last := some (readSweep progQ) }.last = some (readSweep { progQ with last := some (readSweep progQ) }) ∧ sweepDue { progQ with last := some (readSweep progQ) } = true ∧ progQ.last = none ∧
    ({ stG with posts := [{ prog := 0, blk := 1, w := 0x40000000, d := 0x3F800000 }] } : State).posts[0]? = some { prog := 0, blk := 1, w := 0x40000000, d := 0x3F800000 } ∧ ({ job := 0, part := 0, load := 0, image := imgGrid, code := 1, dim := (1, 1, 1), n := 1, ticket := 1, parent := some 9 } : Grid).done = false := by decide +kernel
/-- The dispatch of block 1, the more urgent (R408): its residual is captured and set to 0. A post of weight 2 and residual 1 raises block 1's by 2. -/
theorem test_program_events : (match exec (.settleDispatch 0) stG with | .next t => (smGet? t.progs 0).map fun (p : Prog) => ((p.blk 1).capR, (p.blk 1).res, (p.blk 1).flight) | _ => none) = some (0x40000000, 0, true) ∧
    (match exec (.postApply 0) { stG with posts := [{ prog := 0, blk := 1, w := 0x40000000, d := 0x3F800000 }] } with | .next t => ((smGet? t.progs 0).map fun (p : Prog) => (p.blk 1).res, t.posts) | _ => (none, [])) = (some 0x40800000, []) ∧
    (match exec (.convergenceSweep 0) (stJ blkM progQ) with | .next t => (smGet? t.progs 0).map fun (p : Prog) => p.last.isSome | _ => none) = some true ∧ (match exec (.gangReservation 4) stGang with | .next t => (t.gangs, t.grids.length) | _ => ([], 9)) = ([], 2) ∧
    (mxAfter (.matrixOpStart 0 0 0) (stX { mx0 with ops := [{ kind := 0, tile := 0, ver := 0 }] })).ops.map (·.started) = [true] := by decide +kernel
/-- A block whose store at another core's scratch has not been performed does not retire (R179). A core's records leave once each, with the record that
its starter has chosen (R457). -/
theorem test_leaving : retirable { stRec { part := some 0, blocks := [(0, blkE)] } with rstores := [{ core := 0, uid := blkE.uid, w := ⟨0, 0, 0⟩, lanes := 1, oid := 8, off := 0, bytes := [1] }] } 0 0 = false ∧
    ((moveRecords 0 1 (stRec { part := some 0, deque := [rec0], chosen := some rec0 })).core 1).deque = [rec0] := by decide +kernel

/-! ### What several parts of the model do together -/

/-- CAPMOV c5, c6 in slice 0 and CAPMOV c6, c5 in slice 1, in one clock: the registers change places (R76); one after the other, they do not. -/
def swapWord (d a : BitVec 5) : Nat := ((Instr.capmov { gp := 15 } d a {}).raw.elim 0 fun r => r.pack.toNat)
def stSwap (l : List Move) : State :=
  { st with agenda := l, objs := [(1, { kind := .code, owner := 0, size := 24, rights := 4, mem := memWriteN [] 0 (leBytes 12 (swapWord 5 6) ++ leBytes 12 (swapWord 6 5)) })]
            cores := [(0, { part := some 0, icache := [(1, 0)], blocks := [(0, { blk with caps := [(5, capTo 3 64), (6, capTo 4 128)], warps := [(0, { wp with threads := [{ obj := 1 }] }), (1, { wp with slice := 1, threads := [{ obj := 1, pc := 1 }] })] })] })] }
def capsAfter (l : List Move) : Option (BitVec 24 × BitVec 24) :=
  match step (stSwap l) with
  | .next t => (match t.agenda with | [] => some t | _ => (match step t with | .next u => some u | _ => none)).map fun (t : State) => (((t.block 0 0).cap 5).oid, ((t.block 0 0).cap 6).oid)
  | _ => none
theorem test_together : capsAfter [.together 0 [0, 1]] = some (4, 3) ∧ capsAfter [.issue 0 0, .issue 0 1] = some (4, 4) := by decide +kernel

/-- The digest of "abc" (FIPS 180-4, the standard's example). -/
theorem test_sha384 : sha384 [0x61, 0x62, 0x63] = 0xcb00753f45a35e8bb5a03d699ac65007272c32ab0eded1631a8b605a43ff5bed8086072ba1e7cc2358baeca134c825a7 := by decide +kernel

/-- A quiet NaN in D does not hide a sum of opposite infinities (R231). -/
theorem test_fdot2_invalid : ((fmtF32.write 0 false (sum3V 0 (.nan false) (.inf false) (.inf true))).fl) = 1 ∧ ((fmtF32.write 0 false (sum3V 0 (.nan false) (.inf false) (.inf false))).fl) = 0 := by decide +kernel

/-- HOLD of a register that the instruction reads, and of none (R62, R63). -/
theorem test_hold_forms : ((Instr.efmov { hold := 1 } true (.v 6) 3).wf && (Instr.efmov { hold := 3 } false (.v 5) 3).wf) = true ∧ (Instr.efmov { hold := 2 } true (.v 6) 3).wf = false ∧
    (Instr.regq { hold := 1 } { d := .v 5, a := .zero, b := .zero }).wf = false ∧ (Instr.regq { hold := 1 } { d := .v 5, a := .v 6, b := .zero, m := { sub := 5 } }).wf = true := by decide +kernel

/-- Frames: an object takes its share's lowest frames (log entry 95), and its page names the first; without the zero-fill flag its bytes are what the frames held
(R87), and with it 0. -/
theorem test_frames : (match exec (.objcreate h1 bodyOc) stF with | .next t => ((t.part 0).room, t.objs.map fun (x : Nat × Obj) => (x.2.page 0).frame.toNat) | _ => ([], [])) = ([(1, 4095)], [0, 0, 0, 0, 0, 0, 0, 0, 0, 0, 0]) ∧
    (createObj stF 0 .data bodyOc).fill = none ∧ (createObj stF 0 .data { bodyOc with flags := 0 }).fill = some 0 := by decide +kernel

/-- The head of a queue is copied when the doorbell names it, and a later write to its ring changes nothing (R117). -/
def stRing : State := { stQueue with vis := [(1, { part := some 0, enabled := true, queues := [(1, { base := 0x1000 })] })], agenda := [] }
theorem test_head_copied : (match exec (.doorbell 1 1 1) stRing with
    | .next t => (popHead 1 1 { t with hostMem := memPutNat [] (2 ^ 64 + 0x1000) 128 (2 ^ 1000) }).2
    | _ => none) = (popHead 1 1 { stQueue with agenda := [] }).2 := by decide +kernel

/-- A load of the stream that waited for a macro, and an operation that has started (R333, R345); the first part of a gang that is due (R134). -/
def mxLd : MxOp := { kind := 3, tile := 0, ver := 0, src := some { ldb := true, resv := win0, shape := shape0, base := 0 } }
theorem wit_matrix_start : ((stX { mx0 with ops := [mxLd] }).block 0 0).mx.ops[0]? = some mxLd ∧
    ((stX { mx0 with ops := [mxLd] }).block 0 0).mx.loadWaits ((stX { mx0 with ops := [mxLd] }).block 0 0) mxLd { ldb := true, resv := win0, shape := shape0, base := 0 } = false ∧
    ((stX { mx0 with ops := [{ kind := 0, tile := 0, ver := 0, started := true }] }).block 0 0).mx.ops[0]? = some { kind := 0, tile := 0, ver := 0, started := true } ∧
    ((stGang.gangs.filter fun g => g.hdr.gang == 4).find? fun g => gangClash stGang g || gangDue stGang g) = some gang1 ∧ (nextRecord stG 0).isNone = true := by decide +kernel

/-- A release of a background write waits for nothing here (R304). -/
theorem wit_background_release : (holdRelease 3 stM.advance).isNone = true := by decide +kernel

end Sys2Proof.Tests
end

section
/-!
PROOFS. The privilege check of R68 and R71: it comes first at issue, so a privileged instruction off the firmware agent raises PRIV in the whole
group, whatever the other checks and its body would say.
-/
set_option autoImplicit false

namespace Sys2Proof.Machine
open Sys2Proof.Spec

/-- The numbers of privileged special registers, 0x8000 and above, are those with bit 15 set. -/
theorem imm_privileged_iff (x : BitVec 16) : x.getLsbD 15 = true ↔ 0x8000 ≤ x.toNat := by
  have h : x.getLsbD 15 = x.msb := (BitVec.msb_eq_getLsbD_last x).symm
  rw [h, BitVec.msb_eq_decide, decide_eq_true_iff]

/-- Off the agent the check of R68 decides before those of R57 and R62. -/
theorem issueChk_priv {u : Uses} {s : State} (act : Mask) (hp : u.priv = true) (ha : s.cur.unit ≠ .agent) :
    s.issueChk u act = .error { cause := .priv, lanes := s.cur.lanes } := by
  have hc : (u.priv && s.cur.unit != .agent) = true := by simp [hp, ha]
  simp only [State.issueChk, trapIf, hc, if_true]
  rfl

/-- An instruction of the wrapper whose operands are privileged traps in the whole group, off the agent and off the sequencers (R68, R71). -/
theorem traps_priv {i : Instr} {s : State} (hr : i.raw ≠ none) (hu : ∀ q, s.cur.unit ≠ .stream q) (ha : s.cur.unit ≠ .agent)
    (hp : (usesOf i).priv = true) : Traps i s { cause := .priv, lanes := s.cur.lanes } := by
  obtain ⟨body, hb⟩ := exec_issues i s hr hu
  exact hb.trans (issue_refused (issueChk_priv _ hp ha))

/-- The instructions of R68 are encoded by a word and privileged. -/
theorem privileged_of_mem {c : Ctl} {m n : Mods} {d : VReg} {o : OpsM} (hn : n.imm.toNat ≥ 0x8000) {i : Instr}
    (hi : i ∈ [.beat c m, .ctxsv c o, .ctxld c o, .icinv c m, .wfi c m, .srd c d n, .swr c d n]) :
    i.raw ≠ none ∧ (usesOf i).priv = true := by
  have hbit : n.imm.getLsbD 15 = true := (imm_privileged_iff n.imm).2 hn
  simp only [List.mem_cons, List.not_mem_nil, or_false] at hi
  rcases hi with rfl | rfl | rfl | rfl | rfl | rfl | rfl
  case _ | _ | _ | _ | _ => exact ⟨Option.some_ne_none _, rfl⟩
  case _ | _ => exact ⟨Option.some_ne_none _, hbit⟩

end Sys2Proof.Machine

namespace Sys2Proof.Spec
open Sys2Proof.Machine

/-- Settles O4: off the agent the check of R68 is the first of the issue to fail, for each of the seven instructions. -/
theorem privilegedInstructionsTrapOffTheAgent : Obligations.PrivilegedInstructionsTrapOffTheAgent := by
  intro c m d o n s hslice hn i hi
  obtain ⟨hraw, hpriv⟩ := privileged_of_mem hn hi
  exact traps_priv hraw (by simp [hslice]) (by simp [hslice]) hpriv

end Sys2Proof.Spec
end

section
/-!
PROOFS. The integer instructions of group 1 whose result depends on the operands of the same lane only (R189, R192). Each of them is `alu` off
the uniform sequencers, so what `alu` does when its checks pass, and when its own check fails, is said once here for every instruction.
-/
set_option autoImplicit false

namespace Sys2Proof.Machine
open Sys2Proof.Spec

/-! ### Vector instructions: the result, and the trap of the own check -/

/-- An instruction that is `alu` off the sequencers and whose own check passes gives its value in each active lane. -/
theorem gives_of_alu {i : Instr} {s : State} {sh : ShpRule} {aff : State → Member → Word × Word} {chk : Mask → State → Chk Unit}
    {f : State → Nat → BitVec 64} (he : (∀ q, s.cur.unit ≠ .stream q) → exec i s = alu (ctlOf i) (usesOf i) sh aff chk f s)
    (hk : chk (act i s) s.advance = .ok ()) : Gives i s sh f aff := by
  rintro ⟨hunit, hlane, hchk⟩ hshape d hd
  exact (he hunit).trans (alu_runs hunit hchk hlane hshape hk hd)

/-- A vector instruction whose shape passes and whose own check fails traps with no effect (R7, R71). -/
theorem alu_traps {c : Ctl} {u : Uses} {s : State} {sh : ShpRule} {aff : State → Member → Word × Word} {chk : Mask → State → Chk Unit}
    {f : State → Nat → BitVec 64} {tr : TrapReq} (hu : ∀ q, s.cur.unit ≠ .stream q) (hc : s.issueChk u (s.active c) = .ok ())
    (ha : s.active c ≠ 0) (hs : s.advance.shapeChk u (s.active c) (sh s.advance) = .ok ())
    (hk : chk (s.active c) s.advance = .error tr) : alu c u sh aff chk f s = .next (raiseTrap tr s) := by
  refine issueT_traps hu hc ha ?_
  simp [hs, hk, bind, Except.bind]

/-! ### Plain arithmetic (R189) -/

/-- Off the sequencers IADD is the sum of `sumLike`; on one it has a form of its own (R337). -/
theorem exec_iadd_sumLike (c : Ctl) (o : OpsV) {s : State} (hu : ∀ q, s.cur.unit ≠ .stream q) :
    exec (.iadd c o) s = sumLike c (usesOf (.iadd c o)) o.m (· + ·) (· + ·) s := by
  change execIadd c o s = _
  unfold execIadd
  split
  · exact absurd ‹_› (hu _)
  · rfl

/-- IADD and ISUB: the exact `f` of A and B in the shape of R148 and R186, with `g` on bases and strides. -/
theorem gives_sumLike {i : Instr} {s : State} {m : Mods} (f : Int → Int → Int) (g : Word → Word → Word)
    (he : (∀ q, s.cur.unit ≠ .stream q) → exec i s = sumLike (ctlOf i) (usesOf i) m f g s) :
    Gives i s (sumShp (usesOf i) m) (intOf i m fun a b _ => f a b) (sumAff (usesOf i) g) :=
  gives_of_alu he rfl

/-- An instruction that is `arith` gives the exact `f` of its operands, wrapped or clamped. -/
theorem gives_arith {i : Instr} {s : State} {m : Mods} (f : Int → Int → Int → Int) {g : Int → Int → Int → Int}
    (he : exec i s = arith (ctlOf i) (usesOf i) m f s) (hfg : ∀ a b d, f a b d = g a b d) : GivesAuto i s (intOf i m g) := by
  obtain rfl : f = g := by funext a b d; exact hfg a b d
  exact gives_of_alu (fun _ => he) rfl

/-- The absolute value of IABS, by the sign of its operand. -/
theorem natAbs_eq_ite (a : Int) : (a.natAbs : Int) = if a < 0 then -a else a := by
  split <;> omega

/-! ### Division (R192) -/

/-- By zero IREM keeps the dividend. -/
theorem divide_rem_zero (t : Ty) (a : Int) : divide t true a 0 = a := rfl

/-- By zero IDIV takes the bound of the type on the dividend's side. -/
theorem divide_quot_zero (t : Ty) (a : Int) : divide t false a 0 = if t.signed = true ∧ a < 0 then t.lo else t.hi := by
  cases hs : t.signed with
  | false => simp [divide, hs]
  | true =>
    by_cases ha : a < 0
    · simp [divide, hs, ha, Int.not_le.2 ha]
    · simp [divide, hs, ha, Int.not_lt.1 ha]

/-- By a nonzero divisor, the truncated quotient. -/
theorem divide_quot_of_ne_zero (t : Ty) (a : Int) {b : Int} (hb : b ≠ 0) : divide t false a b = a.tdiv b := by
  simp [divide, hb]

/-- By a nonzero divisor, the remainder of the truncated quotient. -/
theorem divide_rem_of_ne_zero (t : Ty) (a : Int) {b : Int} (hb : b ≠ 0) : divide t true a b = a - b * a.tdiv b := by
  simp [divide, hb]

section
variable {i : Instr} {s : State} {m : Mods} {rem : Bool} (he : exec i s = divOp rem (ctlOf i) (usesOf i) m s)
include he

/-- A division with saturation, or without a zero divisor in an active lane, gives its quotient or remainder. -/
theorem gives_divOp (hz : divZero i m s = 0 ∨ m.sat = true) : GivesAuto i s (intOf i m fun a b _ => divide m.ty rem a b) := by
  refine gives_of_alu (fun _ => he) ?_
  have hno : (divZero i m s != 0 && !m.sat) = false := by
    rcases hz with hz | hsat
    · simp [hz]
    · simp [hsat]
  exact if_neg (Bool.eq_false_iff.1 hno)

/-- A division without saturation and with a zero divisor in an active lane raises IDIVZ in exactly those lanes. -/
theorem traps_divOp (hr : Runs i s) (hs : ShapeOk i s (autoRule (usesOf i))) (hsat : m.sat = false) (hz : divZero i m s ≠ 0) :
    Traps i s { cause := .idivz, lanes := divZero i m s } := by
  obtain ⟨hunit, hlane, hchk⟩ := hr
  have hyes : (divZero i m s != 0 && !m.sat) = true := by rw [bne_iff_ne.2 hz, hsat]; rfl
  exact he.trans (alu_traps hunit hchk hlane hs (if_pos hyes))

end

end Sys2Proof.Machine

namespace Sys2Proof.Spec
open Sys2Proof.Machine

/-- Settles O15: IADD and ISUB are `sumLike`, the other six are `arith` on the exact result. -/
theorem integerArithmeticResults : Obligations.IntegerArithmeticResults := by
  intro c o s
  refine ⟨?iadd, ?isub, ?imul, ?imad, ?iabs, ?ineg, ?imin, ?imax⟩
  case iadd => exact gives_sumLike (· + ·) (· + ·) fun hu => exec_iadd_sumLike c o hu
  case isub => exact gives_sumLike (· - ·) (· - ·) fun _ => rfl
  case imul => exact gives_arith (fun a b _ => a * b) rfl fun _ _ _ => rfl
  case imad => exact gives_arith (fun a b d => d + a * b) rfl fun _ _ _ => rfl
  case iabs => exact gives_arith (fun a _ _ => (a.natAbs : Int)) rfl fun a _ _ => natAbs_eq_ite a
  case ineg => exact gives_arith (fun a _ _ => -a) rfl fun _ _ _ => rfl
  case imin => exact gives_arith (fun a b _ => min a b) rfl fun a b _ => min_def a b
  case imax => exact gives_arith (fun a b _ => max a b) rfl fun a b _ => max_def a b

/-- Settles O17: IDIV and IREM are `divOp`, whose own check raises IDIVZ exactly where a lane divides by zero without saturation. -/
theorem divisionResults : Obligations.DivisionResults := by
  intro c o s
  have hidiv : exec (.idiv c o) s = divOp false c (usesOf (.idiv c o)) o.m s := rfl
  have hirem : exec (.irem c o) s = divOp true c (usesOf (.irem c o)) o.m s := rfl
  refine ⟨?quotient, ?remainder, ?exact, ?idivTraps, ?iremTraps, ?satQuotient, ?satRemainder, ?byZero⟩
  case quotient => exact fun hz => gives_divOp hidiv (.inl hz)
  case remainder => exact fun hz => gives_divOp hirem (.inl hz)
  case exact => exact fun t a b hb => ⟨divide_quot_of_ne_zero t a hb, divide_rem_of_ne_zero t a hb⟩
  case idivTraps => exact traps_divOp hidiv
  case iremTraps => exact traps_divOp hirem
  case satQuotient => exact fun hsat => gives_divOp hidiv (.inr hsat)
  case satRemainder => exact fun hsat => gives_divOp hirem (.inr hsat)
  case byZero => exact fun t a => ⟨divide_rem_zero t a, divide_quot_zero t a⟩

end Sys2Proof.Spec
end

section
/-!
PROOFS. Decoding after encoding: the word's fields read back (`Raw.unpack_pack`), the opcode map's entry rebuilds the instruction from them (the
family RoundTrip), and the decoder's last check is the well-formedness that the instruction has.
-/
set_option autoImplicit false

namespace Sys2Proof.Laws.RoundTrip

/-- The family, for every constructor. -/
theorem statement_all : ∀ i, Statement i
  | .nop .. => nop _ _ | .bra .. => bra _ _ | .brx .. => brx _ _ | .brany .. => brany _ _ _ | .brall .. => brall _ _ _
  | .call .. => call _ _ | .callx .. => callx _ _ | .ret .. => ret _ _ | .exit .. => exit _ _ | .yield .. => yield _ _
  | .clen .. => clen _ _ | .clwait .. => clwait _ _ | .cldrop .. => cldrop _ _ | .clget .. => clget _ _ _ _ | .clset .. => clset _ _ _ _
  | .ipref .. => ipref _ _ | .loop .. => loop _ _ _ | .iadd .. => iadd _ _ | .isub .. => isub _ _ | .iaddc .. => iaddc _ _
  | .isubb .. => isubb _ _ | .imul .. => imul _ _ | .imulh .. => imulh _ _ | .imad .. => imad _ _ | .idiv .. => idiv _ _
  | .irem .. => irem _ _ | .iabs .. => iabs _ _ | .ineg .. => ineg _ _ | .imin .. => imin _ _ | .imax .. => imax _ _ | .and .. => and _ _
  | .or .. => or _ _ | .xor .. => xor _ _ | .andn .. => andn _ _ | .not .. => not _ _ | .shl .. => shl _ _ | .shr .. => shr _ _
  | .sar .. => sar _ _ | .rol .. => rol _ _ | .popc .. => popc _ _ | .clz .. => clz _ _ | .ctz .. => ctz _ _ | .brev .. => brev _ _
  | .bfx .. => bfx _ _ | .bfi .. => bfi _ _ | .bperm .. => bperm _ _ | .isad .. => isad _ _ | .iadds .. => iadds _ _
  | .imadw .. => imadw _ _ | .mov .. => mov _ _ | .movi .. => movi _ _ _ | .movx .. => movx _ _ | .movxw .. => movxw _ _
  | .sel .. => sel _ _ | .icmp .. => icmp _ _ | .pand .. => pand _ _ | .por .. => por _ _ | .pxor .. => pxor _ _ | .pnot .. => pnot _ _
  | .pmov .. => pmov _ _ | .vote .. => vote _ _ | .ballot .. => ballot _ _ | .shfl .. => shfl _ _ | .bcast .. => bcast _ _
  | .affine .. => affine _ _ | .laneix .. => laneix _ _ | .scan .. => scan _ _ | .red .. => red _ _ | .fadd .. => fadd _ _
  | .fsub .. => fsub _ _ | .fmul .. => fmul _ _ | .ffma .. => ffma _ _ | .fmin .. => fmin _ _ | .fmax .. => fmax _ _ | .fcmp .. => fcmp _ _
  | .fclass .. => fclass _ _ | .frcp .. => frcp _ _ | .frsq .. => frsq _ _ | .fex2 .. => fex2 _ _ | .flg2 .. => flg2 _ _
  | .fsin .. => fsin _ _ | .fcos .. => fcos _ _ | .fdot2 .. => fdot2 _ _ | .fmul2 .. => fmul2 _ _ | .ffma2 .. => ffma2 _ _
  | .fround .. => fround _ _ | .fscalb .. => fscalb _ _ | .fsat .. => fsat _ _ | .cvt .. => cvt _ _ | .cvti .. => cvti _ _
  | .cvtf .. => cvtf _ _ | .cvtef .. => cvtef _ _ | .efclr .. => efclr _ _ | .efmov .. => efmov _ _ _ _ | .pack4 .. => pack4 _ _
  | .pack6 .. => pack6 _ _ | .pack8 .. => pack8 _ _ | .unpk .. => unpk _ _ | .bscale .. => bscale _ _ | .flagrd .. => flagrd _ _
  | .flagclr .. => flagclr _ _ | .rmode .. => rmode _ _ | .ld .. => ld _ _ | .st .. => st _ _ | .ldsp .. => ldsp _ _ | .stsp .. => stsp _ _
  | .ldnp .. => ldnp _ _ | .ldv .. => ldv _ _ | .stv .. => stv _ _ | .ldu .. => ldu _ _ | .prtest .. => prtest _ _
  | .prwait .. => prwait _ _ | .cpkick .. => cpkick _ _ | .cpstat .. => cpstat _ _ | .cpcancel .. => cpcancel _ _ | .rltest .. => rltest _ _
  | .cpin .. => cpin _ _ | .cpout .. => cpout _ _ | .vld .. => vld _ _ | .vst .. => vst _ _ | .vadd .. => vadd _ _
  | .vprobe .. => vprobe _ _ | .vnbr .. => vnbr _ _ | .vtld .. => vtld _ _ | .valloc .. => valloc _ _ | .vfree .. => vfree _ _
  | .vshoot .. => vshoot _ _ | .vbgrd .. => vbgrd _ _ | .gthr .. => gthr _ _ | .sctr .. => sctr _ _ | .sctra .. => sctra _ _
  | .confl .. => confl _ _ | .cmbn .. => cmbn _ _ | .spawni .. => spawni _ _ | .itemloop .. => itemloop _ _ _ _ | .itemget .. => itemget _ _
  | .itemend .. => itemend _ _ | .obres .. => obres _ _ _ _ | .obrel .. => obrel _ _ | .shape .. => shape _ _ _ _ | .mxldb .. => mxldb _ _ _
  | .mxlda .. => mxlda _ _ _ | .mxmac .. => mxmac _ _ _ _ | .mxmacs .. => mxmacs _ _ _ _ | .mxzero .. => mxzero _ _ _ _
  | .mxst .. => mxst _ _ _ _ _ | .mxcvt .. => mxcvt _ _ _ _ _ | .mxver .. => mxver _ _ _ | .mxbar .. => mxbar _ _ | .mxwait .. => mxwait _ _
  | .mxacq .. => mxacq _ _ | .mxrel .. => mxrel _ _ | .mxflags .. => mxflags _ _ _ | .schrun .. => schrun _ _ | .ddiv .. => ddiv _ _
  | .dsqrt .. => dsqrt _ _ | .pivchk .. => pivchk _ _ | .trstep .. => trstep _ _ | .schstat .. => schstat _ _ | .atom .. => atom _ _
  | .atomc .. => atomc _ _ | .fence .. => fence _ _ | .ldacq .. => ldacq _ _ | .strel .. => strel _ _ | .cjinit .. => cjinit _ _
  | .cjarr .. => cjarr _ _ | .cjdrop .. => cjdrop _ _ | .cjwait .. => cjwait _ _ | .cjbyte .. => cjbyte _ _ | .cjtest .. => cjtest _ _
  | .spawn .. => spawn _ _ | .tjoin .. => tjoin _ _ | .tend .. => tend _ _ | .tself .. => tself _ _ | .rpost .. => rpost _ _
  | .rread .. => rread _ _ | .rset .. => rset _ _ | .inpost .. => inpost _ _ | .snap .. => snap _ _ | .launch .. => launch _ _
  | .lwait .. => lwait _ _ | .capld .. => capld _ _ _ _ _ | .capst .. => capst _ _ _ _ _ | .capnar .. => capnar _ _ _ _ _
  | .capoff .. => capoff _ _ _ _ | .captst .. => captst _ _ _ _ _ | .capget .. => capget _ _ _ _ | .capmov .. => capmov _ _ _ _
  | .srd .. => srd _ _ _ | .swr .. => swr _ _ _ | .trap .. => trap _ _ | .brkpt .. => brkpt _ _ | .eret .. => eret _ _
  | .beat .. => beat _ _ | .ctxsv .. => ctxsv _ _ | .ctxld .. => ctxld _ _ | .icinv .. => icinv _ _ | .wfi .. => wfi _ _
  | .regq .. => regq _ _ | .nopCommand .. => nopCommand _ | .launchCommand .. => launchCommand _ _ | .start .. => start _ _
  | .stop .. => stop _ _ _ | .load .. => load _ _ _ | .unload .. => unload _ _ | .objcreate .. => objcreate _ _
  | .objdestroy .. => objdestroy _ _ | .hcopy .. => hcopy _ _ | .waitcj .. => waitcj _ _ _ _ | .createq .. => createq _ _
  | .destroyq .. => destroyq _ _ | .capmint .. => capmint _ _ | .pageresume .. => pageresume _ _ _ | .partcfg .. => partcfg _ _
  | .partdel .. => partdel _ _ | .vfbind .. => vfbind _ _ _ | .gangpeers .. => gangpeers _ _ _ | .shareobj .. => shareobj _ _
  | .repair .. => repair _ _ | .fwstage .. => fwstage _ _ _ | .fwact .. => fwact _ | .logread .. => logread _ _
  | .dbgresume .. => dbgresume _ _ _ | .commandCompletion .. => commandCompletion _ | .doorbell .. => doorbell _ _ _
  | .aqctlEnable .. => aqctlEnable _ | .aqctlDisable .. => aqctlDisable _ | .adminQueueDrained .. => adminQueueDrained _
  | .sysstatRead .. => sysstatRead | .registerWrite .. => registerWrite _ _ _ | .conventionalReset .. => conventionalReset
  | .coldPowerOn .. => coldPowerOn | .bootStageDone .. => bootStageDone _ _ | .failedStartReset .. => failedStartReset
  | .readyTimeout .. => readyTimeout | .functionLevelReset .. => functionLevelReset _ | .ideStreamFault .. => ideStreamFault
  | .dmaError .. => dmaError _ _ | .thermalWarning .. => thermalWarning _ _ | .thermalWarningClear .. => thermalWarningClear _ _
  | .thermalStop .. => thermalStop _ _ | .getVersion .. => getVersion _ | .getCapabilities .. => getCapabilities _
  | .negotiateAlgorithms .. => negotiateAlgorithms _ | .getDigests .. => getDigests _ | .getCertificate .. => getCertificate _ _
  | .challenge .. => challenge _ _ | .getMeasurements .. => getMeasurements _ | .keyExchange .. => keyExchange _ | .finish .. => finish _
  | .endSession .. => endSession _ | .ideKm .. => ideKm _ _ | .beatWindowEnd .. => beatWindowEnd | .quantumEnd .. => quantumEnd _
  | .runawayBlock .. => runawayBlock _ _ | .residentSetChoice .. => residentSetChoice _ _ | .eviction .. => eviction _ _
  | .blockRestore .. => blockRestore _ _ | .eccCorrected .. => eccCorrected _ | .mcheck .. => mcheck _
  | .unhandledTrapAbort .. => unhandledTrapAbort _ _ | .idemAbort .. => idemAbort _ _ | .icacheFill .. => icacheFill _ _
  | .yieldExpiry .. => yieldExpiry _ _ _ | .loadDataArrival .. => loadDataArrival _ | .longLatencyComplete .. => longLatencyComplete _
  | .remoteStorePerformed .. => remoteStorePerformed _ | .copyRecordStart .. => copyRecordStart _ _
  | .copyLineArrival .. => copyLineArrival _ _ _ | .cpkickRegister .. => cpkickRegister _ | .collapseRequest .. => collapseRequest _
  | .collapseAck .. => collapseAck _ _ | .sequencerWrite .. => sequencerWrite _ | .pageCompress .. => pageCompress _ _ _
  | .pageExpand .. => pageExpand _ _ _ | .clbWalk .. => clbWalk _ | .tileLineFetch .. => tileLineFetch _
  | .tileAllocation .. => tileAllocation _ | .tileRemoval .. => tileRemoval _ | .shootdownMark .. => shootdownMark _ _
  | .backgroundWrite .. => backgroundWrite _ | .lexiconRowPerformed .. => lexiconRowPerformed _ | .itemRefill .. => itemRefill _ _
  | .matrixOpComplete .. => matrixOpComplete _ _ _ | .matrixOpStart .. => matrixOpStart _ _ _ | .schrunRegister .. => schrunRegister _
  | .ticketClaim .. => ticketClaim _ | .taskStart .. => taskStart _ | .steal .. => steal _ | .landingReturn .. => landingReturn _
  | .blockRetire .. => blockRetire _ _ | .pendingRetry .. => pendingRetry _ | .gridComplete .. => gridComplete _
  | .gangReservation .. => gangReservation _ | .settleDispatch .. => settleDispatch _ | .postApply .. => postApply _
  | .convergenceSweep .. => convergenceSweep _ | .deferredActivation .. => deferredActivation | .tftpBlock .. => tftpBlock _
  | .tftpRetry .. => tftpRetry | .vfEnable .. => vfEnable _ | .pageKindChange .. => pageKindChange _ _ _

end Sys2Proof.Laws.RoundTrip

namespace Sys2Proof
open Laws.RoundTrip

/-- The decoder on a packed word: the reserved bits, then the opcode map's entry, then the entry's own checks. -/
theorem decodeWord_pack {r : Raw} {i : Instr} (hrsv : r.rsv = 0) (hmk : rebuild r = some i) (hwf : i.wf = true) :
    decodeWord r.pack = .ok i := by
  have hbit : (r.rsv != 0) = false := by simp [hrsv]
  simp only [decodeWord, Raw.unpack_pack, hbit, Bool.false_eq_true, if_false]
  unfold rebuild at hmk
  cases hg : opMap[r.op.toNat / 64]? with
  | none => simp [hg] at hmk
  | some g =>
    cases hm : g[r.op.toNat % 64]? with
    | none => simp [hg, hm] at hmk
    | some mk =>
      simp only [hg, hm] at hmk ⊢
      simp [hmk, hwf]

end Sys2Proof

namespace Sys2Proof.Spec
open Laws.RoundTrip

/-- Settles O12: the fields of a packed word rebuild the instruction, and its well-formedness is the decoder's last check. -/
theorem decodeOfEncode : Obligations.DecodeOfEncode := by
  intro i r hwf hraw
  obtain ⟨hrsv, hmk⟩ := statement_all i r hraw
  exact decodeWord_pack hrsv hmk hwf

end Sys2Proof.Spec
end

section
/-!
PROOFS. The integer and lane instructions of groups 1 and 2, and the conflict instructions of chapter 13: each of them is one of the shared forms
(`plain`, `cross`, `crossRead`, `carryOp`, `predOp`) or the wrapper over a short body, so what a form does when its checks pass is said once here.
-/
set_option autoImplicit false

namespace Sys2Proof.Machine
open Sys2Proof.Spec

/-! ### The wrapper, for an instruction that runs -/

/-- An instruction that runs and whose body answers a state completes with it. -/
theorem completes_of_issueT {i : Instr} {s t : State} {body : Mask → State → Chk State}
    (he : exec i s = issueT (ctlOf i) (usesOf i) body s) (hr : Runs i s) (hb : body (act i s) s.advance = .ok t) : Completes i s t := by
  obtain ⟨hunit, hlane, hchk⟩ := hr
  exact he.trans (issueT_runs hunit hchk hlane hb)

/-- An instruction that runs and whose body fails traps, with no effect (R7). -/
theorem traps_of_issueT {i : Instr} {s : State} {tr : TrapReq} {body : Mask → State → Chk State}
    (he : exec i s = issueT (ctlOf i) (usesOf i) body s) (hr : Runs i s) (hb : body (act i s) s.advance = .error tr) : Traps i s tr := by
  obtain ⟨hunit, hlane, hchk⟩ := hr
  exact he.trans (issueT_traps hunit hchk hlane hb)

/-! ### The shared forms -/

/-- An instruction that is `plain` gives its function of the operands of the same lane. -/
theorem gives_plain {i : Instr} {s : State} {f : BitVec 64 → BitVec 64 → BitVec 64 → BitVec 64} {g : State → Nat → BitVec 64}
    (he : exec i s = plain (ctlOf i) (usesOf i) f s) (hg : ∀ r l, g r l = f (opA i r l) (opB i r l) (opD i r l)) : GivesAuto i s g := by
  obtain rfl : g = fun r l => f (opA i r l) (opB i r l) (opD i r l) := funext fun r => funext (hg r)
  exact gives_of_alu (fun _ => he) rfl

/-- A cross-lane instruction whose own check passes gives its value, which may read the active lanes of the warp. -/
theorem gives_cross {i : Instr} {s : State} {sh : ShpRule} {aff : State → Member → Word × Word} {chk : Mask → State → Chk Unit}
    {f : State → Mask → Nat → BitVec 64} {g : State → Nat → BitVec 64} (he : exec i s = cross (ctlOf i) (usesOf i) sh aff chk f s)
    (hk : chk (act i s) s.advance = .ok ()) (hg : ∀ r l, g r l = f r (r.mates (act i s) l) l) : Gives i s sh g aff := by
  obtain rfl : g = fun r l => f r (r.mates (act i s) l) l := funext fun r => funext (hg r)
  rintro ⟨hunit, hlane, hchk⟩ hshape d hd
  exact he.trans (cross_runs hunit hchk hlane hshape hk hd)

/-- A carry chain writes the low word of the exact sum and its carry or borrow. -/
theorem completes_carryOp {i : Instr} {s : State} {m : Mods} {f : Int → Int → Int → Int} {d : Fld}
    (he : exec i s = carryOp (ctlOf i) (usesOf i) m f s) (hd : (usesOf i).d = some d) (hr : Runs i s) (hs : ShapeOk i s genRule) :
    let v := fun l => f (rdInt .n32 (opA i s.advance l)) (rdInt .n32 (opB i s.advance l)) (if s.advance.predAt (m.imm.toNat % 16) l then 1 else 0)
    Completes i s ((s.advance.putD (ctlOf i) d (act i s) fun l => wrInt (v l % 2 ^ 32)).putP (m.imm.toNat % 16) (act i s)
      fun l => decide (v l < 0) || decide (2 ^ 32 ≤ v l)) := by
  have hshape : s.advance.shapeChk (usesOf i) (act i s) (fun _ => .gen) = .ok () := hs
  refine completes_of_issueT he hr ?_
  simp only [hshape, hd, bind, Except.bind]
  rfl

/-- A predicate instruction writes its bit of the two predicates, each under its own negation. -/
theorem completes_predOp {i : Instr} {s : State} {o : OpsPP} {f : Bool → Bool → Bool}
    (he : exec i s = predOp (ctlOf i) (usesOf i) o f s) (hr : Runs i s) :
    Completes i s (s.advance.putP o.p.val (act i s) fun l =>
      f (s.advance.predAt o.a.toNat l != o.m.sub.getLsbD 0) (s.advance.predAt o.b.toNat l != o.m.sub.getLsbD 1)) :=
  completes_of_issueT he hr rfl

/-- A cross-lane instruction that reads A of other lanes may have used free words, and the counter of free values moves on. -/
theorem completes_crossRead {i : Instr} {s : State} {sh : ShpRule} {chk : Mask → State → Chk Unit} {f : State → Mask → Nat → BitVec 64} {d : Fld}
    (he : exec i s = crossRead (ctlOf i) (usesOf i) sh chk f s) (hr : Runs i s) (hk : chk (act i s) s.advance = .ok ()) (hs : ShapeOk i s sh)
    (hd : (usesOf i).d = some d) :
    Completes i s (spendFree (usesOf i).a (s.advance.putD (ctlOf i) d (act i s) fun l => f s.advance (s.advance.mates (act i s) l) l)) := by
  have hshape : s.advance.shapeChk (usesOf i) (act i s) (sh s.advance) = .ok () := hs
  refine completes_of_issueT he hr ?_
  simp only [hk, hshape, hd, bind, Except.bind]

/-! ### Moves by a computed index, and the register that a latch may stand for -/

/-- The check of AFFINE and BCAST on the sources of the acting members passes where every one of them is as it must be. -/
theorem trapIf_not_of_true {b : Bool} (h : b = true) (c : Cause) (lanes : Mask) : trapIf (!b) c lanes = .ok () := by
  subst h; rfl

/-- A conflict instruction, whose result is general, gives its value. -/
theorem gives_general {i : Instr} {s : State} {g : State → Mask → Nat → BitVec 64} {f : State → Nat → BitVec 64}
    (he : exec i s = issueT (ctlOf i) (usesOf i) (fun act s => do
      s.shapeChk (usesOf i) act fun _ => .gen
      match (usesOf i).d with
      | some d => .ok (s.putD (ctlOf i) d act (g s act))
      | none => .ok s) s) (hg : ∀ r l, f r l = g r (act i s) l) : Gives i s genRule f := by
  obtain rfl : f = fun r => g r (act i s) := funext fun r => funext (hg r)
  intro hr hs d hd
  have hshape : s.advance.shapeChk (usesOf i) (act i s) (fun _ => .gen) = .ok () := hs
  refine completes_of_issueT he hr ?_
  simp only [hshape, hd, bind, Except.bind]
  rfl

/-- MOVX whose indices lie below T reads the register that the index names in each lane (R201). -/
theorem gives_movx {c : Ctl} {o : OpsV} {s : State} (hk : indexChk o (act (.movx c o) s) s.advance = .ok ()) :
    Gives (.movx c o) s genRule fun r l => ((r.warpAt l).readReg (movIndex r o l) l).setWidth 64 := by
  intro hr hs d hd
  have hshape : s.advance.shapeChk (usesOf (.movx c o)) (act (.movx c o) s) (fun _ => .gen) = .ok () := hs
  refine completes_of_issueT rfl hr ?_
  simp only [hk, hshape, hd, bind, Except.bind]
  rfl

/-- MOVXW whose targets accept the write writes them (R201). -/
theorem completes_movxw {c : Ctl} {o : OpsV} {s : State} (hr : Runs (.movxw c o) s)
    (hk : indexChk o (act (.movxw c o) s) s.advance = .ok ()) (ht : (acting (.movxw c o) s).all (movxwOk s.advance o)) :
    Completes (.movxw c o) s (s.advance.modMembers (acting (.movxw c o) s) (movxwPut s.advance o)) := by
  have hok : (s.advance.cur.acting (act (.movxw c o) s)).all (movxwOk s.advance o) = true := ht
  refine completes_of_issueT rfl hr ?_
  simp only [hk, hok, bind, Except.bind]
  rfl

/-- A of another lane is A of that lane unless A is a latch (R206). -/
theorem otherLane_of_not_latch {f : Fld} (hf : ∀ k, f.r ≠ .latch k) (r : State) (w : Warp) (j : Nat) : r.otherLane f w j = r.srcW w f j := by
  unfold State.otherLane
  split
  · exact absurd ‹_› (hf _)
  · rfl

/-- The counter of free values moves on exactly where A is a latch. -/
theorem spendFree_fld (r : VReg) (wide : Bool) (n : Nat) (imm : BitVec 64) (t : State) : spendFree (fld r wide n imm) t = spent r t := by
  cases r <;> rfl

end Sys2Proof.Machine

namespace Sys2Proof.Spec
open Sys2Proof.Machine

/-- Settles O16: two exact results that are `arith`, two that are `plain`, and the two carry chains. -/
theorem wideAndCarryResults : Obligations.WideAndCarryResults := by
  intro c o s
  refine ⟨?imulh, ?iadds, ?imadw, ?isad, ?iaddc, ?isubb⟩
  case imulh => exact gives_arith (fun a b _ => a * b / 2 ^ o.m.ty.bits) rfl fun _ _ _ => rfl
  case iadds => exact gives_arith (fun a b _ => a + b * 2 ^ o.m.sub.toNat) rfl fun _ _ _ => rfl
  case imadw => exact gives_plain (congrFun (execImadw.eq_def c o) s) fun _ _ => rfl
  case isad => exact gives_plain (congrFun (execIsad.eq_def c o) s) fun _ _ => rfl
  case iaddc => exact fun d hd hr hs => completes_carryOp (f := fun a b k => a + b + k) rfl hd hr hs
  case isubb => exact fun d hd hr hs => completes_carryOp (f := fun a b k => a - b - k) rfl hd hr hs

/-- Settles O18: every one of them is `plain`, with the function that its clause names. -/
theorem bitwiseAndShiftResults : Obligations.BitwiseAndShiftResults := by
  intro c o s
  refine ⟨⟨?and, ?or, ?xor, ?andn, ?not, ?brev, ?popc, ?clz, ?ctz, ?bfx, ?bfi, ?bperm⟩, ?shl, ?shr, ?sar, ?rol⟩
  case and => exact gives_plain (congrFun (execAnd.eq_def c o) s) fun _ _ => rfl
  case or => exact gives_plain (congrFun (execOr.eq_def c o) s) fun _ _ => rfl
  case xor => exact gives_plain (congrFun (execXor.eq_def c o) s) fun _ _ => rfl
  case andn => exact gives_plain (congrFun (execAndn.eq_def c o) s) fun _ _ => rfl
  case not => exact gives_plain (congrFun (execNot.eq_def c o) s) fun _ _ => rfl
  case brev => exact gives_plain (congrFun (execBrev.eq_def c o) s) fun _ _ => rfl
  case popc => exact gives_plain (congrFun (execPopc.eq_def c o) s) fun _ _ => rfl
  case clz => exact gives_plain (congrFun (execClz.eq_def c o) s) fun _ _ => rfl
  case ctz => exact gives_plain (congrFun (execCtz.eq_def c o) s) fun _ _ => rfl
  case bfx => exact gives_plain (congrFun (execBfx.eq_def c o) s) fun _ _ => rfl
  case bfi => exact gives_plain (congrFun (execBfi.eq_def c o) s) fun _ _ => rfl
  case bperm => exact gives_plain (congrFun (execBperm.eq_def c o) s) fun _ _ => rfl
  case shl => exact gives_plain (congrFun (execShl.eq_def c o) s) fun _ _ => rfl
  case shr => exact gives_plain (congrFun (execShr.eq_def c o) s) fun _ _ => rfl
  case sar => exact gives_plain (congrFun (execSar.eq_def c o) s) fun _ _ => rfl
  case rol => exact gives_plain (congrFun (execRol.eq_def c o) s) fun _ _ => rfl

/-- Settles O19: MOV, MOVI and SEL are `alu`; MOVX and MOVXW check their indices first. -/
theorem moveResults : Obligations.MoveResults := by
  intro c o s
  refine ⟨?mov, ?movi, ?sel, ?movx, ?movxw⟩
  case mov => exact gives_of_alu (fun _ => rfl) rfl
  case movi =>
    intro d imm
    refine gives_of_alu (aff := noAff) (chk := noChk) (fun hu => ?_) rfl
    change execMovi c d imm s = _
    unfold execMovi
    split
    · exact absurd ‹_› (hu _)
    · rfl
  case sel => exact gives_of_alu (fun _ => rfl) rfl
  case movx => exact gives_movx
  case movxw => exact completes_movxw

/-- Settles O20: ICMP and VOTE are the wrapper over one write, and the others are `predOp`. -/
theorem predicateResults : Obligations.PredicateResults := by
  intro c o q s
  refine ⟨?icmp, ?pand, ?por, ?pxor, ?pnot, ?pmov, ?vote⟩
  case icmp =>
    intro hr hs
    have hshape : s.advance.shapeChk (usesOf (.icmp c o)) (act (.icmp c o) s) (fun _ => .gen) = .ok () := hs
    refine completes_of_issueT rfl hr ?_
    simp only [hshape, bind, Except.bind]
    rfl
  case pand => exact completes_predOp (f := (· && ·)) rfl
  case por => exact completes_predOp (f := (· || ·)) rfl
  case pxor => exact completes_predOp (f := (· != ·)) rfl
  case pnot => exact completes_predOp (f := fun a _ => !a) rfl
  case pmov => exact completes_predOp (f := fun a _ => a) rfl
  case vote => exact fun hr => completes_of_issueT rfl hr rfl

/-- Settles O21: each of them is `cross`; AFFINE checks that its sources are uniform, and LANEIX has one form for each sub-operation. -/
theorem crossLaneAndConflictResults : Obligations.CrossLaneAndConflictResults := by
  intro c o s
  have laneix : ∀ {sh : Shp} {f : State → Nat → BitVec 64},
      (match o.m.sub.toNat with | 0 => .aff | 1 => .gen | _ => .uni) = sh → 
      (∀ r l, (match o.m.sub.toNat with
        | 0 => BitVec.ofNat 64 l
        | 1 => BitVec.ofNat 64 ((lanesOf (r.mates (act (.laneix c o) s) l)).filter (· < l)).length
        | 2 => BitVec.ofNat 64 (laneCount (r.mates (act (.laneix c o) s) l))
        | _ => (r.mates (act (.laneix c o) s) l).setWidth 64) = f r l) →
      Gives (.laneix c o) s (fun _ _ => sh) f (fun _ _ => (0, 1)) := by
    intro sh f hsh hf
    obtain rfl : _ = f := funext fun r => funext (hf r)
    subst hsh
    exact gives_cross (congrFun (execLaneix.eq_def c o) s) rfl fun _ _ => rfl
  refine ⟨⟨?ballot, ?affine, ?position, ?rank, ?count, ?mask, ?scan, ?red⟩, ?confl, ?cmbn⟩
  case ballot => exact gives_cross (congrFun (execBallot.eq_def c o) s) rfl fun _ _ => rfl
  case affine =>
    exact fun hu => gives_cross (congrFun (execAffine.eq_def c o) s) (trapIf_not_of_true hu _ _) fun _ _ => rfl
  case position => exact fun h => laneix (by rw [h]; rfl) fun _ _ => by rw [h]; rfl
  case rank => exact fun h => laneix (by rw [h]; rfl) fun _ _ => by rw [h]; rfl
  case count => exact fun h => laneix (by rw [h]; rfl) fun _ _ => by rw [h]; rfl
  case mask => exact fun h => laneix (by rw [h]; rfl) fun _ _ => by rw [h]; rfl
  case scan => exact gives_cross (congrFun (execScan.eq_def c o) s) rfl fun _ _ => rfl
  case red => exact gives_cross (congrFun (execRed.eq_def c o) s) rfl fun _ _ => rfl
  case confl => exact gives_general (congrFun (execConfl.eq_def c o) s) fun _ _ => rfl
  case cmbn => exact gives_general (congrFun (execCmbn.eq_def c o) s) fun _ _ => rfl

/-- Settles O22: both are `crossRead`, and only a latch makes A of another lane more than a source. -/
theorem shuffleResults : Obligations.ShuffleResults := by
  intro c o s d
  refine ⟨?shfl, ?bcast, ?plain⟩
  case shfl =>
    intro hr hs hd
    have h := completes_crossRead (i := .shfl c o) (execShfl.eq_def c o s) hr rfl hs hd
    rw [← spendFree_fld o.a o.m.ty.is64 1 0]
    exact h
  case bcast =>
    intro hr hs hd hu
    have h := completes_crossRead (i := .bcast c o) (execBcast.eq_def c o s) hr (trapIf_not_of_true hu _ _) hs hd
    rw [← spendFree_fld o.a o.m.ty.is64 1 0]
    exact h
  case plain => exact fun r w j h => otherLane_of_not_latch h r w j

end Sys2Proof.Spec
end

section
/-!
PROOFS. Floating point (chapter 10 and R353 to R359): the arithmetic instructions are `fpAlu`, the long-latency ones `fpLong`; conversions with a
companion, packing, comparisons and the flags are the wrapper over a body that checks FPTRAP and then writes.
-/
set_option autoImplicit false

namespace Sys2Proof.Machine
open Sys2Proof.Spec

/-! ### The checks of a body, one after the other -/

/-- A check that passes hands on to what follows it. -/
theorem chk_bind_ok {α β : Type} {x : Chk α} {a : α} {f : α → Chk β} {y : Chk β} (hx : x = .ok a) (hf : f a = y) : (x >>= f) = y := by
  subst hx; exact hf

/-- A check that fails is what the body answers (R7). -/
theorem chk_bind_error {α β : Type} {x : Chk α} {t : TrapReq} {f : α → Chk β} (hx : x = .error t) : (x >>= f) = .error t := by
  subst hx; rfl

/-- A check that is made only under a condition passes where it passes under that condition. -/
theorem chk_opt_ok {β : Type} {p : Prop} [Decidable p] {x : Chk Unit} {f : Unit → Chk β} {y : Chk β} (hx : p → x = .ok ()) (hf : f () = y) :
    (if p then x >>= f else f ()) = y := by
  split
  · exact chk_bind_ok (hx ‹_›) hf
  · exact hf

/-! ### The shared forms -/

section
variable {i : Instr} {s : State}

/-- No enabled flag is raised: the check of FPTRAP passes (R221). -/
theorem fpChk_ok {s : State} {fl : List (WRef × Nat × BitVec 6)} (h : fpTrap s s.cur.mems fl = none) : fpChk s fl = .ok () := by
  simp only [fpChk, h]

/-- An enabled flag is raised: the check of FPTRAP fails with its trap (R221). -/
theorem fpChk_error {s : State} {fl : List (WRef × Nat × BitVec 6)} {t : TrapReq} (h : fpTrap s s.cur.mems fl = some t) :
    fpChk s fl = .error t := by
  simp only [fpChk, h]

/-- A floating-point instruction that is not long-latency writes its result and flags, or traps with neither. -/
theorem givesF_of_fpAlu {f g : State → Nat → FRes} (he : exec i s = fpAlu (ctlOf i) (usesOf i) (autoRule (usesOf i)) f s)
    (hg : ∀ r l, g r l = f r l) : GivesF i s g := by
  obtain rfl : g = f := funext fun r => funext (hg r)
  intro hr hs d hd
  have hshape : s.advance.shapeChk (usesOf i) (act i s) (autoRule (usesOf i) s.advance) = .ok () := hs
  refine ⟨fun hno => completes_of_issueT he hr (chk_bind_ok hshape (chk_bind_ok (fpChk_ok hno) ?_)),
    fun t ht => traps_of_issueT he hr (chk_bind_ok hshape (chk_bind_error (fpChk_error ht)))⟩
  rw [hd]
  rfl

/-- An instruction that is `arithF` rounds its value of A, B and D once. -/
theorem givesF_of_arithF {m : Mods} {f : Nat → FVal → FVal → FVal → FVal} {g : State → Nat → FVal}
    (he : exec i s = arithF (ctlOf i) (usesOf i) m f s) (hg : ∀ r l, g r l = f (r.mode m l) (fA i m.ty r l) (fB i m.ty r l) (fD i m.ty r l)) :
    GivesF i s fun r l => rounded m r l (g r l) :=
  givesF_of_fpAlu (he.trans (congrFun (arithF.eq_def ..) s)) fun r l => by rw [hg]; rfl

/-- An instruction that is `pairOp` rounds each element of the pair on its own. -/
theorem givesF_of_pairOp {m : Mods} {f : Nat → FVal → FVal → FVal → FVal} {g : State → Nat → Nat → FVal}
    (he : exec i s = pairOp (ctlOf i) (usesOf i) m f s)
    (hg : ∀ r l j, g r l j = f (r.mode m l) (elemAt (fmtOf m.ty) (opA i r l) j) (elemAt (fmtOf m.ty) (opB i r l) j) (elemAt (fmtOf m.ty) (opD i r l) j)) :
    GivesF i s fun r l => (List.range (64 / (fmtOf m.ty).bits)).foldl (fun acc j =>
      { v := acc.v + (rounded m r l (g r l j)).v * 2 ^ ((fmtOf m.ty).bits * j), fl := acc.fl ||| (rounded m r l (g r l j)).fl }) { v := 0 } := by
  obtain rfl : g = fun r l j => f (r.mode m l) (elemAt (fmtOf m.ty) (opA i r l) j) (elemAt (fmtOf m.ty) (opB i r l) j) (elemAt (fmtOf m.ty) (opD i r l) j) :=
    funext fun r => funext fun l => funext (hg r l)
  exact givesF_of_fpAlu (he.trans (congrFun (pairOp.eq_def ..) s)) fun _ _ => rfl

/-- A long-latency floating-point instruction is outstanding with its results and flags. -/
theorem startsF_of_fpLong {f g : State → Nat → FRes} (he : exec i s = fpLong (ctlOf i) (usesOf i) (autoRule (usesOf i)) f s)
    (hg : ∀ r l, g r l = f r l) : StartsF i s g := by
  obtain rfl : g = f := funext fun r => funext (hg r)
  intro hr hs
  have hshape : s.advance.shapeChk (usesOf i) (act i s) (autoRule (usesOf i) s.advance) = .ok () := hs
  exact completes_of_issueT he hr (chk_bind_ok hshape rfl)

/-- A unary long-latency instruction ORs the flags of its function into those of the rounding. -/
theorem startsF_of_unaryF {m : Mods} {f : FVal → FVal × FpFlags} (he : exec i s = unaryF (ctlOf i) (usesOf i) m f s) :
    StartsF i s fun r l =>
      { rounded m r l (f (fA i m.ty r l)).1 with fl := (rounded m r l (f (fA i m.ty r l)).1).fl ||| (f (fA i m.ty r l)).2 } :=
  startsF_of_fpLong (he.trans (congrFun (unaryF.eq_def ..) s)) fun _ _ => rfl

end

/-! ### FDOT2 (R231) -/

/-- A sum of three values is NV where two of them are infinities of opposite sign. -/
theorem sum3V_eq (r : Nat) (d x y : FVal) : sum3V r d x y =
    if (d = .inf true ∨ x = .inf true ∨ y = .inf true) ∧ (d = .inf false ∨ x = .inf false ∨ y = .inf false)
    then addV r (addV r (addV r d x) y) (.nan true) else addV r (addV r d x) y := by
  have hmem : ∀ b : Bool, [d, x, y].contains (.inf b) = true ↔ (d = .inf b ∨ x = .inf b ∨ y = .inf b) := by
    intro b
    rw [List.contains_iff_mem]
    simp only [List.mem_cons, List.not_mem_nil, or_false, eq_comm]
  simp only [sum3V, Bool.and_eq_true, hmem]
  exact if_congr and_comm rfl rfl

/-! ### Packing (R216, R243 to R245) -/

section
variable {c : Ctl} {o : OpsV} {i : Instr} {s : State} {d : Fld}

/-- The code of lane `j` as a lane `l` packs it, with its flags. -/
def packCode (i : Instr) (o : OpsV) (s : State) (l j : Nat) : Elem :=
  packLane o.m.sub.toNat (s.advance.mode o.m l) (s.advance.mates (act i s) l) (fun n => fA i .f32 s.advance n)
    (fun n => (opB i s.advance n).toNat % 256) j

/-- The flags that a packing raises in the active lanes. -/
def packFlags (i : Instr) (o : OpsV) (s : State) : List (WRef × Nat × BitVec 6) :=
  laneFlags s.advance (act i s) fun l => (packCode i o s l l).2

/-- D of a packing: codes of `w` bits from bit 0 of each word. -/
def packD (i : Instr) (o : OpsV) (s : State) (d : Fld) (w : Nat) : State :=
  s.advance.putD (ctlOf i) d (act i s) fun l => BitVec.ofNat 64 (packWord w 0 (fun j => (packCode i o s l j).1) l)

/-- The upper two bits of six-bit codes, in the register after D (R216). -/
def packHigh (i : Instr) (o : OpsV) (s t : State) : State :=
  match elemBits o.m.sub.toNat == 6, o.d with
  | true, .v n => t.modMembers (acting i s) fun m w => (lanesOf m.lanes).foldl (fun w l =>
      w.putGen (n + 1) l (BitVec.ofNat 32 (packWord 2 4 (fun j => (packCode i o s l j).1) l))) w
  | _, _ => t

theorem packHigh_of_ne_six (h : elemBits o.m.sub.toNat ≠ 6) (t : State) : packHigh i o s t = t := by
  simp [packHigh, h]

theorem packHigh_of_zero (h : o.d = .zero) (t : State) : packHigh i o s t = t := by
  simp [packHigh, h]

theorem packHigh_of_six {n : Fin 1536} (h6 : elemBits o.m.sub.toNat = 6) (hd : o.d = .v n) (t : State) :
    packHigh i o s t = t.modMembers (acting i s) fun m w => (lanesOf m.lanes).foldl (fun w l =>
      w.putGen (n + 1) l (BitVec.ofNat 32 (packWord 2 4 (fun j => (packCode i o s l j).1) l))) w := by
  simp [packHigh, h6, hd]

/-- A packing whose checks pass writes D, the register after it for six-bit codes, and the flags. -/
theorem completes_packOp (he : exec i s = packOp (ctlOf i) (usesOf i) o s) (hd : (usesOf i).d = some d) (hr : Runs i s)
    (hs : ShapeOk i s genRule) (ht : fpTrap s.advance s.advance.cur.mems (packFlags i o s) = none)
    (hk : elemBits o.m.sub.toNat = 6 → s.advance.reachChk o.d 2 [.gen] (act i s) = .ok ()) :
    Completes i s (orFlags (packFlags i o s) (packHigh i o s (packD i o s d (if elemBits o.m.sub.toNat = 6 then 4 else elemBits o.m.sub.toNat)))) := by
  refine completes_of_issueT he hr ?_
  refine chk_opt_ok (fun h6 => hk (eq_of_beq h6)) (chk_bind_ok hs (chk_bind_ok (fpChk_ok ht) ?_))
  rw [hd]
  simp only [packHigh, packD, beq_iff_eq]
  rfl

/-- An element of UNPK, scaled and rounded, with its flags (R245). -/
def unpackRes (i : Instr) (o : OpsV) (r : State) (l : Nat) : FRes :=
  let sc := (opB i r l).toNat % 256
  let y := unpkElem o.m.sub.toNat ((opA i r l).toNat % 2 ^ 32) (r.srcMore o.a 1 l).toNat l
  if sc = 255 || y.isNan then { v := fmtF32.nan } else fmtF32.write (r.mode o.m l) o.m.sat (scaleV y ((sc : Int) - 127))

/-- UNPK whose checks pass writes D and the flags (R245). -/
theorem completes_unpk (hd : (usesOf (.unpk c o)).d = some d) (hr : Runs (.unpk c o) s) (hs : ShapeOk (.unpk c o) s genRule)
    (hk : elemBits o.m.sub.toNat = 6 → s.advance.reachChk o.a 2 [.gen] (act (.unpk c o) s) = .ok ())
    (ht : fpTrap s.advance s.advance.cur.mems (flagsOf (.unpk c o) s (unpackRes (.unpk c o) o)) = none) :
    Completes (.unpk c o) s (orFlags (flagsOf (.unpk c o) s (unpackRes (.unpk c o) o))
      (s.advance.putD c d (act (.unpk c o) s) fun l => BitVec.ofNat 64 (unpackRes (.unpk c o) o s.advance l).v)) := by
  refine completes_of_issueT (congrFun (execUnpk.eq_def c o) s) hr ?_
  refine chk_opt_ok (fun h6 => hk (eq_of_beq h6)) (chk_bind_ok hs (chk_bind_ok (fpChk_ok ht) ?_))
  rw [hd]
  rfl

end

/-! ### Bodies that write a predicate, a companion or a warp's own registers -/

section
variable {c : Ctl} {s : State} {d : Fld}

/-- FCMP without an FPTRAP (R227). -/
theorem completes_fcmp {q : OpsPC} (hr : Runs (.fcmp c q) s) (hs : ShapeOk (.fcmp c q) s genRule) :
    let x := fA (.fcmp c q) q.m.ty s.advance
    let y := fB (.fcmp c q) q.m.ty s.advance
    let fl := laneFlags s.advance (act (.fcmp c q) s) fun l => fcompareFl q.m.sub.toNat (x l) (y l)
    fpTrap s.advance s.advance.cur.mems fl = none → Completes (.fcmp c q) s
      (orFlags fl (s.advance.putP q.p.val (act (.fcmp c q) s) fun l => fcompare q.m.sub.toNat (x l) (y l))) :=
  fun ht => completes_of_issueT (congrFun (execFcmp.eq_def c q) s) hr (chk_bind_ok hs (chk_bind_ok (fpChk_ok ht) rfl))

end

end Sys2Proof.Machine

namespace Sys2Proof.Spec
open Sys2Proof.Machine

/-- Settles O23: five are `arithF`, two are `pairOp`, and the others `fpAlu` with the function that their clause names. -/
theorem floatResults : Obligations.FloatResults := by
  intro c o s
  refine ⟨⟨?fadd, ?fsub, ?fmul, ?ffma, ?trstep⟩, ?fmin, ?fmax, ?fclass, ?fround, ?fscalb, ?fsat, ?fdot2, ?fmul2, ?ffma2⟩
  case fadd => exact givesF_of_arithF (congrFun (execFadd.eq_def c o) s) fun _ _ => rfl
  case fsub => exact givesF_of_arithF (congrFun (execFsub.eq_def c o) s) fun _ _ => rfl
  case fmul => exact givesF_of_arithF (congrFun (execFmul.eq_def c o) s) fun _ _ => rfl
  case ffma => exact givesF_of_arithF (congrFun (execFfma.eq_def c o) s) fun _ _ => rfl
  case trstep => exact givesF_of_arithF (congrFun (execTrstep.eq_def c o) s) fun _ _ => rfl
  case fmin => exact givesF_of_fpAlu (congrFun ((execFmin.eq_def c o).trans (minMaxOp.eq_def ..)) s) fun _ _ => rfl
  case fmax => exact givesF_of_fpAlu (congrFun ((execFmax.eq_def c o).trans (minMaxOp.eq_def ..)) s) fun _ _ => rfl
  case fclass => exact givesF_of_fpAlu (congrFun (execFclass.eq_def c o) s) fun _ _ => rfl
  case fround => exact givesF_of_fpAlu (congrFun (execFround.eq_def c o) s) fun _ _ => rfl
  case fscalb => exact givesF_of_fpAlu (congrFun (execFscalb.eq_def c o) s) fun _ _ => rfl
  case fsat => exact givesF_of_fpAlu (congrFun (execFsat.eq_def c o) s) fun _ _ => rfl
  case fdot2 =>
    refine givesF_of_fpAlu (congrFun (execFdot2.eq_def c o) s) fun r l => ?_
    simp only [sum3V_eq]
    rfl
  case fmul2 => exact givesF_of_pairOp (congrFun (execFmul2.eq_def c o) s) fun _ _ _ => rfl
  case ffma2 => exact givesF_of_pairOp (congrFun (execFfma2.eq_def c o) s) fun _ _ _ => rfl

/-- Settles O24: the six unary functions are `unaryF`; DDIV and DSQRT are `fpLong` with their own. -/
theorem longFloatResults : Obligations.LongFloatResults := by
  intro c o s
  refine ⟨?frcp, ?frsq, ?fex2, ?flg2, ?fsin, ?fcos, ?ddiv, ?dsqrt⟩
  case frcp => exact startsF_of_unaryF (congrFun (execFrcp.eq_def c o) s)
  case frsq => exact startsF_of_unaryF (congrFun (execFrsq.eq_def c o) s)
  case fex2 => exact startsF_of_unaryF (congrFun (execFex2.eq_def c o) s)
  case flg2 => exact startsF_of_unaryF (congrFun (execFlg2.eq_def c o) s)
  case fsin => exact startsF_of_unaryF (congrFun (execFsin.eq_def c o) s)
  case fcos => exact startsF_of_unaryF (congrFun (execFcos.eq_def c o) s)
  case ddiv => exact startsF_of_fpLong (congrFun (execDdiv.eq_def c o) s) fun _ _ => rfl
  case dsqrt => exact startsF_of_fpLong (congrFun (execDsqrt.eq_def c o) s) fun _ _ => rfl

/-- Settles O25: CVT, CVTI and CVTF are `fpAlu`, BSCALE is `cross`, and the companions are written by the wrapper's body. -/
theorem conversionResults : Obligations.ConversionResults := by
  intro c o s
  refine ⟨?cvt, ?cvti, ?cvtf, ?cvtef, ?efclr, ?toCompanion, ?fromCompanion, ?bscale⟩
  case cvt => exact givesF_of_fpAlu (congrFun (execCvt.eq_def c o) s) fun _ _ => rfl
  case cvti => exact givesF_of_fpAlu (congrFun (execCvti.eq_def c o) s) fun _ _ => rfl
  case cvtf => exact givesF_of_fpAlu (congrFun (execCvtf.eq_def c o) s) fun _ _ => rfl
  case cvtef =>
    intro d hd hr hs e x fl ht
    refine completes_of_issueT (congrFun (execCvtef.eq_def c o) s) hr (chk_bind_ok hs (chk_bind_ok (fpChk_ok ht) ?_))
    rw [hd]
    rfl
  case efclr => exact fun e hr => completes_of_issueT (congrFun (execEfclr.eq_def c e) s) hr rfl
  case toCompanion =>
    exact fun rg e hr hs => completes_of_issueT (congrFun (execEfmov.eq_def c true rg e) s) hr (chk_bind_ok hs rfl)
  case fromCompanion =>
    intro rg e hr hs d hd
    obtain rfl : ({ r := rg } : Fld) = d := Option.some.inj hd
    exact completes_of_issueT (congrFun (execEfmov.eq_def c false rg e) s) hr (chk_bind_ok hs rfl)
  case bscale => exact gives_cross (congrFun (execBscale.eq_def c o) s) rfl fun _ _ => rfl

/-- Settles O26: PACK4, PACK6 and PACK8 are `packOp`, whose register after D is written for six-bit codes only. -/
theorem packResults : Obligations.PackResults := by
  intro c o s i d hd hr hs k r e fl
  refine ⟨fun hi ht => ?pack, fun hi hk => ?unpk⟩
  case pack =>
    have he : exec i s = packOp (ctlOf i) (usesOf i) o s ∧ ctlOf i = c := by
      rcases hi with rfl | rfl | rfl <;> exact ⟨rfl, rfl⟩
    obtain ⟨he, rfl⟩ := he
    refine ⟨fun hk => ?_, fun n h6 hv hreach => ?_⟩
    · have hreach : elemBits o.m.sub.toNat = 6 → r.reachChk o.d 2 [.gen] (act i s) = .ok () := by
        intro h6
        obtain h | ⟨-, hz⟩ := hk
        · exact absurd h6 h
        · rw [hz]; rfl
      have hpack := completes_packOp he hd hr hs ht hreach
      obtain h | ⟨-, hz⟩ := hk
      · rw [packHigh_of_ne_six h] at hpack
        exact hpack
      · rw [packHigh_of_zero hz] at hpack
        exact hpack
    · have h := completes_packOp he hd hr hs ht fun _ => hreach
      rw [packHigh_of_six h6 hv, if_pos h6] at h
      exact h
  case unpk =>
    subst hi
    intro x gl ht
    exact completes_unpk hd hr hs hk ht

/-- Settles O27: FCMP and PIVCHK write after their check of FPTRAP; the others change the flags and the mode of each acting warp. -/
theorem comparisonAndFlagResults : Obligations.ComparisonAndFlagResults := by
  intro c o q m s
  refine ⟨?fcmp, ?pivchk, ?flagrd, ?flagrdClear, ?flagclr, ?rmode⟩
  case fcmp => exact completes_fcmp
  case pivchk =>
    intro d hd hr hs f x fl ht
    refine completes_of_issueT (congrFun (execPivchk.eq_def c o) s) hr (chk_bind_ok hs (chk_bind_ok (fpChk_ok ht) ?_))
    rw [hd]
    rfl
  case flagrd =>
    intro hsub hr hs d hd
    refine completes_of_issueT (congrFun (execFlagrd.eq_def c o) s) hr (chk_bind_ok hs ?_)
    rw [hd]
    exact congrArg Except.ok (if_neg (by simpa using hsub))
  case flagrdClear =>
    intro d hd hsub hr hs
    refine completes_of_issueT (congrFun (execFlagrd.eq_def c o) s) hr (chk_bind_ok hs ?_)
    rw [hd]
    exact congrArg Except.ok (if_pos (by simpa using hsub))
  case flagclr => exact fun hr => completes_of_issueT (congrFun (execFlagclr.eq_def c m) s) hr rfl
  case rmode => exact fun hr => completes_of_issueT (congrFun (execRmode.eq_def c m) s) hr rfl

end Sys2Proof.Spec
end

section
/-!
PROOFS. Control (chapter 8): branches, loops, calls, returns, ends of threads, hints and clauses. The instructions that a uniform sequencer runs in a
form of its own are the wrapper off the sequencers; every effect is a change of the acting members.
-/
set_option autoImplicit false

namespace Sys2Proof.Machine
open Sys2Proof.Spec

/-! ### Off the sequencers -/

section
variable {i : Instr} {s t : State} {body : Mask → State → Chk State}

/-- An instruction with a form of its own on a sequencer, off it: one that runs and whose body answers a state completes with it. -/
theorem completes_of_issue (he : (∀ q, s.cur.unit ≠ .stream q) → exec i s = issue (ctlOf i) (usesOf i) body s) (hr : Runs i s)
    (hb : body (act i s) s.advance = .ok t) : Completes i s t := by
  obtain ⟨hunit, hlane, hchk⟩ := hr
  exact (he hunit).trans (issue_runs hchk hlane hb)

theorem exec_nop_issue (c : Ctl) (m : Mods) (hu : ∀ q, s.cur.unit ≠ .stream q) :
    exec (.nop c m) s = issue c (usesOf (.nop c m)) (fun _ s => .ok s) s := by
  change execNop c m s = _
  unfold execNop
  split
  · exact absurd ‹_› (hu _)
  · rfl

theorem exec_bra_issue (c : Ctl) (off : BitVec 32) (hu : ∀ q, s.cur.unit ≠ .stream q) :
    exec (.bra c off) s = issue c (usesOf (.bra c off)) (fun act s => .ok (goTo act (fun _ => some (s.target off)) s)) s := by
  change execBra c off s = _
  unfold execBra
  split
  · exact absurd ‹_› (hu _)
  · rfl

theorem exec_exit_issue (c : Ctl) (m : Mods) (hu : ∀ q, s.cur.unit ≠ .stream q) :
    exec (.exit c m) s = issue c (usesOf (.exit c m)) (fun act s => .ok (endThreads act s)) s := by
  change execExit c m s = _
  unfold execExit
  split
  · exact absurd ‹_› (hu _)
  · rfl

/-- D of LOOP steps down by one in its own shape (R178). -/
def loopCount (d : VReg) (s : State) (l : Nat) : Word := (s.src { r := d } l).setWidth 32 - 1

/-- What LOOP does to D. -/
def loopPut (c : Ctl) (d : VReg) (act : Mask) (s : State) : State :=
  s.putD c { r := d } act (fun l => (loopCount d s l).setWidth 64) fun m => ((s.affOf { r := d } m).1 - 1, (s.affOf { r := d } m).2)

theorem exec_loop_issue (c : Ctl) (d : VReg) (off : BitVec 32) (hu : ∀ q, s.cur.unit ≠ .stream q) :
    exec (.loop c d off) s = issue c (usesOf (.loop c d off)) (fun act s => do
      s.shapeChk (usesOf (.loop c d off)) act fun m => srcShp (s.warp m.w) d
      .ok (goTo act (fun l => if loopCount d s l != 0 then some (s.target off) else none) (loopPut c d act s))) s := by
  change execLoop c d off s = _
  unfold execLoop
  split
  · exact absurd ‹_› (hu _)
  · rfl

end

/-! ### Targets -/

@[simp] theorem target_advance (s : State) (off : BitVec 32) : s.advance.target off = s.cur.pc + off := by
  simp [State.target]

@[simp] theorem yieldGroup_cur (s0 s : State) : (yieldGroup s0 s).cur = s.cur := by
  simp [yieldGroup]

/-! ### Full and empty return stacks (R176) -/

theorem fullStacks_ok {act : Mask} {s : State} (h : (s.lanesWith act fun _ th => decide (16 ≤ th.rstack.length)) = 0) :
    fullStacks act s = .ok () := by
  simp [fullStacks, h, trapIf]

theorem fullStacks_error {act : Mask} {s : State} (h : (s.lanesWith act fun _ th => decide (16 ≤ th.rstack.length)) ≠ 0) :
    fullStacks act s = .error { cause := .spillovf, lanes := s.lanesWith act fun _ th => decide (16 ≤ th.rstack.length), info := 1 } :=
  if_pos (bne_iff_ne.2 h)

end Sys2Proof.Machine

namespace Sys2Proof.Spec
open Sys2Proof.Machine

/-- Settles O28: each of them changes the continuations of the acting members, after LOOP's count. -/
theorem branchResults : Obligations.BranchResults := by
  intro c m o p off d s dest
  refine ⟨?nop, ?bra, ?brx, ?brany, ?brall, ?loop⟩
  case nop => exact fun hr => completes_of_issue (exec_nop_issue c m) hr rfl
  case bra =>
    intro hr
    refine completes_of_issue (exec_bra_issue c off) hr ?_
    simp only [goTo, target_advance]
    rfl
  case brx => exact fun hr => completes_of_issueT (execBrx.eq_def c o s) hr rfl
  case brany =>
    intro hr
    refine completes_of_issueT (execBrany.eq_def c p off s) hr ?_
    simp only [branchOn, target_advance, bne_iff_ne]
    rfl
  case brall =>
    intro hr
    refine completes_of_issueT (execBrall.eq_def c p off s) hr ?_
    simp only [branchOn, target_advance, beq_iff_eq]
    rfl
  case loop =>
    intro hr hs v
    refine completes_of_issue (exec_loop_issue c d off) hr (chk_bind_ok hs ?_)
    simp only [target_advance, bne_iff_ne, ite_not]
    rfl

/-- Settles O29: CALL, CALLX and RET check the stacks of their lanes first; the others have one effect. -/
theorem callReturnAndEndResults : Obligations.CallReturnAndEndResults := by
  intro c m o off s
  refine ⟨?calls, ?exit, ?tend, ?yield, ?ipref⟩
  case calls =>
    intro full void
    refine ⟨fun hr hz => ?call, fun hr hz => ?callFull, fun hr hk hz => ?callx, fun hr hk hz => ?callxFull, fun hr hz => ?ret, fun hr hz => ?retVoid⟩
    case call =>
      refine completes_of_issueT (execCall.eq_def c off s) hr (chk_bind_ok (fullStacks_ok hz) ?_)
      simp only [callTo, target_advance, acting, State.advance_cur]
    case callFull => exact traps_of_issueT (execCall.eq_def c off s) hr (chk_bind_error (fullStacks_error hz))
    case callx =>
      refine completes_of_issueT (execCallx.eq_def c o s) hr (chk_bind_ok hk (chk_bind_ok (fullStacks_ok hz) ?_))
      simp only [callTo, acting, State.advance_cur]
      rfl
    case callxFull => exact traps_of_issueT (execCallx.eq_def c o s) hr (chk_bind_ok hk (chk_bind_error (fullStacks_error hz)))
    case ret =>
      refine completes_of_issueT (execRet.eq_def c m s) hr (chk_bind_ok (if_neg (by simpa using hz)) ?_)
      rfl
    case retVoid => exact traps_of_issueT (execRet.eq_def c m s) hr (chk_bind_error (if_pos (bne_iff_ne.2 hz)))
  case exit => exact fun hr => completes_of_issue (exec_exit_issue c m) hr rfl
  case tend => exact fun hr => completes_of_issueT (congrFun (execTend.eq_def c m) s) hr rfl
  case yield => exact fun hr => completes_of_issueT (execYield.eq_def c m s) hr (by rw [yieldGroup_cur])
  case ipref => exact fun hr => completes_of_issueT (execIpref.eq_def c off s) hr rfl

/-- Settles O30: each of them changes the clause register of the acting members' warps, and CLGET reads it. -/
theorem clauseResults : Obligations.ClauseResults := by
  intro c k m d s n r
  refine ⟨fun hr => ?clen, fun hr => ?clwait, fun hr => ?cldrop, ?clget, fun hr hk => ?clset⟩
  case clen => exact completes_of_issueT (execClen.eq_def c k s) hr rfl
  case clwait =>
    refine completes_of_issueT (execClwait.eq_def c k s) hr ?_
    simp only [beq_iff_eq]
    rfl
  case cldrop =>
    refine completes_of_issueT (execCldrop.eq_def c k s) hr ?_
    simp only [bne_iff_ne, ite_not]
    rfl
  case clget =>
    intro hr hs e he
    obtain rfl : ({ r := d } : Fld) = e := Option.some.inj he
    refine completes_of_issueT (execClget.eq_def c d k m s) hr (chk_bind_ok hs ?_)
    simp only [beq_iff_eq]
    rfl
  case clset =>
    refine completes_of_issueT (execClset.eq_def c k d m s) hr (chk_bind_ok hk ?_)
    simp only [bne_iff_ne, ite_not, beq_iff_eq]
    rfl

end Sys2Proof.Spec
end

section
/-!
PROOFS. A uniform sequencer (R335, R337 to R339): an instruction of a stream with a plain word is its body over the block's matrix resources, and
anything else is a stream fault.
-/
set_option autoImplicit false

namespace Sys2Proof.Machine
open Sys2Proof.Spec

/-- A word that a stream may hold: no guard, no HOLD and no prefetch (R337). -/
structure PlainWord (c : Ctl) : Prop where
  gp : c.gp = 15
  gn : c.gn = false
  hold : c.hold = 0
  hslot : c.hslot = 0
  pf : c.pf = 0

section
variable {c : Ctl} {s : State} {q : Nat}

/-- The test of R337 passes for a plain word. -/
theorem PlainWord.legal (h : PlainWord c) : (c.gp != 15 || c.gn || c.hold != 0 || c.hslot != 0) = false := by
  simp [h.gp, h.gn, h.hold, h.hslot]

theorem PlainWord.noPrefetch (h : PlainWord c) : (c.pf == 0) = true := by
  simp [h.pf]

/-- A stream instruction whose body accepts its fields changes the block's matrix resources. -/
theorem streamIssue_some (h : PlainWord c) {body : Mx → Option Mx} {x : Mx}
    (hb : body { (s.block s.cur.core q).mx with pc := s.cur.pc + 1 } = some x) :
    streamIssue q c body s = .next (({ s with clock := s.clock + 1 } : State).modBlock s.cur.core q fun b => { b with mx := x }) := by
  simp only [streamIssue, h.legal, hb, h.noPrefetch, if_true, Bool.false_eq_true, if_false]

/-- A thread instruction with no form of its own is a stream fault (R337). -/
theorem issueT_stream {u : Uses} {body : Mask → State → Chk State} (hq : s.cur.unit = .stream q) :
    issueT c u body s = .next (streamFault s.cur.core q .illop 0 s) := by
  simp only [issueT, hq, streamIllegal]

/-- The state in which the body of a matrix instruction of a stream runs: past the instruction. -/
def streamNext (s : State) (q : Nat) : State :=
  modMx s.cur.core q (fun m => { m with pc := s.cur.pc + 1, st := .running }) { s with clock := s.clock + 1 }

@[simp] theorem modMx_cur (core seq : Nat) (f : Mx → Mx) (s : State) : (modMx core seq f s).cur = s.cur := by
  simp [modMx]

@[simp] theorem streamNext_cur (s : State) (q : Nat) : (streamNext s q).cur = s.cur := by
  simp [streamNext]

/-- A matrix instruction of a stream whose unit is free, with no operation of its block outstanding, is its body. -/
theorem streamMx_next (h : PlainWord c) (ho : (s.core s.cur.core).owned = false) (hops : (s.block s.cur.core q).mx.ops = [])
    {body : Mx → State → MxAns} {x : State} (hb : body (s.block s.cur.core q).mx (streamNext s q) = .next x) :
    streamMx q c body s = .next x := by
  have hfree : ((s.core s.cur.core).owned || (s.block s.cur.core q).mx.ops.any fun o => !o.started) = false := by simp [ho, hops]
  unfold streamNext at hb
  simp only [streamMx, h.legal, hfree, hb, h.noPrefetch, if_true, Bool.false_eq_true, if_false]

/-- A load of a stream with 2047 as A, whose offset is 0 (R345). -/
theorem mxLoadOp_stream (hq : s.cur.unit = .stream q) (h : PlainWord c) (ho : (s.core s.cur.core).owned = false)
    (hops : (s.block s.cur.core q).mx.ops = []) (u : Uses) (ldb : Bool) (m : Mods) {x : State}
    (hx : mxLoad s.cur.core q ldb m.imm.toNat 0 (streamNext s q) = .next x) : mxLoadOp c u ldb .zero m s = .next x := by
  unfold mxLoadOp
  rw [hq]
  exact streamMx_next h ho hops ((streamNext_cur s q).symm ▸ hx)

/-- An operation of a stream with 2047 as A, whose version is 0 (R346). -/
theorem mxOpOp_stream (hq : s.cur.unit = .stream q) (h : PlainWord c) (ho : (s.core s.cur.core).owned = false)
    (hops : (s.block s.cur.core q).mx.ops = []) (u : Uses) (run : Word → Nat → Nat → State → MxAns) (tile : Nat) {x : State}
    (hx : run 0 s.cur.core q (streamNext s q) = .next x) : mxOpOp c u .zero run tile s = .next x := by
  unfold mxOpOp
  rw [hq]
  exact streamMx_next h ho hops ((streamNext_cur s q).symm ▸ hx)

/-- MXWAIT of a stream passes the barrier that the team has reached, and waits at any other (R339). -/
theorem execMxwait_stream (hq : s.cur.unit = .stream q) (h : PlainWord c) (ho : (s.core s.cur.core).owned = false)
    (hops : (s.block s.cur.core q).mx.ops = []) (k : BitVec 4) :
    execMxwait c k s = .next (
      if teamMask ((streamNext s q).block s.cur.core q) &&& ~~~(arrivals ((streamNext s q).block s.cur.core q) k.toNat) = 0 then
        wakeWhere s.cur.core q (fun w => w == .mxbar k.toNat) (modMx s.cur.core q (fun m => { m with bars := smDel m.bars k.toNat }) (streamNext s q))
      else modMx s.cur.core q (fun m => { m with pc := s.cur.pc, st := .waiting k.toNat }) (streamNext s q)) := by
  simp only [execMxwait, hq]
  refine streamMx_next h ho hops ?_
  simp only [beq_iff_eq]
  split <;> rfl

end

end Sys2Proof.Machine

namespace Sys2Proof.Spec
open Sys2Proof.Machine

/-- Settles O31: each instruction of a sequencer is `streamIssue` or `streamMx` with its body, and the others are the fault of R337. -/
theorem sequencerResults : Obligations.SequencerResults := by
  intro c m o off imm n s q t k
  refine ⟨fun hq hgp hgn hhold hslot hpf hn => ?own, fun hq hgp hgn hhold hslot hpf ho hops => ?matrix⟩
  case own =>
    have hc : PlainWord c := ⟨hgp, hgn, hhold, hslot, hpf⟩
    intro mx go mx1
    have hsrc : streamSrc mx1 0 (.v n) = some (smGetD mx.regs n.val 0) := if_pos hn
    have hput : ∀ v, streamPut mx1 v (.v n) = some { mx1 with regs := smPut mx.regs n.val v 0 } := fun _ => if_pos hn
    refine ⟨?nop, ?movi, ?iadd, ?bra, ?loop, ?exit, ?isub, ?trap⟩
    case nop =>
      change execNop c m s = _
      simp only [execNop, hq]
      exact streamIssue_some hc rfl
    case movi =>
      change execMovi c (.v n) imm s = _
      simp only [execMovi, hq]
      exact streamIssue_some hc (hput imm)
    case iadd =>
      intro hbits hsat ha hb hd
      change execIadd c o s = _
      simp only [execIadd, hq, hbits, hsat, ha, hb, hd]
      refine streamIssue_some hc ((if_pos rfl).trans ?_)
      change (streamSrc mx1 0 (.v n) >>= fun x => streamSrc mx1 (o.m.immT.setWidth 32) .zero >>= fun y => streamPut mx1 (x + y) (.v n)) = _
      rw [hsrc]
      exact hput _
    case bra =>
      change execBra c off s = _
      simp only [execBra, hq]
      exact streamIssue_some hc rfl
    case loop =>
      intro x
      change execLoop c (.v n) off s = _
      simp only [execLoop, hq]
      refine streamIssue_some hc ?_
      change (streamSrc mx1 0 (.v n) >>= fun x => streamPut mx1 (x - 1) (.v n) >>= fun mx => some (if x - 1 != 0 then { mx with pc := s.cur.pc + off } else mx)) = _
      rw [hsrc]
      change (streamPut mx1 x (.v n) >>= fun mx => some (if x != 0 then { mx with pc := s.cur.pc + off } else mx)) = _
      rw [hput]
      by_cases h0 : x = 0#32 <;> simp [h0, mx1]
    case exit =>
      change execExit c m s = _
      simp only [execExit, hq]
      exact streamIssue_some hc rfl
    case isub => exact issueT_stream hq
    case trap => exact issueT_stream hq
  case matrix =>
    have hc : PlainWord c := ⟨hgp, hgn, hhold, hslot, hpf⟩
    intro core r
    refine ⟨fun x hx => ?ldb, fun x hx => ?lda, fun x hx => ?mac, fun x hx => ?macs, fun x hx => ?zero, ?wait⟩
    case ldb => exact mxLoadOp_stream hq hc ho hops _ true m hx
    case lda => exact mxLoadOp_stream hq hc ho hops _ false m hx
    case mac => exact mxOpOp_stream hq hc ho hops _ (fun v core seq s => mxMac core seq false t.toNat m.imm.toNat v s) _ hx
    case macs => exact mxOpOp_stream hq hc ho hops _ (fun v core seq s => mxMac core seq true t.toNat m.imm.toNat v s) _ hx
    case zero => exact mxOpOp_stream hq hc ho hops _ (fun v core seq s => mxZero core seq (m.ty == .f64) t.toNat v s) _ hx
    case wait => exact execMxwait_stream hq hc ho hops k

end Sys2Proof.Spec
end

section
/-!
PROOFS. Loads, stores, the spill region and copies (chapter 11): each instruction is the wrapper over its checks in their order and one effect, so
where the checks pass the effect is what is left.
-/
set_option autoImplicit false

namespace Sys2Proof.Machine
open Sys2Proof.Spec

/-- No lane, no acting member. -/
theorem acting_zero (g : Group) : g.acting 0 = [] := by
  simp [Group.acting]

/-- The check of the registers reached passes where no lane is asked for. -/
theorem reachChk_zero (s : State) (r : VReg) (n : Nat) (cls : List RegClass) : s.reachChk r n cls 0 = .ok () := by
  unfold State.reachChk
  split
  · rw [acting_zero]; rfl
  · rfl

section
variable {i : Instr} {s : State} {o : MemOpd} {k : Nat} {d : VReg}

/-- A load with one access for each lane is outstanding with its steps (R266, R267). -/
theorem completes_loadOp {np : Bool} {f : LForm} (he : exec i s = loadOp (ctlOf i) (usesOf i) o k d np f s) (hr : Runs i s)
    (hd : f = .words → s.advance.reachChk d (k / 4) [.gen] (act i s) = .ok ()) (hs : ShapeOk i s genRule)
    (hc : o.check s.advance (act i s) k k [0] [.scratch] = .ok ()) :
    Completes i s (startMem (ctlOf i) (act i s) (usesOf i).d [] (laneSteps s.advance (act i s) o k (dstReg d) np fun _ => .load f) s.advance) := by
  refine completes_of_issueT he hr (chk_bind_ok (a := ()) ?_ (chk_bind_ok hs (chk_bind_ok hc rfl)))
  cases f with
  | words => exact hd rfl
  | _ => exact reachChk_zero ..

/-- A store writes its bytes at once, or is outstanding with its steps where it must follow an older instruction (R248, R250, R268). -/
theorem completes_storeOp {n : Nat} {f : State → Nat → List Byte} (he : exec i s = storeOp (ctlOf i) (usesOf i) o k n d f s) (hr : Runs i s)
    (hd : n ≠ 0 → s.advance.reachChk d n [.gen] (act i s) = .ok ()) (hs : ShapeOk i s genRule)
    (hc : o.check s.advance (act i s) k k [1] [.scratch] = .ok ()) (ht : o.storeChk s.advance (act i s) k = .ok ()) :
    let r := s.advance
    let st := storeSteps r (act i s) o k f
    Completes i s (if st.any (r.stepAfter r.cur.core r.nextId) then startMem (ctlOf i) (act i s) none [] st r else
      ((lanesOf (act i s)).foldl (fun t l => storeAt r.cur.core (r.blockAt l).uid (r.wrefAt l) (laneBit l) (o.side r l) (o.ea r l) (f r l) t)
        r).startResults (ctlOf i) (act i s) none []) := by
  intro r st
  refine completes_of_issueT he hr (chk_bind_ok (a := ()) ?_ (chk_bind_ok hs (chk_bind_ok hc (chk_bind_ok ht ?_))))
  · by_cases hn : n = 0
    · subst hn; exact reachChk_zero ..
    · simpa [hn] using hd hn
  · simp only [apply_ite Except.ok]; rfl

/-- An instruction that nothing holds goes on with its body. -/
theorem ready_ok {h : Option State} {x y : Chk State} (hh : h = none) (hx : x = y) :
    (match (generalizing := false) h with | some s' => .ok s' | none => x) = y := by
  subst hh; exact hx

/-- A test of each acting member's warp passes where no member fails it. -/
theorem memberFail_ok {r : State} {m : Mask} {c : Cause} {info : Word} {p : Member → Bool} (h : ∀ x ∈ r.cur.acting m, p x = false) :
    r.memberFail m c info p = .ok () := by
  have hnone : (r.cur.acting m).filter p = [] := by simpa using h
  simp only [State.memberFail, hnone]
  rfl

end

end Sys2Proof.Machine

namespace Sys2Proof.Spec
open Sys2Proof.Machine

/-- Settles O32: the loads are `loadOp`; LDU has one step for each warp; the tests and PRWAIT are their wrappers. -/
theorem loadAndPresenceResults : Obligations.LoadAndPresenceResults := by
  intro c o s p
  refine ⟨⟨?ld, ?ldnp, ?ldv, ?ldu⟩, ?prtest, ?prwait, ?rltest⟩
  case ld => exact fun hr hs hc => completes_loadOp (congrFun (execLd.eq_def c o) s) hr nofun hs hc
  case ldnp => exact fun hr hs hc => completes_loadOp (congrFun (execLdnp.eq_def c o) s) hr nofun hs hc
  case ldv => exact fun hr hs hd hc => completes_loadOp (congrFun (execLdv.eq_def c o) s) hr (fun _ => hd) hs hc
  case ldu =>
    exact fun hr hs hu hc => completes_of_issueT (congrFun (execLdu.eq_def c o) s) hr (chk_bind_ok hs (chk_bind_ok hu (chk_bind_ok hc rfl)))
  case prtest =>
    exact fun hr hc hs => completes_of_issueT (congrFun (execPrtest.eq_def c p) s) hr (chk_bind_ok hs (chk_bind_ok hc rfl))
  case prwait =>
    exact fun hr hc hs => completes_of_issueT (congrFun (execPrwait.eq_def c o) s) hr (chk_bind_ok hs (chk_bind_ok hc rfl))
  case rltest => exact fun hr hs => completes_of_issueT (congrFun (execRltest.eq_def c p) s) hr (chk_bind_ok hs rfl)

/-- Settles O33: ST and STV are `storeOp`; LDSP and STSP are the wrapper over one of their two forms. -/
theorem storeAndSpillResults : Obligations.StoreAndSpillResults := by
  intro c o s d
  refine ⟨⟨?st, ?stv⟩, ?ldspSp, ?ldsp, ?stspAdj, ?stsp⟩
  case st => exact fun hr hs hc ht => completes_storeOp (congrFun (execSt.eq_def c o) s) hr (absurd rfl) hs hc ht
  case stv => exact fun hr hs hd hc ht => completes_storeOp (congrFun (execStv.eq_def c o) s) hr (fun _ => hd) hs hc ht
  case ldspSp =>
    intro hd hr hsub hs
    refine completes_of_issueT (i := .ldsp c o) (congrFun (execLdsp.eq_def c o) s) hr ?_
    simp only [hsub, beq_self_eq_true, if_true, hd]
    exact chk_bind_ok hs rfl
  case ldsp =>
    intro hd hr hsub hs hc
    refine completes_of_issueT (i := .ldsp c o) (congrFun (execLdsp.eq_def c o) s) hr ?_
    simp only [beq_iff_eq, hsub, if_false, hd]
    exact chk_bind_ok hs (chk_bind_ok hc rfl)
  case stspAdj =>
    intro hr hsub hall
    refine completes_of_issueT (i := .stsp c o) (congrFun (execStsp.eq_def c o) s) hr ?_
    simp only [hsub, beq_self_eq_true, if_true]
    refine chk_bind_ok (memberFail_ok fun m hm => ?_) rfl
    have := List.all_eq_true.mp hall m hm
    simp only [Bool.and_eq_true, decide_eq_true_eq] at this
    obtain ⟨hlo, hhi⟩ := this
    simp only [Bool.or_eq_false_iff, decide_eq_false_iff_not, not_lt]
    exact ⟨hlo, hhi⟩
  case stsp =>
    intro hr hsub hs hc
    refine completes_of_issueT (i := .stsp c o) (congrFun (execStsp.eq_def c o) s) hr ?_
    simp only [beq_iff_eq, hsub, if_false]
    exact chk_bind_ok hs (chk_bind_ok hc rfl)

/-- Settles O34: each instruction is the wrapper over its checks, and CPKICK registers or parks by the entries that are free. -/
theorem copyResults : Obligations.CopyResults := by
  intro c o v s r core
  refine ⟨?cpkick, ?cpstat, ?cpcancel, ?cpin, ?cpout⟩
  case cpkick =>
    intro hr hs l op n hlo hhi haddr hhold cs hcs
    have hcount : trapIf (n == 0 || decide (16 < n)) .shaperec (act (.cpkick c o) s) 0x48 = .ok () := by
      have hin : (n == 0 || decide (16 < n)) = false := by simp; omega
      rw [hin]; rfl
    have hplace : onLanes (act (.cpkick c o) s) (kickAddr op r l n) = .ok () := by rw [haddr]; rfl
    have hrecs : onLanes (act (.cpkick c o) s) (recordsChk r (r.wrefAt l) (r.blockAt l) (op.side r l) n 0 (op.ea r l) []) = .ok cs := by rw [hcs]; rfl
    refine ⟨fun hfit => ?_, fun hfull => ?_⟩ <;>
      refine completes_of_issueT (i := .cpkick c o) (congrFun (execCpkick.eq_def c o) s) hr
        (chk_bind_ok hs (chk_bind_ok hcount (chk_bind_ok hplace (ready_ok hhold (chk_bind_ok hrecs ?_)))))
    · exact if_pos hfit
    · exact if_neg (Nat.not_le.mpr hfull)
  case cpstat =>
    refine fun hr hs => completes_of_issueT (congrFun (execCpstat.eq_def c v) s) hr (chk_bind_ok hs ?_)
    simp only [beq_iff_eq]
    rfl
  case cpcancel => exact fun hr hs => completes_of_issueT (congrFun (execCpcancel.eq_def c v) s) hr (chk_bind_ok hs rfl)
  case cpin =>
    intro hr dst hc hhold
    exact completes_of_issueT (i := .cpin c o) (congrFun (execCpin.eq_def c o) s) hr (chk_bind_ok hc (ready_ok hhold rfl))
  case cpout =>
    intro hr dst hc hhold
    exact completes_of_issueT (i := .cpout c o) (congrFun (execCpout.eq_def c o) s) hr (chk_bind_ok hc (ready_ok hhold rfl))

end Sys2Proof.Spec
end

section
/-!
PROOFS. Volume requests, rows of the Lexicon and item queues (chapters 12 and 13): the wrapper over the checks of R298, R307 and R316 in their order, and
one request, one list of steps or one body over the owner's lanes.
-/
set_option autoImplicit false

namespace Sys2Proof.Machine
open Sys2Proof.Spec

/-- A volume instruction that acts on each active lane starts its request where the checks of R298 pass. -/
theorem completes_volOp {i : Instr} {s : State} {o : OpsM} {op : Nat} {rights : List Nat} {typed : Bool} {vals : Nat → List (BitVec 64)}
    (he : exec i s = volOp (ctlOf i) (usesOf i) o op rights typed s)
    (hvals : ∀ l, (if op = 1 ∨ op = 2 then chanVals s.advance o.m o.d l else []) = vals l) (hr : Runs i s)
    (hb : s.advance.reachChk o.b 3 [.gen, .aff, .uni] (act i s) = .ok ())
    (hd : s.advance.reachChk o.d (if typed then chanRegs o.m else 1) [.gen] (act i s) = .ok ()) (hs : ShapeOk i s genRule)
    (hcap : volCapChk s.advance (act i s) o.cap.toNat rights = .ok ()) (hxyz : coordChk s.advance (act i s) o.b = .ok ())
    (hty : typed → typeChk s.advance (act i s) o.cap.toNat o.m.ty (o.m.imm.toNat % 16) (o.m.sub.toNat + 1) = .ok ()) :
    Completes i s (startVol (ctlOf i) (act i s) (usesOf i).d
      { op := op, ty := o.m.ty, sat := o.m.sat, c := o.m.imm.toNat % 16, n := o.m.sub.toNat + 1, d := o.d
        todo := volLanes s.advance (act i s) o.cap.toNat o.b vals } s.advance) := by
  obtain rfl : (fun l => if op = 1 ∨ op = 2 then chanVals s.advance o.m o.d l else []) = vals := funext hvals
  exact completes_of_issueT he hr (chk_bind_ok hb (chk_bind_ok hd (chk_bind_ok hs (chk_bind_ok hcap (chk_bind_ok hxyz (chk_opt_ok hty rfl))))))

end Sys2Proof.Machine

namespace Sys2Proof.Spec
open Sys2Proof.Machine

/-- Settles O35: seven instructions are `volOp`; VTLD, VSHOOT and VBGRD are their wrappers. -/
theorem volumeResults : Obligations.VolumeResults := by
  intro c o s
  refine ⟨?lanes, ?group⟩
  case lanes =>
    intro r n ch start ready typed
    refine ⟨?vld, ?vst, ?vadd, ?vprobe, ?vnbr, ?valloc, ?vfree⟩
    case vld =>
      rintro ⟨hr, hb, hd, hs, hcap, hxyz⟩ hty
      exact completes_volOp (congrFun (execVld.eq_def c o) s) (fun _ => rfl) hr hb hd hs hcap hxyz fun _ => hty
    case vst =>
      rintro ⟨hr, hb, hd, hs, hcap, hxyz⟩ hty
      exact completes_volOp (congrFun (execVst.eq_def c o) s) (fun _ => rfl) hr hb hd hs hcap hxyz fun _ => hty
    case vadd =>
      rintro ⟨hr, hb, hd, hs, hcap, hxyz⟩ hty
      exact completes_volOp (congrFun (execVadd.eq_def c o) s) (fun _ => rfl) hr hb hd hs hcap hxyz fun _ => hty
    case vprobe =>
      rintro ⟨hr, hb, hd, hs, hcap, hxyz⟩
      exact completes_volOp (congrFun (execVprobe.eq_def c o) s) (fun _ => rfl) hr hb hd hs hcap hxyz nofun
    case vnbr =>
      rintro ⟨hr, hb, hd, hs, hcap, hxyz⟩
      exact completes_volOp (congrFun (execVnbr.eq_def c o) s) (fun _ => rfl) hr hb hd hs hcap hxyz nofun
    case valloc =>
      rintro ⟨hr, hb, hd, hs, hcap, hxyz⟩
      exact completes_volOp (congrFun (execValloc.eq_def c o) s) (fun _ => rfl) hr hb hd hs hcap hxyz nofun
    case vfree =>
      rintro ⟨hr, hb, hd, hs, hcap, hxyz⟩
      exact completes_volOp (congrFun (execVfree.eq_def c o) s) (fun _ => rfl) hr hb hd hs hcap hxyz nofun
  case group =>
    intro r low l off slot shm n ch
    refine ⟨?vtld, ?vshoot, ?vbgrdSet, ?vbgrdGet⟩
    case vtld =>
      exact fun hr hb hs hcap hxyz hal hbd hlk hhold => completes_of_issueT (i := .vtld c o) (congrFun (execVtld.eq_def c o) s) hr (chk_bind_ok hb (chk_bind_ok hs
        (chk_bind_ok hcap (chk_bind_ok hxyz (chk_bind_ok hal (chk_bind_ok hbd (chk_bind_ok hlk (ready_ok hhold rfl))))))))
    case vshoot =>
      exact fun hr hb hs hcap hxyz => completes_of_issueT (i := .vshoot c o) (congrFun (execVshoot.eq_def c o) s) hr (chk_bind_ok hb (chk_bind_ok hs
        (chk_bind_ok hcap (chk_bind_ok hxyz rfl))))
    case vbgrdSet =>
      intro hr hset hd hs hcap hty hhold
      refine completes_of_issueT (i := .vbgrd c o) (congrFun (execVbgrd.eq_def c o) s) hr ?_
      simp only [hset, if_true, Bool.not_true, Bool.false_eq_true, if_false]
      refine chk_bind_ok hd (chk_bind_ok hs (chk_bind_ok hcap (chk_bind_ok hty ?_)))
      rw [hhold]
    case vbgrdGet =>
      intro hr hset hd hs hbg hcap hty
      refine completes_of_issueT (i := .vbgrd c o) (congrFun (execVbgrd.eq_def c o) s) hr ?_
      simp only [hset, if_true, Bool.not_false, Bool.false_eq_true, if_false]
      exact chk_bind_ok hd (chk_bind_ok hs (chk_bind_ok hbg (chk_bind_ok hcap (chk_bind_ok hty rfl))))

/-- Settles O36: the wrapper over the checks of R307 and the steps of the distinct rows. -/
theorem rowResults : Obligations.RowResults := by
  intro c o s r rows
  refine ⟨?gthr, ?sctr, ?sctra⟩
  case gthr => exact fun hr hc => completes_of_issueT (congrFun (execGthr.eq_def c o) s) hr (chk_bind_ok hc rfl)
  case sctr => exact fun hr hc => completes_of_issueT (congrFun (execSctr.eq_def c o) s) hr (chk_bind_ok hc rfl)
  case sctra => exact fun hr hc => completes_of_issueT (congrFun (execSctra.eq_def c o) s) hr (chk_bind_ok hc rfl)

/-- Settles O37: the wrapper over the checks, and the body of `onClass` over the owner's active lanes. -/
theorem itemResults : Obligations.ItemResults := by
  intro c o k d off m s r
  refine ⟨?spawni, ?itemloop, ?itemget, ?itemend⟩
  case spawni =>
    refine fun hr ha hs hhold => completes_of_issueT (congrFun (execSpawni.eq_def c o) s) hr (chk_bind_ok ha (chk_bind_ok hs (ready_ok hhold ?_)))
    simp only [beq_iff_eq]
    rfl
  case itemloop =>
    refine fun hr hd hs => completes_of_issueT (congrFun (execItemloop.eq_def c k d off) s) hr (chk_bind_ok hd (chk_bind_ok hs ?_))
    simp only [beq_iff_eq]
    rfl
  case itemget =>
    refine fun hr hd hs => completes_of_issueT (congrFun (execItemget.eq_def c o) s) hr (chk_bind_ok hd (chk_bind_ok hs ?_))
    simp only [beq_iff_eq]
    rfl
  case itemend => exact fun hr => completes_of_issueT (congrFun (execItemend.eq_def c m) s) hr rfl

end Sys2Proof.Spec
end

section
/-!
PROOFS. The matrix unit for warps (R328, R329, R340, R343 to R349): in a group of one acting warp the loop over the acting warps is its body, run once.
-/
set_option autoImplicit false

namespace Sys2Proof.Machine
open Sys2Proof.Spec

section
variable {i : Instr} {s t : State} {mm : Member}

section
variable {regs : State → Mask → Chk Unit} {f : Mask → State → Member → State → Chk (State × Word)} {v : Word}

/-- In a group of one acting warp, the instruction is its body for that warp, and D takes the body's value in the warp's lanes. -/
theorem completes_warpMx_put {d : Fld} (he : exec i s = warpMx (ctlOf i) (usesOf i) regs f s) (hu : (usesOf i).d = some d) (hr : Runs i s)
    (hregs : regs s.advance (act i s) = .ok ()) (hs : ShapeOk i s uniRule) (hw : wholeChk s.advance (act i s) = .ok ()) (hmm : acting i s = [mm])
    (hf : f (act i s) s.advance mm s.advance = .ok (t, v)) :
    Completes i s (t.putD (ctlOf i) d (act i s) fun l => if mm.lanes.getLsbD l then v.setWidth 64 else 0) := by
  have hone : s.advance.cur.acting (act i s) = [mm] := hmm
  refine completes_of_issueT he hr (chk_bind_ok hregs (chk_bind_ok hs (chk_bind_ok hw ?_)))
  rw [hu, hone]
  refine chk_bind_ok (a := (t, [(mm.lanes, v)])) ?_ (congrArg (fun x => Except.ok (State.putD t _ d _ x)) (funext fun l => ?_))
  · exact chk_bind_ok (chk_bind_ok hf rfl) rfl
  · by_cases hl : mm.lanes.getLsbD l <;> simp [hl]

/-- The same for an instruction with no D. -/
theorem completes_warpMx (he : exec i s = warpMx (ctlOf i) (usesOf i) regs f s) (hu : (usesOf i).d = none) (hr : Runs i s)
    (hregs : regs s.advance (act i s) = .ok ()) (hs : ShapeOk i s uniRule) (hw : wholeChk s.advance (act i s) = .ok ()) (hmm : acting i s = [mm])
    (hf : f (act i s) s.advance mm s.advance = .ok (t, v)) : Completes i s t := by
  have hone : s.advance.cur.acting (act i s) = [mm] := hmm
  refine completes_of_issueT he hr (chk_bind_ok hregs (chk_bind_ok hs (chk_bind_ok hw ?_)))
  rw [hu, hone]
  exact chk_bind_ok (a := (t, [(mm.lanes, v)])) (chk_bind_ok (chk_bind_ok hf rfl) rfl) rfl

end

/-- A check whose condition is false passes. -/
theorem trapIf_ok {b : Bool} (h : b = false) {c : Cause} {lanes : Mask} {info : Word} : trapIf b c lanes info = .ok () := by
  subst h; rfl

/-- A reader of tiles starts for every acting warp, where the checks of R347 pass and nothing holds its lines. -/
theorem completes_readOp {t : BitVec 4} {a b : VReg} {m : Mods} {cvt : Bool} (he : exec i s = readOp (ctlOf i) (usesOf i) t a b m cvt s) (hr : Runs i s)
    (ha : uniOperand s.advance a 1 false (act i s) = .ok ()) (hb : uniOperand s.advance b 1 false (act i s) = .ok ())
    (hw : wholeChk s.advance (act i s) = .ok ()) :
    let r := s.advance
    let rs := (acting i s).map fun mm =>
      let bv := uniVal r mm b 0
      ({ w := mm.w, lanes := mm.lanes, tile := t.toNat, ver := bv.setWidth 16, off := (uniVal r mm a 0).toNat
         stride := bv.toNat / 65536, n := m.imm.toNat % 64 + 1, ty := m.ty, cvt := cvt, rnd := rndMode m.rnd (r.warp mm.w), sat := m.sat
         comp := if cvt && m.rnd == .ef then some (m.imm.toNat / 64 % 16) else none } : MxRead)
    rs.forM (readChk (act i s) r r.cur.core) = .ok () →
    holdLines (act i s) (fun l => (rs.filter fun x => x.w == r.wrefAt l).flatMap fun x => x.lines.map fun n => (.shm x.w.core x.w.seq, 64 * n)) r = none →
    Completes i s (tryReaders r.nextId rs (rs.foldl (fun s x => s.modThreads x.w x.lanes fun _ th => { th with wait := .mxver x.tile x.ver })
      ((rs.foldl (fun s x => clearPresence (.shm x.w.core x.w.seq) x.lines s) r).startOp { ctlOf i with la := 0 }
        { id := 0, core := 0, mems := [], obj := 0, pc := 0, work := .mxrd rs }))) := by
  intro r rs hrs hhold
  exact completes_of_issueT he hr (chk_bind_ok ha (chk_bind_ok hb (chk_bind_ok hw (chk_bind_ok hrs (ready_ok hhold rfl)))))

/-- A stream instruction that the owner of the unit issues, in a group of that warp alone, is its body; where it waits, it parks the warp (R340). -/
theorem completes_ownerMx {a : VReg} {tile : Nat} {body : Word → Nat → Nat → State → MxAns} {x : State}
    (he : exec i s = ownerMx (ctlOf i) (usesOf i) a tile body s) (hr : Runs i s) (hs : ShapeOk i s uniRule)
    (ha : uniOperand s.advance a 1 true (act i s) = .ok ()) (hw : wholeChk s.advance (act i s) = .ok ()) (hmm : acting i s = [mm])
    (hown : ownsUnit s.advance mm.w = true) (hx : body (uniVal s.advance mm a 0) mm.w.core mm.w.seq s.advance = .next x) :
    Completes i s (if (x.block mm.w.core mm.w.seq).mx.ops.any fun o => !o.started then
      x.modThreads mm.w mm.lanes fun _ th => { th with wait := .mxver tile ((uniVal s.advance mm a 0).setWidth 16) } else x) := by
  have hone : s.advance.cur.acting (act i s) = [mm] := hmm
  refine completes_of_issue (fun _ => he) hr ?_
  refine chk_bind_ok ha (chk_bind_ok hs (chk_bind_ok hw (chk_bind_ok (a := ()) ?_ ?_)))
  · rw [hone]
    exact trapIf_ok (by simp [hown])
  · rw [hone]
    refine chk_bind_ok (a := if (x.block mm.w.core mm.w.seq).mx.ops.any fun o => !o.started then
      x.modThreads mm.w mm.lanes fun _ th => { th with wait := .mxver tile ((uniVal s.advance mm a 0).setWidth 16) } else x) ?_ rfl
    simp only [hx]

/-- A load that a warp issues is `ownerMx` (R345). -/
theorem mxLoadOp_of_warp {c : Ctl} {u : Uses} {ldb : Bool} {a : VReg} {m : Mods} (hu : ∀ q, s.cur.unit ≠ .stream q) :
    mxLoadOp c u ldb a m s = ownerMx c u a 0 (fun off core seq t => mxLoad core seq ldb m.imm.toNat off.toNat t) s := by
  unfold mxLoadOp
  split
  · exact absurd ‹_› (hu _)
  · rfl

/-- An operation that a warp issues is `ownerMx` (R346). -/
theorem mxOpOp_of_warp {c : Ctl} {u : Uses} {a : VReg} {run : Word → Nat → Nat → State → MxAns} {tile : Nat} (hu : ∀ q, s.cur.unit ≠ .stream q) :
    mxOpOp c u a run tile s = ownerMx c u a tile run s := by
  unfold mxOpOp
  split
  · exact absurd ‹_› (hu _)
  · rfl

/-- MXWAIT that a warp issues is the wrapper over its trap (R343). -/
theorem execMxwait_of_warp {c : Ctl} {k : BitVec 4} (hu : ∀ q, s.cur.unit ≠ .stream q) :
    execMxwait c k s = issueT c (usesOf (.mxwait c k)) (fun act s => do
      wholeChk s act
      .error (mxVersion act 3)) s := by
  unfold execMxwait
  split
  · exact absurd ‹_› (hu _)
  · exact (issueT_issue hu).symm

/-! ### What loads and operations do to a block's matrix resources -/

/-- Two changes that agree on a block's matrix resources are one change of the block. -/
theorem modMx_congr {core q : Nat} {f g : Mx → Mx} (h : f (s.block core q).mx = g (s.block core q).mx) : modMx core q f s = modMx core q g s := by
  unfold modMx State.modBlock
  cases hb : s.block? core q with
  | none => rfl
  | some b =>
    have hblock : s.block core q = b := by simp only [State.block, hb, Option.getD_some]
    rw [hblock] at h
    simp only [h]

/-- A load waits for nothing where its lines are present and no operation of the block is outstanding (R341, R345). -/
theorem loadWaits_of_idle {m : Mx} {b : Block} {o : MxOp} {x : MxSrc} (hlines : (mxLines x.resv x.shape x.base).any b.absent.contains = false)
    (hops : m.ops = []) : m.loadWaits b o x = false := by
  simp [Mx.loadWaits, Mx.usesCim, Mx.usesRb, hlines, hops]

/-- A load whose checks pass (R345) reads its operand, or waits. -/
theorem mxLoad_ok {core q imm off : Nat} {ldb : Bool} {h : Shape} {r : Resv}
    (hshape : smGet? (s.block core q).mx.shapes (if ldb then imm / 128 % 16 else imm / 4 % 16) = some h) (hrows : ldb = false → ¬64 < h.rows)
    (hresv : smGet? (s.block core q).mx.resv h.resv = some r) (halign : (h.base + off) % 64 = 0) (hext : outsideExtent r h (h.base + off) = false)
    (hcim : ldb = true → imm % 32 < (s.block core q).mx.cimCount ∧ imm / 32 % 4 < mxSlots r.fmt) (hrb : ldb = false → r.fmt = 12 → imm % 4 = 0) :
    let x : MxSrc := { ldb := ldb, resv := r, shape := h, base := h.base + off }
    let o : MxOp := { kind := 3, tile := 0, rb := if ldb then 0 else imm % 4, cim := if ldb then imm % 32 else 0, slot := if ldb then imm / 32 % 4 else 0,
                      ver := 0, src := some x }
    mxLoad core q ldb imm off s = .next (modMx core q (fun m => if m.loadWaits (s.block core q) o x then { m with ops := m.ops ++ [o] } else
      m.load (s.block core q) o x) s) := by
  intro x o
  have hsmall : (!ldb && decide (64 < h.rows)) = false := by cases ldb <;> simp_all
  have hmacro : ¬(ldb = true ∧ (s.block core q).mx.cimCount ≤ imm % 32) := fun ⟨h1, h2⟩ => by have := hcim h1; omega
  have hslot : ¬(ldb = true ∧ mxSlots r.fmt ≤ imm / 32 % 4) := fun ⟨h1, h2⟩ => by have := hcim h1; omega
  have hbuf : ¬((!ldb) = true ∧ r.fmt = 12 ∧ imm % 4 ≠ 0) := fun ⟨h1, h2, h3⟩ => h3 (hrb (by simpa using h1) h2)
  simp only [mxLoad, hshape, hsmall, hresv, halign, hext, hmacro, hslot, hbuf, ne_eq, not_true_eq_false, Bool.false_eq_true, if_false]
  rfl

/-- An operation whose version is the next one of its tile enters (R335). -/
theorem enterOp_ok {core q : Nat} {o : MxOp} (h : o.ver = ((s.block core q).mx.tile o.tile).ver + BitVec.ofNat 16 ((s.block core q).mx.started o.tile)) :
    enterOp core q o s =
      .next (modMx core q (fun x => { x with ops := x.ops ++ [{ o with started := !((s.block core q).mx.busy o) }] }) s) :=
  (if_neg (not_not_intro h)).trans (congrArg MxAns.next (modMx_congr rfl))

end

end Sys2Proof.Machine

namespace Sys2Proof.Spec
open Sys2Proof.Machine

/-- Settles O38: the two readers are `readOp`; the others run their body once for the one acting warp. -/
theorem tileReaderAndMatrixSetupResults : Obligations.TileReaderAndMatrixSetupResults := by
  intro c t a b m cvt s d mm
  refine ⟨?readers, ?setup⟩
  case readers =>
    cases cvt with
    | false => exact fun hr ha hb hw => completes_readOp (i := .mxst c t a b m) (congrFun (execMxst.eq_def c t a b m) s) hr ha hb hw
    | true => exact fun hr ha hb hw => completes_readOp (i := .mxcvt c t a b m) (congrFun (execMxcvt.eq_def c t a b m) s) hr ha hb hw
  case setup =>
    intro r bk mx ready with_ put
    refine ⟨?obresWin, ?obresMx, ?obrelWin, ?obrelMx, ?shape, ?mxver, ?flags0, ?flags1, ?flags2, ?flags3⟩
    case obresWin =>
      rintro ⟨hr, hs, hw, hmm⟩ hsub ha x hx
      refine completes_warpMx_put (i := .obres c d a m) (congrFun (execObres.eq_def c d a m) s) rfl hr ?_ hs hw hmm ?_
      · simp only [hsub]; exact ha
      · simp only [hsub]
        exact chk_bind_ok hx rfl
    case obresMx =>
      rintro ⟨hr, hs, hw, hmm⟩ hsub ha hclaim tiles cims ht hc hres
      have hnone : bk.mx.claim.isSome = false := by rw [hclaim]; rfl
      have hwidth : (decide (16 < tiles) || decide (32 < cims) || uniVal r mm a 0 &&& 0xFFFFC0E0 != 0) = false := by
        simp only [hres, bne_self_eq_false, Bool.or_false, Bool.or_eq_false_iff, decide_eq_false_iff_not, Nat.not_lt]
        exact ⟨ht, hc⟩
      split
      next hfit =>
        refine completes_warpMx_put (i := .obres c d a m) (congrFun (execObres.eq_def c d a m) s) rfl hr ?_ hs hw hmm ?_ <;>
          simp only [beq_iff_eq, hsub, if_false]
        · exact ha
        · exact chk_bind_ok (trapIf_ok hnone) (chk_bind_ok (trapIf_ok hwidth) (if_pos hfit))
      next hfull =>
        refine completes_warpMx_put (i := .obres c d a m) (congrFun (execObres.eq_def c d a m) s) rfl hr ?_ hs hw hmm ?_ <;>
          simp only [beq_iff_eq, hsub, if_false]
        · exact ha
        · exact chk_bind_ok (trapIf_ok hnone) (chk_bind_ok (trapIf_ok hwidth) (if_neg hfull))
    case obrelWin =>
      rintro ⟨hr, hs, hw, hmm⟩ hsub
      refine completes_warpMx (i := .obrel c m) (v := 0) (congrFun (execObrel.eq_def c m) s) rfl hr rfl hs hw hmm ?_
      simp only [hsub]
      rfl
    case obrelMx =>
      rintro ⟨hr, hs, hw, hmm⟩ hsub hclaim hidle hops hown
      refine completes_warpMx (i := .obrel c m) (v := 0) (congrFun (execObrel.eq_def c m) s) rfl hr rfl hs hw hmm ?_
      simp only [beq_iff_eq, hsub, if_false]
      refine chk_bind_ok (trapIf_ok ?_) rfl
      obtain ⟨x, hx⟩ := Option.isSome_iff_exists.mp hclaim
      simp only [bk, r] at hx hidle hops hown
      simp [hx, hidle, hops, hown]
    case shape =>
      rintro ⟨hr, hs, hw, hmm⟩ ha hb v h w hresv hr1 hr2 hc1 hc2 hbase hstride h16 h32 hext
      have hsize : (h.rows == 0 || decide (128 < h.rows) || h.cols == 0 || decide (128 < h.cols)) = false := by simp; omega
      have hrow : (decide (h.stride < rowBytesOf w.fmt h.cols) || h.stride % 16 != 0 ||
          (mxScaled w.fmt && mxBits w.fmt == 8 && h.stride % 32 != 0)) = false := by
        simp only [Bool.or_eq_false_iff, decide_eq_false_iff_not, Nat.not_lt, bne_eq_false_iff_eq, Bool.and_eq_false_imp, Bool.and_eq_true, beq_iff_eq]
        exact ⟨⟨hstride, h16⟩, fun ⟨hsc, hb8⟩ => h32 hsc hb8⟩
      refine completes_warpMx (i := .shape c a b m) (v := 0) (congrFun (execShape.eq_def c a b m) s) rfl hr (chk_bind_ok ha hb) hs hw hmm
        (chk_bind_ok (trapIf_ok hsize) ?_)
      have hfound : smGet? (s.advance.mx mm.w).resv ((uniVal s.advance mm b 0).toNat / 65536 % 16) = some w := hresv
      simp only [hfound]
      exact chk_bind_ok (trapIf_ok (by simpa using hbase)) (chk_bind_ok (trapIf_ok hrow) (chk_bind_ok (trapIf_ok hext) rfl))
    case mxver =>
      rintro ⟨hr, hs, hw, hmm⟩ ht
      refine completes_warpMx_put (i := .mxver c d t) (congrFun (execMxver.eq_def c d t) s) rfl hr rfl hs hw hmm (chk_bind_ok (trapIf_ok ?_) rfl)
      exact decide_eq_false (Nat.not_le.mpr ht)
    case flags0 | flags1 | flags2 | flags3 =>
      rintro ⟨hr, hs, hw, hmm⟩ hsub
      refine completes_warpMx_put (i := .mxflags c d m) (congrFun (execMxflags.eq_def c d m) s) rfl hr rfl hs hw hmm ?_
      simp only [hsub]
      rfl

/-- Settles O39: the five stream instructions are `ownerMx`; the others loop over the one acting warp. -/
theorem warpMatrixResults : Obligations.WarpMatrixResults := by
  intro c t a m s mm x k
  refine ⟨?owner, ?warp⟩
  case owner =>
    intro r v ready parked
    refine ⟨?ldb, ?lda, ?mac, ?macs, ?zero⟩
    case ldb =>
      rintro ⟨hr, hs, ha, hw, hmm, hown⟩ hx
      exact completes_ownerMx (i := .mxldb c a m) ((congrFun (execMxldb.eq_def c a m) s).trans (mxLoadOp_of_warp hr.unit)) hr hs ha hw hmm hown hx
    case lda =>
      rintro ⟨hr, hs, ha, hw, hmm, hown⟩ hx
      exact completes_ownerMx (i := .mxlda c a m) ((congrFun (execMxlda.eq_def c a m) s).trans (mxLoadOp_of_warp hr.unit)) hr hs ha hw hmm hown hx
    case mac =>
      rintro ⟨hr, hs, ha, hw, hmm, hown⟩ hx
      exact completes_ownerMx (i := .mxmac c t a m) ((congrFun (execMxmac.eq_def c t a m) s).trans (mxOpOp_of_warp hr.unit)) hr hs ha hw hmm hown hx
    case macs =>
      rintro ⟨hr, hs, ha, hw, hmm, hown⟩ hx
      exact completes_ownerMx (i := .mxmacs c t a m) ((congrFun (execMxmacs.eq_def c t a m) s).trans (mxOpOp_of_warp hr.unit)) hr hs ha hw hmm hown hx
    case zero =>
      rintro ⟨hr, hs, ha, hw, hmm, hown⟩ hx
      exact completes_ownerMx (i := .mxzero c t a m) ((congrFun (execMxzero.eq_def c t a m) s).trans (mxOpOp_of_warp hr.unit)) hr hs ha hw hmm hown hx
  case warp =>
    intro r core ready b bar
    refine ⟨?mxbar, ?mxacq, ?mxrel, ?mxwait⟩
    case mxbar =>
      rintro ⟨hr, hw, hmm⟩ hfault hteam hhold
      have hone : s.advance.cur.acting (act (.mxbar c k) s) = [mm] := hmm
      refine completes_of_issueT (i := .mxbar c k) (congrFun (execMxbar.eq_def c k) s) hr (chk_bind_ok hw ?_)
      rw [hone]
      refine chk_bind_ok (a := ()) (chk_bind_ok (chk_bind_ok hfault (chk_bind_ok (trapIf_ok ?_) (trapIf_ok ?_))) rfl) (ready_ok hhold ?_)
      · exact beq_false_of_ne (Nat.ne_of_gt (Nat.lt_of_le_of_lt (Nat.zero_le _) hteam))
      · exact decide_eq_false (Nat.not_le.mpr hteam)
      · rw [State.advance_cur]; rfl
    case mxacq =>
      rintro ⟨hr, hw, hmm⟩ hsolo hnew
      have hone : s.advance.cur.acting (act (.mxacq c m) s) = [mm] := hmm
      refine completes_of_issueT (i := .mxacq c m) (congrFun (execMxacq.eq_def c m) s) hr (chk_bind_ok hw (chk_bind_ok (trapIf_ok ?_) ?_))
      · exact congrArg not hsolo
      · rw [hone]
        exact chk_bind_ok (trapIf_ok ((Bool.or_false _).trans hnew)) rfl
    case mxrel =>
      rintro ⟨hr, hw, hmm⟩ hown
      have hone : s.advance.cur.acting (act (.mxrel c m) s) = [mm] := hmm
      refine completes_of_issueT (i := .mxrel c m) (congrFun (execMxrel.eq_def c m) s) hr (chk_bind_ok hw ?_)
      rw [hone]
      exact chk_bind_ok (trapIf_ok (congrArg not ((Bool.and_true _).trans hown))) rfl
    case mxwait => exact fun hr hw => traps_of_issueT (i := .mxwait c k) (execMxwait_of_warp hr.unit) hr (chk_bind_ok hw rfl)

/-- Settles O40: the checks of R345 and R346 pass, and neither a line nor an operation holds a load back. -/
theorem matrixOperationEffects : Obligations.MatrixOperationEffects := by
  intro core q t imm off ver s b m load
  have hload : ∀ ldb, load ldb (if ldb then imm / 128 % 16 else imm / 4 % 16) := by
    intro ldb h r hshape hrows hresv halign hext hcim hrb habs hops _ _
    rw [mxLoad_ok hshape (fun h0 => Nat.not_lt.mpr (hrows h0)) hresv halign hext hcim hrb]
    refine congrArg MxAns.next (modMx_congr ?_)
    rw [if_neg (Bool.eq_false_iff.mp (loadWaits_of_idle (x := { ldb := ldb, resv := r, shape := h, base := h.base + off }) habs hops))]
    cases ldb <;> rfl
  refine ⟨hload true, hload false, ?_⟩
  intro hver enter
  refine ⟨?mac, ?zero⟩
  case mac =>
    intro skip hchk
    have hpass : macChk (s.block core q).mx t (imm % 4) (imm / 4 % 32) (imm / 128 % 4) = none := hchk
    simp only [mxMac, hpass]
    exact enterOp_ok (o := { kind := if skip then 2 else 1, tile := t, rb := imm % 4, cim := imm / 4 % 32, slot := imm / 128 % 4
                             ver := ver.setWidth 16 }) hver
  case zero =>
    intro f64 ht hf
    have hin : ¬(m.tileCount ≤ t ∨ (f64 ∧ (t % 2 = 1 ∨ m.tileCount ≤ t + 1))) := by
      rintro (h | ⟨h64, h⟩)
      · omega
      · obtain ⟨heven, hpair⟩ := hf h64
        omega
    exact (if_neg hin).trans (enterOp_ok (o := { kind := 0, tile := t, f64 := f64, ver := ver.setWidth 16 }) hver)

end Sys2Proof.Spec
end

section
/-!
PROOFS. The solver, fences, atomics and Conjunction objects (chapters 15 and 16): the wrapper over the checks, then the registration, the accesses or the
step of the object.
-/
set_option autoImplicit false

namespace Sys2Proof.Machine
open Sys2Proof.Spec

/-- A search for a failing entry that finds none passes. -/
theorem noErr_ok {x : Option (Nat × Nat)} {f : Unit → Chk State} {g : Nat → Nat → TrapReq} {y : Chk State} (hx : x = none) (hf : f () = y) :
    (match (generalizing := false) x with | some (a, b) => (.error (g a b) : Chk Unit) >>= f | none => (.ok () : Chk Unit) >>= f) = y := by
  subst hx; exact hf

/-- A check that passes for the group passes as the group's. -/
theorem onLanes_ok {α : Type} {act : Mask} {x : Chk α} {a : α} (h : x = .ok a) : onLanes act x = .ok a := by
  rw [h]; rfl

/-! ### Conjunction objects -/

@[simp] theorem laneWrites_nil (s : State) (ms : List Member) (d : VReg) : laneWrites s ms d [] = [] := by
  unfold laneWrites
  split
  · rfl
  · refine List.flatMap_eq_nil_iff.mpr fun m _ => ?_
    split <;> rfl

section
variable {c : Ctl} {a : Mask} {d : Option Fld} {q : CjReq} {s : State}

/-- An instruction whose gate is open and whose step is performed goes on with the values of its lanes. -/
theorem startCj_done {t : State} {vals : List (Nat × Word)} (hgate : cjGate s s.cur.core s.nextId (s.cur.acting a) false false q = .ok)
    (hstep : performCj q s = .done t vals) :
    startCj c a d q s = .ok (
      let x := acquireLanes (s.cur.acting a) q.acq (t.latchResult s.cur.core q.hold vals)
      let rws := laneWrites t (s.cur.acting a) q.d vals
      let base : LongOp := { id := s.nextId, core := s.cur.core, mems := s.cur.mems, obj := s.cur.obj, pc := s.cur.pc, marks := marksOf s.cur a d [] }
      afterCj q (if q.kind == 3 then x.startOp c { base with rws := rws } else rws.foldl deliver x)) := by
  simp only [startCj, hgate, hstep, beq_self_eq_true, if_true]

/-- A CJWAIT whose gate is open and whose condition does not hold parks its lanes (R392). -/
theorem startCj_parks (hgate : cjGate s s.cur.core s.nextId (s.cur.acting a) false false q = .ok) (hkind : q.kind = 3) (hstep : performCj q s = .wait s) :
    startCj c a d q s = .ok (
      let base : LongOp := { id := s.nextId, core := s.cur.core, mems := s.cur.mems, obj := s.cur.obj, pc := s.cur.pc, marks := marksOf s.cur a d [] }
      (s.startOp c { base with work := .conj { q with parked := true } }).modMembers (s.cur.acting a) fun m w =>
        w.modThreads m.lanes fun _ th => { th with wait := .conj s.nextId }) := by
  simp only [startCj, hgate, hstep, hkind, beq_self_eq_true, if_true]
  rfl

/-- The step of CJARR, CJDROP and CJBYTE with no failing lane (R391). -/
theorem performCj_counts {k : Nat} (hk : q.kind = k + 1) (h3 : k ≠ 2) (h5 : k ≠ 4) (hno : (cjLanes (k + 1) q.vals (s.cj q.side q.off)).1 = []) :
    performCj q s = .done (s.putCj q.side q.off (cjLanes (k + 1) q.vals (s.cj q.side q.off)).2.2)
      (if k + 1 = 4 then [] else (cjLanes (k + 1) q.vals (s.cj q.side q.off)).2.1) := by
  have htrap : cjTrap (cjLanes (k + 1) q.vals (s.cj q.side q.off)).1 = none := by rw [hno]; rfl
  unfold performCj
  simp only [hk]
  split
  · exact absurd ‹_› (Nat.succ_ne_zero k)
  · omega
  · omega
  · simp only [htrap]

end

/-- A Conjunction instruction starts where the checks of its lowest active lane pass (R384, R385). -/
theorem completes_cjOp {i : Instr} {s t : State} {o : OpsM} {kind : Nat} {sh : Shp} (he : exec i s = cjOp (ctlOf i) (usesOf i) o kind sh s) (hr : Runs i s)
    (hs : ShapeOk i s fun _ _ => sh) :
    let l := (lanesOf (act i s)).headD 0
    let store := !(kind == 3 || kind == 5)
    (opdS o).check s.advance (laneBit l) 64 64 [if store then 1 else 0] (if store then [.data, .scratch] else [.data, .scratch, .report]) = .ok () →
    (store → (opdS o).storeChk s.advance (laneBit l) 64 = .ok ()) →
    startCj (ctlOf i) (act i s) (usesOf i).d
      { kind := kind, sub := o.m.sub.toNat % 8, side := (opdS o).side s.advance l, off := (opdS o).ea s.advance l, d := o.d
        vals := (if kind == 1 || kind == 2 || kind == 4 then s.advance.groupLanes (act i s) else lanesOf (act i s)).map
          fun l => (l, (opD i s.advance l).setWidth 32)
        rel := store && scopeDie o.m, acq := !store && scopeDie o.m, hold := s.advance.resultSlot (ctlOf i) } s.advance = .ok t →
    Completes i s t :=
  fun hc ht hstart => completes_of_issueT he hr (chk_bind_ok hs (chk_bind_ok hc (chk_opt_ok ht hstart)))

end Sys2Proof.Machine

namespace Sys2Proof.Spec
open Sys2Proof.Machine

/-- Settles O41: SCHRUN is the wrapper over its checks and its two ends; SCHSTAT writes a count. -/
theorem solverResults : Obligations.SolverResults := by
  intro c o v s r i l op w base n k es len run
  refine ⟨?schrun, ?schstat, ?clear⟩
  case schrun =>
    intro hr hreach hs hcap hplace hn halign herr hlock hhold t
    have hzero : (n == 0 || base % k != 0) = false := by simp [hn, halign]
    have haddr : onLanes (act i s) (do
        if !op.shm then
          capChk r (laneBit l) op.cap [0] [.scratch]
          trapIf (r.homeOf (op.side r l) != some r.cur.core) .capright 0
        op.place r (laneBit l) (8 * n) 8) = .ok () := by
      refine onLanes_ok ?_
      cases hshm : op.shm with
      | true => exact hplace
      | false =>
        obtain ⟨hc, hhome⟩ := hcap hshm
        exact chk_bind_ok hc (chk_bind_ok (trapIf_ok (by simp [hhome])) hplace)
    refine completes_of_issueT (i := i) (congrFun (execSchrun.eq_def c o) s) hr (chk_bind_ok hreach (chk_bind_ok hs (chk_bind_ok haddr
      (chk_bind_ok (trapIf_ok hzero) (ready_ok hhold ?_)))))
    exact noErr_ok herr (chk_bind_ok (trapIf_ok hlock) (apply_ite Except.ok _ _ _).symm)
  case schstat =>
    intro hsub hr hs d hd
    refine completes_of_issueT (i := .schstat c v) (congrFun (execSchstat.eq_def c v) s) hr (chk_bind_ok hs ?_)
    simp only [hd, beq_iff_eq, hsub, if_false]
    refine congrArg (fun f => Except.ok (State.putD s.advance c d (act (.schstat c v) s) f)) (funext fun l => ?_)
    split <;> rfl
  case clear =>
    intro d hd hsub hr hs
    refine completes_of_issueT (i := .schstat c v) (congrFun (execSchstat.eq_def c v) s) hr (chk_bind_ok hs ?_)
    simp only [hd, hsub]
    rfl

/-- Settles O42: a fence is done or outstanding; the atomics are the wrapper over their checks and their steps. -/
theorem fenceAndAtomicResults : Obligations.FenceAndAtomicResults := by
  intro c m s o
  refine ⟨?fence, ?atomics⟩
  case fence =>
    intro hr r ms kind
    refine ⟨fun hmet => ?_, fun hmet => ?_⟩ <;> refine completes_of_issueT (i := .fence c m) (congrFun (execFence.eq_def c m) s) hr (congrArg Except.ok ?_)
    · exact if_pos hmet
    · exact if_neg (Bool.eq_false_iff.mp hmet)
  case atomics =>
    refine ⟨?atom, ?atomc, ?ldacq, ?strel⟩
    case atom =>
      exact fun hr hs hc ht => completes_of_issueT (congrFun (execAtom.eq_def c o) s) hr (chk_bind_ok hs (chk_bind_ok hc (chk_bind_ok ht rfl)))
    case atomc =>
      exact fun hr hd hs hc ht => completes_of_issueT (congrFun (execAtomc.eq_def c o) s) hr (chk_bind_ok hd (chk_bind_ok hs (chk_bind_ok hc
        (chk_bind_ok ht rfl))))
    case ldacq => exact fun hr hs hc => completes_of_issueT (congrFun (execLdacq.eq_def c o) s) hr (chk_bind_ok hs (chk_bind_ok hc rfl))
    case strel =>
      exact fun hr hs hc ht => completes_of_issueT (congrFun (execStrel.eq_def c o) s) hr (chk_bind_ok hs (chk_bind_ok hc (chk_bind_ok ht rfl)))

/-- Settles O43: each instruction is `cjOp`, whose step on the open object is performed or parks. -/
theorem conjunctionResults : Obligations.ConjunctionResults := by
  intro c o s r low order req ready obj count counted phases w x base
  refine ⟨?init, ?arr, ?drop, ?byte, ?waitDone, ?waitPark, ?test⟩
  case init =>
    rintro ⟨hr, hs, hc, ht, hg⟩
    refine completes_cjOp (i := .cjinit c o) (congrFun (execCjinit.eq_def c o) s) hr hs hc (fun _ => ht nofun nofun) ((startCj_done hg rfl).trans ?_)
    simp only [laneWrites_nil]
    rfl
  case arr =>
    rintro ⟨hr, hs, hc, ht, hg⟩ hno
    exact completes_cjOp (i := .cjarr c o) (congrFun (execCjarr.eq_def c o) s) hr hs hc (fun _ => ht nofun nofun)
      (startCj_done hg (performCj_counts rfl nofun nofun hno))
  case drop =>
    rintro ⟨hr, hs, hc, ht, hg⟩ hno
    exact completes_cjOp (i := .cjdrop c o) (congrFun (execCjdrop.eq_def c o) s) hr hs hc (fun _ => ht nofun nofun)
      (startCj_done hg (performCj_counts rfl nofun nofun hno))
  case byte =>
    rintro ⟨hr, hs, hc, ht, hg⟩ hno
    exact completes_cjOp (i := .cjbyte c o) (congrFun (execCjbyte.eq_def c o) s) hr hs hc (fun _ => ht nofun nofun)
      (startCj_done hg (performCj_counts rfl nofun nofun hno))
  case waitDone =>
    rintro ⟨hr, hs, hc, ht, hg⟩ hovf hwake
    have hstep : performCj w r = .done r (w.vals.map fun v => (v.1, x.phase)) := by
      have hwake' : (w.sub == 1 || x.wakes (w.vals.headD (0, 0)).2) = true := by simpa using hwake
      exact (if_neg (Bool.eq_false_iff.mp hovf)).trans (if_pos hwake')
    exact completes_cjOp (i := .cjwait c o) (congrFun (execCjwait.eq_def c o) s) hr hs hc nofun (startCj_done hg hstep)
  case waitPark =>
    rintro ⟨hr, hs, hc, ht, hg⟩ hovf hsub hsleep
    have hstep : performCj w r = .wait r := by
      have hsleep' : ¬(w.sub == 1 || x.wakes (w.vals.headD (0, 0)).2) = true := by
        rw [hsleep]; simp [hsub]
      exact (if_neg (Bool.eq_false_iff.mp hovf)).trans (if_neg hsleep')
    exact completes_cjOp (i := .cjwait c o) (congrFun (execCjwait.eq_def c o) s) hr hs hc nofun (startCj_parks hg rfl hstep)
  case test =>
    rintro ⟨hr, hs, hc, ht, hg⟩ vals
    exact completes_cjOp (i := .cjtest c o) (congrFun (execCjtest.eq_def c o) s) hr hs hc nofun (startCj_done hg rfl)

end Sys2Proof.Spec
end

section
/-!
PROOFS. Tasks, child grids, standing programs and capabilities (chapters 4, 5 and 17): the wrapper over the checks in their order and the effect that
is left where they pass and nothing holds the instruction.
-/
set_option autoImplicit false

namespace Sys2Proof.Machine
open Sys2Proof.Spec

/-! ### What holds an instruction, and what it finds -/

@[simp] theorem State.startOp_cur (s : State) (c : Ctl) (o : LongOp) : (s.startOp c o).cur = s.cur := by
  simp [State.startOp]

/-- An instruction that is held answers the state in which it is. -/
theorem held_ok {h : Option State} {t : State} {x : Chk State} (hh : h = some t) :
    (match (generalizing := false) h with | some s' => .ok s' | none => x : Chk State) = .ok t := by
  subst hh; rfl

/-- An instruction on a standing program that stands in its slot goes on with it. -/
theorem found_ok {h : Option Prog} {p : Prog} {x y : Chk State} {f : Prog → Chk State} (hh : h = some p) (hx : f p = y) :
    (match (generalizing := false) h with | none => x | some p => f p) = y := by
  subst hh; exact hx

/-- RPOST in a block that a task record started goes on with the record. -/
theorem task_ok {o : Origin} {q : TaskRec} {x y : Chk State} {f : TaskRec → Chk State} (hh : o = .task q) (hx : f q = y) :
    (match (generalizing := false) o with | .grid .. => x | .task r => f r) = y := by
  subst hh; exact hx

/-- A commit that neither an earlier access nor a cut holds goes on. -/
theorem commit_ok {h : Option State} {k : Option LongOp} {x y : Chk State} {f : LongOp → Chk State} (hh : h = none) (hk : k = none) (hx : x = y) :
    (match (generalizing := false) h, k with | some s', _ => .ok s' | none, some cut => f cut | none, none => x) = y := by
  subst hh hk; exact hx

/-! ### Joins -/

/-- A join completes with its block's count where that is at most A (R418). -/
theorem completes_joinOp {i : Instr} {s : State} {o : OpsV} {count : Block → Nat} {wait : Nat → Nat → Wait}
    (he : exec i s = joinOp (ctlOf i) (usesOf i) o count wait s) (hr : Runs i s) (ha : s.advance.uniformChk o.a (act i s) = .ok ())
    (hs : ShapeOk i s uniRule) :
    let r := s.advance
    let b := r.blockAt ((lanesOf (act i s)).headD 0)
    let t := r.u32 o.a ((lanesOf (act i s)).headD 0)
    (count b ≤ t → Completes i s ((acquireLanes (acting i s) true r).startResults (ctlOf i) (act i s) (usesOf i).d
      (r.writesOf (act i s) (usesOf i).d fun _ => BitVec.ofNat 64 (count b)))) ∧
    (t < count b → Completes i s ((r.startOp (ctlOf i) { id := 0, core := 0, mems := [], obj := 0, pc := 0
                                                         marks := marksOf r.cur (act i s) (usesOf i).d [], work := .join }).modMembers
      (acting i s) fun m w => w.modThreads m.lanes fun _ th => { th with wait := wait b.uid t, pc := s.cur.pc })) := by
  intro r b t
  refine ⟨fun hle => ?_, fun hlt => ?_⟩ <;> refine completes_of_issueT he hr (chk_bind_ok ha (chk_bind_ok hs ?_))
  · exact if_pos hle
  · refine (if_neg (Nat.not_le.mpr hlt)).trans ?_
    simp only [State.startOp_cur, State.advance_cur, acting, r]
    rfl

/-! ### Capability registers -/

/-- Where every block's new register is formed, each block takes its own (R88). -/
theorem capWrite_ok {cd : Nat} {f : (Nat × Nat) × Nat → Chk Cap} {y : (Nat × Nat) × Nat → Cap} {s : State} {l : List ((Nat × Nat) × Nat)}
    (h : ∀ x ∈ l, f x = .ok (y x)) : capWrite cd f s l = .ok (l.foldr (fun x t => t.putCap x.1.1 x.1.2 cd (y x)) s) := by
  induction l with
  | nil => rfl
  | cons x l ih =>
    exact chk_bind_ok (h x (List.mem_cons_self ..)) (chk_bind_ok (ih fun z hz => h z (List.mem_cons_of_mem _ hz)) rfl)

/-- A capability that may be derived, within its bounds, is derived (R90). -/
theorem derive_ok {s : State} {act : Mask} {k : Block} {c : Cap} {lo hi : Nat} {rights : BitVec 8} (hu : s.usable k.part c = true)
    (hr : c.right 5 = true) (hup : hi ≤ c.upper.toNat) (hlo : lo ≤ hi) :
    derive s act k c lo hi rights = .ok { valid := true, oid := c.oid, rights := rights, upper := BitVec.ofNat 48 hi, lower := BitVec.ofNat 48 lo } := by
  refine chk_bind_ok (trapIf_ok (congrArg not hu)) (chk_bind_ok (trapIf_ok (congrArg not hr)) (chk_bind_ok (trapIf_ok ?_) rfl))
  simp only [Bool.or_eq_false_iff, decide_eq_false_iff_not]
  omega

/-- 2047 passes the check of a uniform operand. -/
theorem uniformChk_zero (s : State) (act : Mask) : s.uniformChk .zero act = .ok () :=
  trapIf_ok (by simp)

end Sys2Proof.Machine

namespace Sys2Proof.Spec
open Sys2Proof.Machine

/-- Settles O44: SPAWN and LAUNCH are their wrappers, the joins are `joinOp`, and TSELF writes its field. -/
theorem taskResults : Obligations.TaskResults := by
  intro c o v s r op req cells lead join free
  refine ⟨?spawn, ?launch, ?tjoin, ?lwait, ?tself⟩
  case spawn =>
    intro hr hs hchk hloc hfree hgate
    exact completes_of_issueT (i := .spawn c o) (congrFun (execSpawn.eq_def c o) s) hr (chk_bind_ok hs (chk_bind_ok hloc (ready_ok hfree
      (chk_bind_ok hchk (ready_ok hgate rfl)))))
  case launch =>
    intro hr hs hchk hloc hfree go
    have hready : (if lead == 0 then none else
        (holdRecord (act (.launch c o) s) r).or (holdPlaces false ((lanesOf lead).map fun l => (op.side r l, op.ea r l, 64)) r)) = none := by
      obtain h0 | hfree := hfree
      · exact if_pos (by simp [h0])
      · rw [hfree]; exact ite_self _
    exact completes_of_issueT (i := .launch c o) (congrFun (execLaunch.eq_def c o) s) hr (chk_bind_ok hs (chk_bind_ok hloc (ready_ok hready
      (chk_bind_ok hchk rfl))))
  case tjoin => exact fun hr ha hs => completes_joinOp (i := .tjoin c v) (congrFun (execTjoin.eq_def c v) s) hr ha hs
  case lwait => exact fun hr ha hs => completes_joinOp (i := .lwait c v) (congrFun (execLwait.eq_def c v) s) hr ha hs
  case tself =>
    intro hr hs d hd
    obtain rfl := Option.some.inj hd
    exact completes_of_issueT (i := .tself c v) (congrFun (execTself.eq_def c v) s) hr (chk_bind_ok hs rfl)

/-- Settles O45: each instruction is the wrapper over its checks, and acts on the program of its slot. -/
theorem standingProgramResults : Obligations.StandingProgramResults := by
  intro c v o s p r slot l key short
  refine ⟨?rpost, ?rread, ?rset, ?inpost, ?snapFree, ?snap⟩
  case rpost =>
    intro rec_ hr ha hs horig hsettle hdone k hhold hcut t t' w t''
    have hopen : (r.blockAt ((lanesOf (act (.rpost c v) s)).headD 0)).done = false := hdone
    have hnone : (if (r.blockAt ((lanesOf (act (.rpost c v) s)).headD 0)).done then none else cutting? r k) = none := by rw [hcut]; exact ite_self _
    refine completes_of_issueT (i := .rpost c v) (congrFun (execRpost.eq_def c v) s) hr (chk_bind_ok ha (chk_bind_ok hs (task_ok horig
      (chk_bind_ok (trapIf_ok (congrArg not hsettle)) (commit_ok hhold hnone ?_)))))
    simp only [r] at hopen
    simp only [hopen, Bool.false_eq_true, if_false]
    rfl
  case rread =>
    intro hr hs hp hin
    exact completes_of_issueT (i := .rread c v) (congrFun (execRread.eq_def c v) s) hr (chk_bind_ok hs (found_ok hp (chk_bind_ok hin rfl)))
  case rset =>
    intro hr hs hp hin hhold x
    exact completes_of_issueT (i := .rset c v) (congrFun (execRset.eq_def c v) s) hr (chk_bind_ok hs (found_ok hp (chk_bind_ok hin
      (ready_ok hhold rfl))))
  case inpost =>
    intro i sd x base pairs hr hs hc hroom1 hroom2 hin hhold1 hhold2 hgate
    have hroom : (!(decide (base + bitsAt x 96 32 + bitsAt x 64 32 ≤ ((opdT o).bounds r (l i)).2) &&
        decide (base + bitsAt x 160 32 + 8 * bitsAt x 128 32 ≤ ((opdT o).bounds r (l i)).2))) = false := by simp [hroom1, hroom2]
    exact completes_of_issueT (i := i) (congrFun (execInpost.eq_def c o) s) hr (chk_bind_ok hs (chk_bind_ok (onLanes_ok hc) (ready_ok hhold1
      (chk_bind_ok (trapIf_ok hroom) (ready_ok hhold2 (chk_bind_ok hin (ready_ok hgate rfl)))))))
  case snapFree =>
    intro i d b h hr hsub ha hp hold
    have howner : (smGet? p.holds h != some b.uid) = false := by rw [hold]; exact bne_self_eq_false _
    refine completes_of_issueT (i := i) (congrFun (execSnap.eq_def c o) s) hr (chk_bind_ok ha ?_)
    simp only [hsub]
    exact found_ok hp (chk_bind_ok (trapIf_ok howner) rfl)
  case snap =>
    intro i d sd at_ n hr hsub ha hp hc hshm hgate t
    refine completes_of_issueT (i := i) (congrFun (execSnap.eq_def c o) s) hr (chk_bind_ok ha ?_)
    have hp' : s.advance.slotProg (act i s) (s.advance.u32 o.d ((lanesOf (act i s)).headD 0) % 16) = some p := hp
    simp only [hsub, hp']
    refine chk_bind_ok (onLanes_ok hc) (chk_bind_ok (trapIf_ok rfl) (chk_bind_ok (trapIf_ok ?_) (ready_ok hgate rfl)))
    rw [hshm]; rfl

/-- Settles O46: the loads and stores of registers are steps; the derivations write each block's register, or read a field of it. -/
theorem capabilityResults : Obligations.CapabilityResults := by
  intro c cd ca b d m s r k v all set lo hi derivable rights steps
  refine ⟨?capld, ?capst, ?capnar, ?capnarZero, ?capoff, ?captst, ?capget, ?capmov⟩
  case capld =>
    intro hr hb hc
    refine ⟨fun hhold => ?_, fun t hhold => ?_⟩ <;>
      refine completes_of_issueT (i := .capld c cd ca b m) (congrFun (execCapld.eq_def c cd ca b m) s) hr (chk_bind_ok hb (chk_bind_ok hc ?_))
    · exact ready_ok hhold rfl
    · exact held_ok hhold
  case capst =>
    exact fun hr hb hc => completes_of_issueT (congrFun (execCapst.eq_def c cd ca b m) s) hr (chk_bind_ok hb (chk_bind_ok hc rfl))
  case capnar =>
    rintro hne hreach hb ⟨hr, hall⟩
    refine completes_of_issueT (congrFun (execCapnar.eq_def c cd ca b m) s) hr (chk_bind_ok hreach (chk_bind_ok hb (capWrite_ok fun x hx => ?_)))
    obtain ⟨⟨hu, h5⟩, hup⟩ := hall x hx
    exact (if_neg (by simpa using hne)).trans (derive_ok hu h5 hup (Nat.le_add_right ..))
  case capnarZero =>
    rintro ⟨hr, hall⟩
    refine completes_of_issueT (congrFun (execCapnar.eq_def c cd ca .zero m) s) hr (chk_bind_ok rfl (chk_bind_ok (uniformChk_zero ..)
      (capWrite_ok fun x hx => ?_)))
    obtain ⟨⟨hu, h5⟩, hle⟩ := hall x hx
    refine (if_pos (beq_self_eq_true _)).trans ((derive_ok hu h5 le_rfl hle).trans ?_)
    simp only [BitVec.ofNat_toNat, BitVec.setWidth_eq]
    rfl
  case capoff =>
    rintro ⟨hr, hall⟩
    refine completes_of_issueT (congrFun (execCapoff.eq_def c cd ca m) s) hr (capWrite_ok fun x hx => ?_)
    obtain ⟨⟨hu, h5⟩, hle⟩ := hall x hx
    refine (derive_ok hu h5 le_rfl hle).trans ?_
    simp only [BitVec.ofNat_toNat, BitVec.setWidth_eq]
    rfl
  case captst =>
    intro hr hs f hd
    obtain rfl := Option.some.inj hd
    exact completes_of_issueT (i := .captst c d ca b m) (congrFun (execCaptst.eq_def c d ca b m) s) hr (chk_bind_ok hs rfl)
  case capget =>
    intro hr hs f hd
    obtain rfl := Option.some.inj hd
    exact completes_of_issueT (i := .capget c d ca m) (congrFun (execCapget.eq_def c d ca m) s) hr (chk_bind_ok hs rfl)
  case capmov =>
    refine fun hr => completes_of_issueT (congrFun (execCapmov.eq_def c cd ca m) s) hr (capWrite_ok fun x hx => congrArg Except.ok ?_)
    simp only [beq_iff_eq]
    rfl

end Sys2Proof.Spec
end

section
/-!
PROOFS. Special registers, traps and the agent's own instructions (chapters 3 and 18): each is the wrapper over its checks and one effect.
-/
set_option autoImplicit false

namespace Sys2Proof.Machine
open Sys2Proof.Spec

/-- CTXSV and CTXLD run on the section that the selector names, where their checks pass and no write of the block is on its way (R451). -/
theorem completes_ctxOp {i : Instr} {s : State} {o : OpsM} {right : Nat} {busy : State → Nat → Bool} {len : State → Nat → Nat → BitVec 24 → Nat → Nat}
    {run : Nat → Nat → Nat → BitVec 24 → Nat → State → CtxAns} (he : exec i s = ctxOp (ctlOf i) (usesOf i) o right busy len run s) :
    let r := s.advance
    let l := (lanesOf (act i s)).headD 0
    let d := r.u32 o.d l
    let oid : BitVec 24 := match (opdM o false).side r l with | .obj oid => oid | .shm _ _ => 0
    let q := d / 256 % 16
    let at_ := (opdM o false).ea r l
    let x := run r.cur.core q (d % 64) oid at_ r
    Runs i s → r.uniformChk o.d (act i s) = .ok () → ShapeOk i s uniRule → capChk r (laneBit l) o.cap.toNat [right] [.data] = .ok () →
    (opdM o false).place r (laneBit l) (len r q (d % 64) oid at_) 64 = .ok () → busy r q = false →
    Completes i s (x.1.startResults (ctlOf i) (act i s) (usesOf i).d (r.writesOf (act i s) (usesOf i).d fun _ => BitVec.ofNat 64 x.2)) := by
  intro r l d oid q at_ x hr hd hs hc hp hb
  exact completes_of_issueT he hr (chk_bind_ok hd (chk_bind_ok hs (chk_bind_ok (onLanes_ok (chk_bind_ok hc hp)) (if_neg (Bool.eq_false_iff.mp hb)))))

/-- CTXSV.W is `ctxOp` over a warp's section. -/
theorem execCtxsv_warp {c : Ctl} {o : OpsM} {s : State} (h : o.m.sub = 0) :
    execCtxsv c o s = ctxOp c (usesOf (.ctxsv c o)) o 1 saveBusy (fun s q k _ _ => warpLen s q k) saveWarp s :=
  if_pos (beq_iff_eq.mpr h)

/-- CTXSV.B is `ctxOp` over a block's section. -/
theorem execCtxsv_block {c : Ctl} {o : OpsM} {s : State} (h : o.m.sub ≠ 0) :
    execCtxsv c o s = ctxOp c (usesOf (.ctxsv c o)) o 1 saveBusy (fun s q _ _ _ => (s.block? s.cur.core q).elim 256 fun b =>
      (blockSection s b (ownedItems s s.cur.core q)).length) (fun core q _ => saveBlock core q) s := by
  refine (if_neg (mt beq_iff_eq.mp h)).trans (congrArg (fun f => ctxOp c (usesOf (.ctxsv c o)) o 1 saveBusy f (fun core q _ => saveBlock core q) s) ?_)
  funext s q _ _ _
  cases s.block? s.cur.core q <;> rfl

/-- CTXLD.W is `ctxOp` over a warp's section. -/
theorem execCtxld_warp {c : Ctl} {o : OpsM} {s : State} (h : o.m.sub = 0) :
    execCtxld c o s = ctxOp c (usesOf (.ctxld c o)) o 0 (fun _ _ => false) (fun s q k _ _ => warpLen s q k) loadWarp s :=
  if_pos (beq_iff_eq.mpr h)

/-- CTXLD.B is `ctxOp` over a block's section. -/
theorem execCtxld_block {c : Ctl} {o : OpsM} {s : State} (h : o.m.sub ≠ 0) :
    execCtxld c o s = ctxOp c (usesOf (.ctxld c o)) o 0 (fun _ _ => false) (fun s _ _ oid off => blockLen s (s.partOf s.cur.core) oid off)
      (fun core q _ => loadBlock core q) s :=
  if_neg (mt beq_iff_eq.mp h)

end Sys2Proof.Machine

namespace Sys2Proof.Spec
open Sys2Proof.Machine

/-- Settles O47: SRD writes the register's value, or captures the counter; SWR writes for each acting warp; REGQ answers a shape. -/
theorem specialRegisterResults : Obligations.SpecialRegisterResults := by
  intro c d a o m s r n v
  refine ⟨?srd, ?cyclo, ?swr, ?regq⟩
  case srd =>
    intro hn hr hs f hd
    obtain rfl := Option.some.inj hd
    exact completes_of_issueT (i := .srd c d m) (congrFun (execSrd.eq_def c d m) s) hr (chk_bind_ok hs (if_neg (mt beq_iff_eq.mp hn)))
  case cyclo =>
    intro hn hr hs t y
    exact completes_of_issueT (i := .srd c d m) (congrFun (execSrd.eq_def c d m) s) hr (chk_bind_ok hs (if_pos (beq_iff_eq.mpr hn)))
  case swr =>
    exact fun hr ha hgood => completes_of_issueT (i := .swr c a m) (congrFun (execSwr.eq_def c a m) s) hr (chk_bind_ok ha
      (chk_bind_ok (trapIf_ok hgood) rfl))
  case regq =>
    intro hr hs f hd
    obtain rfl := Option.some.inj hd
    refine completes_of_issueT (i := .regq c o) (congrFun (execRegq.eq_def c o) s) hr (chk_bind_ok (a := ()) ?_ rfl)
    refine Eq.trans (congrArg (State.shapeChk s.advance (usesOf (.regq c o)) (act (.regq c o) s)) (funext fun mm => ?_)) hs
    simp only [Bool.and_eq_true, beq_iff_eq, bne_iff_ne, BitVec.toNat_eq]
    rfl

/-- Settles O48: TRAP and BRKPT fail in their lanes, a BRKPT under the debugger stops the blocks, and ERET returns. -/
theorem trapInstructionResults : Obligations.TrapInstructionResults := by
  intro c m s r out
  refine ⟨?trap, ?brkpt, ?debug, ?eret, ?outside⟩
  case trap => exact fun hr => traps_of_issueT (congrFun (execTrap.eq_def c m) s) hr rfl
  case brkpt => exact fun hr hoff => traps_of_issueT (i := .brkpt c m) (congrFun (execBrkpt.eq_def c m) s) hr (if_pos (congrArg not hoff))
  case debug =>
    intro hr hon x first
    refine completes_of_issueT (i := .brkpt c m) (congrFun (execBrkpt.eq_def c m) s) hr ((if_neg ?_).trans (congrArg Except.ok ?_))
    · exact Bool.eq_false_iff.mp (congrArg not hon)
    · refine congrArg (List.foldl · r (blocksOf r.cur.mems)) (funext fun t => funext fun cq => ?_)
      simp only [first]
      cases r.cur.mems.find? fun mm => mm.w.core == cq.1 && mm.w.seq == cq.2 <;> rfl
  case eret =>
    exact fun hr hin => completes_of_issueT (i := .eret c m) (congrFun (execEret.eq_def c m) s) hr (chk_bind_ok (trapIf_ok (bne_eq_false_iff_eq.mpr hin)) rfl)
  case outside =>
    exact fun hr hout => traps_of_issueT (i := .eret c m) (congrFun (execEret.eq_def c m) s) hr (chk_bind_error (if_pos (bne_iff_ne.mpr hout)))

/-- Settles O49: the short instructions change their core; CTXSV and CTXLD are `ctxOp`. -/
theorem agentResults : Obligations.AgentResults := by
  intro c m o s r core ctx
  refine ⟨?beat, ?wfi, ?icinv, ?saveWarp, ?saveBlock, ?loadWarp, ?loadBlock⟩
  case beat => exact fun hr => completes_of_issueT (congrFun (execBeat.eq_def c m) s) hr rfl
  case wfi => exact fun hr => completes_of_issueT (congrFun (execWfi.eq_def c m) s) hr rfl
  case icinv => exact fun hr => completes_of_issueT (congrFun (execIcinv.eq_def c m) s) hr rfl
  case saveWarp =>
    intro hsub hr hd hs hc hp hb
    have h := completes_ctxOp (i := .ctxsv c o) (execCtxsv_warp (s := s) hsub)
    exact h hr hd hs hc hp (hb rfl)
  case saveBlock =>
    intro hsub hr hd hs hc hp hb
    have h := completes_ctxOp (i := .ctxsv c o) (execCtxsv_block (s := s) hsub)
    exact h hr hd hs hc hp (hb rfl)
  case loadWarp =>
    intro hsub hr hd hs hc hp _
    have h := completes_ctxOp (i := .ctxld c o) (execCtxld_warp (s := s) hsub)
    exact h hr hd hs hc hp rfl
  case loadBlock =>
    intro hsub hr hd hs hc hp _
    have h := completes_ctxOp (i := .ctxld c o) (execCtxld_block (s := s) hsub)
    exact h hr hd hs hc hp rfl

end Sys2Proof.Spec
end

section
/-!
PROOFS. The commands of the host (chapters 6 and 19): one that its interface may issue is its run, and any other completes BADCMD (R118, R119, R456, R467).
-/
set_option autoImplicit false

namespace Sys2Proof.Machine
open Sys2Proof.Spec

section
variable {i : Instr} {s t : State} {w : Issuer} {minimal : Bool} {h : CmdHdr} {run : State → State}

/-- A command that its interface may issue is its run. -/
theorem next_of_command (he : exec i s = command w minimal h run s) (hw : w.admits minimal h.vi s = true) (hx : run s = t) : exec i s = .next t := by
  rw [he, command, if_pos hw, hx]

/-- A command that its interface may not issue completes BADCMD. -/
theorem refused_of_command (he : exec i s = command w minimal h run s) (hw : w.admits minimal h.vi s = false) : exec i s = .next (badCmd h s) := by
  rw [he, command, if_neg (Bool.eq_false_iff.mp hw)]

/-- A command whose access to a capability store meets an aborting page completes PAGEABORT (R123). -/
theorem withStore_aborts {p : Nat} (hp : storeAborts i s = some p) : withStore h (storeAccess i) run s = finish h 9 (BitVec.ofNat 32 p) s := by
  obtain ⟨q, hq, heq⟩ | ⟨hnone, -⟩ := withStore_cases h (storeAccess i) run s
  · obtain rfl := Option.some.inj (hq.symm.trans hp)
    exact heq
  · exact absurd (hnone.symm.trans hp) nofun

/-- Any other command with a capability store has its effect. -/
theorem withStore_goes (hno : storeAborts i s = none) : withStore h (storeAccess i) run s = run s := by
  obtain ⟨q, hq, -⟩ | ⟨-, heq⟩ := withStore_cases h (storeAccess i) run s
  · exact absurd (hq.symm.trans hno) nofun
  · exact heq

end

end Sys2Proof.Machine

namespace Sys2Proof.Spec
open Sys2Proof.Machine

/-- Settles O50: each object command is its run, whose checks pass. -/
theorem objectCommandResults : Obligations.ObjectCommandResults := by
  intro h bc oid bm bh wo off token s
  refine ⟨?nop, ?objcreate, ?objdestroy, ?capmint, ?hcopy, ?waitcj⟩
  case nop => exact fun hw => next_of_command (execNopCommand.eq_def h s) hw rfl
  case objcreate =>
    intro hw k hk hbad hroom
    refine ⟨fun p hp => next_of_command (congrFun (execObjcreate.eq_def h bc) s) hw ?_,
      fun hno => next_of_command (congrFun (execObjcreate.eq_def h bc) s) hw ?_⟩ <;>
      simp only [hk, hbad, hroom, Bool.false_eq_true, if_false]
    · exact withStore_aborts hp
    · exact withStore_goes hno
  case objdestroy =>
    intro hw o ho hpool
    have hfree : (o.kind == .tilePool && poolServes s oid) = false := by simpa using hpool
    refine next_of_command (congrFun (execObjdestroy.eq_def h oid) s) hw ?_
    simp only [ho, hfree, Bool.false_eq_true, if_false]
  case capmint =>
    intro hw o ho hstore hi hlo hhi
    have hlow : ¬(if bm.upper = 0 then o.size else bm.upper.toNat) < bm.lower.toNat := Nat.not_lt.mpr hlo
    have hhigh : ¬o.size < (if bm.upper = 0 then o.size else bm.upper.toNat) := Nat.not_lt.mpr hhi
    refine ⟨fun p hp => next_of_command (congrFun (execCapmint.eq_def h bm) s) hw ?_,
      fun hno => next_of_command (congrFun (execCapmint.eq_def h bm) s) hw ?_⟩ <;>
      simp only [ho, hstore, hlow, hhigh, Bool.not_true, decide_false, Bool.or_false, Bool.false_eq_true, if_false]
    · exact withStore_aborts hp
    · exact withStore_goes hno
  case hcopy =>
    intro hw o ho hdir hlen hin
    have hgood : ¬(1 < bh.dir.toNat ∨ bh.len = 0 ∨ o.size < bh.off.toNat + bh.len.toNat) := by
      rintro (h1 | h1 | h1)
      · omega
      · exact hlen h1
      · omega
    refine next_of_command (congrFun (execHcopy.eq_def h bh) s) hw ?_
    simp only [ho, hgood, if_false]
  case waitcj =>
    intro hw o ho halign hin
    have hgood : ¬(off.toNat % 64 ≠ 0 ∨ o.size < off.toNat + 64) := by omega
    refine next_of_command (congrFun (execWaitcj.eq_def h wo off token) s) hw ?_
    simp only [ho, hgood, if_false]

/-- Settles O51: each command is its run, whose checks pass or fail as the clause says. -/
theorem runCommandResults : Obligations.RunCommandResults := by
  intro h bq qn oid off iova lh len bl pi s
  refine ⟨?createq, ?destroyq, ?pageresume, ?load, ?unload, ?launch, ?rejected, ?stop⟩
  case createq =>
    intro hw h1 h2 hnew hs6 hs16 hprio hvec hvec0 hring
    refine next_of_command (congrFun (execCreateq.eq_def h bq) s) hw ((if_neg ?_).trans rfl)
    rw [hnew]
    simp only [Option.isSome_none, Bool.or_eq_true, beq_iff_eq, decide_eq_true_eq, Bool.and_eq_true, bne_iff_ne, ne_eq]
    rintro ((((((((hq | hq) | hq) | hq) | hq) | hq) | hq) | ⟨hv, hq⟩) | hq)
    · omega
    · omega
    · exact absurd hq Bool.false_ne_true
    · omega
    · omega
    · omega
    · omega
    · exact hvec0 hv hq
    · exact hq hring
  case destroyq =>
    intro hw x hx h0 hlive
    have hgood : ¬(qn.toNat = 0 ∨ x.dying = true) := by simp [h0, hlive]
    refine next_of_command (congrFun (execDestroyq.eq_def h qn) s) hw ?_
    simp only [hx, hgood, if_false]
  case pageresume =>
    intro hw hid page hpage
    refine next_of_command (congrFun (execPageresume.eq_def h oid off) s) hw ?_
    simp only [Nat.not_le.mpr hid, if_false, hpage]
  case load => exact fun hw => next_of_command (congrFun (execLoad.eq_def h iova len) s) hw rfl
  case unload =>
    intro hw x hx
    refine next_of_command (congrFun (execUnload.eq_def h lh) s) hw ?_
    simp only [hx]
  case launch =>
    intro hw hrej
    refine ⟨fun l i caps hargs hpeers => ⟨fun p hp => ?_, fun hno => ⟨fun hfit => ?_, fun hfit => ?_⟩⟩,
      fun l img caps p hargs hpeers hp => ?_, fun l img caps hargs hpeers hno hchk hroom => ?_⟩
    · refine next_of_command (congrFun (execLaunchCommand.eq_def h bl) s) hw ?_
      simp only [hrej, hargs, hpeers, if_true]
      exact withStore_aborts hp
    · refine next_of_command (congrFun (execLaunchCommand.eq_def h bl) s) hw ?_
      simp only [hrej, hargs, hpeers, if_true, withStore_goes hno, runLaunch, hfit, Bool.not_true, Bool.false_eq_true, if_false]
    · refine next_of_command (congrFun (execLaunchCommand.eq_def h bl) s) hw ?_
      simp only [hrej, hargs, hpeers, if_true, withStore_goes hno, runLaunch, hfit, Bool.not_false]
    · refine next_of_command (congrFun (execStart.eq_def h bl) s) hw ?_
      simp only [hrej, hargs, hpeers, Option.isNone_some, Bool.false_eq_true, if_false, if_true, runStart, withStore_aborts hp]
    · refine next_of_command (congrFun (execStart.eq_def h bl) s) hw ?_
      simp only [hrej, hargs, hpeers, Option.isNone_some, Bool.false_eq_true, if_false, if_true, runStart, withStore_goes hno, hchk, hroom]
  case rejected =>
    intro hw d hd
    refine ⟨next_of_command (congrFun (execLaunchCommand.eq_def h bl) s) hw ?_, next_of_command (congrFun (execStart.eq_def h bl) s) hw ?_⟩ <;>
      simp only [hd]
  case stop =>
    intro hw key p hp
    refine next_of_command (congrFun (execStop.eq_def h lh pi) s) hw ?_
    simp only [hp]

end Sys2Proof.Spec
end

section
/-!
PROOFS. The commands of the physical function (R442, R447, R448, R456 to R462), and the refusal of every command that its interface may not issue (R119, R467).
-/
set_option autoImplicit false

namespace Sys2Proof.Machine
open Sys2Proof.Spec

/-- Who may issue a command, by its opcode (Tables 6.3 and 19.2). -/
def issuerOf (i : Instr) : Issuer := if forPf i then .pf else if forAll i then .any else .vf

/-- Every command asks first for its issuer, in minimal mode for its opcode too. -/
theorem exec_command {i : Instr} {h : CmdHdr} (hi : cmdHdrOf i = some h) (s : State) :
    ∃ run, exec i s = command (issuerOf i) (forMinimal i) h run s := by
  unfold cmdHdrOf at hi
  split at hi <;> cases hi
  exacts [⟨_, execNopCommand.eq_def h s⟩, ⟨_, congrFun (execLaunchCommand.eq_def h _) s⟩, ⟨_, congrFun (execStart.eq_def h _) s⟩,
    ⟨_, congrFun (execStop.eq_def h _ _) s⟩, ⟨_, congrFun (execLoad.eq_def h _ _) s⟩, ⟨_, congrFun (execUnload.eq_def h _) s⟩,
    ⟨_, congrFun (execObjcreate.eq_def h _) s⟩, ⟨_, congrFun (execObjdestroy.eq_def h _) s⟩, ⟨_, congrFun (execHcopy.eq_def h _) s⟩,
    ⟨_, congrFun (execWaitcj.eq_def h _ _ _) s⟩, ⟨_, congrFun (execCreateq.eq_def h _) s⟩, ⟨_, congrFun (execDestroyq.eq_def h _) s⟩,
    ⟨_, congrFun (execCapmint.eq_def h _) s⟩, ⟨_, congrFun (execPageresume.eq_def h _ _) s⟩, ⟨_, congrFun (execPartcfg.eq_def h _) s⟩,
    ⟨_, congrFun (execPartdel.eq_def h _) s⟩, ⟨_, congrFun (execVfbind.eq_def h _ _) s⟩, ⟨_, congrFun (execGangpeers.eq_def h _ _) s⟩,
    ⟨_, congrFun (execShareobj.eq_def h _) s⟩, ⟨_, congrFun (execRepair.eq_def h _) s⟩, ⟨_, congrFun (execFwstage.eq_def h _ _) s⟩,
    ⟨_, congrFun (execFwact.eq_def h) s⟩, ⟨_, congrFun (execLogread.eq_def h _) s⟩, ⟨_, congrFun (execDbgresume.eq_def h _ _) s⟩]

/-- The physical function's commands are the physical function's while the part runs. -/
theorem admits_running_issuerOf {i : Instr} {vi : Nat} {m : Bool} {s : State} (hm : s.sys.mode = .running) :
    (issuerOf i).admits m vi s = (if forPf i then vi == 0 else forAll i || vi != 0) := by
  cases hp : forPf i <;> cases ha : forAll i <;> simp [issuerOf, Issuer.admits, hm, hp, ha]

end Sys2Proof.Machine

namespace Sys2Proof.Spec
open Sys2Proof.Machine

/-- Settles O53: each way in which an interface may not issue a command makes the command's first check fail. -/
theorem forbiddenCommandsAreRefused : Obligations.ForbiddenCommandsAreRefused := by
  intro h s i hi hforbidden
  obtain ⟨run, he⟩ := exec_command hi s
  refine refused_of_command he ?_
  rcases hforbidden with ⟨hm, hv, hp⟩ | ⟨hm, hv, hp, ha⟩ | ⟨hm, hno⟩ | hm | hm
  · simp [admits_running_issuerOf hm, hp, hv]
  · simp [admits_running_issuerOf hm, hp, ha, hv]
  · rcases hno with hv | hno
    · simp [Issuer.admits, hm, hv]
    · simp [Issuer.admits, hm, hno]
  · simp [Issuer.admits, hm]
  · simp [Issuer.admits, hm]

/-- Settles O52: each command is its run, whose checks pass; LOGREAD's entries are those that its completion settles. -/
theorem physicalFunctionCommandResults : Obligations.PhysicalFunctionCommandResults := by
  intro h bp part vf peers bs core iova len bl blk s
  refine ⟨?partcfg, ?partdel, ?vfbind, ?gangpeers, ?shareobj, ?repair, ?fwstage, ?fwact, ?logread, ?completion, ?dbgresume⟩
  case partcfg =>
    intro hw hbad href hroom
    refine next_of_command (congrFun (execPartcfg.eq_def h bp) s) hw ?_
    simp only [hbad, href, hroom, Bool.false_eq_true, if_false]
  case partdel =>
    intro hw hpart
    refine next_of_command (congrFun (execPartdel.eq_def h part) s) hw ((if_neg ?_).trans rfl)
    rw [Option.isNone_iff_eq_none, ← Option.not_isSome_iff_eq_none]
    exact not_not_intro hpart
  case vfbind =>
    intro hw h0 h64 hpart hfree
    refine next_of_command (congrFun (execVfbind.eq_def h vf part) s) hw ((if_neg ?_).trans ((if_neg ?_).trans rfl))
    · rintro (hv | hv | ⟨hv, hnone⟩)
      · exact h0 hv
      · exact Nat.not_lt.mpr h64 hv
      · obtain hff | hsome := hpart
        · exact hv hff
        · exact Option.not_isSome_iff_eq_none.mpr (Option.isNone_iff_eq_none.mp hnone) hsome
    · obtain hnone | hnil := hfree
      · simp [hnone]
      · simp [hnil]
  case gangpeers =>
    intro hw h0 h64 hpeers
    refine next_of_command (congrFun (execGangpeers.eq_def h vf peers) s) hw ((if_neg ?_).trans rfl)
    rintro (hv | hv | hv)
    · exact h0 (by rw [hv]; rfl)
    · exact Nat.not_lt.mpr h64 hv
    · obtain ⟨p, hp, hlt⟩ := List.any_eq_true.mp hv
      obtain ⟨x, hx, rfl⟩ := List.mem_map.mp hp
      exact Nat.not_lt.mpr (hpeers x hx) (of_decide_eq_true hlt)
  case shareobj =>
    intro hw o ho hshare
    refine ⟨fun p hp => next_of_command (congrFun (execShareobj.eq_def h bs) s) hw ?_,
      fun hno => next_of_command (congrFun (execShareobj.eq_def h bs) s) hw ?_⟩ <;>
      simp only [ho, hshare, Bool.not_true, Bool.false_eq_true, if_false]
    · exact withStore_aborts hp
    · exact withStore_goes hno
  case repair =>
    intro hw h191 hhalt d hspare
    refine next_of_command (congrFun (execRepair.eq_def h core) s) hw
      ((if_neg (Nat.not_lt.mpr h191)).trans ((if_neg ?_).trans ((if_neg (Nat.not_le.mpr hspare)).trans rfl)))
    rw [hhalt]
    exact Bool.false_ne_true
  case fwstage => exact fun hw => next_of_command (congrFun (execFwstage.eq_def h iova len) s) hw rfl
  case fwact =>
    intro hw hmode img himg hblock
    refine next_of_command (congrFun (execFwact.eq_def h) s) hw ?_
    simp only [hmode, reduceCtorEq, if_false, himg, hblock, List.isEmpty_nil, if_true]
  case logread =>
    intro hw hlog
    exact next_of_command (congrFun (execLogread.eq_def h bl) s) hw (if_neg (Nat.not_lt.mpr hlog))
  case completion =>
    intro k x hx hwait hide
    refine congrArg Host.Outcome.next ?_
    simp only [hx, hide, Bool.false_eq_true, if_false, settleCmd, hwait, settleLogread]
  case dbgresume =>
    intro hw cq hcq
    refine next_of_command (congrFun (execDbgresume.eq_def h part blk) s) hw ?_
    simp only [hcq]

end Sys2Proof.Spec
end

section
/-!
PROOFS. The events of the front end and the interfaces (R114, R116, R119, R122, R124, R452 to R455), of resets, boot stages and temperatures (R461 to R468), and the SPDM
requests (R466): under its condition each has its effect.
-/
set_option autoImplicit false

namespace Sys2Proof.Machine
open Sys2Proof.Spec

section
variable {s : State}

/-- Raising a vector leaves the part's mode. -/
@[simp] theorem raiseMsix_sys (vi vec : Nat) (s : State) : (raiseMsix vi vec s).sys = s.sys := rfl

/-- Setting the warning leaves the part's mode. -/
@[simp] theorem setWarning_mode (hottest : Nat) (s : State) : (setWarning hottest s).sys.mode = s.sys.mode := by
  unfold setWarning
  split
  · rfl
  · split
    · rfl
    · simp only [raiseMsix_sys]

/-- At 110 °C the thermal stop follows the warning. -/
theorem setTherm_hot {compute hub : BitVec 8} (h110 : 110 ≤ max compute.toNat hub.toNat) (hmode : s.sys.mode ≠ .thermal) :
    setTherm compute hub s =
      thermalStop (setWarning (max compute.toNat hub.toNat) { s with sys := { s.sys with thermC := compute, thermH := hub } }) := by
  have hgo : ¬(max compute.toNat hub.toNat < 110 ∨ s.sys.mode = .thermal) := not_or.mpr ⟨Nat.not_lt.mpr h110, hmode⟩
  simp only [setTherm, setWarning_mode, hgo, if_false]

/-- A part that boots, and whose start has not failed, is starting. -/
theorem starting_of (hm : s.sys.mode = .booting) (hf : s.sys.failed = false) : s.sys.starting = true := by
  simp [Sys.starting, hm, hf]

/-- A starting part that boots from the network, and has not the whole file, is fetching. -/
theorem fetching_of (hm : s.sys.mode = .booting) (hf : s.sys.failed = false) (hn : s.sys.net = true) (hg : s.sys.netgot = false) :
    s.sys.fetching = true := by
  simp [Sys.fetching, starting_of hm hf, hn, hg]

/-- What a stage's end does in a part that is starting (R463). -/
theorem exec_bootStageDone_starting {img : List Byte} {pass : Bool} (hm : s.sys.mode = .booting) (hf : s.sys.failed = false) :
    exec (.bootStageDone img pass) s = .next (match s.sys.stage with
      | 1 => nextStage img s
      | 2 => bootLoaded 2 s
      | 3 => bootLoaded 3 s
      | 4 => bootLoaded 3 s
      | 5 => if pass then nextStage img s else failStart 6 (extendMeas 5 0 img s)
      | _ => if pass then bootReady s else s) := by
  refine congrArg Host.Outcome.next ((if_neg ?_).trans ((if_neg ?_).trans rfl))
  · rw [hm]
    exact nofun
  · rw [starting_of hm hf]
    exact nofun

/-- A request that the responder is ready for is answered. -/
theorem answerIf_ready {ok : Bool} {p : Nat} {m : SpdmMsg} {f : Spdm → Spdm} (hp : p ≤ 2) (hok : ok = true) : answerIf ok p m f s = .next (respond p m f s) :=
  congrArg Host.Outcome.next ((if_neg (Nat.not_lt.mpr hp)).trans (if_pos hok))

end

end Sys2Proof.Machine

namespace Sys2Proof.Spec
open Sys2Proof.Machine

/-- Settles O54: each condition is the one that the event asks for. -/
theorem interfaceEventResults : Obligations.InterfaceEventResults := by
  intro s vi q k tail val
  refine ⟨?completion, ?doorbell, ?aqctlEnable, rfl, ?drained, ?registerWrite, rfl, ?reset, rfl, ?dmaError, ?vfEnable⟩
  case completion =>
    intro c t d hc hide hsettle
    refine congrArg Host.Outcome.next ?_
    simp only [hc, hide, Bool.false_eq_true, if_false, hsettle]
  case doorbell =>
    intro x hx hq hon
    have hgo : ¬((q = 0 ∧ (!(s.vi vi).aqen) = true) ∨ (vi ≠ 0 ∧ (!(s.vi vi).enabled) = true)) := by
      rintro (⟨h0, hoff⟩ | ⟨hvi, hoff⟩)
      · exact Bool.false_ne_true (by rwa [hq h0] at hoff)
      · exact Bool.false_ne_true (by rwa [hon.resolve_left hvi] at hoff)
    refine congrArg Host.Outcome.next ?_
    simp only [hx, hgo, if_false]
  case aqctlEnable =>
    intro hoff hnone hon h6 h16 hbase
    refine congrArg Host.Outcome.next ((if_neg ?_).trans ((if_neg ?_).trans rfl))
    · rintro (hen | hsome | ⟨hvi, hdis⟩)
      · exact Bool.false_ne_true (hoff.symm.trans hen)
      · exact Bool.false_ne_true (by rwa [hnone] at hsome)
      · exact Bool.false_ne_true (by rwa [hon.resolve_left hvi] at hdis)
    · rintro (hs | hs | hs)
      · exact Nat.not_lt.mpr h6 hs
      · exact Nat.not_lt.mpr h16 hs
      · exact hs hbase
  case drained =>
    intro hoff hsome hrest
    refine congrArg Host.Outcome.next ((if_neg ?_).trans rfl)
    rw [hoff, hrest, ← Option.not_isSome, hsome]
    exact nofun
  case registerWrite =>
    intro hon
    have hgo : ¬(vi ≠ 0 ∧ (!(s.vi vi).enabled) = true) := by
      rintro ⟨hvi, hdis⟩
      exact Bool.false_ne_true (by rwa [hon.resolve_left hvi] at hdis)
    exact ⟨congrArg Host.Outcome.next (if_neg hgo), congrArg Host.Outcome.next (if_neg hgo)⟩
  case reset =>
    intro hvi
    refine congrArg Host.Outcome.next ((if_neg hvi).trans ?_)
    simp only [beq_iff_eq]
  case dmaError =>
    intro c hc hide hdma
    refine congrArg Host.Outcome.next ?_
    simp only [hc, hide, hdma, Bool.false_eq_true, if_false, if_true]
  case vfEnable =>
    intro hmode hk
    exact congrArg Host.Outcome.next (if_neg (not_or.mpr ⟨hmode, Nat.not_lt.mpr hk⟩))

/-- Settles O55: each condition names the branch of the reset, the stage or the temperature. -/
theorem bootAndThermalResults : Obligations.BootAndThermalResults := by
  intro s img data compute hub
  refine ⟨rfl, rfl, ?again, ?minimal, ?timeout, ?rom, ?netImage, ?flashImage, ?system, ?ready, ?block, ?retry, ?warning, ?clear, ?stop, ?deferred⟩
  case again =>
    intro hm hf hlt
    refine congrArg Host.Outcome.next ((if_neg ?_).trans (if_pos hlt))
    rw [hm, hf]
    simp
  case minimal =>
    intro hm hf hge
    refine congrArg Host.Outcome.next ((if_neg ?_).trans (if_neg (Nat.not_lt.mpr hge)))
    rw [hm, hf]
    simp
  case timeout => exact fun hm hf => congrArg Host.Outcome.next (if_pos (starting_of hm hf))
  case rom =>
    intro hm hf hst
    rw [exec_bootStageDone_starting hm hf, hst]
    rfl
  case netImage =>
    intro hm hf hst hnet hgot
    rw [exec_bootStageDone_starting hm hf, hst]
    simp only [bootLoaded, hnet, hgot, if_true]
  case flashImage =>
    intro hm hf hst hnet f hfile hmagic
    have hflash : s.sys.inFlash = some f := by simpa [Sys.inFlash, hst] using hfile
    rw [exec_bootStageDone_starting hm hf, hst]
    simp only [bootLoaded, hnet, hflash, hmagic, Bool.false_eq_true, if_false, if_true]
  case system =>
    intro hm p hp
    refine congrArg Host.Outcome.next ((if_pos hm).trans ?_)
    simp only [bootSystem, hp]
  case ready =>
    intro hm hf hst
    rw [exec_bootStageDone_starting hm hf, hst]
    rfl
  case block =>
    intro hm hf hnet hgot hname hlen
    refine congrArg Host.Outcome.next ?_
    simp only [fetching_of hm hf hnet hgot, hname, Bool.not_true, Bool.false_eq_true, if_false, Nat.not_lt.mpr hlen]
  case retry =>
    intro hm hf hnet hgot
    refine congrArg Host.Outcome.next ((if_neg ?_).trans rfl)
    rw [fetching_of hm hf hnet hgot]
    exact nofun
  case warning =>
    intro h100 h110 hwarn
    refine congrArg Host.Outcome.next ((if_pos (Or.inl h110)).trans ((if_neg (by omega)).trans (if_neg ?_)))
    rintro (hlt | hw)
    · exact Nat.not_lt.mpr h100 hlt
    · exact Bool.false_ne_true (hwarn.symm.trans hw)
  case clear =>
    intro h95
    exact congrArg Host.Outcome.next ((if_pos (Or.inl (by omega))).trans (if_pos h95))
  case stop =>
    intro h110 hmode
    refine (execThermalStop.eq_def compute hub s).trans ?_
    rw [setTherm_hot h110 hmode, thermalStop]
  case deferred =>
    intro i hi hwait hover hblock
    refine congrArg Host.Outcome.next ?_
    simp only [hi, hwait, List.all_eq_true.mpr hover, hblock, List.isEmpty_nil, Bool.and_self, if_true]

/-- Settles O56: each request's readiness is the condition that it is given under. -/
theorem attestationResults : Obligations.AttestationResults := by
  intro s p nonce key hp x answer
  refine ⟨answerIf_ready hp rfl, fun hx => answerIf_ready hp hx, fun hx => answerIf_ready hp hx, fun hx => ⟨answerIf_ready hp hx, ?certificate, answerIf_ready hp hx,
    answerIf_ready hp hx, fun h0 => ?keyExchange⟩, fun hx => ?finish, fun hx => ?endSession, fun hx => ?ideKm⟩
  case certificate => exact answerIf_ready hp (by rw [show (s.port p).algs = true from hx]; rfl)
  case keyExchange => exact answerIf_ready hp (by rw [show (s.port p).algs = true from hx, show (s.port p).session = 0 from h0]; rfl)
  case finish => exact answerIf_ready hp (beq_iff_eq.mpr hx)
  case endSession => exact answerIf_ready hp (beq_iff_eq.mpr hx)
  case ideKm =>
    have hopen : ((s.port p).session == 2) = true := beq_iff_eq.mpr hx
    refine (execIdeKm.eq_def p key s).trans ?_
    rw [hopen, decide_eq_true hp]
    exact answerIf_ready hp hopen

end Sys2Proof.Spec
end

section
/-!
PROOFS. The events of cores, blocks and errors (R137, R431, R432, R435 to R439, R443 to R445): under its condition each has its effect.
-/
set_option autoImplicit false

namespace Sys2Proof.Machine
open Sys2Proof.Spec

section
variable {s : State} {core q : Nat}

/-- A marked block needs no mark to make room. -/
theorem markForRoom_marked (hm : (s.block core q).mark = true) : markForRoom core q s = s := by
  refine if_neg ?_
  rw [hm]
  simp

/-- A block in the way of what waits for room is marked while PREEMPT is set (R436). -/
theorem markForRoom_unmarked (hp : (s.core core).preempt = true) (hm : (s.block core q).mark = false) (hq : q < agentSeq) (hr : roomWanted s core = true) :
    markForRoom core q s = s.modBlock core q fun b => { b with mark := true, quanta := 0 } := by
  refine if_pos ?_
  rw [hp, hm, hr, decide_eq_true hq]
  rfl

/-- A marked block that is evictable, with no write on its way, is evicted. -/
theorem exec_eviction_marked (hev : evictable s core q = true) (hw : s.writing core q = false) (hm : (s.block core q).mark = true) :
    exec (.eviction core q) s = .next (evict core q s) := by
  refine (execEviction.eq_def core q s).trans ?_
  simp only [markForRoom_marked hm, hm, hev, hw, Bool.not_false, Bool.and_self, if_true]

/-- The halt of a core that is not halted yet, with its captures (R444). -/
theorem halt_eq (u cause : Nat) (t : State) :
    halt u cause t =
      let qs := ((t.core u).blocks.filter fun x => decide (x.1 < agentSeq)).map (·.1)
      let v := t.modCore u fun x => { x.mapBlocks Block.haltBy with halted := true }
      let v := if qs = [] then putFault (v.partOf u % 16) { vi := 0, q := 0, stat := 0, usertag := 0 } { kind := 3, cause := cause, core := u } v else v
      if (t.core u).halted then t else cutWork u (qs.foldl (fun v x => haltBlock false u x cause v) v) := by
  simp only [halt, haltCore, List.isEmpty_iff]

end

end Sys2Proof.Machine

namespace Sys2Proof.Spec
open Sys2Proof.Machine

/-- Settles O57: each condition is the one that the event asks for. -/
theorem coreEventResults : Obligations.CoreEventResults := by
  intro s core q k keep e
  refine ⟨?beat, ?quantum, ?runaway, ?resident, ?marking, ?evicting, ?restoring, rfl, ?mcheckSettle, ?mcheckCore, ?unhandled, ?idem⟩
  case beat =>
    intro hm
    refine (execBeatWindowEnd.eq_def s).trans (congrArg Host.Outcome.next (if_neg ?_))
    rw [hm]
    exact Bool.false_ne_true
  case quantum =>
    intro h0 hle hh
    refine congrArg Host.Outcome.next (if_neg ?_)
    rintro (hz | hlt | hhalt)
    · exact h0 hz
    · exact Nat.not_lt.mpr hle hlt
    · exact Bool.false_ne_true (hh.symm.trans hhalt)
  case runaway =>
    intro hm h16 hev hbeat
    refine congrArg Host.Outcome.next (if_pos ?_)
    rw [hm, decide_eq_true h16, hev, hbeat]
    rfl
  case resident => exact fun hk => congrArg Host.Outcome.next (if_neg hk)
  case marking =>
    intro v hp hm hq hr hno
    refine (execEviction.eq_def core q s).trans (congrArg Host.Outcome.next ?_)
    simp only [markForRoom_unmarked hp hm hq hr, Bool.and_assoc]
    exact if_neg (by rw [hno, Bool.and_false]; exact Bool.false_ne_true)
  case evicting =>
    intro hev hw hm
    rw [exec_eviction_marked hev hw hm]
    exact ⟨fun hlack => congrArg Host.Outcome.next (if_pos hlack),
      fun hroom => congrArg Host.Outcome.next (if_neg (Bool.eq_false_iff.mp hroom))⟩
  case restoring =>
    intro x ps sq hx hres hwhole hpart hfree hfits hseq
    refine (execBlockRestore.eq_def k core s).trans (congrArg Host.Outcome.next ?_)
    simp only [hx, hres, if_true, restore, hwhole, hpart, hfree, bne_self_eq_false, Bool.not_true, Bool.or_self, Bool.false_eq_true, if_false, hfits, hseq]
  case mcheckSettle => exact fun hs => congrArg Host.Outcome.next (if_pos hs)
  case mcheckCore =>
    intro hs u hu
    refine congrArg Host.Outcome.next ((if_neg (Bool.eq_false_iff.mp hs)).trans ?_)
    simp only [hu]
    exact halt_eq u _ _
  case unhandled =>
    intro x hx hdr
    refine ⟨fun t ht => ?_, fun hstop => ?_⟩
    · refine (execUnhandledTrapAbort.eq_def core q s).trans (congrArg Host.Outcome.next ?_)
      simp only [hx, hdr, ht, Bool.not_true, Bool.false_eq_true, if_false]
    · refine (execUnhandledTrapAbort.eq_def core q s).trans (congrArg Host.Outcome.next ?_)
      obtain hst | hst := hstop
      · simp only [hx, hdr, hst, Bool.not_true, Bool.false_eq_true, if_false]
      · simp only [hx, hdr, hst, Bool.not_true, Bool.false_eq_true, if_false]
  case idem =>
    intro x r oid page o hx horigin habort hidem hsticky hstop ho
    refine (execIdemAbort.eq_def core q s).trans (congrArg Host.Outcome.next ?_)
    simp only [hx, horigin, habort, hidem, hsticky, hstop, ho, Bool.not_true, Option.isSome_none, Bool.or_self, Bool.false_eq_true, if_false, Option.elim_some]

end Sys2Proof.Spec
end

section
/-!
PROOFS. The events of instruction supply and of outstanding instructions (R158, R168, R180, R222, R248, R254, R256 to R258, R263, R273, R312, R356): under its condition each
has its effect.
-/
set_option autoImplicit false

namespace Sys2Proof.Machine
open Sys2Proof.Spec

section
variable {s : State} {k : Nat} {o : LongOp}

/-- The accesses of an outstanding instruction arrive. -/
theorem exec_loadDataArrival (ho : s.op? k = some o) : exec (.loadDataArrival k) s = .next (arriveOp false o s) := by
  refine (execLoadDataArrival.eq_def k s).trans ?_
  simp only [ho]

/-- The writes of an outstanding instruction reach the replication sequencer. -/
theorem exec_sequencerWrite (ho : s.op? k = some o) : exec (.sequencerWrite k) s = .next (arriveOp true o s) := by
  refine (execSequencerWrite.eq_def k s).trans ?_
  simp only [ho]

/-- What an arrival does for an instruction with memory steps, a Conjunction request, or a volume request. -/
theorem arriveOp_mem {seqd : Bool} {l : List MemStep} (hw : o.work = .mem l) : arriveOp seqd o s = resumeMem true seqd o s := by
  simp only [arriveOp, hw]

theorem arriveOp_conj {seqd : Bool} {r : CjReq} (hw : o.work = .conj r) : arriveOp seqd o s = resumeCj true seqd o s := by
  simp only [arriveOp, hw]

theorem arriveOp_vol {seqd : Bool} {r : VReq} (hw : o.work = .vol r) : arriveOp seqd o s = runVol o.id s := by
  simp only [arriveOp, hw]

/-- An instruction whose results are formed, and that no copy belongs to, completes. -/
theorem complete_results (ho : s.op? k = some o) (hw : o.work = .results) (hcopy : ((s.core o.core).copies.any fun x => x.op == some k) = false) :
    s.complete k = s.completeOp o := by
  simp only [State.complete, ho, hw, hcopy, beq_self_eq_true, Bool.not_false, Bool.and_self, if_true]

/-- The last access of an instruction whose gate is open is performed, the lanes that waited wake, and the completion alone is left. -/
theorem resumeMem_last {seqd : Bool} {st : MemStep} {t : State} {rws : List RW} (hw : o.work = .mem [st]) (hafter : s.stepAfter o.core o.id st = false)
    (hgate : s.stepGate o.core true seqd st = .ok) (hp : performStep o.core o.id st s = (t, rws)) :
    resumeMem true seqd o s = (wakeDone o.id o.mems [] (rws.foldl deliver t)).modOp o.id fun x => { x with work := .results } := by
  have hrun : runSteps o.core o.id true seqd [] [st] s = (t, [], rws) := by
    simp only [runSteps, List.any_nil, hafter, hgate, Bool.or_self, Bool.false_eq_true, if_false, beq_self_eq_true, if_true, hp, List.append_nil]
  simp only [resumeMem, hw, hrun, leaveSteps, parkSteps, List.foldl_nil, List.isEmpty_nil, if_true]

end

end Sys2Proof.Machine

namespace Sys2Proof.Spec
open Sys2Proof.Machine

/-- Settles O58: each condition is the one that the event asks for; of an instruction with one access left, the run of its steps performs that one. -/
theorem completionEventResults : Obligations.CompletionEventResults := by
  intro s core k n o
  refine ⟨?fill, ?yield, fun ho => ⟨fun st hw hafter => ⟨?load, ?store, ?seqStore, ?rmw⟩, ?mem, ?conj, ?vol, ?complete, ?kick, ?sched⟩, ?row, ?remote, ?start, ?line⟩
  case fill =>
    intro obj line hread hgate
    refine (execIcacheFill.eq_def core k s).trans (congrArg Host.Outcome.next ?_)
    simp only [hread, hgate, List.isEmpty_iff]
  case yield =>
    refine (execYieldExpiry.eq_def core k n s).trans ?_
    simp only [Bool.and_eq_true, beq_iff_eq]
  case load =>
    intro f hact hnp hgate
    rw [exec_loadDataArrival ho, arriveOp_mem hw]
    refine congrArg Host.Outcome.next (resumeMem_last hw hafter hgate ?_)
    simp only [performStep, performAct, hact, hnp, Bool.false_and, Bool.false_eq_true, if_false]
  case store =>
    intro bs hact hgate
    rw [exec_loadDataArrival ho, arriveOp_mem hw]
    refine congrArg Host.Outcome.next ((resumeMem_last hw hafter hgate rfl).trans ?_)
    simp only [performAct, hact, List.foldl_nil]
  case seqStore =>
    intro bs hact hgate
    rw [exec_sequencerWrite ho, arriveOp_mem hw]
    refine congrArg Host.Outcome.next ((resumeMem_last hw hafter hgate rfl).trans ?_)
    simp only [performAct, hact, List.foldl_nil]
  case rmw =>
    intro a t sat v d hact hd hgate
    rw [exec_loadDataArrival ho, arriveOp_mem hw]
    refine congrArg Host.Outcome.next (resumeMem_last hw hafter hgate ?_)
    simp only [performStep, performAct, hact, hd]
  case mem =>
    intro l hw
    rw [exec_loadDataArrival ho, exec_sequencerWrite ho, arriveOp_mem hw, arriveOp_mem hw]
    exact ⟨rfl, rfl⟩
  case conj =>
    intro r hw
    rw [exec_loadDataArrival ho, exec_sequencerWrite ho, arriveOp_conj hw, arriveOp_conj hw]
    exact ⟨rfl, rfl⟩
  case vol =>
    intro r hw
    rw [exec_loadDataArrival ho, arriveOp_vol hw]
  case complete =>
    intro hw hcopy
    refine (execLongLatencyComplete.eq_def k s).trans (congrArg Host.Outcome.next ?_)
    simp only [ho, hw]
    exact complete_results ho hw hcopy
  case kick =>
    intro cs hw hfree hrel hconf
    refine (execCpkickRegister.eq_def k s).trans (congrArg Host.Outcome.next ?_)
    simp only [ho, hw, hrel, hconf, Nat.not_lt.mpr hfree, decide_false, Bool.or_self, Bool.false_eq_true, if_false]
  case sched =>
    intro r hw hgo hfree hlock
    refine (execSchrunRegister.eq_def k s).trans (congrArg Host.Outcome.next ?_)
    simp only [ho, hw, hgo, hlock, beq_false_of_ne (Nat.pos_iff_ne_zero.mp hfree), Bool.or_self, Bool.false_eq_true, if_false]
  case row =>
    intro x j hx
    refine (execLexiconRowPerformed.eq_def k s).trans (congrArg Host.Outcome.next ?_)
    simp only [hx]
  case remote =>
    intro r hr hbefore hhere
    refine (execRemoteStorePerformed.eq_def k s).trans (congrArg Host.Outcome.next ?_)
    simp only [hr, hbefore, hhere, Bool.or_self, Bool.false_eq_true, if_false]
  case start =>
    refine congrArg Host.Outcome.next (congrArg (s.modCore core) (funext fun x => ?_))
    refine congrArg (fun cs => { x with copies := cs }) (List.map_congr_left fun c _ => ?_)
    beta_reduce
    cases c.after with
    | none => rfl
    | some a => simp only [List.not_any_eq_all_not]; rfl
  case line =>
    intro c p hc hp hst hgate
    refine (execCopyLineArrival.eq_def core k n s).trans (congrArg Host.Outcome.next ?_)
    simp only [arrivePart, hc, hp, hst, hgate, Bool.not_true, Bool.false_eq_true, if_false]

end Sys2Proof.Spec
end

section
/-!
PROOFS. The events of the volume engines, pages and item queues (R82 to R85, R285, R287, R291, R294, R304, R320): under its condition each has its effect.
-/
set_option autoImplicit false

namespace Sys2Proof.Machine
open Sys2Proof.Spec

section
variable {s : State} {k : Nat} {o : LongOp} {r : VReq}

/-- An engine's step for a volume request that no page stops. -/
theorem volStep_go {f : LongOp → VReq → State → State} {t : State} (hreq : s.volReq? k = some (o, r)) (hgo : volStuck s r = none) (hf : f o r s = t) :
    volStep k f s = .next t := by
  simp only [volStep, hreq, hgo, hf]

end

end Sys2Proof.Machine

namespace Sys2Proof.Spec
open Sys2Proof.Machine

/-- Settles O59: each condition is the one that the event asks for. -/
theorem engineEventResults : Obligations.EngineEventResults := by
  intro s k core o r
  refine ⟨fun hreq hgo => ⟨?walk, ?fetch, ?alloc, ?remove⟩, ?mark, ?request, ?ack, ?pages, ?refill⟩
  case walk =>
    intro ln t hsent hmiss hbusy
    refine (congrFun (execClbWalk.eq_def k) s).trans (volStep_go hreq hgo ?_)
    simp only [hsent, hmiss, hbusy, Bool.false_eq_true, if_false]
  case fetch =>
    intro ln off hsent hline
    refine (congrFun (execTileLineFetch.eq_def k) s).trans (volStep_go hreq hgo ?_)
    simp only [hsent, hline, Bool.not_true, Bool.false_eq_true, if_false, beq_iff_eq]
  case alloc =>
    intro ln hlane hfree hsent hop
    refine ⟨fun b new t htile => ?_, fun code htile => ?_⟩
    · refine (congrFun (execTileAllocation.eq_def k) s).trans (volStep_go hreq hgo ?_)
      simp only [hlane, hfree, hsent, hop, List.contains_cons, List.contains_nil, beq_self_eq_true, Bool.true_or, Bool.or_true, Bool.not_true, Bool.or_self,
        Bool.false_eq_true, if_false, if_true, htile]
    · refine (congrFun (execTileAllocation.eq_def k) s).trans (volStep_go hreq hgo ?_)
      simp only [hlane, hfree, hsent, hop, List.contains_cons, List.contains_nil, beq_self_eq_true, Bool.true_or, Bool.or_true, Bool.not_true, Bool.or_self,
        Bool.false_eq_true, if_false, if_true, htile]
  case remove =>
    intro ln rest htodo hfree
    refine ⟨fun hop hbusy hdepth => ?_, fun hop => ?_⟩
    · refine (congrFun (execTileRemoval.eq_def k) s).trans (volStep_go hreq hgo ?_)
      simp only [htodo, hfree, hop, beq_self_eq_true, Bool.true_or, Bool.not_true, Bool.or_self, hbusy, Nat.not_le.mpr hdepth, Bool.false_eq_true, if_false]
    · refine (congrFun (execBackgroundWrite.eq_def k) s).trans (volStep_go hreq hgo ?_)
      simp only [htodo, hfree, hop, bne_self_eq_false, Bool.not_true, Bool.or_self, Bool.false_eq_true, if_false]
  case mark =>
    intro ln rest hreq htodo hbusy hacks henabled at_ hdrained
    have hdrains : drains s core ln.vol r.level (tileAt ln.x ln.y ln.z) = true := hdrained
    refine (execShootdownMark.eq_def k core s).trans (congrArg Host.Outcome.next ?_)
    simp only [hreq, htodo, hbusy, hacks, henabled, hdrains, Bool.not_true, Bool.or_self, Bool.false_eq_true, if_false]
    rfl
  case request =>
    intro id off stop ob hplace hob hnone hsmall
    refine (execCollapseRequest.eq_def k s).trans (congrArg Host.Outcome.next ?_)
    simp only [hplace, hob, hnone, hsmall, Bool.false_eq_true, if_false]
  case ack =>
    intro c die hc hnew hrest
    refine (execCollapseAck.eq_def k die s).trans (congrArg Host.Outcome.next ?_)
    simp only [hc, hnew, Bool.false_eq_true, if_false, hrest]
  case pages =>
    intro oid page id ob p slot hpage
    refine ⟨?compress, ?expand, ?pending, ?noRoom, ?kind⟩
    case compress =>
      intro habort hcomp hrepl hkind hidle hslot hzone
      refine (execPageCompress.eq_def oid page slot s).trans (congrArg Host.Outcome.next ?_)
      simp only [hpage, habort, hcomp, hrepl, hkind, hidle, hzone, bne_self_eq_false, decide_eq_false (Nat.not_le.mpr hslot), Bool.or_self]
      rfl
    case expand =>
      intro f u hcomp hpend hframe
      refine (execPageExpand.eq_def oid page f s).trans (congrArg Host.Outcome.next ?_)
      simp only [hpage, hcomp, hpend, Bool.not_true, Bool.or_self, Bool.false_eq_true, if_false, hframe]
    case pending =>
      intro f hpend
      refine (execPageExpand.eq_def oid page f s).trans (congrArg Host.Outcome.next ?_)
      simp only [hpage, hpend, Bool.or_true, if_true]
    case noRoom =>
      intro hcomp hpend hframe
      refine (execPageExpand.eq_def oid page none s).trans (congrArg Host.Outcome.next ?_)
      simp only [hpage, hcomp, hpend, Bool.not_true, Bool.or_self, Bool.false_eq_true, if_false, hframe]
    case kind =>
      intro kind hkind hk3 hidle hwork
      refine (execPageKindChange.eq_def oid page kind s).trans (congrArg Host.Outcome.next ?_)
      simp only [hpage, hkind, hidle, hwork, bne_self_eq_false, beq_false_of_ne hk3, Bool.or_self, Bool.false_eq_true, if_false]
  case refill =>
    intro q hq ws lanes hlanes hitems
    refine (execItemRefill.eq_def core k s).trans (congrArg Host.Outcome.next ?_)
    simp only [hq]
    refine if_neg ?_
    rw [Bool.or_eq_true, List.isEmpty_iff, List.isEmpty_iff]
    exact not_or.mpr ⟨hlanes, hitems⟩

end Sys2Proof.Spec
end

section
/-!
PROOFS. The events of grids, tasks and standing programs (R129 to R135, R333, R335, R395 to R400, R403, R405, R407 to R412): under its condition each has its effect.
-/
set_option autoImplicit false

namespace Sys2Proof.Machine
open Sys2Proof.Spec

section
variable {s : State} {core q key d i : Nat} {p : Prog}

/-- A block starts on the lowest free sequencer. -/
theorem startBlock_begun {b : Block} {ps : List (Nat × Nat)} (hq : (s.core core).freeSeq = some q) : startBlock core b ps s = begun core q b ps s := by
  simp only [startBlock, hq]
  rfl

/-- Neither a turn of the placement unit nor a record that leaves its source takes a sequencer. -/
theorem freeSeq_passTurn (claims : Bool) : ((passTurn core claims s).core core).freeSeq = (s.core core).freeSeq := by
  rw [passTurn, State.core_modCore_same]
  rfl

theorem freeSeq_takeRecord (src : Source) (r : TaskRec) : ((takeRecord core src r s).core core).freeSeq = (s.core core).freeSeq := by
  rw [takeRecord, State.core_modCore_same]
  cases src <;> rfl

/-- The core's turn does not change whose ticket it claims: a ticket in the grid starts its block. -/
theorem claimTicket_block {id : Nat} {g : Grid} {ps : List (Nat × Nat)} (hlt : g.ticket < g.n) (hq : (s.core core).freeSeq = some q) :
    claimTicket core id g ps s = begun core q (g.block id g.ticket) ps { s with
      grids := smSet s.grids id { g with ticket := g.ticket + 1, running := if g.ticket < g.n then g.running + 1 else g.running } } :=
  (if_pos hlt).trans (startBlock_begun hq)

/-- A unit that has served no heap starts with the first that has an eligible block. -/
theorem execSettleDispatch_first {die : Nat} {is : List Nat} (hturn : smGet? s.turns die = none) (hhead : (heapsOn s die).head? = some (key, p, d, is))
    (hpick : heapPick p (smGetD p.heapk d 0 % 16 == 15) is = some i) :
    execSettleDispatch die s = .next (startDispatch key p d i { s with turns := smSet s.turns die key }) := by
  have hall : ((heapsOn s die).filter fun _ => true) = heapsOn s die := List.filter_eq_self.mpr fun _ _ => rfl
  refine (execSettleDispatch.eq_def die s).trans (congrArg Host.Outcome.next ?_)
  simp only [hturn, hall, List.head?_append, hhead, Option.some_or, hpick]

/-- A dispatch that starts, with the core that it goes to. -/
theorem startDispatch_eq (t : State) :
    startDispatch key p d i t =
      let n := smGetD p.heapk d 0
      let y : SBlk := { p.blk i with capR := (p.blk i).res, capG := p.gen, res := 0, seqno := n + 1, flight := true }
      let u := t.modProg key fun x => ({ x with blks := smSet x.blks i y, heapk := bump x.heapk d 1, disp := x.disp + 1 } : Prog).event d
      let u := u.modJob p.job fun j => { j with count := j.count + 1 }
      (homeCore u p i).elim u fun c => notify c (u.modCore c fun y => { y with settleq := y.settleq ++ [dispatchRecord u p i] }) := by
  simp only [startDispatch]
  split
  · next hc => rw [hc, Option.elim_some]
  · next hc => rw [hc, Option.elim_none]

/-- The cell that a pending list begins with is tried where its link leads on in the list (R405). -/
theorem retryCell_follows {x : BitVec 24 × Nat} {rest : List (BitVec 24 × Nat)} (hpend : (s.core core).pend = x :: rest) (hobj : (s.obj? x.1).isSome)
    (hnext : rest = [] ∨ pendingCell s (cellNext s x.1 x.2) = true ∧ (rest.head? = some (cellNext s x.1 x.2) ∨
      (cellRec s (cellNext s x.1 x.2).1 (cellNext s x.1 x.2).2).jobid = (cellRec s x.1 x.2).jobid)) :
    retryCell core s = (pushDeque core (cellRec s x.1 x.2) s).elim s fun t => disarm x.1 x.2
      ((setCellFlag x.1 x.2 2 false t).modCore core fun k => { k with pend := if rest = [] then [] else listFrom s rest (cellNext s x.1 x.2) }) := by
  have hlive : (s.obj? x.1).isNone = false := by rw [← Option.not_isSome, hobj]; rfl
  have hfollows : (rest.isEmpty || (pendingCell s (cellNext s x.1 x.2) && (rest.head? == some (cellNext s x.1 x.2) ||
      (cellRec s (cellNext s x.1 x.2).1 (cellNext s x.1 x.2).2).jobid == (cellRec s x.1 x.2).jobid))) = true := by
    simpa only [Bool.or_eq_true, Bool.and_eq_true, List.isEmpty_iff, beq_iff_eq] using hnext
  simp only [retryCell, hpend, hlive, hfollows, Bool.not_true, Bool.or_self, Bool.false_eq_true, if_false, List.isEmpty_iff]
  cases pushDeque core (cellRec s x.1 x.2) s with
  | none => rfl
  | some t => rfl

/-- Two sweeps that show the same quiet state converge. -/
theorem converge_eq : converge key p s =
    let rp := Side.obj p.img.report
    let t := writeReport p (fun s => (((s.writeNat rp 12 4 1).writeNat rp 0 8 p.gen.toNat).writeNat rp 8 4 (maxRes (p.blks.map (·.2.res))).toNat).writeNat rp 16 8 p.disp) s
    let t := if reportLive t p then engineCount rp 64 1 t else t
    let t := t.modProg key fun p => { p with recorded := true, last := none }
    (smGet? t.jobs p.job).elim t fun j => raiseQueue j.hdr.vi j.hdr.q t := by
  simp only [converge]
  split
  · next hj => rw [hj, Option.elim_some]
  · next hj => rw [hj, Option.elim_none]

end

end Sys2Proof.Machine

namespace Sys2Proof.Spec
open Sys2Proof.Machine

/-- Settles O60: each condition is the one that the event asks for. -/
theorem schedulingEventResults : Obligations.SchedulingEventResults := by
  intro s core q k die
  refine ⟨?ticket, ?task, ?steal, ?landing, ?retireGrid, ?retireTask, ⟨?retryNone, ?retry⟩, ?grid, ?gang, ?dispatch, ?post, ?sweep, ?opStart, ?opLoad, ?opComplete⟩
  case ticket =>
    intro id g ps hchoice hturn
    have hgo : (!(s.core core).claims && (nextRecord s core).isSome) = false := by
      obtain hc | hn := hturn
      · rw [show (s.core core).claims = true from hc]; rfl
      · rw [hn]; exact Bool.and_false _
    have hclaim : exec (.ticketClaim core) s = .next (claimTicket core id g ps (passTurn core false s)) := by
      refine (execTicketClaim.eq_def core s).trans (congrArg Host.Outcome.next ?_)
      simp only [hchoice, hgo, Bool.false_eq_true, if_false]
    refine ⟨fun hlt sq hsq => hclaim.trans (congrArg Host.Outcome.next ?_), fun hge => hclaim.trans (congrArg Host.Outcome.next ?_)⟩
    · exact claimTicket_block hlt ((freeSeq_passTurn false).trans hsq)
    · exact if_neg (Nat.not_lt.mpr hge)
  case task =>
    intro src r blk ps hnext hturn t hblk hfits sq hsq
    have hgo : ((s.core core).claims && !(claimable s core).isEmpty) = false := by
      obtain hc | hn := hturn
      · rw [show (s.core core).claims = false from hc]; rfl
      · rw [hn]; exact Bool.and_false _
    refine (execTaskStart.eq_def core s).trans (congrArg Host.Outcome.next ?_)
    simp only [hnext, hgo, Bool.false_eq_true, if_false, placeRecord]
    rw [show recordBlock (passTurn core true s) r = some blk from hblk]
    simp only []
    rw [show (passTurn core true s).fits core blk.image (0, 0) = some ps from hfits]
    exact startBlock_begun ((freeSeq_takeRecord src r).trans ((freeSeq_passTurn true).trans hsq))
  case steal =>
    intro j hin hpart hhalt hland hdeq hset hfree hspill
    refine (execSteal.eq_def core s).trans (congrArg Host.Outcome.next ((if_neg ?_).trans ?_))
    · rw [hin, hhalt, hland, hdeq, hset, ← Option.not_isSome, ← Option.not_isSome, hpart, hfree]
      exact Bool.false_ne_true
    · simp only [hspill]
  case landing =>
    intro r hr hp
    refine (execLandingReturn.eq_def core s).trans (congrArg Host.Outcome.next ?_)
    simp only [hr, hp, Bool.or_true, if_true]
  case retireGrid =>
    intro g x y z hret horigin
    refine congrArg Host.Outcome.next ((if_pos hret).trans ?_)
    simp only [horigin]
  case retireTask =>
    intro r hret horigin
    refine congrArg Host.Outcome.next ((if_pos hret).trans ?_)
    simp only [horigin]
  case retryNone =>
    intro hpend
    refine congrArg Host.Outcome.next (congrArg (requeueHeld _) ?_)
    simp only [retryCell, hpend]
  case retry =>
    intro x rest hpend hobj n hnext
    have hretry := retryCell_follows hpend hobj hnext
    refine ⟨fun hnone => congrArg Host.Outcome.next (congrArg (requeueHeld _) ?_), fun t ht => congrArg Host.Outcome.next (congrArg (requeueHeld _) ?_)⟩
    · rw [hretry, hnone, Option.elim_none]
    · rw [hretry, ht, Option.elim_some]
  case grid =>
    intro g p hg hdone hfin hparent
    refine (execGridComplete.eq_def k s).trans (congrArg Host.Outcome.next ?_)
    simp only [hg, hdone, hfin, hparent, Bool.not_true, Bool.or_self, Bool.false_eq_true, if_false]
  case gang =>
    intro gang g t hg hclash hearlier hcommit
    refine (execGangReservation.eq_def gang s).trans (congrArg Host.Outcome.next ?_)
    simp only [hg, hclash, hearlier, hcommit, Bool.false_eq_true, if_false]
  case dispatch =>
    intro key p d is i hturn hhead n hpick
    refine (execSettleDispatch_first hturn hhead hpick).trans (congrArg Host.Outcome.next ?_)
    exact startDispatch_eq _
  case post =>
    intro x hx
    refine (execPostApply.eq_def k s).trans (congrArg Host.Outcome.next ?_)
    simp only [hx]
  case sweep =>
    intro p hp hrec hdue
    have hgo : (p.recorded || !sweepDue p) = false := by rw [hrec, hdue]; rfl
    refine ⟨fun hstill => ?_, fun hstill => ?_⟩ <;>
      refine (execConvergenceSweep.eq_def k s).trans (congrArg Host.Outcome.next ?_) <;>
      simp only [hp, hgo, Bool.false_eq_true, if_false, Bool.and_eq_true, beq_iff_eq]
    · rw [if_neg hstill]
      simp only [State.modProg, hp]
    · rw [if_pos hstill]
      exact converge_eq
  case opStart =>
    intro o ho hst hbusy hsrc
    refine (execMatrixOpStart.eq_def core q k s).trans (congrArg Host.Outcome.next ?_)
    simp only [ho, hsrc, hst, hbusy, Bool.not_false, Bool.and_self, if_true]
  case opLoad =>
    intro o x ho hsrc hwait
    refine (execMatrixOpStart.eq_def core q k s).trans (congrArg Host.Outcome.next ?_)
    simp only [ho, hsrc, hwait, Bool.false_eq_true, if_false]
  case opComplete =>
    intro o ho hst
    refine (execMatrixOpComplete.eq_def core q k s).trans (congrArg Host.Outcome.next ?_)
    simp only [ho, hst, if_true]

end Sys2Proof.Spec
end

section
/-!
PROOFS. A step of the machine (R7, R15, R52, R53, R70, R76, R117, R337), the words of the encodings, and the machine at cold power-on.
-/
set_option autoImplicit false

namespace Sys2Proof.Machine
open Sys2Proof.Spec

section
variable {s : State}

/-- A fetch reads the objects alone. -/
theorem fetch_congr {t : State} (h : t.objs = s.objs) (obj : BitVec 24) (pc : BitVec 32) : t.fetch obj pc = s.fetch obj pc := by
  simp only [State.fetch, State.obj?, h]

@[simp] theorem begin_objs (g : Group) (s : State) : (s.begin g).objs = s.objs := rfl

@[simp] theorem refreshTable_objs (core : Nat) (s : State) : (s.refreshTable core).objs = s.objs := rfl

/-- A group's instruction whose word decodes runs. -/
theorem runGroup_decoded {ex : Exec} {g : Group} {w : InstrWord} {i : Instr} (hw : s.fetch g.obj g.pc = some w) (hi : decodeWord w = .ok i) :
    runGroup ex g s = ex i (s.begin g) := by
  simp only [runGroup, fetch_congr (begin_objs g s), hw, hi]

/-- A group's word that decodes to nothing raises ILLOP. -/
theorem runGroup_illop {ex : Exec} {g : Group} {w : InstrWord} {x : DecodeError} (hw : s.fetch g.obj g.pc = some w) (hx : decodeWord w = .error x) :
    runGroup ex g s = .next (raiseTrap { cause := .illop, lanes := g.lanes } (s.begin g)) := by
  simp only [runGroup, fetch_congr (begin_objs g s), hw, hx]

/-- A group whose index lies outside its code object raises CAPBOUND. -/
theorem runGroup_capbound {ex : Exec} {g : Group} (hw : s.fetch g.obj g.pc = none) :
    runGroup ex g s = .next (raiseTrap { cause := .capbound, lanes := g.lanes } (s.begin g)) := by
  simp only [runGroup, fetch_congr (begin_objs g s), hw]

/-- A slice with a group runs it. -/
theorem runSlice_group {ex : Exec} {core slice : Nat} {g : Group} (hg : (s.refreshTable core).formGroup core slice = some g) :
    runSlice ex core slice s = runGroup ex g (s.refreshTable core) := by
  simp only [runSlice, hg]

/-- An agent that is ready runs its group: no beat was due. -/
theorem runAgent_ready {ex : Exec} {core : Nat} (h : agentReady s core = true) : runAgent ex core s = runGroup ex (s.agentGroup core) s := by
  have hawake : (s.core core).waitfi = false := by
    rw [agentReady, Bool.and_eq_true] at h
    simpa using h.1
  have hbeat : beatDue core s = s := by
    rw [beatDue, hawake]
    rfl
  simp only [runAgent, hbeat, h, if_true]

/-- A sequencer that is ready runs the instruction that its word decodes to. -/
theorem runStream_decoded {ex : Exec} {core seq : Nat} {b : Block} {w : InstrWord} {i : Instr} (hb : s.block? core seq = some b) (hr : streamReady s core b = true)
    (hw : s.fetch b.code b.mx.pc = some w) (hi : decodeWord w = .ok i) : runStream ex core seq s = ex i (s.begin (streamGroup core seq b)) := by
  simp only [runStream, hb, hr, Bool.not_true, Bool.false_eq_true, if_false, fetch_congr (begin_objs _ s), hw, hi]

/-- The front end starts the head command of the queue whose turn it is. -/
theorem runCommand_starts {ex : Exec} {v q : Nat} {t : State} {i : Instr} (hq : nextQueue s (s.viPart v) = some (v, q)) (hp : popHead v q s = (t, some i)) :
    runCommand ex v q s = match ex i t with
      | .next u => .next (holdHead v q u)
      | x => x := by
  simp only [runCommand, hq, ne_eq, not_true_eq_false, if_false, hp] <;> rfl

/-- A step makes the agenda's next move. -/
theorem step_move {m : Move} {r : List Move} (h : s.agenda = m :: r) : step s = afterMove s (runMove exec m { s with agenda := r }) := by
  rw [step, stepWith, h]

/-- What follows a move does not look at the agenda. -/
theorem afterMove_agenda (r : List Move) (o : Out) : afterMove { s with agenda := r } o = afterMove s o := rfl

/-- A change of threads keeps their number. -/
theorem length_modThreads (x : Warp) (m : Mask) (f : Nat → Thread → Thread) : (x.modThreads m f).threads.length = x.threads.length :=
  List.length_mapIdx

/-- A thread of a warp whose threads have changed. -/
theorem thread_modThreads {x : Warp} {l : Nat} (hl : l < x.threads.length) (m : Mask) (f : Nat → Thread → Thread) :
    (x.modThreads m f).thread l = if m.getLsbD l then f l (x.thread l) else x.thread l := by
  simp [Warp.thread, Warp.modThreads, List.getD_eq_getElem?_getD, hl]

/-- A thread of a member of a fold is at the place that the change puts it, wherever the member stands in the list. -/
theorem modMembers_thread_pc {ms : List Member} {clock : Nat} {pc : BitVec 32} {m : Member} {l : Nat} (hm : m ∈ ms) (hl : m.lanes.getLsbD l = true)
    (hlen : l < (s.warp m.w).threads.length) :
    (((s.modMembers ms fun m w => w.modThreads m.lanes fun _ th => th.issued clock pc).warp m.w).thread l).pc = pc + 1 := by
  obtain ⟨before, after, rfl⟩ := List.append_of_mem hm
  rw [State.modMembers, List.foldl_append, List.foldl_cons, ← State.modMembers, ← State.modMembers]
  have hthreads : ((s.modMembers before fun m w => w.modThreads m.lanes fun _ th => th.issued clock pc).warp m.w).threads.length = (s.warp m.w).threads.length :=
    warp_modMembers_keeps (fun x => x.threads.length) s before _ m.w fun _ _ => length_modThreads _ _ _
  refine (warp_modMembers_induct (fun x => l < x.threads.length ∧ (x.thread l).pc = pc + 1) _ after _ m.w ?_ ?_).2
  · rcases hb : (s.modMembers before fun m w => w.modThreads m.lanes fun _ th => th.issued clock pc).block? m.w.core m.w.seq with _ | b
    · rw [warp_absent _ _ hb] at hthreads
      exact absurd hlen (Nat.not_lt.mpr (hthreads.symm.le.trans (Nat.zero_le l)))
    · rw [State.warp_modWarp_same _ _ _ b hb]
      refine ⟨by rw [length_modThreads, hthreads]; exact hlen, ?_⟩
      rw [thread_modThreads (hthreads ▸ hlen), if_pos hl, Thread.issued_pc]
  · rintro k - - x ⟨hx, hpc⟩
    refine ⟨by rw [length_modThreads]; exact hx, ?_⟩
    rw [thread_modThreads hx]
    split
    · rw [Thread.issued_pc]
    · exact hpc

/-- An issue changes of the warps only the threads of its members. -/
theorem warp_advance (s : State) (w : WRef) :
    s.advance.warp w = (({ s with clock := s.clock + 1 } : State).modMembers s.cur.mems fun m x =>
      x.modThreads m.lanes fun _ th => th.issued (s.clock + 1) s.cur.pc).warp w :=
  warp_modCore _ _ _ (fun k => { s.cur.countUse (· + 1) k with issued := if s.cur.unit == .slice then k.issued + 1 else k.issued }) fun _ => rfl

/-- A thread of a member is at the next index once the issue has advanced. -/
theorem advance_thread_pc {m : Member} {l : Nat} (hm : m ∈ s.cur.mems) (hl : m.lanes.getLsbD l = true) (hlen : l < (s.warp m.w).threads.length) :
    ((s.advance.warp m.w).thread l).pc = s.cur.pc + 1 := by
  rw [warp_advance]
  exact modMembers_thread_pc hm hl hlen

end

end Sys2Proof.Machine

namespace Sys2Proof.Spec
open Sys2Proof.Machine

/-- Settles O2: each word is decoded. -/
theorem wordsDecodeToTheirInstructions : Obligations.WordsDecodeToTheirInstructions := by
  unfold Obligations.WordsDecodeToTheirInstructions
  decide +kernel

/-- Settles O3: no core has been changed from the empty one that the reset reads. -/
theorem resetValues : Obligations.ResetValues :=
  ⟨fun _ => ⟨rfl, rfl, rfl, rfl, rfl, rfl, rfl, rfl⟩, rfl, rfl, rfl, rfl, rfl, rfl, rfl, rfl, rfl, rfl, fun _ => rfl, rfl⟩

/-- Settles O14: the version is 0 at reset, and no word is below 0. -/
theorem minimumSecurityVersionAtReset : Obligations.MinimumSecurityVersionAtReset :=
  ⟨rfl, fun _ => BitVec.not_lt_zero⟩

/-- Settles O1: each move is what the agenda's next entry names. -/
theorem stepRunsTheDecodedInstruction : Obligations.StepRunsTheDecodedInstruction := by
  intro s r e
  refine ⟨?word, ?issue, ?illop, ?capbound, ?together, ?agent, ?stream, ?command, ?event, fun m l => advance_thread_pc⟩
  case word =>
    intro obj pc o ho hcode hsize
    simp only [State.fetch, ho, hcode, beq_self_eq_true, decide_eq_true hsize, Bool.and_self, if_true]
    rfl
  case issue =>
    intro core slice g w i ha hg hw hi
    rw [step_move ha, ← afterMove_agenda r]
    exact congrArg (afterMove e) ((runSlice_group hg).trans (runGroup_decoded ((fetch_congr rfl g.obj g.pc).trans hw) hi))
  case illop =>
    intro core slice g w x ha hg hw hx
    rw [step_move ha, ← afterMove_agenda r]
    exact congrArg (afterMove e) ((runSlice_group hg).trans (runGroup_illop ((fetch_congr rfl g.obj g.pc).trans hw) hx))
  case capbound =>
    intro core slice g ha hg hw
    rw [step_move ha, ← afterMove_agenda r]
    exact congrArg (afterMove e) ((runSlice_group hg).trans (runGroup_capbound ((fetch_congr rfl g.obj g.pc).trans hw)))
  case together =>
    intro core slices ha
    rw [step_move ha, ← afterMove_agenda r]
    refine congrArg (afterMove e) ?_
    simp only [runMove, runTogether]
    rfl
  case agent =>
    intro core w i ha hr hw hi
    rw [step_move ha, ← afterMove_agenda r]
    exact congrArg (afterMove e) ((runAgent_ready hr).trans (runGroup_decoded ((fetch_congr rfl _ _).trans hw) hi))
  case stream =>
    intro core seq b w i ha hb hr hw hi
    rw [step_move ha, ← afterMove_agenda r]
    exact congrArg (afterMove e) (runStream_decoded hb hr ((fetch_congr rfl _ _).trans hw) hi)
  case command =>
    intro v q t i ha hq hp
    rw [step_move ha, ← afterMove_agenda r]
    exact congrArg (afterMove e) (runCommand_starts hq hp)
  case event =>
    intro i ha hi
    rw [step_move ha, ← afterMove_agenda r]
    exact congrArg (afterMove e) (if_pos hi)

end Sys2Proof.Spec
end

section
/-!
PROOFS. The checks that come before every instruction's own (R54, R57, R62, R71), and what a register holds after a write (R55, R56, R144, R147).
-/
set_option autoImplicit false

namespace Sys2Proof.Machine
open Sys2Proof.Spec

section
variable {s : State} {u : Uses}

/-- A privileged instruction on the agent, or any other, passes the first check. -/
theorem issueChk_unprivileged (hp : ¬(u.priv = true ∧ s.cur.unit ≠ .agent)) (act : Mask) :
    s.issueChk u act = (do
      trapIf (!s.regsIn u) .regrange s.cur.lanes
      trapIf (!s.latchesOk u act) .latch s.cur.lanes) := by
  have hno : (u.priv && s.cur.unit != .agent) = false := by
    rw [Bool.and_eq_false_iff]
    by_cases h : u.priv = true
    · exact .inr (by simpa [h] using hp)
    · exact .inl (Bool.eq_false_iff.mpr h)
  simp only [State.issueChk, hno]
  rfl

theorem issueChk_regrange (hp : ¬(u.priv = true ∧ s.cur.unit ≠ .agent)) (hr : s.regsIn u = false) (act : Mask) :
    s.issueChk u act = .error { cause := .regrange, lanes := s.cur.lanes } := by
  rw [issueChk_unprivileged hp, hr]
  rfl

theorem issueChk_latch (hp : ¬(u.priv = true ∧ s.cur.unit ≠ .agent)) (hr : s.regsIn u = true) {act : Mask} (hl : s.latchesOk u act = false) :
    s.issueChk u act = .error { cause := .latch, lanes := s.cur.lanes } := by
  rw [issueChk_unprivileged hp, hr, hl]
  rfl

theorem issueChk_passes (hp : ¬(u.priv = true ∧ s.cur.unit ≠ .agent)) (hr : s.regsIn u = true) {act : Mask} (hl : s.latchesOk u act = true) :
    s.issueChk u act = .ok () := by
  rw [issueChk_unprivileged hp, hr, hl]
  rfl

/-- Every register that a field names lies below T in every warp of the group (R57). -/
theorem regsIn_iff : s.regsIn u = true ↔ ∀ f n m, f ∈ u.a.toList ++ u.b.toList ++ u.d.toList ++ u.ds.toList → f.r = .v n → m ∈ s.cur.mems →
    n.val < (s.warp m.w).g + (s.warp m.w).f + (s.warp m.w).q := by
  rw [State.regsIn, List.all_eq_true]
  refine ⟨fun h f n m hf hn hm => ?_, fun h f hf => ?_⟩
  · have hall := h f hf
    rw [hn] at hall
    exact of_decide_eq_true (List.all_eq_true.mp hall m hm)
  · split
    case h_1 n hn => exact List.all_eq_true.mpr fun m hm => decide_eq_true (h f n m hf hn hm)
    case h_2 => rfl

end

section
variable (w : Warp) {n k l j : Nat} (v : Word)

/-! The classes of a warp's registers by number (R144). -/

theorem cls_gen_iff : w.cls n = .gen ↔ n < w.g := by
  grind [Warp.cls]

theorem cls_aff_iff : w.cls n = .aff ↔ w.g ≤ n ∧ n < w.g + w.f := by
  grind [Warp.cls]

theorem cls_uni_iff : w.cls n = .uni ↔ w.g + w.f ≤ n ∧ n < w.g + w.f + w.q := by
  grind [Warp.cls, Warp.total]

/-! A register of each class, as it is read (R147). -/

theorem readReg_gen (hc : w.cls n = .gen) : w.readReg n l = smGetD w.gen (32 * n + l) 0 := by
  simp only [Warp.readReg, hc]

theorem readReg_uni (hc : w.cls n = .uni) : w.readReg n l = smGetD w.uni n 0 := by
  simp only [Warp.readReg, hc]

theorem readReg_aff (hc : w.cls n = .aff) : w.readReg n l = (smGetD w.aff n (0, 0)).1 + BitVec.ofNat 32 l * (smGetD w.aff n (0, 0)).2 := by
  simp only [Warp.readReg, hc]

/-- What a register reads depends on its class and its own entry alone. -/
theorem readReg_congr {x : Warp} (hc : x.cls n = w.cls n) (hg : smGetD x.gen (32 * n + l) 0 = smGetD w.gen (32 * n + l) 0)
    (ha : smGetD x.aff n (0, 0) = smGetD w.aff n (0, 0)) (hu : smGetD x.uni n 0 = smGetD w.uni n 0) : x.readReg n l = w.readReg n l := by
  simp only [Warp.readReg, hc, hg, ha, hu]

/-- A register of each class after it has been written. -/
theorem readReg_putGen_same (hc : w.cls n = .gen) :
    (w.putGen n l v).readReg n j = if j = l then v else w.readReg n j := by
  rw [readReg_gen (w.putGen n l v) hc, readReg_gen w hc, Warp.putGen, smGetD_smPut]
  simp only [Nat.add_left_cancel_iff]

theorem readReg_putUni_same (hc : w.cls n = .uni) : (w.putUni n v).readReg n j = v := by
  rw [readReg_uni (w.putUni n v) hc, Warp.putUni, smGetD_smPut, if_pos rfl]

theorem readReg_putAff_same (x : Word) (hc : w.cls n = .aff) : (w.putAff n (v, x)).readReg n j = v + BitVec.ofNat 32 j * x := by
  rw [readReg_aff (w.putAff n (v, x)) hc, Warp.putAff, smGetD_smPut, if_pos rfl]

/-- A write of a register leaves every other one. -/
theorem readReg_putGen_other (h : k ≠ n) (hl : l < 32) (hj : j < 32) : (w.putGen n l v).readReg k j = w.readReg k j :=
  readReg_congr w rfl ((smGetD_smPut ..).trans (if_neg (by omega))) rfl rfl

theorem readReg_putUni_other (h : k ≠ n) : (w.putUni n v).readReg k j = w.readReg k j :=
  readReg_congr w rfl rfl rfl ((smGetD_smPut ..).trans (if_neg h))

theorem readReg_putAff_other (x : Word × Word) (h : k ≠ n) : (w.putAff n x).readReg k j = w.readReg k j :=
  readReg_congr w rfl rfl ((smGetD_smPut ..).trans (if_neg h)) rfl

/-- A predicate after it has been written, in the lanes of the mask only; and every other one, pt included. -/
theorem pred_putPred_same {p : Nat} (m y : Mask) (hp : p ≠ 15) : (w.putPred p m y).pred p = (w.pred p &&& ~~~m) ||| (y &&& m) := by
  simp only [Warp.pred, Warp.putPred, hp, if_false, smGetD_smPut, if_true]

theorem pred_putPred_other {p q : Nat} (m y : Mask) (hq : q ≠ p) : (w.putPred p m y).pred q = w.pred q := by
  simp only [Warp.pred, Warp.putPred, smGetD_smPut, hq, if_false]

end

end Sys2Proof.Machine

namespace Sys2Proof.Spec
open Sys2Proof.Machine

/-- Settles O5: each check fails or passes in the order of the wrapper that every instruction goes through. -/
theorem issueChecksComeFirst : Obligations.IssueChecksComeFirst := by
  intro i s hraw hunit
  obtain ⟨body, he⟩ := exec_issues i s hraw hunit
  refine ⟨fun hp => he.trans (issue_refused (issueChk_priv _ hp.1 hp.2)), fun hp hr => he.trans (issue_refused (issueChk_regrange hp hr _)),
    fun hp hr hl => he.trans (issue_refused (issueChk_latch hp hr hl)), fun hp hr hl hidle => he.trans (issue_idle (issueChk_passes hp hr hl) hidle), regsIn_iff⟩

/-- Settles O6: each clause is a law of the registers. -/
theorem registersReadBack : Obligations.RegistersReadBack := by
  intro w n k l j v x m y p q hl hj
  refine ⟨cls_gen_iff w, cls_aff_iff w, cls_uni_iff w, fun hc => readReg_putGen_same w v hc, readReg_putUni_same w v, readReg_putAff_same w v x,
    fun h => ⟨readReg_putGen_other w v h hl hj, readReg_putUni_other w v h, readReg_putAff_other w (v, x) h⟩, pred_putPred_same w m y, pred_putPred_other w m y,
    ⟨rfl, rfl⟩, fun f vals aff mm hf => ?_, fun s wide imm => ⟨rfl, rfl, rfl⟩⟩
  simp only [putField, hf]

end Sys2Proof.Spec
end

section
/-!
PROOFS. Taking a trap (R61, R427 to R429, R431, R447): what it does to a block of the group, and that it leaves every other block, every other warp and the rest of
the machine alone.
-/
set_option autoImplicit false

namespace Sys2Proof.Machine
open Sys2Proof.Spec

/-! ### What is no core stays -/

section
variable {γ : Type} {g : State → γ} (hg : ∀ (t : State) ks, g { t with cores := ks } = g t)
include hg

/-- A change of a core, of a block or of warps keeps whatever does not look at the cores. -/
theorem modCore_offCores (s : State) (c : Nat) (f : Core → Core) : g (s.modCore c f) = g s := hg s _

theorem modBlock_offCores (s : State) (c q : Nat) (f : Block → Block) : g (s.modBlock c q f) = g s := by
  unfold State.modBlock
  cases s.block? c q with
  | none => rfl
  | some b => exact hg s _

theorem modWarp_offCores (s : State) (w : WRef) (f : Warp → Warp) : g (s.modWarp w f) = g s := modBlock_offCores hg s w.core w.seq _

theorem modMembers_offCores (s : State) (ms : List Member) (f : Member → Warp → Warp) : g (s.modMembers ms f) = g s :=
  modMembers_keeps g (modWarp_offCores hg) s ms f

end

/-! ### One block of the group -/

section
variable {s : State} {t : TrapReq} {g : Group} {cq : Nat × Nat}

/-- The members of a group in a block. -/
def membersIn (g : Group) (cq : Nat × Nat) : List Member := g.mems.filter fun m => m.w.core == cq.1 && m.w.seq == cq.2

theorem mem_membersIn {m : Member} : m ∈ membersIn g cq ↔ m ∈ g.mems ∧ m.w.core = cq.1 ∧ m.w.seq = cq.2 := by
  simp only [membersIn, List.mem_filter, Bool.and_eq_true, beq_iff_eq]

/-- The handler of a block may be entered (R428, R447): the agent lets it, the vector is in order, and no warp is in it. -/
def entersIn (s : State) (g : Group) (cq : Nat × Nat) : Bool :=
  (s.core cq.1).agtctl.getLsbD 0 && s.vectorOk (s.block cq.1 cq.2) && (membersIn g cq).all fun m => (s.warp m.w).trap == none

/-- Where the handler may be entered, the members of the block enter it. -/
theorem trapBlock_enters (h : entersIn s g cq = true) :
    trapBlock t g s cq = s.modMembers (membersIn g cq) (enterHandler t g s.clock ((s.block cq.1 cq.2).cap 31)) := if_pos h

/-- Where it may not, the block stops with the trap of one of its members. -/
theorem trapBlock_stops {m : Member} (h : entersIn s g cq = false) (hm : m ∈ membersIn g cq) :
    ∃ x ∈ membersIn g cq, trapBlock t g s cq = s.modBlock cq.1 cq.2 fun b => b.stopBy (.trap (t.infoFor g x)) := by
  have hmem : m ∈ ((membersIn g cq).filter fun m => t.lanes &&& m.lanes != 0) ++ membersIn g cq := List.mem_append_right _ hm
  obtain ⟨x, r, hlist⟩ := List.exists_cons_of_ne_nil (List.ne_nil_of_mem hmem)
  refine ⟨x, ?_, ?_⟩
  · have hx : x ∈ ((membersIn g cq).filter fun m => t.lanes &&& m.lanes != 0) ++ membersIn g cq := hlist ▸ List.mem_cons_self
    exact (List.mem_append.mp hx).elim (fun h => (List.mem_filter.mp h).1) id
  · refine (if_neg (Bool.eq_false_iff.mp h)).trans ?_
    rw [show ((g.mems.filter fun m => m.w.core == cq.1 && m.w.seq == cq.2).filter fun m => t.lanes &&& m.lanes != 0) ++
      (g.mems.filter fun m => m.w.core == cq.1 && m.w.seq == cq.2) = x :: r from hlist]

/-- What `trapBlock` does is a change of warps of the block, or of the block but its warps, or nothing. -/
theorem trapBlock_cases (t : TrapReq) (g : Group) (s : State) (cq : Nat × Nat) :
    (∃ f, trapBlock t g s cq = s.modMembers (membersIn g cq) f) ∨ (∃ x, trapBlock t g s cq = s.modBlock cq.1 cq.2 fun b => b.stopBy x) ∨ trapBlock t g s cq = s := by
  cases h : entersIn s g cq with
  | true => exact .inl ⟨_, trapBlock_enters h⟩
  | false =>
    cases hms : membersIn g cq with
    | nil =>
      refine .inr (.inr ((if_neg (Bool.eq_false_iff.mp h)).trans ?_))
      rw [show (g.mems.filter fun m => m.w.core == cq.1 && m.w.seq == cq.2) = [] from hms]
      rfl
    | cons m r =>
      obtain ⟨x, -, hx⟩ := trapBlock_stops (t := t) h (hms ▸ List.mem_cons_self)
      exact .inr (.inl ⟨_, hx⟩)

/-- Trapping a block keeps what does not look at the cores. -/
theorem trapBlock_offCores {γ : Type} {k : State → γ} (hk : ∀ (u : State) ks, k { u with cores := ks } = k u) (t : TrapReq) (g : Group) (s : State)
    (cq : Nat × Nat) : k (trapBlock t g s cq) = k s := by
  obtain ⟨f, h⟩ | ⟨x, h⟩ | h := trapBlock_cases t g s cq
  · rw [h, modMembers_offCores hk]
  · rw [h, modBlock_offCores hk]
  · rw [h]

/-- Trapping a block keeps of every core what a change of its blocks keeps. -/
theorem core_trapBlock {γ : Type} (k : Core → γ) (hk : ∀ x l, k { x with blocks := l } = k x) (t : TrapReq) (g : Group) (s : State) (cq : Nat × Nat) (c : Nat) :
    k ((trapBlock t g s cq).core c) = k (s.core c) := by
  obtain ⟨f, h⟩ | ⟨x, h⟩ | h := trapBlock_cases t g s cq
  · rw [h, core_modMembers_keeps k hk]
  · rw [h, core_modBlock_keeps k hk]
  · rw [h]

/-- A change of a block's warps leaves every other block. -/
theorem block?_modMembers_other {ms : List Member} {f : Member → Warp → Warp} {c q : Nat} (h : ∀ m ∈ ms, ¬(m.w.core = c ∧ m.w.seq = q)) :
    (s.modMembers ms f).block? c q = s.block? c q := by
  induction ms generalizing s with
  | nil => rfl
  | cons m r ih =>
    rw [State.modMembers, List.foldl_cons, ← State.modMembers, ih fun x hx => h x (List.mem_cons_of_mem _ hx), State.modWarp, block?_modBlock, if_neg]
    exact fun he => h m List.mem_cons_self ⟨he.1.symm, he.2.symm⟩

/-- Trapping a block leaves every other block. -/
theorem block?_trapBlock_other {c q : Nat} (h : (c, q) ≠ cq) : (trapBlock t g s cq).block? c q = s.block? c q := by
  have hne : ¬(c = cq.1 ∧ q = cq.2) := fun he => h (Prod.ext he.1 he.2)
  obtain ⟨f, hf⟩ | ⟨x, hx⟩ | hs := trapBlock_cases t g s cq
  · rw [hf]
    refine block?_modMembers_other fun m hm he => hne ?_
    obtain ⟨-, hc, hq⟩ := mem_membersIn.mp hm
    exact ⟨he.1.symm.trans hc, he.2.symm.trans hq⟩
  · rw [hx, block?_modBlock, if_neg hne]
  · rw [hs]

/-- A warp is read off its block. -/
theorem warp_congr {u : State} {w : WRef} (h : u.block? w.core w.seq = s.block? w.core w.seq) : u.warp w = s.warp w := by
  simp only [State.warp, State.block, h]

/-- A change of a block that keeps its warps leaves every warp. -/
theorem warp_modBlock {f : Block → Block} (hf : ∀ b, (f b).warps = b.warps) (c q : Nat) (w : WRef) : (s.modBlock c q f).warp w = s.warp w := by
  simp only [State.warp, block_modBlock_keeps Block.warps s c q w.core w.seq f hf]

/-- Trapping a block leaves the warps that are no members. -/
theorem warp_trapBlock_other {w : WRef} (h : ∀ m ∈ g.mems, m.w ≠ w) : (trapBlock t g s cq).warp w = s.warp w := by
  obtain ⟨f, hf⟩ | ⟨x, hx⟩ | hs := trapBlock_cases t g s cq
  · rw [hf, warp_modMembers_other _ _ _ _ fun m hm => h m (mem_membersIn.mp hm).1]
  · rw [hx, warp_modBlock (f := fun b => b.stopBy x) fun _ => rfl]
  · rw [hs]

end

/-! ### The blocks of the group -/

section
variable {s : State} {t : TrapReq} {g : Group}

/-- A list without its repetitions has none. -/
theorem nodup_eraseDups : ∀ l : List (Nat × Nat), l.eraseDups.Nodup
  | [] => List.nodup_nil
  | a :: r => by
    rw [List.eraseDups_cons, List.nodup_cons, List.mem_eraseDups]
    exact ⟨by simp, nodup_eraseDups _⟩
termination_by l => l.length
decreasing_by exact Nat.lt_succ_of_le (List.length_filter_le _ _)

/-- The blocks before and after one of the group's blocks, each without it. -/
theorem blocksOf_split {ms : List Member} {m : Member} (hm : m ∈ ms) :
    ∃ before after, blocksOf ms = before ++ (m.w.core, m.w.seq) :: after ∧ (m.w.core, m.w.seq) ∉ before ∧ (m.w.core, m.w.seq) ∉ after := by
  have hin : (m.w.core, m.w.seq) ∈ blocksOf ms := List.mem_eraseDups.mpr (List.mem_map.mpr ⟨m, hm, rfl⟩)
  obtain ⟨before, after, hl⟩ := List.append_of_mem hin
  have hnd : (blocksOf ms).Nodup := nodup_eraseDups _
  rw [hl, List.nodup_append] at hnd
  exact ⟨before, after, hl, fun h => hnd.2.2 _ h _ List.mem_cons_self rfl, (List.nodup_cons.mp hnd.2.1).1⟩

/-- Trapping other blocks leaves a block. -/
theorem block?_trapBlocks_other {l : List (Nat × Nat)} {c q : Nat} (h : (c, q) ∉ l) : (l.foldl (trapBlock t g) s).block? c q = s.block? c q := by
  induction l generalizing s with
  | nil => rfl
  | cons a r ih =>
    obtain ⟨hne, hr⟩ := not_or.mp (fun hor => h (List.mem_cons.mpr hor))
    rw [List.foldl_cons, ih hr, block?_trapBlock_other hne]

/-- Trapping blocks keeps what does not look at the cores, and of every core what a change of its blocks keeps. -/
theorem trapBlocks_offCores {γ : Type} {k : State → γ} (hk : ∀ (u : State) ks, k { u with cores := ks } = k u) (l : List (Nat × Nat)) :
    k (l.foldl (trapBlock t g) s) = k s :=
  foldl_keeps k (trapBlock t g) (trapBlock_offCores hk t g) l s

theorem core_trapBlocks {γ : Type} (k : Core → γ) (hk : ∀ x l, k { x with blocks := l } = k x) (l : List (Nat × Nat)) (c : Nat) :
    k ((l.foldl (trapBlock t g) s).core c) = k (s.core c) :=
  foldl_keeps (fun u : State => k (u.core c)) (trapBlock t g) (fun u cq => core_trapBlock k hk t g u cq c) l s

theorem warp_trapBlocks_other {w : WRef} (h : ∀ m ∈ g.mems, m.w ≠ w) (l : List (Nat × Nat)) : (l.foldl (trapBlock t g) s).warp w = s.warp w :=
  foldl_keeps (fun u : State => u.warp w) (trapBlock t g) (fun _ _ => warp_trapBlock_other h) l s

/-- The trap vector is checked against the objects. -/
theorem vectorOk_congr {u : State} (h : u.objs = s.objs) (b : Block) : u.vectorOk b = s.vectorOk b := by
  simp only [State.vectorOk, State.usable, State.capObj, State.obj?, h]

/-- Whether a handler may be entered depends on the block, its core's agent and the objects. -/
theorem entersIn_congr {u : State} {cq : Nat × Nat} (hb : u.block? cq.1 cq.2 = s.block? cq.1 cq.2) (ho : u.objs = s.objs)
    (ha : (u.core cq.1).agtctl = (s.core cq.1).agtctl) : entersIn u g cq = entersIn s g cq := by
  have hwarps : ((membersIn g cq).all fun m => (u.warp m.w).trap == none) = (membersIn g cq).all fun m => (s.warp m.w).trap == none := by
    have hw : ∀ m ∈ membersIn g cq, u.warp m.w = s.warp m.w := fun m hm => by
      obtain ⟨-, hc, hq⟩ := mem_membersIn.mp hm
      exact warp_congr (by rw [hc, hq]; exact hb)
    rw [Bool.eq_iff_iff, List.all_eq_true, List.all_eq_true]
    exact forall₂_congr fun m hm => by rw [hw m hm]
  simp only [entersIn, ha, State.block, hb, vectorOk_congr ho, hwarps]

/-- The latches that a trap empties lie in no block. -/
theorem block?_clearLatch (c q : Nat) : (clearLatch g s).block? c q = s.block? c q := block?_modCore s g.core c q _ fun _ => rfl

/-- A trap at a block of the group is what `trapBlock` does there, in a state that agrees with the one before it on the block and on whether its handler may be
entered. -/
theorem takeTrap_block {m : Member} (hm : m ∈ g.mems) : ∃ u : State,
    u.block? m.w.core m.w.seq = s.block? m.w.core m.w.seq ∧ u.clock = s.clock + 1 ∧
    entersIn u g (m.w.core, m.w.seq) = entersIn s g (m.w.core, m.w.seq) ∧
    (takeTrap t g s).block? m.w.core m.w.seq = (trapBlock t g u (m.w.core, m.w.seq)).block? m.w.core m.w.seq := by
  obtain ⟨before, after, hl, hbefore, hafter⟩ := blocksOf_split hm
  have hblock : (before.foldl (trapBlock t g) (clearLatch g { s with clock := s.clock + 1 })).block? m.w.core m.w.seq = s.block? m.w.core m.w.seq := by
    rw [block?_trapBlocks_other hbefore, block?_clearLatch]
    rfl
  refine ⟨before.foldl (trapBlock t g) (clearLatch g { s with clock := s.clock + 1 }), hblock, trapBlocks_offCores (k := State.clock) (fun _ _ => rfl) before,
    entersIn_congr hblock (trapBlocks_offCores (k := State.objs) (fun _ _ => rfl) before) ?_, ?_⟩
  · rw [core_trapBlocks Core.agtctl (fun _ _ => rfl)]
    exact core_modCore_keeps Core.agtctl _ _ _ _ fun _ => rfl
  · rw [takeTrap, hl, List.foldl_append, List.foldl_cons, block?_trapBlocks_other hafter]

/-- Entering the handler changes the trap registers and the threads of the lanes. -/
theorem enterHandler_bare (clock : Nat) (c : Cap) (m : Member) (w : Warp) :
    { enterHandler t g clock c m w with trap := none, threads := [] } = { w with trap := none, threads := [] } := rfl

/-- Where the handler of its block may be entered, a member's warp enters it. -/
theorem warp_takeTrap_enters {m : Member} {b : Block} (hm : m ∈ g.mems) (hnd : (g.mems.map fun x => x.w).Nodup)
    (hb : s.block? m.w.core m.w.seq = some b) (h : entersIn s g (m.w.core, m.w.seq) = true) :
    (takeTrap t g s).warp m.w = enterHandler t g (s.clock + 1) (b.cap 31) m (s.warp m.w) := by
  obtain ⟨u, hu, hclock, henters, htake⟩ := takeTrap_block (s := s) (t := t) hm
  have hmine : m ∈ membersIn g (m.w.core, m.w.seq) := mem_membersIn.mpr ⟨hm, rfl, rfl⟩
  have hmines : ((membersIn g (m.w.core, m.w.seq)).map fun x => x.w).Nodup := hnd.sublist (List.filter_sublist.map _)
  have hblock : u.block m.w.core m.w.seq = b := by rw [State.block, hu, hb]; rfl
  rw [warp_congr htake, trapBlock_enters (henters.trans h), warp_modMembers _ _ _ m hmine hmines (by rw [hu, hb]; rfl), hclock, hblock, warp_congr hu]

/-- There its block changes in its warps alone. -/
theorem block_takeTrap_enters {m : Member} {b : Block} (hm : m ∈ g.mems) (hb : s.block? m.w.core m.w.seq = some b)
    (h : entersIn s g (m.w.core, m.w.seq) = true) : { (takeTrap t g s).block m.w.core m.w.seq with warps := [] } = { b with warps := [] } := by
  obtain ⟨u, hu, -, henters, htake⟩ := takeTrap_block (s := s) (t := t) hm
  have hblock : u.block m.w.core m.w.seq = b := by rw [State.block, hu, hb]; rfl
  have hstep : (takeTrap t g s).block m.w.core m.w.seq = (trapBlock t g u (m.w.core, m.w.seq)).block m.w.core m.w.seq := by simp only [State.block, htake]
  rw [hstep, trapBlock_enters (henters.trans h)]
  exact (block_modMembers_keeps (fun x : Block => { x with warps := [] }) (fun _ _ => rfl) u _ _ _ _).trans
    (congrArg (fun x : Block => { x with warps := [] }) hblock)

/-- Where it may not be entered, the block stops with the trap of one of its members, and its warps stay. -/
theorem takeTrap_stops {m : Member} {b : Block} (hm : m ∈ g.mems) (hb : s.block? m.w.core m.w.seq = some b) (hstop : b.stop = none)
    (h : entersIn s g (m.w.core, m.w.seq) = false) :
    (∃ x ∈ membersIn g (m.w.core, m.w.seq), ((takeTrap t g s).block m.w.core m.w.seq).stop = some (.trap (t.infoFor g x))) ∧
      (takeTrap t g s).warp m.w = s.warp m.w := by
  obtain ⟨u, hu, -, henters, htake⟩ := takeTrap_block (s := s) (t := t) hm
  obtain ⟨x, hx, hstops⟩ := trapBlock_stops (t := t) (henters.trans h) (mem_membersIn.mpr ⟨hm, rfl, rfl⟩)
  refine ⟨⟨x, hx, ?_⟩, ?_⟩
  · simp only [State.block, htake, hstops, block?_modBlock, hu, hb, and_self, if_true, Option.map_some, Option.getD_some, Block.stopBy, hstop]
  · rw [warp_congr htake, hstops]
    exact (warp_modBlock (f := fun b => b.stopBy (.trap (t.infoFor g x))) (fun _ => rfl) _ _ _).trans (warp_congr hu)

/-- A trap leaves the warps that are no members. -/
theorem warp_takeTrap_other {w : WRef} (h : ∀ m ∈ g.mems, m.w ≠ w) : (takeTrap t g s).warp w = s.warp w :=
  (warp_trapBlocks_other h _).trans (warp_modCore _ _ _ _ fun _ => rfl)

/-- A trap keeps what looks neither at the cores nor at the clock. -/
theorem takeTrap_keeps {γ : Type} {k : State → γ} (hk : ∀ (u : State) ks, k { u with cores := ks } = k u) :
    k (takeTrap t g s) = k { s with clock := s.clock + 1 } :=
  (trapBlocks_offCores hk _).trans (modCore_offCores hk _ _ _)

/-- A trap that waits for the group's older instructions: it is kept, and the group's threads wait. -/
def deferTrap (t : TrapReq) (g : Group) (s : State) : State :=
  { s.modMembers g.mems (fun m w => w.modThreads m.lanes fun _ th => { th with wait := .deferred }) with
    deferred := s.deferred ++ [{ grp := g, cause := t.cause, lanes := t.lanes, info := t.info, infos := t.infos }] }

/-- A trap that waits changes no warp but its threads. -/
theorem warp_deferTrap_bare (w : WRef) : { (deferTrap t g s).warp w with threads := [] } = { s.warp w with threads := [] } := by
  refine warp_modMembers_keeps (fun x : Warp => { x with threads := [] }) s g.mems _ w ?_
  exact fun _ _ => rfl

/-- The threads of a member wait with it. -/
theorem warp_deferTrap {m : Member} {b : Block} (hm : m ∈ g.mems) (hnd : (g.mems.map fun x => x.w).Nodup) (hb : s.block? m.w.core m.w.seq = some b) :
    (deferTrap t g s).warp m.w = (s.warp m.w).modThreads m.lanes fun _ th => { th with wait := .deferred } :=
  warp_modMembers s g.mems _ m hm hnd (by rw [hb]; rfl)

/-- A trap that waits leaves the warps that are no members. -/
theorem warp_deferTrap_other {w : WRef} (h : ∀ m ∈ g.mems, m.w ≠ w) : (deferTrap t g s).warp w = s.warp w := warp_modMembers_other s _ _ _ h

/-- A trap empties the group's latches. -/
theorem slot_takeTrap {k : Nat} (hk : k < 3) : (takeTrap t s.cur s).slot k = none := by
  have hcur : (takeTrap t s.cur s).cur = s.cur := trapBlocks_offCores (k := State.cur) (fun _ _ => rfl) _
  have hlatches : ((takeTrap t s.cur s).core s.cur.core).latches = ((clearLatch s.cur { s with clock := s.clock + 1 }).core s.cur.core).latches :=
    core_trapBlocks Core.latches (fun _ _ => rfl) _ _
  simp only [State.slot, hcur, hlatches, clearLatch, State.core_modCore_same, smGet_smDel]
  rcases (by omega : k = 0 ∨ k = 1 ∨ k = 2) with rfl | rfl | rfl <;> simp

end

end Sys2Proof.Machine

namespace Sys2Proof.Spec
open Sys2Proof.Machine

/-- The trap vector's conditions (R428). -/
theorem vectorOk_iff {s : State} {b : Block} : s.vectorOk b = true ↔ s.usable b.part (b.cap 31) = true ∧ (b.cap 31).right 2 = true ∧
    (∃ o, s.capObj (b.cap 31) = some o ∧ o.kind = .code) ∧ (b.cap 31).lower.toNat % 12 = 0 ∧ (b.cap 31).lower.toNat + 12 ≤ (b.cap 31).upper.toNat := by
  cases h : s.capObj (b.cap 31) <;> simp [State.vectorOk, h, and_assoc]

/-- The statement's condition for entering the handler is the model's. -/
theorem enters_iff {s : State} {m : Member} {b : Block} (hb : s.block? m.w.core m.w.seq = some b) :
    entersIn s s.cur (m.w.core, m.w.seq) = true ↔ (s.core m.w.core).agtctl.getLsbD 0 = true ∧ s.vectorOk b = true ∧
      ∀ x, x ∈ s.cur.mems → (x.w.core = m.w.core ∧ x.w.seq = m.w.seq) → (s.warp x.w).trap = none := by
  have hblock : s.block m.w.core m.w.seq = b := by rw [State.block, hb]; rfl
  simp only [entersIn, hblock, Bool.and_eq_true, List.all_eq_true, beq_iff_eq, mem_membersIn, and_assoc, and_imp]

/-- Settles O11: a trap is taken block by block, and each block's part leaves the others and the rest alone; a deferred one only makes the threads wait. -/
theorem trapEntry : Obligations.TrapEntry := by
  intro s t m b hm hnd hb hstop
  have htakes (hold : olderPending s.cur s = false) : raiseTrap t s = takeTrap t s.cur s := if_neg (Bool.eq_false_iff.mp hold)
  have hwaits (hold : olderPending s.cur s = true) : raiseTrap t s = deferTrap t s.cur s := if_pos hold
  refine ⟨vectorOk_iff, fun hold henter => ?_, fun hold hno => ?_, fun hold => ?_, fun w hw => ?_, ?_⟩
  case refine_1 =>
    have henters := (enters_iff hb).mpr henter
    have hwarp := warp_takeTrap_enters (t := t) hm hnd hb henters
    rw [htakes hold, hwarp]
    exact ⟨rfl, fun l hl => thread_modThreads hl _ _, enterHandler_bare _ _ _ _, block_takeTrap_enters hm hb henters, fun k hk => slot_takeTrap hk⟩
  case refine_2 =>
    rw [htakes hold]
    obtain ⟨⟨x, hx, hstops⟩, hwarp⟩ := takeTrap_stops (t := t) hm hb hstop (Bool.eq_false_iff.mpr fun h => hno ((enters_iff hb).mp h))
    obtain ⟨hin, hmine⟩ := mem_membersIn.mp hx
    exact ⟨⟨x, hin, hmine, hstops⟩, hwarp⟩
  case refine_3 =>
    rw [hwaits hold]
    refine ⟨rfl, warp_deferTrap_bare _, fun l hl hlane => ?_⟩
    rw [warp_deferTrap hm hnd hb, thread_modThreads hl, if_pos hlane]
  case refine_4 =>
    have hother : ∀ x ∈ s.cur.mems, x.w ≠ w := fun x hx he => hw (he ▸ List.mem_map_of_mem hx)
    cases hold : olderPending s.cur s with
    | false => rw [htakes hold, warp_takeTrap_other hother]
    | true => rw [hwaits hold, warp_deferTrap_other hother]
  case refine_5 =>
    cases hold : olderPending s.cur s with
    | false =>
      rw [htakes hold]
      exact takeTrap_keeps (k := fun u : State => { u with cores := s.cores, clock := s.clock, deferred := s.deferred }) fun _ _ => rfl
    | true =>
      rw [hwaits hold]
      exact modMembers_offCores (g := fun u : State => { u with cores := s.cores, clock := s.clock, deferred := s.deferred }) (fun _ _ => rfl) s _ _

end Sys2Proof.Spec
end

section
/-!
PROOFS. What an instruction that has issued leaves alone (R7, R54, R168): a frame from the state before it to the state after it, kept by every operation on
registers, predicates, flags, threads and latches, and so by an instruction whose body is built from them.
-/
set_option autoImplicit false

namespace Sys2Proof.Spec
open Sys2Proof.Machine

/-! ### What may have changed of one warp -/

/-- What a `FrameBut` allows a warp to have become. -/
structure Changes (i : Instr) (s : State) (wr : WRef → Nat → Nat → Prop) (p : Option Nat) (fl : Bool) (hide : Mask → Warp → Warp) (w : WRef) (x : Warp) : Prop where
  size : x.g = (s.warp w).g ∧ x.f = (s.warp w).f ∧ x.q = (s.warp w).q
  regs : ∀ n l, l < 32 → wr w n l ∨ x.readReg n l = (s.warp w).readReg n l
  preds : ∀ q l, (p = some q ∧ ∃ mm, mm ∈ acting i s ∧ mm.w = w ∧ mm.lanes.getLsbD l = true) ∨ (x.pred q).getLsbD l = ((s.warp w).pred q).getLsbD l
  flags : fl = false → x.fpflags = (s.warp w).fpflags
  bare : if lanesIn i s w = 0 then bareWarp x = bareWarp (s.warp w) else hide (lanesIn i s w) (bareWarp x) = hide (lanesIn i s w) (bareWarp (s.warp w))

section
variable {i : Instr} {s : State} {wr : WRef → Nat → Nat → Prop} {p : Option Nat} {fl : Bool} {hide : Mask → Warp → Warp} {w : WRef} {x y : Warp} {m : Member}

/-- The lanes of an acting member are among the active lanes of its warp. -/
theorem lanesIn_acting (hm : m ∈ acting i s) {l : Nat} (hl : m.lanes.getLsbD l = true) : (lanesIn i s m.w).getLsbD l = true := by
  have hfold : ∀ (ms : List Member) (a : Mask), (m ∈ ms ∨ a.getLsbD l = true) →
      (ms.foldl (fun a x => if x.w = m.w then a ||| x.lanes else a) a).getLsbD l = true := by
    intro ms
    induction ms with
    | nil => exact fun a h => h.elim (fun h => absurd h List.not_mem_nil) id
    | cons b r ih =>
      intro a h
      refine ih _ ?_
      dsimp only
      rcases h with h | h
      · rcases List.mem_cons.mp h with rfl | h
        · exact .inr (by rw [if_pos rfl, BitVec.getLsbD_or, hl, Bool.or_true])
        · exact .inl h
      · refine .inr ?_
        split
        · rw [BitVec.getLsbD_or, h, Bool.true_or]
        · exact h
  exact hfold _ _ (.inl hm)

/-- An acting member has an active lane. -/
theorem lanes_acting (hm : m ∈ acting i s) : m.lanes ≠ 0 := by
  simpa using (List.mem_filter.mp hm).2

theorem lanesIn_ne_zero (hm : m ∈ acting i s) : lanesIn i s m.w ≠ 0 := by
  obtain ⟨l, hl⟩ : ∃ l, m.lanes.getLsbD l = true := by
    by_contra hno
    exact lanes_acting hm (BitVec.eq_of_getLsbD_eq fun l _ => by simpa using fun h => hno ⟨l, h⟩)
  intro h0
  have hin := lanesIn_acting hm hl
  rw [h0] at hin
  simp at hin

theorem Changes.refl (w : WRef) : Changes i s wr p fl hide w (s.warp w) where
  size := ⟨rfl, rfl, rfl⟩
  regs _ _ _ := .inr rfl
  preds _ _ := .inr rfl
  flags _ := rfl
  bare := by split <;> rfl

/-- A change that is allowed after another. -/
theorem Changes.trans (h : Changes i s wr p fl hide w x) (hsize : y.g = x.g ∧ y.f = x.f ∧ y.q = x.q)
    (hregs : ∀ n l, l < 32 → wr w n l ∨ y.readReg n l = x.readReg n l)
    (hpreds : ∀ q l, (p = some q ∧ ∃ mm, mm ∈ acting i s ∧ mm.w = w ∧ mm.lanes.getLsbD l = true) ∨ (y.pred q).getLsbD l = (x.pred q).getLsbD l)
    (hflags : fl = false → y.fpflags = x.fpflags)
    (hbare : if lanesIn i s w = 0 then bareWarp y = bareWarp x else hide (lanesIn i s w) (bareWarp y) = hide (lanesIn i s w) (bareWarp x)) :
    Changes i s wr p fl hide w y := by
  obtain ⟨size, regs, preds, flags, bare⟩ := h
  refine ⟨⟨hsize.1.trans size.1, hsize.2.1.trans size.2.1, hsize.2.2.trans size.2.2⟩, fun n l hl => ?_, fun q l => ?_, fun hf => (hflags hf).trans (flags hf), ?_⟩
  · exact (hregs n l hl).elim .inl fun h => (regs n l hl).imp_right h.trans
  · exact (hpreds q l).elim .inl fun h => (preds q l).imp_right h.trans
  · split at hbare
    case isTrue h0 => rw [if_pos h0] at bare ⊢; exact hbare.trans bare
    case isFalse h0 => rw [if_neg h0] at bare ⊢; exact hbare.trans bare

/-- The classes of the registers stay. -/
theorem Changes.cls (h : Changes i s wr p fl hide w x) (n : Nat) : x.cls n = (s.warp w).cls n := by
  obtain ⟨hg, hf, hq⟩ := h.size
  simp only [Warp.cls, Warp.total, hg, hf, hq]
  rfl

/-- A change of registers alone. -/
theorem Changes.registers (h : Changes i s wr p fl hide w x) (hsize : y.g = x.g ∧ y.f = x.f ∧ y.q = x.q) (hpreds : y.preds = x.preds)
    (hflags : y.fpflags = x.fpflags) (hbare : bareWarp y = bareWarp x) (hregs : ∀ n l, l < 32 → wr w n l ∨ y.readReg n l = x.readReg n l) :
    Changes i s wr p fl hide w y :=
  h.trans hsize hregs (fun q l => .inr (by simp only [Warp.pred, hpreds])) (fun _ => hflags) (by rw [hbare]; split <;> rfl)

/-- A change that touches no register, predicate or flag, of what `hide` takes out. -/
theorem Changes.hidden (h : Changes i s wr p fl hide w x) (hm : m ∈ acting i s) (hw : m.w = w) (hsize : y.g = x.g ∧ y.f = x.f ∧ y.q = x.q)
    (hgen : y.gen = x.gen) (haff : y.aff = x.aff) (huni : y.uni = x.uni) (hpreds : y.preds = x.preds) (hflags : fl = false → y.fpflags = x.fpflags)
    (hhide : hide (lanesIn i s w) (bareWarp y) = hide (lanesIn i s w) (bareWarp x)) : Changes i s wr p fl hide w y := by
  have hcls (n : Nat) : y.cls n = x.cls n := by
    obtain ⟨hg, hf, hq⟩ := hsize
    simp only [Warp.cls, Warp.total, hg, hf, hq]
    rfl
  refine h.trans hsize (fun n l _ => .inr ?_) (fun q l => .inr (by simp only [Warp.pred, hpreds])) hflags ?_
  · exact readReg_congr x (hcls n) (by rw [hgen]) (by rw [haff]) (by rw [huni])
  · rw [if_neg (hw ▸ lanesIn_ne_zero hm)]
    exact hhide

/-- A change of the threads that every issue may make. -/
theorem Changes.threads (h : Changes i s wr p fl hide w x) (lanes : Mask) {f : Nat → Thread → Thread} (hf : ∀ l th, bareThread (f l th) = bareThread th) :
    Changes i s wr p fl hide w (x.modThreads lanes f) := by
  have hbare : bareWarp (x.modThreads lanes f) = bareWarp x := by
    have hthreads : (x.threads.mapIdx fun l t => if lanes.getLsbD l then f l t else t).map bareThread = x.threads.map bareThread := by
      refine List.ext_getElem (by simp) fun n h1 h2 => ?_
      simp only [List.getElem_map, List.getElem_mapIdx]
      split
      · exact hf _ _
      · rfl
    simp only [bareWarp, Warp.modThreads, hthreads]
  exact h.registers ⟨rfl, rfl, rfl⟩ rfl rfl hbare fun n l _ => .inr rfl

/-- A general register that the frame names in the lane. -/
theorem Changes.putGen (h : Changes i s wr p fl hide w x) {n l : Nat} (hl : l < 32) (hwr : wr w n l) (v : Word) :
    Changes i s wr p fl hide w (x.putGen n l v) := by
  refine h.registers ⟨rfl, rfl, rfl⟩ rfl rfl rfl fun k j hj => ?_
  by_cases hk : k = n ∧ j = l
  · exact .inl (by rw [hk.1, hk.2]; exact hwr)
  · exact .inr (readReg_congr x rfl ((smGetD_smPut ..).trans (if_neg (by omega))) rfl rfl)

/-- A uniform register that the frame names. -/
theorem Changes.putUni (h : Changes i s wr p fl hide w x) {n : Nat} (hwr : x.cls n = .uni → ∀ l, l < 32 → wr w n l) (v : Word) :
    Changes i s wr p fl hide w (x.putUni n v) := by
  refine h.registers ⟨rfl, rfl, rfl⟩ rfl rfl rfl fun k j hj => ?_
  by_cases hk : k = n
  · by_cases hc : x.cls n = .uni
    · exact .inl (hk ▸ hwr hc j hj)
    · refine .inr ?_
      subst hk
      cases hx : x.cls k with
      | uni => exact absurd hx hc
      | gen => rw [readReg_gen (x.putUni k v) hx, readReg_gen x hx]; rfl
      | aff => rw [readReg_aff (x.putUni k v) hx, readReg_aff x hx]; rfl
      | out => simp only [Warp.readReg, hx, show (x.putUni k v).cls k = .out from hx]
  · exact .inr (readReg_putUni_other x v hk)

/-- An affine register that the frame names. -/
theorem Changes.putAff (h : Changes i s wr p fl hide w x) {n : Nat} (hwr : ∀ l, l < 32 → wr w n l) (v : Word × Word) :
    Changes i s wr p fl hide w (x.putAff n v) := by
  refine h.registers ⟨rfl, rfl, rfl⟩ rfl rfl rfl fun k j hj => ?_
  by_cases hk : k = n
  · exact .inl (hk ▸ hwr j hj)
  · exact .inr (readReg_putAff_other x v hk)

/-- A predicate that the frame names, in the lanes of an acting member. -/
theorem Changes.putPred {q : Nat} (h : Changes i s wr (some q) fl hide w x) (hm : m ∈ acting i s) (hw : m.w = w) (y : Mask) :
    Changes i s wr (some q) fl hide w (x.putPred q m.lanes y) := by
  refine h.trans ⟨rfl, rfl, rfl⟩ (fun _ _ _ => .inr rfl) (fun k l => ?_) (fun _ => rfl) (by split <;> rfl)
  by_cases hk : k = q
  · subst hk
    by_cases hl : m.lanes.getLsbD l = true
    · exact .inl ⟨rfl, m, hm, hw, hl⟩
    · refine .inr ?_
      by_cases h15 : k = 15
      · simp only [Warp.pred, h15, if_true]
      · rw [pred_putPred_same x _ _ h15]
        simp [hl]
        exact fun h => BitVec.lt_of_getLsbD h
  · exact .inr (by rw [pred_putPred_other x _ _ hk])

end

/-! ### What may have changed of the machine -/

/-- The machine but its cores, its clock and the count of free values. -/
def offFrame (s t : State) : State := { t with cores := s.cores, clock := s.clock, free := s.free }

/-- A `FrameBut` with what it allows of every warp. -/
structure Framed (i : Instr) (s : State) (wr : WRef → Nat → Nat → Prop) (p : Option Nat) (fl : Bool) (hide : Mask → Warp → Warp) (t : State) : Prop where
  warps : ∀ w, Changes i s wr p fl hide w (t.warp w)
  blocks : ∀ c q, { t.block c q with warps := [] } = { s.block c q with warps := [] }
  cores : ∀ c, bareCore (t.core c) = bareCore (s.core c)
  rest : offFrame s t = s

section
variable {i : Instr} {s t : State} {wr : WRef → Nat → Nat → Prop} {p : Option Nat} {fl : Bool} {hide : Mask → Warp → Warp}

/-- What a place reads lies in the objects and in the blocks' own memories. -/
theorem readN_congr (hobjs : t.objs = s.objs) (hshared : ∀ c q, (t.block c q).shared = (s.block c q).shared) (sd : Side) (a n : Nat) :
    t.readN sd a n = s.readN sd a n := by
  cases sd with
  | shm c q => simp only [State.readN, State.sideMem, State.sideFill, hshared]
  | obj oid => simp only [State.readN, State.sideMem, State.sideFill, State.obj?, hobjs]

theorem Framed.frameBut (h : Framed i s wr p fl hide t) : FrameBut i s t wr p fl hide where
  regs w := (h.warps w).regs
  preds w := (h.warps w).preds
  flags hf w := (h.warps w).flags hf
  warps w := (h.warps w).bare
  blocks := h.blocks
  cores := h.cores
  memory sd a := readN_congr (t := t) (congrArg State.objs h.rest :) (fun c q => (congrArg Block.shared (h.blocks c q) :)) sd a 1
  rest := h.rest

theorem Framed.refl : Framed i s wr p fl hide s := ⟨fun w => .refl w, fun _ _ => rfl, fun _ => rfl, rfl⟩

/-- The current group stays. -/
theorem Framed.cur (h : Framed i s wr p fl hide t) : t.cur = s.cur := (congrArg State.cur h.rest :)

/-- Members may change as the frame allows. -/
theorem Framed.modMembers (h : Framed i s wr p fl hide t) (ms : List Member) {f : Member → Warp → Warp}
    (hf : ∀ m ∈ ms, ∀ x, Changes i s wr p fl hide m.w x → Changes i s wr p fl hide m.w (f m x)) :
    Framed i s wr p fl hide (t.modMembers ms f) where
  warps w := warp_modMembers_induct (Changes i s wr p fl hide w) t ms f w (h.warps w) fun m hm hw x => hw ▸ hf m hm x
  blocks c q := (block_modMembers_keeps (fun b : Block => { b with warps := [] }) (fun _ _ => rfl) t ms f c q).trans (h.blocks c q)
  cores c := (core_modMembers_keeps bareCore (fun _ _ => rfl) t ms f c).trans (h.cores c)
  rest := (modMembers_offCores (g := offFrame s) (fun _ _ => rfl) t ms f).trans h.rest

/-- A single warp may change so too. -/
theorem Framed.modWarp (h : Framed i s wr p fl hide t) (w : WRef) {f : Warp → Warp}
    (hf : ∀ x, Changes i s wr p fl hide w x → Changes i s wr p fl hide w (f x)) : Framed i s wr p fl hide (t.modWarp w f) :=
  h.modMembers [{ w := w, lanes := 0 }] (f := fun _ => f) fun m hm => by rw [List.mem_singleton.mp hm]; exact hf

/-- A core's latches, its count of issues and its prefetches may move. -/
theorem Framed.modCore (h : Framed i s wr p fl hide t) (c : Nat) {f : Core → Core} (hblocks : ∀ k, (f k).blocks = k.blocks)
    (hbare : ∀ k, bareCore (f k) = bareCore k) : Framed i s wr p fl hide (t.modCore c f) where
  warps w := by rw [warp_modCore t c w f hblocks]; exact h.warps w
  blocks c' q := by rw [State.block, block?_modCore t c c' q f hblocks]; exact h.blocks c' q
  cores k := (core_modCore_keeps bareCore t c k f hbare).trans (h.cores k)
  rest := h.rest

theorem Framed.clock (h : Framed i s wr p fl hide t) (n : Nat) : Framed i s wr p fl hide { t with clock := n } :=
  ⟨h.warps, h.blocks, h.cores, h.rest⟩

theorem Framed.free (h : Framed i s wr p fl hide t) (n : Nat) : Framed i s wr p fl hide { t with free := n } :=
  ⟨h.warps, h.blocks, h.cores, h.rest⟩

/-! ### What every issue does -/

/-- Every issue moves what the frame leaves out. -/
theorem framed_advance (i : Instr) (s : State) : Framed i s wr p fl hide s.advance := by
  unfold State.advance
  refine Framed.modCore (Framed.modMembers (Framed.refl.clock _) _ fun m _ x h => ?_) _ ?_ ?_
  · exact h.threads m.lanes fun _ _ => rfl
  · exact fun _ => rfl
  · exact fun _ => rfl

theorem Framed.putLatch (h : Framed i s wr p fl hide t) (k : Nat) (wide : Bool) (a : Mask) (vals : Nat → BitVec 64) :
    Framed i s wr p fl hide (t.putLatch k wide a vals) := by
  unfold State.putLatch State.setLatch
  refine h.modCore _ ?_ ?_ <;> exact fun _ => rfl

theorem Framed.holdOperand (h : Framed i s wr p fl hide t) (c : Ctl) (u : Uses) (a : Mask) (s0 : State) :
    Framed i s wr p fl hide (holdOperand c u a s0 t) := by
  unfold Machine.holdOperand
  split
  · exact h.putLatch ..
  split
  · exact h.putLatch ..
  split
  · exact h.putLatch ..
  · exact h

theorem Framed.yieldGroup (h : Framed i s wr p fl hide t) (s0 : State) : Framed i s wr p fl hide (yieldGroup s0 t) :=
  h.modMembers _ fun m _ _ hx => hx.threads m.lanes fun _ _ => rfl

/-- Asking for a line moves the core's prefetches alone. -/
theorem askLine_keeps (demand : List (BitVec 24 × Nat)) (k : Core) (x : BitVec 24 × Nat) :
    (k.askLine demand x).blocks = k.blocks ∧ bareCore (k.askLine demand x) = bareCore k := by
  unfold Core.askLine
  dsimp only
  split <;> exact ⟨rfl, rfl⟩

theorem askLines_keeps (demand : List (BitVec 24 × Nat)) (l : List (BitVec 24 × Nat)) (k : Core) :
    (l.foldl (fun k x => k.askLine demand x) k).blocks = k.blocks ∧ bareCore (l.foldl (fun k x => k.askLine demand x) k) = bareCore k :=
  ⟨foldl_keeps Core.blocks _ (fun k x => (askLine_keeps demand k x).1) l k, foldl_keeps bareCore _ (fun k x => (askLine_keeps demand k x).2) l k⟩

theorem Framed.askLines (h : Framed i s wr p fl hide t) (core : Nat) (obj : BitVec 24) (start : Int) (n : Nat) :
    Framed i s wr p fl hide (askLines core obj start n t) := by
  unfold Machine.askLines
  refine h.modCore core (fun k => ?_) fun k => ?_
  · exact foldl_keeps Core.blocks _ (fun k _ => (askLine_keeps _ k _).1) _ k
  · exact foldl_keeps bareCore _ (fun k _ => (askLine_keeps _ k _).2) _ k

/-- The hints of an instruction (R60 to R65) move only what every issue may. -/
theorem Framed.hints (h : Framed i s wr p fl hide t) (c : Ctl) (u : Uses) (a : Mask) (s0 : State) :
    Framed i s wr p fl hide (hints c u a s0 t) := by
  have hheld := h.holdOperand c u a s0
  unfold Machine.hints
  split
  · exact h
  · have hyield : Framed i s wr p fl hide (if c.yld then Machine.yieldGroup s0 (Machine.holdOperand c u a s0 t) else Machine.holdOperand c u a s0 t) := by
      split
      · exact hheld.yieldGroup s0
      · exact hheld
    dsimp only
    split
    · exact hyield
    · exact hyield.askLines ..

/-! ### What bodies are built from -/

/-- The members of the group with an active lane, in any state of the frame. -/
theorem Framed.acting (h : Framed i s wr p fl hide t) : t.cur.acting (act i s) = acting i s := by
  rw [h.cur, Spec.acting, State.advance_cur]

/-- A change of each acting member. -/
theorem Framed.modActing (h : Framed i s wr p fl hide t) {f : Member → Warp → Warp}
    (hf : ∀ m ∈ Spec.acting i s, ∀ x, Changes i s wr p fl hide m.w x → Changes i s wr p fl hide m.w (f m x)) :
    Framed i s wr p fl hide (t.modMembers (t.cur.acting (act i s)) f) :=
  h.acting ▸ h.modMembers _ hf

/-- The threads of the active lanes go where the instruction sends them. -/
theorem Framed.modThreads (h : Framed i s wr p fl hide t) {f : Member → Warp → Nat → Thread → Thread}
    (hf : ∀ m x l th, bareThread (f m x l th) = bareThread th) :
    Framed i s wr p fl hide (t.modMembers (t.cur.acting (act i s)) fun m x => x.modThreads m.lanes (f m x)) :=
  h.modActing fun m _ x hx => hx.threads m.lanes (hf m x)

theorem Framed.goTo (h : Framed i s wr p fl hide t) (f : Nat → Option (BitVec 32)) : Framed i s wr p fl hide (goTo (act i s) f t) :=
  h.modThreads (f := fun _ _ l th => match f l with | some pc => { th with pc := pc } | none => th) fun _ _ l th => by
    cases f l <;> rfl

/-- A fold over lanes of changes that the frame allows. -/
theorem changes_foldl {w : WRef} {x : Warp} (h : Changes i s wr p fl hide w x) (lanes : Mask) {f : Warp → Nat → Warp}
    (hf : ∀ x l, l < 32 → lanes.getLsbD l = true → Changes i s wr p fl hide w x → Changes i s wr p fl hide w (f x l)) :
    Changes i s wr p fl hide w ((lanesOf lanes).foldl f x) := by
  have hall : ∀ l ∈ lanesOf lanes, l < 32 ∧ lanes.getLsbD l = true := fun l hl =>
    ⟨List.mem_range.mp (List.mem_filter.mp hl).1, (List.mem_filter.mp hl).2⟩
  generalize lanesOf lanes = ls at hall
  induction ls generalizing x with
  | nil => exact h
  | cons l r ih =>
    obtain ⟨hlt, hl⟩ := hall l List.mem_cons_self
    exact ih (hf x l hlt hl h) fun k hk => hall k (List.mem_cons_of_mem _ hk)

/-- The frame names every register of a field, in the lanes of an acting member's general ones. -/
def Names (i : Instr) (s : State) (wr : WRef → Nat → Nat → Prop) (d : Fld) : Prop :=
  ∀ m ∈ acting i s, ∀ n ∈ d.regs, ∀ l, ((s.warp m.w).cls n = .gen → m.lanes.getLsbD l = true) → wr m.w n l

/-- The register of a field, and the second of a pair, are among its registers. -/
theorem mem_regs {d : Fld} {n : Fin 1536} (hd : d.r = .v n) (hn : d.n ≠ 0) : n.val ∈ d.regs ∧ (d.wide = true → n.val + 1 ∈ d.regs) := by
  have hpos : 0 < d.n := Nat.pos_of_ne_zero hn
  simp only [Fld.regs, hd, List.mem_map, List.mem_range]
  refine ⟨⟨0, ?_, rfl⟩, fun hw => ⟨1, ?_, rfl⟩⟩
  · split <;> omega
  · rw [hw, if_pos rfl]; omega

/-- A result in a member's registers of a field that the frame names. -/
theorem Changes.putField {w : WRef} {x : Warp} {m : Member} {d : Fld} (h : Changes i s wr p fl hide w x) (hm : m ∈ Spec.acting i s) (hw : m.w = w)
    (hn : d.n ≠ 0) (hd : Names i s wr d) (vals : Nat → BitVec 64) (aff : Word × Word) :
    Changes i s wr p fl hide w (putField d vals aff m x) := by
  subst hw
  have hcls := h.cls
  cases hr : d.r with
  | ones | lane | latch | zero => simpa only [Machine.putField, hr] using h
  | v n =>
    obtain ⟨hfirst, hsecond⟩ := mem_regs hr hn
    cases hc : x.cls n with
    | out => simpa only [Machine.putField, hr, hc] using h
    | aff =>
      simp only [Machine.putField, hr, hc]
      exact h.putAff (fun l _ => hd m hm _ hfirst l fun hg => absurd ((hcls n).symm.trans hc |>.symm.trans hg) (by decide)) aff
    | uni =>
      simp only [Machine.putField, hr, hc]
      have hone := h.putUni (n := n) (fun _ l _ => hd m hm _ hfirst l fun hg => absurd ((hcls n).symm.trans hc |>.symm.trans hg) (by decide))
        ((vals ((lanesOf m.lanes).headD 0)).setWidth 32)
      split
      case isTrue hwide =>
        refine hone.putUni (fun hu l _ => hd m hm _ (hsecond hwide) l fun hg => absurd ((hcls (n + 1)).symm.trans hu |>.symm.trans hg) (by decide)) _
      case isFalse => exact hone
    | gen =>
      simp only [Machine.putField, hr, hc]
      refine changes_foldl h m.lanes fun y l hl32 hl hy => ?_
      have hone := hy.putGen hl32 (hd m hm _ hfirst l fun _ => hl) ((vals l).setWidth 32)
      split
      case isTrue hwide => exact hone.putGen hl32 (hd m hm _ (hsecond hwide) l fun _ => hl) _
      case isFalse => exact hone

/-- A result in D (R62, R63). -/
theorem Framed.putD {d : Fld} (h : Framed i s wr p fl hide t) (hn : d.n ≠ 0) (hd : Names i s wr d) (c : Ctl) (vals : Nat → BitVec 64)
    (aff : Member → Word × Word) : Framed i s wr p fl hide (t.putD c d (act i s) vals aff) := by
  have hput := h.modActing (f := fun m x => Machine.putField d vals (aff m) m x) fun m hm x hx => hx.putField hm rfl hn hd vals (aff m)
  unfold State.putD
  dsimp only
  split
  · exact hput.putLatch ..
  · exact hput

/-- A result in a predicate of the active lanes. -/
theorem Framed.putP {q : Nat} (h : Framed i s wr (some q) fl hide t) (f : Nat → Bool) : Framed i s wr (some q) fl hide (t.putP q (act i s) f) :=
  h.modActing fun _ hm _ hx => hx.putPred hm rfl _

/-- A change of flags. -/
theorem Changes.fpflags {w : WRef} {x : Warp} (h : Changes i s wr p true hide w x) (v : BitVec 6) : Changes i s wr p true hide w { x with fpflags := v } :=
  h.trans ⟨rfl, rfl, rfl⟩ (fun _ _ _ => .inr rfl) (fun _ _ => .inr rfl) (fun h => absurd h (by decide)) (by split <;> rfl)

theorem Framed.orFlags (h : Framed i s wr p true hide t) (flags : List (WRef × Nat × BitVec 6)) : Framed i s wr p true hide (orFlags flags t) := by
  unfold Machine.orFlags
  induction flags generalizing t with
  | nil => exact h
  | cons a r ih => exact ih (h.modWarp a.1 fun x hx => hx.fpflags _)

theorem Framed.spendFree (h : Framed i s wr p fl hide t) (f : Option Fld) : Framed i s wr p fl hide (spendFree f t) := by
  unfold Machine.spendFree
  split
  · exact h.free _
  · exact h

/-! ### Bodies -/

/-- The bodies that answer states of the frame. -/
def Answers (i : Instr) (s : State) (wr : WRef → Nat → Nat → Prop) (p : Option Nat) (fl : Bool) (hide : Mask → Warp → Warp) (y : Chk State) : Prop :=
  ∀ t, y = .ok t → Framed i s wr p fl hide t

theorem answers_ok (h : Framed i s wr p fl hide t) : Answers i s wr p fl hide (.ok t) := fun _ he => Except.ok.inj he ▸ h

/-- A check before the rest of a body. -/
theorem answers_bind {α : Type} {x : Chk α} {f : α → Chk State} (h : ∀ a, x = .ok a → Answers i s wr p fl hide (f a)) :
    Answers i s wr p fl hide (x >>= f) := by
  cases x with
  | error e => exact fun t he => nomatch he
  | ok a => exact h a rfl

/-- An instruction that ends has completed: its body's answer and the hints are the state after it. -/
theorem frameBut_of_issueT {body : Mask → State → Chk State} (he : (∀ q, s.cur.unit ≠ .stream q) → exec i s = issueT (ctlOf i) (usesOf i) body s)
    (hb : Answers i s wr p fl hide (body (act i s) s.advance)) : Ends i s t → FrameBut i s t wr p fl hide := by
  rintro ⟨⟨hunit, hlane, hchk⟩, htraps, ht⟩
  cases hans : body (act i s) s.advance with
  | error x => exact absurd ((he hunit).trans (issueT_traps hunit hchk hlane hans)) (htraps x)
  | ok y =>
    have hend : t = hints (ctlOf i) (usesOf i) (act i s) s y :=
      Host.Outcome.next.inj (ht.symm.trans ((he hunit).trans (issueT_runs hunit hchk hlane hans)))
    exact hend ▸ ((hb y hans).hints ..).frameBut

/-- A result that the instruction's D names is named by `written`. -/
theorem names_written {d : Fld} (hd : (usesOf i).d = some d) : Names i s (written i s) d :=
  fun m hm _ hn _ hl => ⟨m, hm, rfl, d, hd, hn, hl⟩

end

end Sys2Proof.Spec
end

section
/-!
PROOFS. The frames of the instructions on registers, predicates, flags, branches, calls and clauses: each body keeps the frame, and so does the instruction.
-/
set_option autoImplicit false

namespace Sys2Proof.Spec
open Sys2Proof.Machine

section
variable {i : Instr} {s t : State} {wr : WRef → Nat → Nat → Prop} {p : Option Nat} {fl : Bool} {hide : Mask → Warp → Warp}

/-- A result in D, where the instruction has one, keeps the frame. -/
theorem framed_result {d : Fld} (hd : (usesOf i).d = some d) (hn : ∀ d, (usesOf i).d = some d → d.n ≠ 0) (c : Ctl) (vals : Nat → BitVec 64)
    (aff : Member → Word × Word) : Framed i s (written i s) p fl hide (s.advance.putD c d (act i s) vals aff) :=
  (framed_advance i s).putD (hn d hd) (names_written hd) c vals aff

/-- The instructions of one value per lane. -/
theorem frame_of_alu {sh : ShpRule} {aff : State → Member → Word × Word} {chk : Mask → State → Chk Unit} {f : State → Nat → BitVec 64}
    (hn : ∀ d, (usesOf i).d = some d → d.n ≠ 0)
    (he : (∀ q, s.cur.unit ≠ .stream q) → exec i s = alu (ctlOf i) (usesOf i) sh aff chk f s) : Ends i s t → Frame i s t none false := by
  refine frameBut_of_issueT (fun hu => (he hu).trans (congrFun (alu.eq_def ..) s)) (answers_bind fun _ _ => answers_bind fun _ _ => ?_)
  split
  case h_1 d hd => exact answers_ok (framed_result hd hn _ _ _)
  case h_2 => exact answers_ok (framed_advance i s)

/-- The instructions across the lanes of a warp. -/
theorem frame_of_cross {sh : ShpRule} {aff : State → Member → Word × Word} {chk : Mask → State → Chk Unit} {f : State → Mask → Nat → BitVec 64}
    (hn : ∀ d, (usesOf i).d = some d → d.n ≠ 0) (he : exec i s = cross (ctlOf i) (usesOf i) sh aff chk f s) : Ends i s t → Frame i s t none false := by
  refine frameBut_of_issueT (fun _ => he.trans (congrFun (cross.eq_def ..) s)) (answers_bind fun _ _ => answers_bind fun _ _ => ?_)
  split
  case h_1 d hd => exact answers_ok (framed_result hd hn _ _ _)
  case h_2 => exact answers_ok (framed_advance i s)

/-- Those that read A of other lanes. -/
theorem frame_of_crossRead {sh : ShpRule} {chk : Mask → State → Chk Unit} {f : State → Mask → Nat → BitVec 64}
    (hn : ∀ d, (usesOf i).d = some d → d.n ≠ 0) (he : exec i s = crossRead (ctlOf i) (usesOf i) sh chk f s) : Ends i s t → Frame i s t none false := by
  refine frameBut_of_issueT (fun _ => he.trans (congrFun (crossRead.eq_def ..) s)) (answers_bind fun _ _ => answers_bind fun _ _ => ?_)
  refine answers_ok (Framed.spendFree ?_ _)
  split
  case h_1 d hd => exact framed_result hd hn _ _ _
  case h_2 => exact framed_advance i s

/-- The instructions with a floating-point result. -/
theorem frame_of_fpAlu {sh : ShpRule} {f : State → Nat → FRes} (hn : ∀ d, (usesOf i).d = some d → d.n ≠ 0)
    (he : exec i s = fpAlu (ctlOf i) (usesOf i) sh f s) : Ends i s t → Frame i s t none true := by
  refine frameBut_of_issueT (fun _ => he.trans (congrFun (fpAlu.eq_def ..) s)) (answers_bind fun _ _ => answers_bind fun _ _ => ?_)
  split
  case h_1 d hd => exact answers_ok (Framed.orFlags (framed_result hd hn _ _ _) _)
  case h_2 => exact answers_ok ((framed_advance i s).orFlags _)

/-- The carry chains. -/
theorem frame_of_carryOp {m : Mods} {f : Int → Int → Int → Int} (hn : ∀ d, (usesOf i).d = some d → d.n ≠ 0)
    (he : exec i s = carryOp (ctlOf i) (usesOf i) m f s) : Ends i s t → Frame i s t (some (m.imm.toNat % 16)) false := by
  refine frameBut_of_issueT (fun _ => he.trans (congrFun (carryOp.eq_def ..) s)) (answers_bind fun _ _ => answers_ok (Framed.putP ?_ _))
  split
  case h_1 d hd => exact framed_result hd hn _ _ _
  case h_2 => exact framed_advance i s

/-- The predicate instructions. -/
theorem frame_of_predOp {o : OpsPP} {f : Bool → Bool → Bool} (he : exec i s = predOp (ctlOf i) (usesOf i) o f s) :
    Ends i s t → Frame i s t (some o.p.val) false :=
  frameBut_of_issueT (fun _ => he.trans (congrFun (predOp.eq_def ..) s)) (answers_ok ((framed_advance i s).putP _))

/-- A check that is made only under a condition. -/
theorem answers_opt {c : Prop} [Decidable c] {x : Chk Unit} {f : Unit → Chk State} (h : Answers i s wr p fl hide (f ())) :
    Answers i s wr p fl hide (if c then x >>= f else f ()) := by
  split
  · exact answers_bind fun _ _ => h
  · exact h

/-- A change that is made only under a condition. -/
theorem Framed.ite {c : Prop} [Decidable c] {x y : State} (hx : Framed i s wr p fl hide x) (hy : Framed i s wr p fl hide x → Framed i s wr p fl hide y) :
    Framed i s wr p fl hide (if c then y else x) := by
  split
  · exact hy hx
  · exact hx

/-- Where the frame names more than D, a result in D keeps it still. -/
theorem framed_result_of {d : Fld} (hd : (usesOf i).d = some d) (hn : ∀ d, (usesOf i).d = some d → d.n ≠ 0) (hwr : ∀ w n l, written i s w n l → wr w n l) (c : Ctl)
    (vals : Nat → BitVec 64) (aff : Member → Word × Word) : Framed i s wr p fl hide (s.advance.putD c d (act i s) vals aff) :=
  (framed_advance i s).putD (hn d hd) (fun m hm n hr l hl => hwr _ _ _ (names_written hd m hm n hr l hl)) c vals aff

/-- The registers that a pack names: D, and the register after it in the general lanes. -/
def packed (i : Instr) (s : State) (o : OpsV) (w : WRef) (n l : Nat) : Prop :=
  written i s w n l ∨ ∃ mm, mm ∈ acting i s ∧ mm.w = w ∧ mm.lanes.getLsbD l = true ∧ ∃ k, o.d = .v k ∧ n = k + 1

/-- The packs. -/
theorem frame_of_packOp {o : OpsV} (hn : ∀ d, (usesOf i).d = some d → d.n ≠ 0) (he : exec i s = packOp (ctlOf i) (usesOf i) o s) :
    Ends i s t → FrameBut i s t (packed i s o) none true fun _ w => w := by
  refine frameBut_of_issueT (fun _ => he.trans (congrFun (packOp.eq_def ..) s)) (answers_opt (answers_bind fun _ _ => answers_bind fun _ _ => ?_))
  have hresult {d : Fld} (hd : (usesOf i).d = some d) (vals : Nat → BitVec 64) :
      Framed i s (packed i s o) none true (fun _ w => w) (s.advance.putD (ctlOf i) d (act i s) vals) :=
    framed_result_of hd hn (fun _ _ _ => .inl) _ _ _
  refine answers_ok (Framed.orFlags ?_ _)
  split
  case h_1 n _ hd6 =>
    refine Framed.modMembers (t := _) ?_ (acting i s) fun m hm x hx => ?_
    · split
      case h_1 d hd => exact hresult hd _
      case h_2 => exact framed_advance i s
    · exact changes_foldl hx m.lanes fun y l hl32 hl hy => hy.putGen hl32 (.inr ⟨m, hm, rfl, hl, n, hd6, rfl⟩) _
  case h_2 =>
    split
    case h_1 d hd => exact hresult hd _
    case h_2 => exact framed_advance i s

/-- A field of an operand reaches a register. -/
theorem fld_n {r : VReg} {wide : Bool} {n : Nat} {imm : BitVec 64} {d : Fld} (hn : n ≠ 0) (h : fld r wide n imm = some d) : d.n ≠ 0 :=
  Option.some.inj h ▸ hn

variable (s t) (c : Ctl) (o : OpsV) (d : VReg) (imm : BitVec 32)

/-- Off the sequencers, MOVI writes D (R200). -/
theorem execMovi_off (hu : ∀ q, s.cur.unit ≠ .stream q) :
    execMovi c d imm s = alu c (usesOf (.movi c d imm)) uniRule noAff noChk (fun _ _ => imm.setWidth 64) s := by
  unfold execMovi
  split
  · exact absurd ‹_› (hu _)
  · rfl

theorem frame_iadd : Ends (.iadd c o) s t → Frame (.iadd c o) s t none false :=
  frame_of_alu (fun _ h => fld_n (by decide) h) fun hu => exec_iadd_sumLike c o hu

theorem frame_movi : Ends (.movi c d imm) s t → Frame (.movi c d imm) s t none false :=
  frame_of_alu (fun _ h => fld_n (by decide) h) fun hu => execMovi_off s c d imm hu

theorem frame_sel : Ends (.sel c o) s t → Frame (.sel c o) s t none false := frame_of_alu (fun _ h => fld_n (by decide) h) fun _ => rfl

/-- The integer instructions after IADD, and MOV. -/
def integers (c : Ctl) (o : OpsV) : List Instr :=
  [.isub c o, .imul c o, .imulh c o, .imad c o, .imadw c o, .isad c o, .idiv c o, .irem c o, .iabs c o, .ineg c o, .imin c o, .imax c o, .iadds c o, .and c o,
    .or c o, .xor c o, .andn c o, .not c o, .brev c o, .popc c o, .clz c o, .ctz c o, .bfx c o, .bfi c o, .bperm c o, .shl c o, .shr c o, .sar c o, .rol c o,
    .mov c o]

theorem frame_integers {i : Instr} (hi : i ∈ integers c o) : Ends i s t → Frame i s t none false := by
  simp only [integers, List.mem_cons, List.not_mem_nil, or_false] at hi
  rcases hi with rfl | rfl | rfl | rfl | rfl | rfl | rfl | rfl | rfl | rfl | rfl | rfl | rfl | rfl | rfl | rfl | rfl | rfl | rfl | rfl | rfl | rfl | rfl | rfl |
    rfl | rfl | rfl | rfl | rfl | rfl <;> exact frame_of_alu (fun _ h => fld_n (by decide) h) fun _ => rfl

/-- The cross-lane instructions that write D. -/
theorem frame_lanes {i : Instr} (hi : i ∈ [Instr.ballot c o, .affine c o, .laneix c o, .scan c o, .red c o]) : Ends i s t → Frame i s t none false := by
  simp only [List.mem_cons, List.not_mem_nil, or_false] at hi
  rcases hi with rfl | rfl | rfl | rfl | rfl
  · exact frame_of_cross (fun _ h => fld_n (by decide) h) (congrFun (execBallot.eq_def c o) s)
  · exact frame_of_cross (fun _ h => fld_n (by decide) h) (congrFun (execAffine.eq_def c o) s)
  · exact frame_of_cross (fun _ h => fld_n (by decide) h) (congrFun (execLaneix.eq_def c o) s)
  · exact frame_of_cross (fun _ h => fld_n (by decide) h) (congrFun (execScan.eq_def c o) s)
  · exact frame_of_cross (fun _ h => fld_n (by decide) h) (congrFun (execRed.eq_def c o) s)

theorem frame_bscale : Ends (.bscale c o) s t → Frame (.bscale c o) s t none false :=
  frame_of_cross (fun _ h => fld_n (by decide) h) (congrFun (execBscale.eq_def c o) s)

theorem frame_shfl : Ends (.shfl c o) s t → Frame (.shfl c o) s t none false :=
  frame_of_crossRead (fun _ h => fld_n (by decide) h) (execShfl.eq_def c o s)

theorem frame_bcast : Ends (.bcast c o) s t → Frame (.bcast c o) s t none false :=
  frame_of_crossRead (fun _ h => fld_n (by decide) h) (execBcast.eq_def c o s)

/-- The conflict instructions (R313, R314). -/
theorem frame_confl : Ends (.confl c o) s t → Frame (.confl c o) s t none false := by
  refine frameBut_of_issueT (fun _ => congrFun (execConfl.eq_def c o) s) (answers_bind fun _ _ => ?_)
  split
  case h_1 d hd => exact answers_ok (framed_result hd (fun _ h => fld_n (by decide) h) _ _ _)
  case h_2 => exact answers_ok (framed_advance _ _)

theorem frame_cmbn : Ends (.cmbn c o) s t → Frame (.cmbn c o) s t none false := by
  refine frameBut_of_issueT (fun _ => congrFun (execCmbn.eq_def c o) s) (answers_bind fun _ _ => ?_)
  split
  case h_1 d hd => exact answers_ok (framed_result hd (fun _ h => fld_n (by decide) h) _ _ _)
  case h_2 => exact answers_ok (framed_advance _ _)

theorem frame_movx : Ends (.movx c o) s t → Frame (.movx c o) s t none false := by
  refine frameBut_of_issueT (fun _ => congrFun (execMovx.eq_def c o) s) (answers_bind fun _ _ => answers_bind fun _ _ => ?_)
  split
  case h_1 d hd => exact answers_ok (framed_result hd (fun _ h => fld_n (by decide) h) _ _ _)
  case h_2 => exact answers_ok (framed_advance _ _)

/-- The lowest lane of a mask that has one. -/
theorem headD_lanesOf {m : Mask} (h : m ≠ 0) : m.getLsbD ((lanesOf m).headD 0) = true := by
  cases hl : lanesOf m with
  | cons a r => exact (List.mem_filter.mp (hl ▸ List.mem_cons_self : a ∈ lanesOf m)).2
  | nil =>
    refine absurd (BitVec.eq_of_getLsbD_eq fun l hlt => ?_) h
    have hno : l ∉ lanesOf m := hl ▸ List.not_mem_nil
    simpa using fun hbit => hno (List.mem_filter.mpr ⟨List.mem_range.mpr hlt, hbit⟩)

/-- The register that MOVXW writes in a lane. -/
theorem frame_movxw : Ends (.movxw c o) s t → FrameBut (.movxw c o) s t (fun w n l => ∃ mm, mm ∈ acting (.movxw c o) s ∧ mm.w = w ∧ ∃ j, mm.lanes.getLsbD j = true ∧
    n = (opA (.movxw c o) s.advance j).toNat % 2 ^ 32 + o.m.imm.toNat ∧ ((s.warp w).cls n = .gen → l = j)) none false fun _ w => w := by
  refine frameBut_of_issueT (fun _ => congrFun (execMovxw.eq_def c o) s) (answers_bind fun _ _ => answers_bind fun _ _ => answers_ok ?_)
  refine Framed.modMembers (framed_advance _ _) (acting (.movxw c o) s) fun m hm x hx => ?_
  have hhead : m.lanes.getLsbD ((lanesOf m.lanes).headD 0) = true := headD_lanesOf (lanes_acting hm)
  unfold movxwPut
  dsimp only
  split
  case h_1 hc =>
    exact hx.putAff (fun l _ => ⟨m, hm, rfl, _, hhead, rfl, fun hg => absurd ((hc.symm.trans (hx.cls _)).trans hg) (by decide)⟩) _
  case h_2 hc =>
    exact hx.putUni (fun _ l _ => ⟨m, hm, rfl, _, hhead, rfl, fun hg => absurd ((hc.symm.trans (hx.cls _)).trans hg) (by decide)⟩) _
  case h_3 =>
    exact changes_foldl hx m.lanes fun y l hl32 hl hy => hy.putGen hl32 ⟨m, hm, rfl, l, hl, rfl, fun _ => rfl⟩ _

theorem frame_efmov_read (e : BitVec 3) : Ends (.efmov c false d e) s t → Frame (.efmov c false d e) s t none false := by
  have hd : (usesOf (.efmov c false d e)).d = some { r := d } := rfl
  refine frameBut_of_issueT (fun _ => congrFun (execEfmov.eq_def c false d e) s) (answers_bind fun _ _ => ?_)
  rw [if_neg (by decide)]
  exact answers_ok (framed_result hd (fun _ h => fld_n (by decide) h) _ _ _)

theorem frame_clget (k : BitVec 4) (m : Mods) : Ends (.clget c d k m) s t → Frame (.clget c d k m) s t none false := by
  have hd : (usesOf (.clget c d k m)).d = some { r := d } := rfl
  refine frameBut_of_issueT (fun _ => execClget.eq_def c d k m s) (answers_bind fun _ _ => ?_)
  exact answers_ok (framed_result hd (fun _ h => fld_n (by decide) h) _ _ _)

theorem frame_loop : Ends (.loop c d imm) s t → Frame (.loop c d imm) s t none false := by
  have hd : (usesOf (.loop c d imm)).d = some { r := d } := rfl
  refine frameBut_of_issueT (fun hu => (exec_loop_issue c d imm hu).trans (issueT_issue hu).symm) (answers_bind fun _ _ => answers_ok (Framed.goTo ?_ _))
  exact framed_result hd (fun _ h => fld_n (by decide) h) _ _ _

/-! ### Floating-point instructions -/

theorem frame_of_arithF {i : Instr} {m : Mods} {f : Nat → FVal → FVal → FVal → FVal} (hn : ∀ d, (usesOf i).d = some d → d.n ≠ 0)
    (he : exec i s = arithF (ctlOf i) (usesOf i) m f s) : Ends i s t → Frame i s t none true :=
  frame_of_fpAlu hn (he.trans (congrFun (arithF.eq_def ..) s))

theorem frame_of_minMaxOp {i : Instr} {m : Mods} {mx : Bool} (hn : ∀ d, (usesOf i).d = some d → d.n ≠ 0)
    (he : exec i s = minMaxOp mx (ctlOf i) (usesOf i) m s) : Ends i s t → Frame i s t none true :=
  frame_of_fpAlu hn (he.trans (congrFun (minMaxOp.eq_def ..) s))

theorem frame_of_pairOp {i : Instr} {m : Mods} {g : Nat → FVal → FVal → FVal → FVal} (hn : ∀ d, (usesOf i).d = some d → d.n ≠ 0)
    (he : exec i s = pairOp (ctlOf i) (usesOf i) m g s) : Ends i s t → Frame i s t none true :=
  frame_of_fpAlu hn (he.trans (congrFun (pairOp.eq_def ..) s))

/-- The sums, products and steps of a triangular solve. -/
theorem frame_arithF {i : Instr} (hi : i ∈ [Instr.fadd c o, .fsub c o, .fmul c o, .ffma c o, .trstep c o]) : Ends i s t → Frame i s t none true := by
  simp only [List.mem_cons, List.not_mem_nil, or_false] at hi
  rcases hi with rfl | rfl | rfl | rfl | rfl
  · exact frame_of_arithF s t (fun _ h => fld_n (by decide) h) (congrFun (execFadd.eq_def c o) s)
  · exact frame_of_arithF s t (fun _ h => fld_n (by decide) h) (congrFun (execFsub.eq_def c o) s)
  · exact frame_of_arithF s t (fun _ h => fld_n (by decide) h) (congrFun (execFmul.eq_def c o) s)
  · exact frame_of_arithF s t (fun _ h => fld_n (by decide) h) (congrFun (execFfma.eq_def c o) s)
  · exact frame_of_arithF s t (fun _ h => fld_n (by decide) h) (congrFun (execTrstep.eq_def c o) s)

/-- The other floating-point instructions of one result per lane. -/
theorem frame_fpAlu {i : Instr} (hi : i ∈ [Instr.fclass c o, .fround c o, .fscalb c o, .fsat c o, .fdot2 c o, .cvt c o, .cvti c o, .cvtf c o]) :
    Ends i s t → Frame i s t none true := by
  simp only [List.mem_cons, List.not_mem_nil, or_false] at hi
  rcases hi with rfl | rfl | rfl | rfl | rfl | rfl | rfl | rfl
  · exact frame_of_fpAlu (fun _ h => fld_n (by decide) h) (congrFun (execFclass.eq_def c o) s)
  · exact frame_of_fpAlu (fun _ h => fld_n (by decide) h) (congrFun (execFround.eq_def c o) s)
  · exact frame_of_fpAlu (fun _ h => fld_n (by decide) h) (congrFun (execFscalb.eq_def c o) s)
  · exact frame_of_fpAlu (fun _ h => fld_n (by decide) h) (congrFun (execFsat.eq_def c o) s)
  · exact frame_of_fpAlu (fun _ h => fld_n (by decide) h) (congrFun (execFdot2.eq_def c o) s)
  · exact frame_of_fpAlu (fun _ h => fld_n (by decide) h) (congrFun (execCvt.eq_def c o) s)
  · exact frame_of_fpAlu (fun _ h => fld_n (by decide) h) (congrFun (execCvti.eq_def c o) s)
  · exact frame_of_fpAlu (fun _ h => fld_n (by decide) h) (congrFun (execCvtf.eq_def c o) s)

/-- The minimum and maximum, and the pairs. -/
theorem frame_minMax_pair {i : Instr} (hi : i ∈ [Instr.fmin c o, .fmax c o, .fmul2 c o, .ffma2 c o]) : Ends i s t → Frame i s t none true := by
  simp only [List.mem_cons, List.not_mem_nil, or_false] at hi
  rcases hi with rfl | rfl | rfl | rfl
  · exact frame_of_minMaxOp s t (fun _ h => fld_n (by decide) h) (congrFun (execFmin.eq_def c o) s)
  · exact frame_of_minMaxOp s t (fun _ h => fld_n (by decide) h) (congrFun (execFmax.eq_def c o) s)
  · exact frame_of_pairOp s t (fun _ h => fld_n (by decide) h) (congrFun (execFmul2.eq_def c o) s)
  · exact frame_of_pairOp s t (fun _ h => fld_n (by decide) h) (congrFun (execFfma2.eq_def c o) s)

theorem frame_unpk : Ends (.unpk c o) s t → Frame (.unpk c o) s t none true := by
  refine frameBut_of_issueT (fun _ => congrFun (execUnpk.eq_def c o) s) (answers_opt (answers_bind fun _ _ => answers_bind fun _ _ => ?_))
  split
  case h_1 d hd => exact answers_ok (Framed.orFlags (framed_result hd (fun _ h => fld_n (by decide) h) _ _ _) _)
  case h_2 => exact answers_ok ((framed_advance _ _).orFlags _)

/-- FLAGRD may clear the flags that it reads (R246). -/
theorem frame_flagrd : Ends (.flagrd c o) s t → Frame (.flagrd c o) s t none true := by
  refine frameBut_of_issueT (fun _ => congrFun (execFlagrd.eq_def c o) s) (answers_bind fun _ _ => answers_ok ?_)
  refine Framed.ite ?_ fun hresult => hresult.modMembers (acting (.flagrd c o) s) fun m _ x hx => hx.fpflags _
  split
  case h_1 d hd => exact framed_result hd (fun _ h => fld_n (by decide) h) _ _ _
  case h_2 => exact framed_advance _ _

/-- PIVCHK counts in the warp's pivot count (R358). -/
theorem frame_pivchk : Ends (.pivchk c o) s t → FrameBut (.pivchk c o) s t (written (.pivchk c o) s) none true fun _ w => { w with pvcnt := 0 } := by
  refine frameBut_of_issueT (fun _ => congrFun (execPivchk.eq_def c o) s) (answers_bind fun _ _ => answers_bind fun _ _ => answers_ok ?_)
  refine Framed.modMembers (Framed.orFlags ?_ _) (acting (.pivchk c o) s) fun m hm x hx => ?_
  · split
    case h_1 d hd => exact framed_result hd (fun _ h => fld_n (by decide) h) _ _ _
    case h_2 => exact framed_advance _ _
  · dsimp only
    split
    · exact hx
    · exact hx.hidden hm rfl ⟨rfl, rfl, rfl⟩ rfl rfl rfl rfl (fun h => absurd h (by decide)) rfl

/-! ### Companions -/

/-- A map without the entries of some keys. -/
def delAll {α : Type} (ks : List Nat) (m : SMap α) : SMap α := ks.foldl smDel m

/-- Removing a key keeps the other entries in their order. -/
theorem smDel_eq_filter {α : Type} (m : SMap α) (k : Nat) : smDel m k = m.filter fun e => e.1 ≠ k := by
  induction m with
  | nil => rfl
  | cons e r ih =>
    obtain ⟨j, u⟩ := e
    by_cases h : j = k <;> simp [smDel, h, ih]

theorem smDel_smSet {α : Type} (m : SMap α) (k : Nat) (v : α) : smDel (smSet m k v) k = smDel m k := by
  induction m with
  | nil => simp [smSet, smDel]
  | cons e r ih =>
    obtain ⟨j, u⟩ := e
    by_cases hlt : k < j
    · simp [smSet, hlt, smDel]
    · by_cases heq : k = j
      · subst heq; simp [smSet, smDel]
      · simp [smSet, hlt, heq, smDel, Ne.symm heq, ih]

theorem smDel_smPut {α : Type} [DecidableEq α] (m : SMap α) (k : Nat) (v d : α) : smDel (smPut m k v d) k = smDel m k := by
  unfold smPut
  split
  · simp [smDel_eq_filter]
  · exact smDel_smSet m k v

/-- The order in which keys are removed does not matter. -/
theorem smDel_delAll {α : Type} (ks : List Nat) (m : SMap α) (k : Nat) : delAll ks (smDel m k) = smDel (delAll ks m) k := by
  induction ks generalizing m with
  | nil => rfl
  | cons j r ih =>
    have hcomm : smDel (smDel m k) j = smDel (smDel m j) k := by
      simp only [smDel_eq_filter, List.filter_filter, Bool.and_comm]
    rw [delAll, List.foldl_cons, ← delAll, hcomm, ih]
    rfl

/-- What stands under a removed key does not matter. -/
theorem delAll_smPut {α : Type} [DecidableEq α] {ks : List Nat} {k : Nat} (hk : k ∈ ks) (m : SMap α) (v d : α) : delAll ks (smPut m k v d) = delAll ks m := by
  induction ks generalizing m with
  | nil => exact absurd hk List.not_mem_nil
  | cons j r ih =>
    rcases List.mem_cons.mp hk with rfl | hr
    · rw [delAll, List.foldl_cons, smDel_smPut]
      rfl
    · rw [delAll, List.foldl_cons, ← delAll, smDel_delAll, ih hr, ← smDel_delAll]
      rfl

/-- A warp without its companions `e` in some lanes. -/
def offComp (e : Nat) (lanes : Mask) (w : Warp) : Warp := (lanesOf lanes).foldl (fun w l => { w with efs := smDel w.efs (32 * e + l) }) w

theorem offComp_eq (e : Nat) (lanes : Mask) (w : Warp) : offComp e lanes w = { w with efs := delAll ((lanesOf lanes).map (32 * e + ·)) w.efs } := by
  unfold offComp
  generalize lanesOf lanes = ls
  induction ls generalizing w with
  | nil => rfl
  | cons l r ih => rw [List.foldl_cons, ih]; rfl

variable {s t} in
/-- A companion in the lanes of an acting member. -/
theorem Framed.putComp {e : Nat} (h : Framed i s wr p fl (offComp e) t) (f : Nat → Word) : Framed i s wr p fl (offComp e) (t.putComp e (act i s) f) := by
  refine h.modActing fun m hm x hx => changes_foldl hx m.lanes fun y l hl32 hl hy => ?_
  have hin : 32 * e + l ∈ (lanesOf (lanesIn i s m.w)).map (32 * e + ·) :=
    List.mem_map_of_mem (List.mem_filter.mpr ⟨List.mem_range.mpr hl32, lanesIn_acting hm hl⟩)
  refine hy.hidden hm rfl ⟨rfl, rfl, rfl⟩ rfl rfl rfl rfl (fun _ => rfl) ?_
  rw [offComp_eq, offComp_eq]
  simp only [bareWarp, Warp.setCompanion, delAll_smPut hin]

theorem frame_cvtef : Ends (.cvtef c o) s t → FrameBut (.cvtef c o) s t (written (.cvtef c o) s) none true (offComp (o.m.imm.toNat % 8)) := by
  refine frameBut_of_issueT (fun _ => congrFun (execCvtef.eq_def c o) s) (answers_bind fun _ _ => answers_bind fun _ _ => answers_ok ?_)
  refine Framed.orFlags (Framed.putComp ?_ _) _
  split
  case h_1 d hd => exact framed_result hd (fun _ h => fld_n (by decide) h) _ _ _
  case h_2 => exact framed_advance _ _

theorem frame_efclr (e : BitVec 3) : Ends (.efclr c e) s t → FrameBut (.efclr c e) s t noReg none false (offComp e.toNat) :=
  frameBut_of_issueT (fun _ => congrFun (execEfclr.eq_def c e) s) (answers_ok (Framed.putComp (framed_advance _ _) _))

theorem frame_efmov_write (e : BitVec 3) : Ends (.efmov c true d e) s t → FrameBut (.efmov c true d e) s t noReg none false (offComp e.toNat) := by
  refine frameBut_of_issueT (fun _ => congrFun (execEfmov.eq_def c true d e) s) (answers_bind fun _ _ => ?_)
  rw [if_pos rfl]
  exact answers_ok (Framed.putComp (framed_advance _ _) _)

end

/-- Settles O7: each body writes D, or the register that MOVXW indexes, in the acting members, and every operation that it is built from keeps the frame. -/
theorem registerResultFrame : Obligations.RegisterResultFrame := by
  intro c o d imm e k m i s t
  refine ⟨fun hi => ?_, frame_movxw s t c o⟩
  have hgroups : i = .iadd c o ∨ i ∈ integers c o ∨ i = .movi c d imm ∨ i = .sel c o ∨ i = .movx c o ∨
      i ∈ [Instr.ballot c o, .affine c o, .laneix c o, .scan c o, .red c o] ∨ i = .shfl c o ∨ i = .bcast c o ∨ i = .confl c o ∨ i = .cmbn c o ∨ i = .bscale c o ∨
      i = .efmov c false d e ∨ i = .clget c d k m ∨ i = .loop c d imm := by
    simpa only [integers, List.mem_cons, List.not_mem_nil, or_false, or_assoc] using hi
  obtain rfl | hint | rfl | rfl | rfl | hlane | rfl | rfl | rfl | rfl | rfl | rfl | rfl | rfl := hgroups
  · exact frame_iadd s t c o
  · exact frame_integers s t c o hint
  · exact frame_movi s t c d imm
  · exact frame_sel s t c o
  · exact frame_movx s t c o
  · exact frame_lanes s t c o hlane
  · exact frame_shfl s t c o
  · exact frame_bcast s t c o
  · exact frame_confl s t c o
  · exact frame_cmbn s t c o
  · exact frame_bscale s t c o
  · exact frame_efmov_read s t c d e
  · exact frame_clget s t c d k m
  · exact frame_loop s t c d imm

/-- Settles O8: as O7, with the flags, and with what PACK, CVTEF, EFCLR, EFMOV and PIVCHK write besides D. -/
theorem floatResultFrame : Obligations.FloatResultFrame := by
  intro c o e d i s t comp
  refine ⟨fun hi => ?results, fun hi => ?packs, ?cvtef, fun hi => ?companions, ?pivchk⟩
  case cvtef => exact frame_cvtef s t c o
  case pivchk => exact frame_pivchk s t c o
  case results =>
    have hgroups : i ∈ [.fadd c o, .fsub c o, .fmul c o, .ffma c o, .trstep c o] ∨ i ∈ [.fmin c o, .fmax c o, .fmul2 c o, .ffma2 c o] ∨
        i ∈ [.fclass c o, .fround c o, .fscalb c o, .fsat c o, .fdot2 c o, .cvt c o, .cvti c o, .cvtf c o] ∨ i = .unpk c o ∨ i = .flagrd c o := by
      simp only [List.mem_cons, List.not_mem_nil, or_false] at hi ⊢
      tauto
    obtain harith | hminmax | hfp | rfl | rfl := hgroups
    · exact frame_arithF s t c o harith
    · exact frame_minMax_pair s t c o hminmax
    · exact frame_fpAlu s t c o hfp
    · exact frame_unpk s t c o
    · exact frame_flagrd s t c o
  case packs =>
    simp only [List.mem_cons, List.not_mem_nil, or_false] at hi
    rcases hi with rfl | rfl | rfl
    · exact frame_of_packOp (fun _ h => fld_n (by decide) h) (congrFun (execPack4.eq_def c o) s)
    · exact frame_of_packOp (fun _ h => fld_n (by decide) h) (congrFun (execPack6.eq_def c o) s)
    · exact frame_of_packOp (fun _ h => fld_n (by decide) h) (congrFun (execPack8.eq_def c o) s)
  case companions =>
    simp only [List.mem_cons, List.not_mem_nil, or_false] at hi
    rcases hi with rfl | rfl
    · exact frame_efclr s t c e
    · exact frame_efmov_write s t c d e

end Sys2Proof.Spec
end

section
/-!
PROOFS. The frames of the instructions on predicates, and of branches, calls, clauses and the floating-point modes.
-/
set_option autoImplicit false

namespace Sys2Proof.Spec
open Sys2Proof.Machine

section
variable (s t : State) (c : Ctl) (o : OpsV) (p : OpsPC) (q : OpsPP) (m : Mods) (b : BitVec 4) (off : BitVec 32) (d : VReg)

/-! ### Predicates -/

theorem frame_icmp : Ends (.icmp c p) s t → Frame (.icmp c p) s t (some p.p.val) false :=
  frameBut_of_issueT (fun _ => congrFun (execIcmp.eq_def c p) s) (answers_bind fun _ _ => answers_ok ((framed_advance _ _).putP _))

theorem frame_vote : Ends (.vote c q) s t → Frame (.vote c q) s t (some q.p.val) false :=
  frameBut_of_issueT (fun _ => congrFun (execVote.eq_def c q) s) (answers_ok ((framed_advance _ _).modActing fun _ hm _ hx => hx.putPred hm rfl _))

theorem frame_fcmp : Ends (.fcmp c p) s t → Frame (.fcmp c p) s t (some p.p.val) true :=
  frameBut_of_issueT (fun _ => congrFun (execFcmp.eq_def c p) s) (answers_bind fun _ _ => answers_bind fun _ _ =>
    answers_ok (((framed_advance _ _).putP _).orFlags _))

/-- PAND, POR, PXOR, PNOT and PMOV. -/
theorem frame_predicates {i : Instr} (hi : i ∈ [Instr.pand c q, .por c q, .pxor c q, .pnot c q, .pmov c q]) : Ends i s t → Frame i s t (some q.p.val) false := by
  simp only [List.mem_cons, List.not_mem_nil, or_false] at hi
  rcases hi with rfl | rfl | rfl | rfl | rfl
  · exact frame_of_predOp (congrFun (execPand.eq_def c q) s)
  · exact frame_of_predOp (congrFun (execPor.eq_def c q) s)
  · exact frame_of_predOp (congrFun (execPxor.eq_def c q) s)
  · exact frame_of_predOp (congrFun (execPnot.eq_def c q) s)
  · exact frame_of_predOp (congrFun (execPmov.eq_def c q) s)

theorem frame_iaddc : Ends (.iaddc c o) s t → Frame (.iaddc c o) s t (some (o.m.imm.toNat % 16)) false :=
  frame_of_carryOp (fun _ h => fld_n (by decide) h) (congrFun (execIaddc.eq_def c o) s)

theorem frame_isubb : Ends (.isubb c o) s t → Frame (.isubb c o) s t (some (o.m.imm.toNat % 16)) false :=
  frame_of_carryOp (fun _ h => fld_n (by decide) h) (congrFun (execIsubb.eq_def c o) s)

/-! ### Branches and hints -/

theorem frame_nop : Ends (.nop c m) s t → Frame (.nop c m) s t none false :=
  frameBut_of_issueT (fun hu => (exec_nop_issue c m hu).trans (issueT_issue hu).symm) (answers_ok (framed_advance _ _))

theorem frame_bra : Ends (.bra c off) s t → Frame (.bra c off) s t none false :=
  frameBut_of_issueT (fun hu => (exec_bra_issue c off hu).trans (issueT_issue hu).symm) (answers_ok ((framed_advance _ _).goTo _))

theorem frame_brx : Ends (.brx c o) s t → Frame (.brx c o) s t none false :=
  frameBut_of_issueT (fun _ => execBrx.eq_def c o s) (answers_ok ((framed_advance _ _).goTo _))

/-- The branches on a vote move indices alone. -/
theorem framed_branchOn {i : Instr} {wr : WRef → Nat → Nat → Prop} {p : Option Nat} {fl : Bool} {hide : Mask → Warp → Warp} (test : Mask → Mask → Bool) :
    Framed i s wr p fl hide (branchOn b off test (act i s) s.advance) := by
  refine Framed.modActing (framed_advance i s) fun mm _ x hx => hx.threads mm.lanes fun _ th => ?_
  split <;> rfl

theorem frame_brany : Ends (.brany c b off) s t → Frame (.brany c b off) s t none false :=
  frameBut_of_issueT (fun _ => execBrany.eq_def c b off s) (answers_ok (framed_branchOn s b off _))

theorem frame_brall : Ends (.brall c b off) s t → Frame (.brall c b off) s t none false :=
  frameBut_of_issueT (fun _ => execBrall.eq_def c b off s) (answers_ok (framed_branchOn s b off _))

theorem frame_ipref : Ends (.ipref c off) s t → Frame (.ipref c off) s t none false :=
  frameBut_of_issueT (fun _ => execIpref.eq_def c off s) (answers_ok ((framed_advance _ _).askLines _ _ _ _))

/-! ### Calls -/

/-- A warp without the return stacks and the code objects of some lanes. -/
def offCalls (l : Mask) (w : Warp) : Warp := w.modThreads l fun _ th => { th with obj := 0, rstack := [] }

variable {s t} in
/-- A call or a return changes what is taken out, in the lanes of an acting member. -/
theorem Framed.calls {i : Instr} {fl : Bool} {p : Option Nat} (h : Framed i s noReg p fl offCalls t) {f : Nat → Thread → Thread}
    (hf : ∀ l th, { bareThread (f l th) with obj := 0, rstack := [] } = { bareThread th with obj := 0, rstack := [] }) :
    Framed i s noReg p fl offCalls (t.modMembers (t.cur.acting (act i s)) fun m w => w.modThreads m.lanes f) := by
  refine h.modActing fun m hm x hx => hx.hidden hm rfl ⟨rfl, rfl, rfl⟩ rfl rfl rfl rfl (fun _ => rfl) ?_
  have hthreads : (((x.threads.mapIdx fun l t => if m.lanes.getLsbD l then f l t else t).map bareThread).mapIdx fun l th =>
        if (lanesIn i s m.w).getLsbD l then { th with obj := 0, rstack := [] } else th) =
      (x.threads.map bareThread).mapIdx fun l th => if (lanesIn i s m.w).getLsbD l then { th with obj := 0, rstack := [] } else th := by
    refine List.ext_getElem (by simp) fun n h1 h2 => ?_
    simp only [List.getElem_map, List.getElem_mapIdx]
    cases hl : m.lanes.getLsbD n with
    | false => rfl
    | true => simpa only [lanesIn_acting hm hl, if_true] using hf _ _
  simp only [offCalls, bareWarp, Warp.modThreads, hthreads]

theorem frame_call : Ends (.call c off) s t → FrameBut (.call c off) s t noReg none false offCalls :=
  frameBut_of_issueT (fun _ => execCall.eq_def c off s) (answers_bind fun _ _ => answers_ok ((framed_advance _ _).calls fun _ _ => rfl))

theorem frame_callx : Ends (.callx c o) s t → FrameBut (.callx c o) s t noReg none false offCalls :=
  frameBut_of_issueT (fun _ => execCallx.eq_def c o s) (answers_bind fun _ _ => answers_bind fun _ _ => answers_ok ((framed_advance _ _).calls fun _ _ => rfl))

theorem frame_ret : Ends (.ret c m) s t → FrameBut (.ret c m) s t noReg none false offCalls := by
  refine frameBut_of_issueT (fun _ => execRet.eq_def c m s) (answers_bind fun _ _ => answers_ok ((framed_advance _ _).calls fun _ th => ?_))
  split <;> rfl

/-! ### Clauses -/

/-- A warp without clause register `k` and the waits at it. -/
def offClauseReg (k : Nat) (w : Warp) : Warp := { w with clauses := smDel w.clauses k, threads := w.threads.map (offClause k) }

/-- `y` differs from `x` in a clause register, and in who waits at it, alone. -/
structure ClauseStep (k : Nat) (x y : Warp) : Prop where
  size : y.g = x.g ∧ y.f = x.f ∧ y.q = x.q
  regs : y.gen = x.gen ∧ y.aff = x.aff ∧ y.uni = x.uni
  preds : y.preds = x.preds
  flags : y.fpflags = x.fpflags
  hidden : offClauseReg k (bareWarp y) = offClauseReg k (bareWarp x)

/-- The lanes of a mask that is formed from a test satisfy it. -/
theorem of_getLsbD_maskOf {f : Nat → Bool} {l : Nat} (h : (maskOf f).getLsbD l = true) : f l = true := by
  have hbits : ∀ (L : List Nat) (j : Nat), (L.foldr (fun l n => 2 * n + (f l).toNat) 0).testBit j = true → ∃ a, L[j]? = some a ∧ f a = true := by
    intro L
    induction L with
    | nil => exact fun j hj => absurd hj (by simp)
    | cons a r ih =>
      intro j hj
      rw [List.foldr_cons] at hj
      cases j with
      | zero =>
        refine ⟨a, rfl, ?_⟩
        rw [Nat.testBit_zero] at hj
        cases hf : f a with
        | true => rfl
        | false => simp [hf] at hj
      | succ j =>
        have hhalf : (2 * r.foldr (fun l n => 2 * n + (f l).toNat) 0 + (f a).toNat) / 2 = r.foldr (fun l n => 2 * n + (f l).toNat) 0 := by
          have := Bool.toNat_lt (f a)
          omega
        rw [Nat.testBit_succ, hhalf] at hj
        exact ih j hj
  rw [maskOf, BitVec.getLsbD_ofNat, Bool.and_eq_true] at h
  obtain ⟨a, ha, hfa⟩ := hbits _ _ h.2
  obtain ⟨hlt, hget⟩ := List.getElem?_eq_some_iff.mp ha
  rw [List.getElem_range] at hget
  exact hget ▸ hfa

namespace ClauseStep
variable {k : Nat} {x y z : Warp}

theorem refl (x : Warp) : ClauseStep k x x := ⟨⟨rfl, rfl, rfl⟩, ⟨rfl, rfl, rfl⟩, rfl, rfl, rfl⟩

theorem trans (h : ClauseStep k x y) (h' : ClauseStep k y z) : ClauseStep k x z := by
  obtain ⟨⟨hg, hf, hq⟩, ⟨hgen, haff, huni⟩, hpreds, hflags, hhidden⟩ := h
  obtain ⟨⟨hg', hf', hq'⟩, ⟨hgen', haff', huni'⟩, hpreds', hflags', hhidden'⟩ := h'
  exact ⟨⟨hg'.trans hg, hf'.trans hf, hq'.trans hq⟩, ⟨hgen'.trans hgen, haff'.trans haff, huni'.trans huni⟩, hpreds'.trans hpreds, hflags'.trans hflags,
    hhidden'.trans hhidden⟩

/-- The clause register is written. -/
theorem setClause (x : Warp) (v : Mask × Mask) : ClauseStep k x (x.setClause k v) where
  size := ⟨rfl, rfl, rfl⟩
  regs := ⟨rfl, rfl, rfl⟩
  preds := rfl
  flags := rfl
  hidden := by simp only [offClauseReg, bareWarp, Warp.setClause, smDel_smPut]

/-- Lanes that wait at the clause register go on. -/
theorem release (x : Warp) {lanes : Mask} (hl : ∀ l, lanes.getLsbD l = true → (x.parkedAt k).getLsbD l = true) (clock : Nat) :
    ClauseStep k x (x.modThreads lanes fun _ th => { th with wait := .none, stamp := clock }) where
  size := ⟨rfl, rfl, rfl⟩
  regs := ⟨rfl, rfl, rfl⟩
  preds := rfl
  flags := rfl
  hidden := by
    have hthreads : ((x.threads.mapIdx fun l th => if lanes.getLsbD l then { th with wait := .none, stamp := clock } else th).map bareThread).map (offClause k) =
        (x.threads.map bareThread).map (offClause k) := by
      refine List.ext_getElem (by simp) fun n h1 h2 => ?_
      have hn : n < x.threads.length := by simpa using h2
      simp only [List.getElem_map, List.getElem_mapIdx]
      split
      case isFalse => rfl
      case isTrue hlane =>
        have hwait : x.threads[n].wait = .clause k := by
          have hparked := of_getLsbD_maskOf (hl n hlane)
          simpa [Warp.thread, List.getD_eq_getElem?_getD, hn] using hparked
        simp [offClause, bareThread, hwait]
    simp only [offClauseReg, bareWarp, Warp.modThreads, hthreads]

/-- R169. -/
theorem releaseClause (x : Warp) (clock : Nat) : ClauseStep k x (x.releaseClause k clock) := by
  unfold Warp.releaseClause
  dsimp only
  split
  · exact (setClause x _).trans (release (x.setClause k _) (fun _ h => h) clock)
  · exact refl x

theorem ite {c : Prop} [Decidable c] (hy : ClauseStep k x y) (hz : ClauseStep k x z) : ClauseStep k x (if c then y else z) := by
  split
  · exact hy
  · exact hz

/-- The release that may follow a write of the clause register. -/
theorem thenRelease (h : ClauseStep k x y) (clock : Nat) : ClauseStep k x (if y.parkedAt k != 0 then y.releaseClause k clock else y) :=
  ite (h.trans (releaseClause y clock)) h

/-- The frame of the clause instructions allows it. -/
theorem changes {i : Instr} {s : State} {p : Option Nat} {fl : Bool} {m : Member} (h : ClauseStep k x y)
    (hx : Changes i s noReg p fl (fun _ => offClauseReg k) m.w x) (hm : m ∈ acting i s) : Changes i s noReg p fl (fun _ => offClauseReg k) m.w y := by
  obtain ⟨hsize, ⟨hgen, haff, huni⟩, hpreds, hflags, hhidden⟩ := h
  exact hx.hidden hm rfl hsize hgen haff huni hpreds (fun _ => hflags) hhidden

end ClauseStep

theorem frame_clen : Ends (.clen c b) s t → FrameBut (.clen c b) s t noReg none false fun _ => offClauseReg b.toNat :=
  frameBut_of_issueT (fun _ => execClen.eq_def c b s)
    (answers_ok ((framed_advance _ _).modActing fun _ hm x hx => (ClauseStep.setClause x _).changes hx hm))

theorem frame_cldrop : Ends (.cldrop c b) s t → FrameBut (.cldrop c b) s t noReg none false fun _ => offClauseReg b.toNat :=
  frameBut_of_issueT (fun _ => execCldrop.eq_def c b s) (answers_ok ((framed_advance _ _).modActing fun _ hm x hx =>
    ((ClauseStep.setClause x _).thenRelease _).changes hx hm))

theorem frame_clset : Ends (.clset c b d m) s t → FrameBut (.clset c b d m) s t noReg none false fun _ => offClauseReg b.toNat := by
  refine frameBut_of_issueT (fun _ => execClset.eq_def c b d m s) (answers_bind fun _ _ => answers_ok ((framed_advance _ _).modActing fun mm hm x hx => ?_))
  refine ClauseStep.changes (ClauseStep.thenRelease (.ite ((ClauseStep.setClause x _).trans (.release _ (fun l hl => ?_) _)) (.setClause x _)) _) hx hm
  rw [BitVec.getLsbD_and, Bool.and_eq_true] at hl
  exact hl.1

/-- CLWAIT: the frame takes the waits of its own lanes out too. -/
def offClwait (k : Nat) (l : Mask) (w : Warp) : Warp :=
  { w with clauses := smDel w.clauses k, threads := w.threads.mapIdx fun j th => if l.getLsbD j then { th with wait := .none } else offClause k th }

/-- What differs in the clause register alone stays equal when the waits of some lanes are taken out too. -/
theorem offClwait_of_offClauseReg {k : Nat} {x y : Warp} (l : Mask) (h : offClauseReg k y = offClauseReg k x) : offClwait k l y = offClwait k l x := by
  have hfactor (w : Warp) : offClwait k l w = { offClauseReg k w with
      threads := (offClauseReg k w).threads.mapIdx fun j th => if l.getLsbD j then { th with wait := .none } else th } := by
    have hthreads : (w.threads.mapIdx fun j th => if l.getLsbD j then { th with wait := .none } else offClause k th) =
        (w.threads.map (offClause k)).mapIdx fun j th => if l.getLsbD j then { th with wait := .none } else th := by
      refine List.ext_getElem (by simp) fun n h1 h2 => ?_
      simp only [List.getElem_map, List.getElem_mapIdx, offClause]
      split <;> split <;> rfl
    simp only [offClwait, offClauseReg, hthreads]
  rw [hfactor, hfactor, h]

/-- Threads of an acting member that begin to wait at the clause register. -/
theorem offClwait_waits {k : Nat} {x : Warp} {l lanes : Mask} (hl : ∀ j, lanes.getLsbD j = true → l.getLsbD j = true) :
    offClwait k l (bareWarp (x.modThreads lanes fun _ th => { th with wait := .clause k })) = offClwait k l (bareWarp x) := by
  have hthreads : (((x.threads.mapIdx fun j th => if lanes.getLsbD j then { th with wait := .clause k } else th).map bareThread).mapIdx fun j th =>
        if l.getLsbD j then { th with wait := .none } else offClause k th) =
      (x.threads.map bareThread).mapIdx fun j th => if l.getLsbD j then { th with wait := .none } else offClause k th := by
    refine List.ext_getElem (by simp) fun n h1 h2 => ?_
    simp only [List.getElem_map, List.getElem_mapIdx]
    cases hlane : lanes.getLsbD n with
    | false => rfl
    | true => simp only [hl n hlane, if_true, bareThread]
  simp only [offClwait, bareWarp, Warp.modThreads, hthreads]

theorem frame_clwait : Ends (.clwait c b) s t → FrameBut (.clwait c b) s t noReg none false (offClwait b.toNat) := by
  refine frameBut_of_issueT (fun _ => execClwait.eq_def c b s) (answers_ok ((framed_advance _ _).modActing fun m hm x hx => ?_))
  have hallows {y : Warp} (h : ClauseStep b.toNat x y) : Changes (.clwait c b) s noReg none false (offClwait b.toNat) m.w y := by
    obtain ⟨hsize, ⟨hgen, haff, huni⟩, hpreds, hflags, hhidden⟩ := h
    exact hx.hidden hm rfl hsize hgen haff huni hpreds (fun _ => hflags) (offClwait_of_offClauseReg _ hhidden)
  dsimp only
  split
  · exact hallows ((ClauseStep.setClause x _).trans (.releaseClause _ _))
  · refine (hallows (.setClause x _)).hidden hm rfl ⟨rfl, rfl, rfl⟩ rfl rfl rfl rfl (fun _ => rfl) (offClwait_waits fun j hj => lanesIn_acting hm ?_)
    rw [BitVec.getLsbD_and, Bool.and_eq_true] at hj
    exact hj.1

/-! ### Flags and modes -/

theorem frame_flagclr : Ends (.flagclr c m) s t → FrameBut (.flagclr c m) s t noReg none true fun _ w => w :=
  frameBut_of_issueT (fun _ => congrFun (execFlagclr.eq_def c m) s) (answers_ok ((framed_advance _ _).modActing fun _ _ _ hx => hx.fpflags _))

theorem frame_rmode : Ends (.rmode c m) s t → FrameBut (.rmode c m) s t noReg none false fun _ w => { w with fprnd := 0 } :=
  frameBut_of_issueT (fun _ => congrFun (execRmode.eq_def c m) s) (answers_ok ((framed_advance _ _).modActing fun _ hm _ hx =>
    hx.hidden hm rfl ⟨rfl, rfl, rfl⟩ rfl rfl rfl rfl (fun _ => rfl) rfl))

end

/-- Settles O9: predicates, branches, calls and clauses, each with what its frame takes out. -/
theorem predicateAndBranchFrame : Obligations.PredicateAndBranchFrame := by
  intro c o p q m b off d s t
  refine ⟨fun i n hi => ?preds, frame_fcmp s t c p, fun i hi => ?branches, fun i hi => ?calls, fun i hi => ?clauses, frame_clwait s t c b, frame_flagclr s t c m,
    frame_rmode s t c m⟩
  case preds =>
    simp only [List.mem_cons, List.not_mem_nil, or_false, Prod.mk.injEq] at hi
    obtain ⟨rfl, rfl⟩ | ⟨rfl, rfl⟩ | ⟨rfl, rfl⟩ | ⟨rfl, rfl⟩ | ⟨rfl, rfl⟩ | ⟨rfl, rfl⟩ | ⟨rfl, rfl⟩ | ⟨rfl, rfl⟩ | ⟨rfl, rfl⟩ := hi
    · exact frame_icmp s t c p
    · exact frame_predicates s t c q (by simp)
    · exact frame_predicates s t c q (by simp)
    · exact frame_predicates s t c q (by simp)
    · exact frame_predicates s t c q (by simp)
    · exact frame_predicates s t c q (by simp)
    · exact frame_vote s t c q
    · exact frame_iaddc s t c o
    · exact frame_isubb s t c o
  case branches =>
    simp only [List.mem_cons, List.not_mem_nil, or_false] at hi
    rcases hi with rfl | rfl | rfl | rfl | rfl | rfl
    · exact frame_nop s t c m
    · exact frame_bra s t c off
    · exact frame_brx s t c o
    · exact frame_brany s t c b off
    · exact frame_brall s t c b off
    · exact frame_ipref s t c off
  case calls =>
    simp only [List.mem_cons, List.not_mem_nil, or_false] at hi
    rcases hi with rfl | rfl | rfl
    · exact frame_call s t c off
    · exact frame_callx s t c o
    · exact frame_ret s t c m
  case clauses =>
    simp only [List.mem_cons, List.not_mem_nil, or_false] at hi
    rcases hi with rfl | rfl | rfl
    · exact frame_clen s t c b
    · exact frame_cldrop s t c b
    · exact frame_clset s t c m b d

end Sys2Proof.Spec
end

section
/-!
PROOFS. What it means that an outcome, a check or an option keeps the system registers (R461 to R468), and the rules for binds, folds and choices.
-/
set_option autoImplicit false

namespace Sys2Proof.Machine

/-- A state that an outcome holds has these system registers. -/
def OutKeeps (y : Sys) (o : Out) : Prop := ∀ t, o = .next t → t.sys = y
/-- A state that passes a check has these system registers. -/
def ChkKeeps {ε : Type} (y : Sys) (o : Except ε State) : Prop := ∀ t, o = .ok t → t.sys = y
/-- A state that a hold answers has these system registers. -/
def OptKeeps (y : Sys) (o : Option State) : Prop := ∀ t, o = some t → t.sys = y

@[simp] theorem outKeeps_next (y : Sys) (t : State) : OutKeeps y (.next t) ↔ t.sys = y := by
  unfold OutKeeps; constructor
  · exact fun h => h t rfl
  · rintro h u ⟨⟩; exact h
@[simp] theorem outKeeps_refused (y : Sys) (x : Refusal) : OutKeeps y (.refused x) := fun _ h => nomatch h
@[simp] theorem chkKeeps_ok {ε : Type} (y : Sys) (t : State) : ChkKeeps (ε := ε) y (.ok t) ↔ t.sys = y := by
  unfold ChkKeeps; constructor
  · exact fun h => h t rfl
  · rintro h u ⟨⟩; exact h
@[simp] theorem chkKeeps_error {ε : Type} (y : Sys) (x : ε) : ChkKeeps y (.error x) := fun _ h => nomatch h
@[simp] theorem chkKeeps_bind {α ε : Type} (y : Sys) (x : Except ε α) (f : α → Except ε State) (h : ∀ a, ChkKeeps y (f a)) : ChkKeeps y (x >>= f) := by
  cases x with
  | error e => exact fun t he => nomatch he
  | ok a => exact h a
theorem chkKeeps_opt {ε : Type} (y : Sys) (p : Prop) [Decidable p] (x : Except ε Unit) (f : Unit → Except ε State) (h : ChkKeeps y (f ())) :
    ChkKeeps y (if p then x >>= f else f ()) := by
  split
  · exact chkKeeps_bind _ _ _ fun _ => h
  · exact h
@[simp] theorem optKeeps_some (y : Sys) (t : State) : OptKeeps y (some t) ↔ t.sys = y := by
  unfold OptKeeps; constructor
  · exact fun h => h t rfl
  · rintro h u ⟨⟩; exact h
@[simp] theorem optKeeps_none (y : Sys) : OptKeeps y none := fun _ h => nomatch h

theorem OptKeeps.of_eq {y : Sys} {x : Option State} {t : State} (h : x = some t) (hx : OptKeeps y x) : t.sys = y := hx t h
theorem OptKeeps.chk {ε : Type} {y : Sys} {x : Option State} {t : State} (h : x = some t) (hx : OptKeeps y x) : ChkKeeps (ε := ε) y (.ok t) :=
  (chkKeeps_ok y t).mpr (hx t h)
@[simp] theorem optKeeps_or {y : Sys} {x z : Option State} (hx : OptKeeps y x) (hz : OptKeeps y z) : OptKeeps y (x.or z) := by
  cases x with
  | none => exact hz
  | some t => exact hx

/-- A choice between two states. -/
@[simp] theorem ite_sys (p : Prop) [Decidable p] (a b : State) : (if p then a else b).sys = if p then a.sys else b.sys := apply_ite ..

@[simp] theorem ite_fst_sys {α : Type} (p : Prop) [Decidable p] (a b : State × α) : (if p then a else b).1.sys = if p then a.1.sys else b.1.sys :=
  apply_ite (fun x : State × α => x.1.sys) p a b
@[simp] theorem ite_snd_sys {α : Type} (p : Prop) [Decidable p] (a b : α × State) : (if p then a else b).2.sys = if p then a.2.sys else b.2.sys :=
  apply_ite (fun x : α × State => x.2.sys) p a b

@[simp] theorem foldl_sys {α : Type} (f : State → α → State) (l : List α) (s : State) (h : ∀ s a, (f s a).sys = s.sys) : (l.foldl f s).sys = s.sys :=
  foldl_keeps State.sys f h l s

/-- Every value that a check answers has the property. -/
def ChkAll {ε α : Type} (P : α → Prop) (x : Except ε α) : Prop := ∀ a, x = .ok a → P a

section ChkAll
variable {ε α β : Type} {P : α → Prop} {Q : β → Prop}

@[simp] theorem chkAll_ok (a : α) : ChkAll (ε := ε) P (.ok a) ↔ P a := by
  unfold ChkAll; constructor
  · exact fun h => h a rfl
  · rintro h u ⟨⟩; exact h
@[simp] theorem chkAll_error (e : ε) : ChkAll P (.error e : Except ε α) := fun _ h => nomatch h
theorem chkAll_bind {x : Except ε β} {f : β → Except ε α} (hx : ChkAll Q x) (hf : ∀ b, Q b → ChkAll P (f b)) : ChkAll P (x >>= f) := by
  cases x with
  | error e => exact fun t he => nomatch he
  | ok b => exact hf b (hx b rfl)
theorem chkAll_pure_bind {x : Except ε β} {f : β → Except ε α} (hf : ∀ b, ChkAll P (f b)) : ChkAll P (x >>= f) :=
  chkAll_bind (Q := fun _ => True) (fun _ _ => trivial) fun b _ => hf b
theorem chkAll_foldlM {f : α → β → Except ε α} (hf : ∀ a b, P a → ChkAll P (f a b)) {l : List β} {a : α} (ha : P a) :
    ChkAll P (l.foldlM f a) := by
  induction l generalizing a with
  | nil => exact (chkAll_ok a).mpr ha
  | cons b r ih => exact chkAll_bind (hf a b ha) fun _ h => ih h
end ChkAll

end Sys2Proof.Machine
end

section
/-!
PROOFS. The system registers: the operations of the state, operands, the issue of an instruction, and control instructions leave them alone.
-/
set_option autoImplicit false

namespace Sys2Proof.Machine

@[simp] theorem trapBlock_sys (t : TrapReq) (g : Group) (s : State) (cq : Nat × Nat) : (trapBlock t g s cq).sys = s.sys := by
  unfold trapBlock
  dsimp only
  (repeat' split) <;> simp

@[simp] theorem takeTrap_sys (t : TrapReq) (g : Group) (s : State) : (takeTrap t g s).sys = s.sys := by simp [takeTrap]

@[simp] theorem raiseAt_sys (t : TrapReq) (g : Group) (s : State) : (raiseAt t g s).sys = s.sys := by simp [raiseAt]

@[simp] theorem raiseTrap_sys (t : TrapReq) (s : State) : (raiseTrap t s).sys = s.sys := by simp [raiseTrap]

@[simp] theorem State.setLatch_sys (s : State) (core key : Nat) (wide : Bool) (act : Mask) (vals : Nat → BitVec 64) :
    (s.setLatch core key wide act vals).sys = s.sys := by simp [State.setLatch]

@[simp] theorem State.latchResult_sys (s : State) (core : Nat) (slot : Option Nat) (vals : List (Nat × Word)) : (s.latchResult core slot vals).sys = s.sys := by
  unfold State.latchResult
  split <;> simp

@[simp] theorem deliver_sys (s : State) (r : RW) : (deliver s r).sys = s.sys := by
  unfold deliver
  split <;> simp

@[simp] theorem askLines_sys (core : Nat) (obj : BitVec 24) (start : Int) (n : Nat) (s : State) : (askLines core obj start n s).sys = s.sys := by simp [askLines]

@[simp] theorem prefetch_sys (core : Nat) (obj : BitVec 24) (start : Int) (s : State) : (prefetch core obj start s).sys = s.sys := by simp [prefetch]

@[simp] theorem State.refreshTable_sys (s : State) (core : Nat) : (s.refreshTable core).sys = s.sys := by simp [State.refreshTable]

@[simp] theorem State.settleTables_sys (s : State) : s.settleTables.sys = s.sys := by simp [State.settleTables]

@[simp] theorem holdReissue_sys (x : Wait) (s : State) : (holdReissue x s).sys = s.sys := by simp [holdReissue]

@[simp] theorem holdOperand_sys (c : Ctl) (u : Uses) (act : Mask) (s0 s : State) : (holdOperand c u act s0 s).sys = s.sys := by simp [holdOperand]

@[simp] theorem yieldGroup_sys (s0 s : State) : (yieldGroup s0 s).sys = s.sys := by simp [yieldGroup]

@[simp] theorem hints_sys (c : Ctl) (u : Uses) (act : Mask) (s0 s : State) : (hints c u act s0 s).sys = s.sys := by simp [hints]

@[simp] theorem issue_sys (c : Ctl) (u : Uses) (body : Mask → State → Chk State) (s : State) {y : Sys} (hy : s.sys = y)
    (hb : ∀ act, ChkKeeps y (body act s.advance)) : OutKeeps y (issue c u body s) := by
  subst hy
  intro t h
  obtain ⟨x, -, rfl⟩ | ⟨-, -, rfl⟩ | ⟨x, -, -, -, rfl⟩ | ⟨x, -, -, hans, rfl⟩ := issue_cases h
  · simp
  · simp
  · simp
  · rw [hints_sys, hb _ x hans]

@[simp] theorem State.startOp_sys (s : State) (c : Ctl) (o : LongOp) : (s.startOp c o).sys = s.sys := by simp [State.startOp]

@[simp] theorem State.startResults_sys (s : State) (c : Ctl) (act : Mask) (d : Option Fld) (rws : List RW) :
    (s.startResults c act d rws).sys = s.sys := by simp [State.startResults]

@[simp] theorem State.modOp_sys (s : State) (id : Nat) (f : LongOp → LongOp) : (s.modOp id f).sys = s.sys := by simp [State.modOp]

@[simp] theorem State.wake_sys (s : State) (w : WRef) (m : Mask) : (s.wake w m).sys = s.sys := by simp [State.wake]

@[simp] theorem takeDeferred_sys (s : State) : (takeDeferred s).sys = s.sys := by simp [takeDeferred]

@[simp] theorem State.dropOp_sys (s : State) (o : LongOp) : (s.dropOp o).sys = s.sys := by simp [State.dropOp]

@[simp] theorem State.completeOp_sys (s : State) (o : LongOp) : (s.completeOp o).sys = s.sys := by
  unfold State.completeOp
  split <;> simp

@[simp] theorem State.complete_sys (s : State) (id : Nat) : (s.complete id).sys = s.sys := by
  unfold State.complete
  split <;> simp

@[simp] theorem wakeWhere_sys (core seq : Nat) (p : Wait → Bool) (s : State) : (wakeWhere core seq p s).sys = s.sys := by simp [wakeWhere]

@[simp] theorem unclear_sys (r : MxRead) (s : State) : (unclear r s).sys = s.sys := by simp [unclear]

@[simp] theorem trapReaders_sys (o : LongOp) (rs : List MxRead) (bad : MxRead → Bool) (cause : Cause) (info : Word) (s : State) :
    (trapReaders o rs bad cause info s).sys = s.sys := by simp [trapReaders]

@[simp] theorem streamFault_sys (core seq : Nat) (cause : Cause) (sub : BitVec 8) (s : State) : (streamFault core seq cause sub s).sys = s.sys := by
  unfold streamFault
  refine (foldl_sys _ _ _ fun s o => ?_).trans (by simp)
  split
  · simp
  · rfl

@[simp] theorem streamIssue_sys (seq : Nat) (c : Ctl) (body : Mx → Option Mx) (s : State) {y : Sys} (hy : s.sys = y) : OutKeeps y (streamIssue seq c body s) := by
  subst hy
  unfold streamIssue
  dsimp only
  (repeat' split) <;> simp

@[simp] theorem streamIllegal_sys (seq : Nat) (s : State) {y : Sys} (hy : s.sys = y) : OutKeeps y (streamIllegal seq s) := by
  simp [streamIllegal, hy]

@[simp] theorem issueT_sys (c : Ctl) (u : Uses) (body : Mask → State → Chk State) (s : State) {y : Sys} (hy : s.sys = y)
    (hb : ∀ act, ChkKeeps y (body act s.advance)) : OutKeeps y (issueT c u body s) := by
  unfold issueT
  split
  · simp [hy]
  · exact issue_sys c u body s hy hb

@[simp] theorem goTo_sys (act : Mask) (f : Nat → Option (BitVec 32)) (s : State) : (goTo act f s).sys = s.sys := by simp [goTo]

@[simp] theorem execNop_sys (c : Ctl) (_m : Mods) (s : State) {y : Sys} (hy : s.sys = y) : OutKeeps y (execNop c _m s) := by
  subst hy
  unfold execNop
  split <;> simp

@[simp] theorem execBra_sys (c : Ctl) (off : BitVec 32) (s : State) {y : Sys} (hy : s.sys = y) : OutKeeps y (execBra c off s) := by
  subst hy
  unfold execBra
  split <;> simp

@[simp] theorem branchOn_sys (p : BitVec 4) (off : BitVec 32) (test : Mask → Mask → Bool) (act : Mask) (s : State) :
    (branchOn p off test act s).sys = s.sys := by simp [branchOn]

@[simp] theorem callTo_sys (act : Mask) (f : Nat → Thread → BitVec 24 × BitVec 32) (s : State) : (callTo act f s).sys = s.sys := by simp [callTo]

@[simp] theorem execCallx_sys (c : Ctl) (o : OpsV) (s : State) {y : Sys} (hy : s.sys = y) : OutKeeps y (execCallx c o s) := by
  subst hy
  unfold execCallx
  refine issueT_sys _ _ _ _ rfl fun act => ?_
  repeat refine chkKeeps_bind _ _ _ fun _ => ?_
  simp

@[simp] theorem endItem_sys (core k : Nat) (s : State) : (endItem core k s).sys = s.sys := by
  unfold endItem
  split <;> simp

@[simp] theorem endItems_sys (m : Member) (s : State) : (endItems m s).sys = s.sys := by
  refine foldl_keeps State.sys _ (fun s l => ?_) _ s
  split <;> simp

@[simp] theorem grantOwner_sys (core : Nat) (s : State) : (grantOwner core s).sys = s.sys := by
  unfold grantOwner
  dsimp only
  (repeat' split) <;> simp

@[simp] theorem dropOwner_sys (w : WRef) (s : State) : (dropOwner w s).sys = s.sys := by simp [dropOwner]

@[simp] theorem retireWarp_sys (w : WRef) (s : State) : (retireWarp w s).sys = s.sys := by simp [retireWarp]

@[simp] theorem endThreads_sys (act : Mask) (s : State) : (endThreads act s).sys = s.sys := by simp [endThreads]

@[simp] theorem execExit_sys (c : Ctl) (m : Mods) (s : State) {y : Sys} (hy : s.sys = y) : OutKeeps y (execExit c m s) := by
  subst hy
  unfold execExit
  split <;> simp

@[simp] theorem execLoop_sys (c : Ctl) (d : VReg) (off : BitVec 32) (s : State) {y : Sys} (hy : s.sys = y) : OutKeeps y (execLoop c d off s) := by
  subst hy
  unfold execLoop
  split <;> simp

end Sys2Proof.Machine
end

section
/-!
PROOFS. The system registers: integer, lane, floating-point and conversion instructions leave them alone.
-/
set_option autoImplicit false

namespace Sys2Proof.Machine

@[simp] theorem alu_sys (c : Ctl) (u : Uses) (sh : ShpRule) (aff : State → Member → Word × Word) (chk : Mask → State → Chk Unit) (f : State → Nat → BitVec 64) (s : State) {y : Sys} (hy : s.sys = y) :
    OutKeeps y (alu c u sh aff chk f s) := by
  subst hy
  unfold alu
  refine issueT_sys _ _ _ _ rfl fun act => ?_
  repeat refine chkKeeps_bind _ _ _ fun _ => ?_
  split <;> simp

@[simp] theorem plain_sys (c : Ctl) (u : Uses) (f : BitVec 64 → BitVec 64 → BitVec 64 → BitVec 64) (s : State) {y : Sys} (hy : s.sys = y) :
    OutKeeps y (plain c u f s) := by
  simp [plain, hy]

@[simp] theorem arith_sys (c : Ctl) (u : Uses) (m : Mods) (f : Int → Int → Int → Int) (s : State) {y : Sys} (hy : s.sys = y) : OutKeeps y (arith c u m f s) := by
  simp [arith, hy]

@[simp] theorem sumLike_sys (c : Ctl) (u : Uses) (m : Mods) (f : Int → Int → Int) (g : Word → Word → Word) (s : State) {y : Sys} (hy : s.sys = y) :
    OutKeeps y (sumLike c u m f g s) := by
  simp [sumLike, hy]

@[simp] theorem execIadd_sys (c : Ctl) (o : OpsV) (s : State) {y : Sys} (hy : s.sys = y) : OutKeeps y (execIadd c o s) := by
  subst hy
  unfold execIadd
  split <;> simp

@[simp] theorem carryOp_sys (c : Ctl) (u : Uses) (m : Mods) (f : Int → Int → Int → Int) (s : State) {y : Sys} (hy : s.sys = y) : OutKeeps y (carryOp c u m f s) := by
  subst hy
  unfold carryOp
  split <;> simp

@[simp] theorem divOp_sys (rem : Bool) (c : Ctl) (u : Uses) (m : Mods) (s : State) {y : Sys} (hy : s.sys = y) : OutKeeps y (divOp rem c u m s) := by
  simp [divOp, hy]

@[simp] theorem logic_sys (c : Ctl) (u : Uses) (m : Mods) (f : BitVec 64 → BitVec 64 → BitVec 64) (s : State) {y : Sys} (hy : s.sys = y) :
    OutKeeps y (logic c u m f s) := by
  simp [logic, hy]

@[simp] theorem execMovi_sys (c : Ctl) (d : VReg) (imm : BitVec 32) (s : State) {y : Sys} (hy : s.sys = y) : OutKeeps y (execMovi c d imm s) := by
  subst hy
  unfold execMovi
  split <;> simp

@[simp] theorem execMovx_sys (c : Ctl) (o : OpsV) (s : State) {y : Sys} (hy : s.sys = y) : OutKeeps y (execMovx c o s) := by
  subst hy
  unfold execMovx
  refine issueT_sys _ _ _ _ rfl fun act => ?_
  repeat refine chkKeeps_bind _ _ _ fun _ => ?_
  split <;> simp

@[simp] theorem execMovxw_sys (c : Ctl) (o : OpsV) (s : State) {y : Sys} (hy : s.sys = y) : OutKeeps y (execMovxw c o s) := by
  subst hy
  unfold execMovxw
  refine issueT_sys _ _ _ _ rfl fun act => ?_
  repeat refine chkKeeps_bind _ _ _ fun _ => ?_
  simp

@[simp] theorem predOp_sys (c : Ctl) (u : Uses) (o : OpsPP) (f : Bool → Bool → Bool) (s : State) {y : Sys} (hy : s.sys = y) : OutKeeps y (predOp c u o f s) := by
  simp [predOp, hy]

@[simp] theorem cross_sys (c : Ctl) (u : Uses) (sh : ShpRule) (aff : State → Member → Word × Word) (chk : Mask → State → Chk Unit) (f : State → Mask → Nat → BitVec 64) (s : State) {y : Sys} (hy : s.sys = y) :
    OutKeeps y (cross c u sh aff chk f s) := by
  subst hy
  unfold cross
  refine issueT_sys _ _ _ _ rfl fun act => ?_
  repeat refine chkKeeps_bind _ _ _ fun _ => ?_
  split <;> simp

@[simp] theorem spendFree_sys (f : Option Fld) (s : State) : (spendFree f s).sys = s.sys := by
  unfold spendFree
  split <;> simp

@[simp] theorem crossRead_sys (c : Ctl) (u : Uses) (sh : ShpRule) (chk : Mask → State → Chk Unit) (f : State → Mask → Nat → BitVec 64) (s : State) {y : Sys} (hy : s.sys = y) :
    OutKeeps y (crossRead c u sh chk f s) := by
  subst hy
  unfold crossRead
  refine issueT_sys _ _ _ _ rfl fun act => ?_
  repeat refine chkKeeps_bind _ _ _ fun _ => ?_
  split <;> simp

@[simp] theorem fpAlu_sys (c : Ctl) (u : Uses) (sh : ShpRule) (f : State → Nat → FRes) (s : State) {y : Sys} (hy : s.sys = y) : OutKeeps y (fpAlu c u sh f s) := by
  subst hy
  unfold fpAlu
  refine issueT_sys _ _ _ _ rfl fun act => ?_
  repeat refine chkKeeps_bind _ _ _ fun _ => ?_
  split <;> simp

@[simp] theorem fpLong_sys (c : Ctl) (u : Uses) (sh : ShpRule) (f : State → Nat → FRes) (s : State) {y : Sys} (hy : s.sys = y) : OutKeeps y (fpLong c u sh f s) := by
  simp [fpLong, hy]

@[simp] theorem arithF_sys (c : Ctl) (u : Uses) (m : Mods) (f : Nat → FVal → FVal → FVal → FVal) (s : State) {y : Sys} (hy : s.sys = y) :
    OutKeeps y (arithF c u m f s) := by
  simp [arithF, hy]

@[simp] theorem minMaxOp_sys (mx : Bool) (c : Ctl) (u : Uses) (m : Mods) (s : State) {y : Sys} (hy : s.sys = y) : OutKeeps y (minMaxOp mx c u m s) := by
  simp [minMaxOp, hy]

@[simp] theorem execFcmp_sys (c : Ctl) (o : OpsPC) (s : State) {y : Sys} (hy : s.sys = y) : OutKeeps y (execFcmp c o s) := by
  subst hy
  unfold execFcmp
  refine issueT_sys _ _ _ _ rfl fun act => ?_
  repeat refine chkKeeps_bind _ _ _ fun _ => ?_
  simp

@[simp] theorem unaryF_sys (c : Ctl) (u : Uses) (m : Mods) (f : FVal → FVal × FpFlags) (s : State) {y : Sys} (hy : s.sys = y) : OutKeeps y (unaryF c u m f s) := by
  simp [unaryF, hy]

@[simp] theorem pairOp_sys (c : Ctl) (u : Uses) (m : Mods) (g : Nat → FVal → FVal → FVal → FVal) (s : State) {y : Sys} (hy : s.sys = y) :
    OutKeeps y (pairOp c u m g s) := by
  simp [pairOp, hy]

@[simp] theorem State.putComp_sys (s : State) (e : Nat) (act : Mask) (f : Nat → Word) : (s.putComp e act f).sys = s.sys := by simp [State.putComp]

@[simp] theorem execCvtef_sys (c : Ctl) (o : OpsV) (s : State) {y : Sys} (hy : s.sys = y) : OutKeeps y (execCvtef c o s) := by
  subst hy
  unfold execCvtef
  refine issueT_sys _ _ _ _ rfl fun act => ?_
  repeat refine chkKeeps_bind _ _ _ fun _ => ?_
  split <;> simp

@[simp] theorem execEfmov_sys (c : Ctl) (wr : Bool) (r : VReg) (e : BitVec 3) (s : State) {y : Sys} (hy : s.sys = y) : OutKeeps y (execEfmov c wr r e s) := by
  subst hy
  unfold execEfmov
  split <;> simp

@[simp] theorem packOp_sys (c : Ctl) (u : Uses) (o : OpsV) (s : State) {y : Sys} (hy : s.sys = y) : OutKeeps y (packOp c u o s) := by
  subst hy
  unfold packOp
  refine issueT_sys _ _ _ _ rfl fun act => chkKeeps_opt _ _ _ _ (chkKeeps_bind _ _ _ fun _ => chkKeeps_bind _ _ _ fun _ => ?_)
  simp only [chkKeeps_ok, orFlags_sys]
  (repeat' split) <;> simp

@[simp] theorem execUnpk_sys (c : Ctl) (o : OpsV) (s : State) {y : Sys} (hy : s.sys = y) : OutKeeps y (execUnpk c o s) := by
  subst hy
  unfold execUnpk
  refine issueT_sys _ _ _ _ rfl fun act => chkKeeps_opt _ _ _ _ (chkKeeps_bind _ _ _ fun _ => chkKeeps_bind _ _ _ fun _ => ?_)
  split <;> simp

@[simp] theorem execFlagrd_sys (c : Ctl) (o : OpsV) (s : State) {y : Sys} (hy : s.sys = y) : OutKeeps y (execFlagrd c o s) := by
  subst hy
  unfold execFlagrd
  refine issueT_sys _ _ _ _ rfl fun act => ?_
  repeat refine chkKeeps_bind _ _ _ fun _ => ?_
  split <;> simp

@[simp] theorem raiseQueue_sys (vi q : Nat) (s : State) : (raiseQueue vi q s).sys = s.sys := by simp [raiseQueue]

@[simp] theorem putFault_sys (part : Nat) (h : CmdHdr) (f : FaultRec) (s : State) : (putFault part h f s).sys = s.sys := by simp [putFault]

@[simp] theorem logFault_sys (job : Nat) (f : FaultRec) (s : State) : (logFault job f s).sys = s.sys := by
  unfold logFault
  split <;> simp

@[simp] theorem logError_sys (kind : Nat) (e : EccSite) (s : State) : (logError kind e s).sys = s.sys := by simp [logError]

end Sys2Proof.Machine
end

section
/-!
PROOFS. The system registers: the steps of memory accesses, loads, stores and the spill region leave them alone.
-/
set_option autoImplicit false

namespace Sys2Proof.Machine

@[simp] theorem State.writeN_sys (s : State) (sd : Side) (off : Nat) (bs : List Byte) : (s.writeN sd off bs).sys = s.sys := by
  unfold State.writeN
  split <;> simp

@[simp] theorem State.writeNat_sys (s : State) (sd : Side) (off n v : Nat) : (s.writeNat sd off n v).sys = s.sys := by simp [State.writeNat]

@[simp] theorem State.modAbsent_sys (s : State) (sd : Side) (f : List Nat → List Nat) : (s.modAbsent sd f).sys = s.sys := by
  unfold State.modAbsent
  split <;> simp

@[simp] theorem clearPresence_sys (sd : Side) (ls : List Nat) (s : State) : (clearPresence sd ls s).sys = s.sys := by simp [clearPresence]

@[simp] theorem setPresence_sys (sd : Side) (l : Nat) (s : State) : (setPresence sd l s).sys = s.sys := by simp [setPresence]

@[simp] theorem reportAbort_sys (job core uid : Nat) (oid : BitVec 24) (page : Nat) (reason : BitVec 8) (s : State) :
    (reportAbort job core uid oid page reason s).sys = s.sys := by
  unfold reportAbort
  (repeat' split) <;> simp

@[simp] theorem abortAccess_sys (w : WRef) (sd : Side) (off n : Nat) (s : State) : (abortAccess w sd off n s).sys = s.sys := by
  unfold abortAccess
  (repeat' split) <;> simp

@[simp] theorem State.modCopy_sys (s : State) (core id : Nat) (f : Copy → Copy) : (s.modCopy core id f).sys = s.sys := by simp [State.modCopy]

@[simp] theorem npByte_sys (sd : Side) (off : Nat) (s : State) : (npByte sd off s).1.sys = s.sys := by
  unfold npByte
  dsimp only
  (repeat' split) <;> simp

@[simp] theorem npBytes_sys (sd : Side) (off : Nat) (n : Nat) (s : State) : (npBytes sd off n s).1.sys = s.sys := by
  induction n generalizing off s with
  | zero => rfl
  | succ n ih => simp [npBytes, ih]

@[simp] theorem addCopy_sys (core : Nat) (c : Copy) (s : State) : (addCopy core c s).sys = s.sys := by simp [addCopy]

@[simp] theorem State.putCap_sys (s : State) (core seq c : Nat) (v : Cap) : (s.putCap core seq c v).sys = s.sys := by
  unfold State.putCap
  split <;> simp

@[simp] theorem performAct_sys (core op : Nat) (st : MemStep) (s : State) : (performAct core op st s).1.sys = s.sys := by
  unfold performAct
  dsimp only
  (repeat' split) <;> simp

@[simp] theorem performStep_sys (core op : Nat) (st : MemStep) (s : State) : (performStep core op st s).1.sys = s.sys := by simp [performStep]

@[simp] theorem holdKind_sys (kind : Nat) (act : Mask) (s : State) {y : Sys} (hy : s.sys = y) : OptKeeps y (holdKind kind act s) := by
  subst hy
  unfold holdKind
  dsimp only
  (repeat' split) <;> simp

@[simp] theorem holdUntil_sys (device : Bool) (act : Mask) (s : State) {y : Sys} (hy : s.sys = y) : OptKeeps y (holdUntil device act s) := by
  simp [holdUntil, hy]

@[simp] theorem holdRelease_sys (act : Mask) (s : State) {y : Sys} (hy : s.sys = y) : OptKeeps y (holdRelease act s) := by
  simp [holdRelease, hy]

@[simp] theorem holdRecord_sys (act : Mask) (s : State) {y : Sys} (hy : s.sys = y) : OptKeeps y (holdRecord act s) := by
  simp [holdRecord, hy]

@[simp] theorem holdEngine_sys (act : Mask) (s : State) {y : Sys} (hy : s.sys = y) : OptKeeps y (holdEngine act s) := by
  simp [holdEngine, hy]

@[simp] theorem holdLines_sys (act : Mask) (places : Nat → List (Side × Nat)) (s : State) {y : Sys} (hy : s.sys = y) : OptKeeps y (holdLines act places s) := by
  simp [holdLines, hy]

@[simp] theorem holdOn_sys (wprot : Bool) (steps : List MemStep) (s : State) : (holdOn wprot steps s).sys = s.sys := by simp [holdOn]

@[simp] theorem holdPlaces_sys (write : Bool) (places : List (Side × Nat × Nat)) (s : State) {y : Sys} (hy : s.sys = y) :
    OptKeeps y (holdPlaces write places s) := by
  subst hy
  unfold holdPlaces
  dsimp only
  (repeat' split) <;> simp

@[simp] theorem holdSteps_sys (steps : List MemStep) (s : State) {y : Sys} (hy : s.sys = y) : OptKeeps y (holdSteps steps s) := by
  subst hy
  unfold holdSteps
  dsimp only
  (repeat' split) <;> simp

@[simp] theorem runSteps_sys (core op : Nat) (arrive seqd : Bool) (prev steps : List MemStep) (s : State) :
    (runSteps core op arrive seqd prev steps s).1.sys = s.sys := by
  induction steps generalizing prev s with
  | nil => rfl
  | cons st r ih =>
    unfold runSteps
    dsimp only
    (repeat' split) <;> simp [ih]

@[simp] theorem State.modStep_sys (s : State) (st : MemStep) (f : Thread → Thread) : (s.modStep st f).sys = s.sys := by simp [State.modStep]

@[simp] theorem parkSteps_sys (core id : Nat) (steps : List MemStep) (s : State) : (parkSteps core id steps s).sys = s.sys := by simp [parkSteps]

@[simp] theorem wakeDone_sys (id : Nat) (mems : List Member) (left : List MemStep) (s : State) : (wakeDone id mems left s).sys = s.sys := by simp [wakeDone]

@[simp] theorem leaveSteps_sys (o : LongOp) (left : List MemStep) (rws : List RW) (s : State) : (leaveSteps o left rws s).sys = s.sys := by simp [leaveSteps]

@[simp] theorem resumeMem_sys (arrive seqd : Bool) (o : LongOp) (s : State) : (resumeMem arrive seqd o s).sys = s.sys := by
  unfold resumeMem
  split <;> simp

@[simp] theorem resumeStep_sys (j : Nat) (o : LongOp) (s : State) : (resumeStep j o s).sys = s.sys := by
  unfold resumeStep
  split <;> simp

@[simp] theorem startMem_sys (c : Ctl) (act : Mask) (d : Option Fld) (preds : List Nat) (steps : List MemStep) (s : State) :
    (startMem c act d preds steps s).sys = s.sys := by simp [startMem]

@[simp] theorem startShort_sys (hold : Bool) (marks : List Mark) (steps : List MemStep) (s : State) :
    (startShort hold marks steps s).sys = s.sys := by simp [startShort]

@[simp] theorem resumeHere_sys (sd : Side) (l : Nat) (o : LongOp) (s : State) : (resumeHere sd l o s).sys = s.sys := by
  unfold resumeHere
  split <;> simp

@[simp] theorem readSources_sys (sd : Side) (l : Nat) (s : State) : (readSources sd l s).sys = s.sys := by simp [readSources]

@[simp] theorem markPresent_sys (sd : Side) (l : Nat) (s : State) : (markPresent sd l s).sys = s.sys := by
  refine (foldl_sys _ _ _ fun s o => ?_).trans (by simp)
  split <;> simp

@[simp] theorem State.putCj_sys (s : State) (sd : Side) (off : Nat) (o : Cj) : (s.putCj sd off o).sys = s.sys := by simp [State.putCj]

@[simp] theorem acquireLanes_sys (ms : List Member) (acq : Bool) (s : State) : (acquireLanes ms acq s).sys = s.sys := by simp [acquireLanes]

@[simp] theorem wakeOp_sys (id : Nat) (ms : List Member) (s : State) : (wakeOp id ms s).sys = s.sys := by simp [wakeOp]

/-- The states of an answer about a Conjunction object. -/
def CjAns.Keeps (y : Sys) : CjAns → Prop
  | .wait s | .done s _ => s.sys = y
  | .trap _ => True

theorem performCj_sys (r : CjReq) (s : State) : (performCj r s).Keeps s.sys := by
  unfold performCj
  dsimp only
  (repeat' split) <;> simp [CjAns.Keeps]

@[simp] theorem stepCj_sys (arrive seqd : Bool) (o : LongOp) (s : State) : (stepCj arrive seqd o s).sys = s.sys := by
  unfold stepCj
  split
  case h_1 r _ =>
    have hans := performCj_sys r s
    dsimp only
    split
    · rfl
    · split
      case h_1 u hu => rw [hu] at hans; simpa [CjAns.Keeps] using hans
      case h_2 => simp
      case h_3 u vals hu => rw [hu] at hans; simpa [CjAns.Keeps] using hans
  case h_2 => rfl

@[simp] theorem wakeWaiters_sys (sd : Side) (off : Nat) (all : Bool) (s : State) : (wakeWaiters sd off all s).sys = s.sys := by
  refine (foldl_sys _ _ _ fun s o => ?_).trans (by simp)
  split <;> simp

@[simp] theorem afterCj_sys (r : CjReq) (s : State) : (afterCj r s).sys = s.sys := by simp [afterCj]

@[simp] theorem resumeCj_sys (arrive seqd : Bool) (o : LongOp) (s : State) : (resumeCj arrive seqd o s).sys = s.sys := by
  unfold resumeCj
  split <;> simp

@[simp] theorem engineCount_sys (sd : Side) (off k : Nat) (s : State) : (engineCount sd off k s).sys = s.sys := by simp [engineCount]

@[simp] theorem storeAt_sys (core uid : Nat) (w : WRef) (lanes : Mask) (sd : Side) (off : Nat) (bs : List Byte) (s : State) :
    (storeAt core uid w lanes sd off bs s).sys = s.sys := by
  unfold storeAt
  split <;> simp

@[simp] theorem loadOp_sys (c : Ctl) (u : Uses) (o : MemOpd) (k : Nat) (d : VReg) (np : Bool) (f : LForm) (s : State) {y : Sys} (hy : s.sys = y) :
    OutKeeps y (loadOp c u o k d np f s) := by
  subst hy
  unfold loadOp
  refine issueT_sys _ _ _ _ rfl fun act => ?_
  repeat refine chkKeeps_bind _ _ _ fun _ => ?_
  simp

@[simp] theorem execLdu_sys (c : Ctl) (o : OpsM) (s : State) {y : Sys} (hy : s.sys = y) : OutKeeps y (execLdu c o s) := by
  subst hy
  unfold execLdu
  refine issueT_sys _ _ _ _ rfl fun act => ?_
  repeat refine chkKeeps_bind _ _ _ fun _ => ?_
  simp

@[simp] theorem storeOp_sys (c : Ctl) (u : Uses) (o : MemOpd) (k : Nat) (reach : Nat) (d : VReg) (f : State → Nat → List Byte) (s : State) {y : Sys} (hy : s.sys = y) :
    OutKeeps y (storeOp c u o k reach d f s) := by
  subst hy
  unfold storeOp
  refine issueT_sys _ _ _ _ rfl fun act => chkKeeps_bind _ _ _ fun _ => chkKeeps_bind _ _ _ fun _ => chkKeeps_bind _ _ _ fun _ => chkKeeps_bind _ _ _ fun _ => ?_
  dsimp only
  split <;> simp

@[simp] theorem execLdsp_sys (c : Ctl) (o : OpsM) (s : State) {y : Sys} (hy : s.sys = y) : OutKeeps y (execLdsp c o s) := by
  subst hy
  unfold execLdsp
  refine issueT_sys _ _ _ _ rfl fun act => ?_
  (repeat' split) <;> simp

@[simp] theorem execStsp_sys (c : Ctl) (o : OpsM) (s : State) {y : Sys} (hy : s.sys = y) : OutKeeps y (execStsp c o s) := by
  subst hy
  unfold execStsp
  refine issueT_sys _ _ _ _ rfl fun act => ?_
  split <;> simp

@[simp] theorem execPrtest_sys (c : Ctl) (o : OpsMP) (s : State) {y : Sys} (hy : s.sys = y) : OutKeeps y (execPrtest c o s) := by
  subst hy
  unfold execPrtest
  refine issueT_sys _ _ _ _ rfl fun act => ?_
  repeat refine chkKeeps_bind _ _ _ fun _ => ?_
  simp

@[simp] theorem execPrwait_sys (c : Ctl) (o : OpsM) (s : State) {y : Sys} (hy : s.sys = y) : OutKeeps y (execPrwait c o s) := by
  subst hy
  unfold execPrwait
  refine issueT_sys _ _ _ _ rfl fun act => ?_
  repeat refine chkKeeps_bind _ _ _ fun _ => ?_
  simp

end Sys2Proof.Machine
end

section
/-!
PROOFS. The system registers: copies, and what the volume engines do to tiles, leave them alone.
-/
set_option autoImplicit false

namespace Sys2Proof.Machine

@[simp] theorem clearDst_sys (c : Copy) (s : State) : (clearDst c s).sys = s.sys := by simp [clearDst]

@[simp] theorem registerCopies_sys (core : Nat) (cs : List Copy) (prev : Option Nat) (s : State) : (registerCopies core cs prev s).sys = s.sys := by
  induction cs generalizing prev s with
  | nil => rfl
  | cons c r ih => simp [registerCopies, ih]

@[simp] theorem execCpkick_sys (c : Ctl) (o : OpsM) (s : State) {y : Sys} (hy : s.sys = y) : OutKeeps y (execCpkick c o s) := by
  unfold execCpkick
  refine issueT_sys _ _ _ _ hy fun act => chkKeeps_bind _ _ _ fun _ => chkKeeps_bind _ _ _ fun _ => chkKeeps_bind _ _ _ fun _ => ?_
  split
  · exact OptKeeps.chk ‹_› (by simp [hy])
  · refine chkKeeps_bind _ _ _ fun _ => ?_
    split <;> simp [hy]

@[simp] theorem execCpkickRegister_sys (k : Nat) (s : State) {y : Sys} (hy : s.sys = y) : OutKeeps y (execCpkickRegister k s) := by
  subst hy
  unfold execCpkickRegister
  (repeat' split) <;> simp

@[simp] theorem cancelPart_sys (core : Nat) (c : Copy) (p : CopyPart) (s : State) : (cancelPart core c p s).sys = s.sys := by
  unfold cancelPart
  (repeat' split) <;> simp

@[simp] theorem cancelCopy_sys (core : Nat) (c : Copy) (s : State) : (cancelCopy core c s).sys = s.sys := by simp [cancelCopy]

@[simp] theorem execCpcancel_sys (c : Ctl) (o : OpsV) (s : State) {y : Sys} (hy : s.sys = y) : OutKeeps y (execCpcancel c o s) := by
  subst hy
  unfold execCpcancel
  refine issueT_sys _ _ _ _ rfl fun act => ?_
  repeat refine chkKeeps_bind _ _ _ fun _ => ?_
  simp

@[simp] theorem execCpin_sys (c : Ctl) (o : OpsM) (s : State) {y : Sys} (hy : s.sys = y) : OutKeeps y (execCpin c o s) := by
  unfold execCpin
  refine issueT_sys _ _ _ _ hy fun act => chkKeeps_bind _ _ _ fun _ => ?_
  split
  · exact OptKeeps.chk ‹_› (by simp [hy])
  · simp [hy]

@[simp] theorem execCpout_sys (c : Ctl) (o : OpsM) (s : State) {y : Sys} (hy : s.sys = y) : OutKeeps y (execCpout c o s) := by
  unfold execCpout
  refine issueT_sys _ _ _ _ hy fun act => chkKeeps_bind _ _ _ fun _ => ?_
  split
  · exact OptKeeps.chk ‹_› (by simp [hy])
  · simp [hy]

@[simp] theorem partAbort_sys (core : Nat) (c : Copy) (p : CopyPart) (s : State) : (partAbort core c p s).sys = s.sys := by
  unfold partAbort
  split <;> simp

@[simp] theorem performPart_sys (core : Nat) (c : Copy) (n : Nat) (p : CopyPart) (s : State) : (performPart core c n p s).sys = s.sys := by
  unfold performPart
  (repeat' split) <;> simp

@[simp] theorem findSource_sys (core : Nat) (c : Copy) (n : Nat) (p : CopyPart) (s : State) : (findSource core c n p s).sys = s.sys := by
  unfold findSource
  split <;> simp

@[simp] theorem arrivePart_sys (core k n : Nat) (seqd : Bool) (s : State) : (arrivePart core k n seqd s).sys = s.sys := by
  unfold arrivePart
  (repeat' split) <;> simp

@[simp] theorem execCopyLineArrival_sys (core k n : Nat) (s : State) {y : Sys} (hy : s.sys = y) : OutKeeps y (execCopyLineArrival core k n s) := by
  simp [execCopyLineArrival, hy]

@[simp] theorem execCopyRecordStart_sys (core k : Nat) (s : State) {y : Sys} (hy : s.sys = y) : OutKeeps y (execCopyRecordStart core k s) := by
  simp [execCopyRecordStart, hy]

@[simp] theorem State.putVolField_sys (s : State) (vol : BitVec 24) (off v : Nat) : (s.putVolField vol off v).sys = s.sys := by simp [State.putVolField]

@[simp] theorem State.putNodeEntry_sys (s : State) (sd : Side) (off : Nat) (e : NodeEntry) : (s.putNodeEntry sd off e).sys = s.sys := by simp [State.putNodeEntry]

@[simp] theorem takeSlot_sys (vol : BitVec 24) (k : CountAt) (byte : Nat → Nat) (s : State) : (takeSlot vol k byte s).2.sys = s.sys := by simp [takeSlot]

@[simp] theorem freeSlot_sys (vol : BitVec 24) (k : CountAt) (byte : Nat → Nat) (n : Nat) (s : State) : (freeSlot vol k byte n s).sys = s.sys := by simp [freeSlot]

@[simp] theorem allocFrom_sys (vol : BitVec 24) (t : TileAt) (n : Nat) (sd : Side) (off : Nat) (s : State) : (allocFrom vol t n sd off s).2.sys = s.sys := by
  induction n generalizing sd off s with
  | zero => exact (State.putNodeEntry_sys ..).trans ((State.writeN_sys ..).trans (takeSlot_sys ..))
  | succ n ih => exact (ih ..).trans ((State.putNodeEntry_sys ..).trans ((State.writeN_sys ..).trans (takeSlot_sys ..)))

/-- The entries of a node are a variable before the recursion is taken apart: a literal range would be evaluated where it is met. -/
@[simp] theorem freeUnder_sys (vol : BitVec 24) (h child : Nat) (s : State) : (freeUnder vol h child s).2.sys = s.sys := by
  obtain ⟨entries, hentries⟩ : ∃ l, l = List.range 512 := ⟨_, rfl⟩
  delta freeUnder freeUnder._f
  rw [← hentries]
  induction h generalizing child s with
  | zero => exact freeSlot_sys vol tileCounts (s.tileByte vol) ((child - s.tileByte vol 0) / s.slotSize vol) s
  | succ h ih =>
    refine (freeSlot_sys vol nodeCounts nodeByte (child / 4096) _).trans (foldl_keeps (fun a : Nat × State => a.2.sys) _ (fun a i => ?_) entries (0, s))
    dsimp only
    split
    · exact ih _ _
    · rfl

@[simp] theorem fillClb_sys (core : Nat) (e : Clb) (s : State) : (fillClb core e s).sys = s.sys := by simp [fillClb]

@[simp] theorem useClb_sys (core : Nat) (e : Clb) (s : State) : (useClb core e s).sys = s.sys := by simp [useClb]

@[simp] theorem giveSlot_sys (core : Nat) (vol : BitVec 24) (t : TileAt) (tile : Nat) (s : State) : (giveSlot core vol t tile s).2.sys = s.sys := by
  unfold giveSlot
  split <;> simp

@[simp] theorem enterClb_sys (core : Nat) (e : Clb) (s : State) : (enterClb core e s).sys = s.sys := by
  unfold enterClb
  split <;> simp

@[simp] theorem fetchLine_sys (core : Nat) (ln : VLane) (off : Option Nat) (s : State) : (fetchLine core ln off s).sys = s.sys := by
  unfold fetchLine
  dsimp only
  (repeat' split) <;> simp

@[simp] theorem refreshLine_sys (core : Nat) (vol : BitVec 24) (off : Nat) (s : State) : (refreshLine core vol off s).sys = s.sys := by simp [refreshLine]

@[simp] theorem useSlots_sys (core : Nat) (vol : BitVec 24) (offs : List Nat) (s : State) : (useSlots core vol offs s).sys = s.sys := by simp [useSlots]

@[simp] theorem writeVoxel_sys (core : Nat) (r : VReq) (ln : VLane) (tile : Nat) (s : State) : (writeVoxel core r ln tile s).sys = s.sys := by simp [writeVoxel]

theorem performLane_sys (core : Nat) (r : VReq) (ln : VLane) (s : State) : ∀ t, performLane core r ln s = some t → t.1.sys = s.sys := by
  unfold performLane
  dsimp only
  (repeat' split) <;> simp

@[simp] theorem runLanes_sys (core : Nat) (r : VReq) (ls : List VLane) (s : State) : (runLanes core r ls s).1.sys = s.sys := by
  induction ls generalizing s with
  | nil => rfl
  | cons ln rest ih =>
    unfold runLanes
    split
    · exact ih s
    · exact (ih _).trans (performLane_sys core r ln s _ ‹_›)

@[simp] theorem finishVol_sys (o : LongOp) (r : VReq) (s : State) : (finishVol o r s).sys = s.sys := by
  unfold finishVol
  split <;> simp

@[simp] theorem runVol_sys (id : Nat) (s : State) : (runVol id s).sys = s.sys := by
  unfold runVol
  (repeat' split) <;> simp
  all_goals
    intro _
    split <;> simp

@[simp] theorem startVol_sys (c : Ctl) (act : Mask) (d : Option Fld) (r : VReq) (s : State) : (startVol c act d r s).sys = s.sys := by simp [startVol]

@[simp] theorem volOp_sys (c : Ctl) (u : Uses) (o : OpsM) (op : Nat) (rights : List Nat) (typed : Bool) (s : State) {y : Sys} (hy : s.sys = y) :
    OutKeeps y (volOp c u o op rights typed s) := by
  subst hy
  unfold volOp
  refine issueT_sys _ _ _ _ rfl fun act => ?_
  repeat refine chkKeeps_bind _ _ _ fun _ => ?_
  (repeat' split) <;> simp

end Sys2Proof.Machine
end

section
/-!
PROOFS. The system registers: volume instructions, rows and item queues leave them alone.
-/
set_option autoImplicit false

namespace Sys2Proof.Machine

@[simp] theorem execVtld_sys (c : Ctl) (o : OpsM) (s : State) {y : Sys} (hy : s.sys = y) : OutKeeps y (execVtld c o s) := by
  subst hy
  unfold execVtld
  refine issueT_sys _ _ _ _ rfl fun act => ?_
  repeat refine chkKeeps_bind _ _ _ fun _ => ?_
  split
  · exact OptKeeps.chk ‹_› (by simp)
  · simp

@[simp] theorem execVshoot_sys (c : Ctl) (o : OpsM) (s : State) {y : Sys} (hy : s.sys = y) : OutKeeps y (execVshoot c o s) := by
  subst hy
  unfold execVshoot
  refine issueT_sys _ _ _ _ rfl fun act => ?_
  repeat refine chkKeeps_bind _ _ _ fun _ => ?_
  simp

@[simp] theorem execVbgrd_sys (c : Ctl) (o : OpsM) (s : State) {y : Sys} (hy : s.sys = y) : OutKeeps y (execVbgrd c o s) := by
  subst hy
  unfold execVbgrd
  refine issueT_sys _ _ _ _ rfl fun act => chkKeeps_bind _ _ _ fun _ => chkKeeps_bind _ _ _ fun _ => chkKeeps_opt _ _ _ _ ?_
  repeat refine chkKeeps_bind _ _ _ fun _ => ?_
  have hold : OptKeeps s.sys (if o.m.imm.getLsbD 8 then holdRelease act s.advance else none) := by split <;> simp
  split
  · exact OptKeeps.chk ‹_› hold
  · simp

@[simp] theorem putVol_sys (k : Nat) (r : VReq) (rws : List RW) (s : State) : (putVol k r rws s).sys = s.sys := by simp [putVol]

theorem volStep_sys (k : Nat) (f : LongOp → VReq → State → State) (s : State) {y : Sys} (hy : s.sys = y) (hf : ∀ o r, (f o r s).sys = s.sys) :
    OutKeeps y (volStep k f s) := by
  subst hy
  unfold volStep
  (repeat' split) <;> simp [hf]

@[simp] theorem execClbWalk_sys (k : Nat) (s : State) {y : Sys} (hy : s.sys = y) : OutKeeps y (execClbWalk k s) := by
  refine volStep_sys _ _ _ hy fun o r => ?_
  dsimp only
  (repeat' split) <;> simp

@[simp] theorem execTileLineFetch_sys (k : Nat) (s : State) {y : Sys} (hy : s.sys = y) : OutKeeps y (execTileLineFetch k s) := by
  refine volStep_sys _ _ _ hy fun o r => ?_
  (repeat' split) <;> simp

@[simp] theorem noteTile_sys (core : Nat) (vol : BitVec 24) (t : TileAt) (byte : Nat) (s : State) : (noteTile core vol t byte s).sys = s.sys := by simp [noteTile]

theorem homeTile_sys (vol : BitVec 24) (t : TileAt) (s : State) {b : Nat} {new : Bool} {u : State} (h : homeTile vol t s = .tile b new u) :
    u.sys = s.sys := by
  revert h
  unfold homeTile
  dsimp only
  (repeat' split) <;> rintro ⟨⟩
  · rfl
  · simp

@[simp] theorem execTileAllocation_sys (k : Nat) (s : State) {y : Sys} (hy : s.sys = y) : OutKeeps y (execTileAllocation k s) := by
  refine volStep_sys _ _ _ hy fun o r => ?_
  dsimp only
  split
  · rfl
  · split
    · rfl
    · split
      case h_1 => rfl
      case h_2 => simp
      case h_3 hu =>
        have hs := homeTile_sys _ _ _ hu
        split <;> simp [hs]

@[simp] theorem execTileRemoval_sys (k : Nat) (s : State) {y : Sys} (hy : s.sys = y) : OutKeeps y (execTileRemoval k s) := by
  refine volStep_sys _ _ _ hy fun o r => ?_
  dsimp only
  (repeat' split) <;> simp

@[simp] theorem completeRemoval_sys (k : Nat) (o : LongOp) (r : VReq) (ln : VLane) (s : State) :
    (completeRemoval k o r ln s).sys = s.sys := by simp [completeRemoval]

@[simp] theorem dropFound_sys (core : Nat) (vol : BitVec 24) (level : Nat) (t : TileAt) (s : State) :
    (dropFound core vol level t s).sys = s.sys := by simp [dropFound]

@[simp] theorem execShootdownMark_sys (k core : Nat) (s : State) {y : Sys} (hy : s.sys = y) : OutKeeps y (execShootdownMark k core s) := by
  subst hy
  unfold execShootdownMark
  (repeat' split) <;> simp

@[simp] theorem execBackgroundWrite_sys (k : Nat) (s : State) {y : Sys} (hy : s.sys = y) : OutKeeps y (execBackgroundWrite k s) := by
  refine volStep_sys _ _ _ hy fun o r => ?_
  dsimp only
  (repeat' split) <;> simp

@[simp] theorem execLexiconRowPerformed_sys (k : Nat) (s : State) {y : Sys} (hy : s.sys = y) : OutKeeps y (execLexiconRowPerformed k s) := by
  subst hy
  unfold execLexiconRowPerformed
  split <;> simp

@[simp] theorem execConfl_sys (c : Ctl) (o : OpsV) (s : State) {y : Sys} (hy : s.sys = y) : OutKeeps y (execConfl c o s) := by
  subst hy
  unfold execConfl
  refine issueT_sys _ _ _ _ rfl fun act => ?_
  repeat refine chkKeeps_bind _ _ _ fun _ => ?_
  split <;> simp

@[simp] theorem execCmbn_sys (c : Ctl) (o : OpsV) (s : State) {y : Sys} (hy : s.sys = y) : OutKeeps y (execCmbn c o s) := by
  subst hy
  unfold execCmbn
  refine issueT_sys _ _ _ _ rfl fun act => ?_
  repeat refine chkKeeps_bind _ _ _ fun _ => ?_
  split <;> simp

@[simp] theorem putItemQ_sys (core k : Nat) (q : ItemQ) (s : State) : (putItemQ core k q s).sys = s.sys := by simp [putItemQ]

@[simp] theorem ownClass_sys (core k : Nat) (act : Mask) (s : State) : (ownClass core k act s).sys = s.sys := by
  unfold ownClass
  split <;> simp

@[simp] theorem parkOthers_sys (core k : Nat) (s : State) : (parkOthers core k s).sys = s.sys := by
  unfold parkOthers
  split <;> simp

theorem onClass_sys (k : Nat) (act : Mask) (body : Mask → State → State) (s : State) (hb : ∀ own t, (body own t).sys = t.sys) :
    (onClass k act body s).sys = s.sys := by
  simp [onClass, hb]

@[simp] theorem spawnLanes_sys (core k : Nat) (a : VReg) (s0 : State) (ls : List Nat) (s : State) : (spawnLanes core k a s0 ls s).1.sys = s.sys := by
  induction ls generalizing s with
  | nil => rfl
  | cons l r ih => simp [spawnLanes, ih]

@[simp] theorem execSpawni_sys (c : Ctl) (o : OpsV) (s : State) {y : Sys} (hy : s.sys = y) : OutKeeps y (execSpawni c o s) := by
  subst hy
  unfold execSpawni
  refine issueT_sys _ _ _ _ rfl fun act => ?_
  repeat refine chkKeeps_bind _ _ _ fun _ => ?_
  split
  · exact OptKeeps.chk ‹_› (by simp)
  · exact (chkKeeps_ok ..).mpr ((onClass_sys _ _ _ _ fun own t => by dsimp only; split <;> simp).trans (by simp))

@[simp] theorem latchItem_sys (core l : Nat) (v : Word) (hold : Option (Nat × Nat)) (s : State) : (latchItem core l v hold s).sys = s.sys := by
  unfold latchItem
  split <;> simp

@[simp] theorem takeItem_sys (w : WRef) (l : Nat) (d : VReg) (hold : Option (Nat × Nat)) (it : Item) (s : State) :
    (takeItem w l d hold it s).sys = s.sys := by simp [takeItem]

theorem popItem_sys (core k : Nat) (s : State) : ∀ t, popItem core k s = some t → t.2.sys = s.sys := by
  unfold popItem
  (repeat' split) <;> simp

@[simp] theorem loopLanes_sys (core k : Nat) (d : VReg) (exit : BitVec 32) (hold : Option (Nat × Nat)) (ls : List Nat) (s : State) :
    (loopLanes core k d exit hold ls s).sys = s.sys := by
  induction ls generalizing s with
  | nil => rfl
  | cons l r ih =>
    refine (ih _).trans ?_
    split
    case h_1 it s1 hp =>
      have hs : s1.sys = s.sys := popItem_sys _ _ _ _ hp
      simp [hs]
    case h_2 => simp

@[simp] theorem endLaneItems_sys (act : Mask) (s : State) : (endLaneItems act s).sys = s.sys := by simp [endLaneItems]

@[simp] theorem loopLatch_sys (c : Ctl) (own : Mask) (s : State) : (loopLatch c own s).1.sys = s.sys := by
  unfold loopLatch
  split <;> simp

@[simp] theorem execItemloop_sys (c : Ctl) (k : BitVec 4) (d : VReg) (off : BitVec 32) (s : State) {y : Sys} (hy : s.sys = y) :
    OutKeeps y (execItemloop c k d off s) := by
  subst hy
  unfold execItemloop
  refine issueT_sys _ _ _ _ rfl fun act => ?_
  repeat refine chkKeeps_bind _ _ _ fun _ => ?_
  exact (chkKeeps_ok ..).mpr ((onClass_sys _ _ _ _ fun own t => by dsimp only; split <;> simp).trans (by simp))

@[simp] theorem getLanes_sys (core k : Nat) (d : VReg) (ls : List Nat) (s : State) : (getLanes core k d ls s).1.sys = s.sys := by
  induction ls generalizing s with
  | nil => rfl
  | cons l r ih =>
    refine (ih _).trans ?_
    dsimp only
    split
    case h_1 it s1 hp =>
      have hs : s1.sys = s.sys := popItem_sys _ _ _ _ hp
      simp [hs]
    case h_2 => rfl

@[simp] theorem execItemget_sys (c : Ctl) (o : OpsV) (s : State) {y : Sys} (hy : s.sys = y) : OutKeeps y (execItemget c o s) := by
  subst hy
  unfold execItemget
  refine issueT_sys _ _ _ _ rfl fun act => ?_
  repeat refine chkKeeps_bind _ _ _ fun _ => ?_
  exact (chkKeeps_ok ..).mpr ((onClass_sys _ _ _ _ fun own t => by dsimp only; split <;> simp).trans (by simp))

@[simp] theorem refillLanes_sys (core k stamp : Nat) (ws : List (WRef × Nat)) (s : State) : (refillLanes core k stamp ws s).sys = s.sys := by
  induction ws generalizing s with
  | nil => rfl
  | cons x r ih =>
    unfold refillLanes
    split
    case h_1 => rfl
    case h_2 it s1 hp =>
      have hs : s1.sys = s.sys := popItem_sys _ _ _ _ hp
      split
      · simp [ih, hs]
      · exact ih s

@[simp] theorem execItemRefill_sys (core cls : Nat) (s : State) {y : Sys} (hy : s.sys = y) : OutKeeps y (execItemRefill core cls s) := by
  subst hy
  unfold execItemRefill
  split <;> simp

@[simp] theorem dropClasses_sys (core seq : Nat) (s : State) : (dropClasses core seq s).sys = s.sys := by simp [dropClasses]

end Sys2Proof.Machine
end

section
/-!
PROOFS. The system registers: the matrix unit and the solver leave them alone.
-/
set_option autoImplicit false

namespace Sys2Proof.Machine

@[simp] theorem modMx_sys (core seq : Nat) (f : Mx → Mx) (s : State) : (modMx core seq f s).sys = s.sys := by simp [modMx]

@[simp] theorem startReader_sys (o : LongOp) (rs : List MxRead) (r : MxRead) (s : State) : (startReader o rs r s).sys = s.sys := by
  unfold startReader
  dsimp only
  (repeat' split) <;> simp

@[simp] theorem tryReaders_sys (id : Nat) (rs : List MxRead) (s : State) : (tryReaders id rs s).sys = s.sys := by
  induction rs generalizing s with
  | nil => rfl
  | cons r rest ih =>
    unfold tryReaders
    (repeat' split) <;> simp [ih]

@[simp] theorem retryReaders_sys (core seq : Nat) (s : State) : (retryReaders core seq s).sys = s.sys := by
  refine foldl_sys _ _ _ fun s o => ?_
  split <;> simp

/-- The answer of a matrix instruction holds a state with these system registers, or none. -/
def MxAns.Keeps (y : Sys) : MxAns → Prop
  | .next s => s.sys = y
  | .fault _ _ => True
@[simp] theorem MxAns.keeps_next (y : Sys) (s : State) : (MxAns.next s).Keeps y ↔ s.sys = y := Iff.rfl
@[simp] theorem MxAns.keeps_fault (y : Sys) (c : Cause) (b : BitVec 8) : (MxAns.fault c b).Keeps y := trivial

@[simp] theorem mxLoad_sys (core seq : Nat) (ldb : Bool) (imm off : Nat) (s : State) {y : Sys} (hy : s.sys = y) :
    (mxLoad core seq ldb imm off s).Keeps y := by
  subst hy
  unfold mxLoad
  dsimp only
  generalize (if ldb = true then _ else _) = k
  (repeat' split) <;> simp

@[simp] theorem enterOp_sys (core seq : Nat) (o : MxOp) (s : State) {y : Sys} (hy : s.sys = y) : (enterOp core seq o s).Keeps y := by
  unfold enterOp
  dsimp only
  split <;> simp [hy]

@[simp] theorem mxMac_sys (core seq : Nat) (skip : Bool) (t imm : Nat) (ver : Word) (s : State) {y : Sys} (hy : s.sys = y) :
    (mxMac core seq skip t imm ver s).Keeps y := by
  unfold mxMac
  dsimp only
  generalize macChk _ _ _ _ _ = e
  cases e <;> simp [hy]

@[simp] theorem mxZero_sys (core seq : Nat) (f64 : Bool) (t : Nat) (ver : Word) (s : State) {y : Sys} (hy : s.sys = y) :
    (mxZero core seq f64 t ver s).Keeps y := by
  unfold mxZero
  dsimp only
  split <;> simp [hy]

theorem streamMx_sys (seq : Nat) (c : Ctl) (body : Mx → State → MxAns) (s : State) {y : Sys} (hy : s.sys = y)
    (hb : ∀ m t, t.sys = y → (body m t).Keeps y) : OutKeeps y (streamMx seq c body s) := by
  unfold streamMx
  dsimp only
  refine (outKeeps_next ..).mpr ?_
  split
  · simp [hy]
  · split
    · exact hy
    · generalize hm : modMx _ _ _ _ = t
      have ht : t.sys = y := by simp [← hm, hy]
      have hk := hb (s.block s.cur.core seq).mx t ht
      revert hk
      generalize body _ t = a
      intro hk
      cases a with
      | fault => simp [hy]
      | next t' => exact (ite_sys ..).trans (by simp [show t'.sys = y from hk])

theorem ownerMx_sys (c : Ctl) (u : Uses) (a : VReg) (tile : Nat) (body : Word → Nat → Nat → State → MxAns) (s : State) {y : Sys} (hy : s.sys = y)
    (hb : ∀ v core seq t, t.sys = y → (body v core seq t).Keeps y) : OutKeeps y (ownerMx c u a tile body s) := by
  refine issue_sys _ _ _ _ hy fun act => ?_
  repeat refine chkKeeps_bind _ _ _ fun _ => ?_
  refine chkAll_foldlM (P := fun t : State => t.sys = y) (fun t m ht => ?_) (by simp [hy])
  have hk := hb (uniVal s.advance m a 0) m.w.core m.w.seq t ht
  revert hk
  generalize body _ _ _ t = x
  intro hk
  cases x with
  | fault => exact chkAll_error _
  | next t' =>
    have hk : t'.sys = y := hk
    refine (chkAll_ok ..).mpr ?_
    split <;> simp [hk]

@[simp] theorem mxLoadOp_sys (c : Ctl) (u : Uses) (ldb : Bool) (a : VReg) (m : Mods) (s : State) {y : Sys} (hy : s.sys = y) :
    OutKeeps y (mxLoadOp c u ldb a m s) := by
  unfold mxLoadOp
  dsimp only
  split
  · exact streamMx_sys _ _ _ _ hy fun mx t ht => by split <;> simp [ht]
  · exact ownerMx_sys _ _ _ _ _ _ hy fun v core seq t ht => mxLoad_sys _ _ _ _ _ _ ht

theorem mxOpOp_sys (c : Ctl) (u : Uses) (a : VReg) (run : Word → Nat → Nat → State → MxAns) (tile : Nat) (s : State) {y : Sys} (hy : s.sys = y)
    (hr : ∀ v core seq t, t.sys = y → (run v core seq t).Keeps y) : OutKeeps y (mxOpOp c u a run tile s) := by
  unfold mxOpOp
  split
  · exact streamMx_sys _ _ _ _ hy fun mx t ht => by split <;> simp [hr _ _ _ _ ht]
  · exact ownerMx_sys _ _ _ _ _ _ hy hr

@[simp] theorem execMxmac_sys (c : Ctl) (t : BitVec 4) (a : VReg) (m : Mods) (s : State) {y : Sys} (hy : s.sys = y) : OutKeeps y (execMxmac c t a m s) :=
  mxOpOp_sys _ _ _ _ _ _ hy fun _ _ _ _ ht => mxMac_sys _ _ _ _ _ _ _ ht

@[simp] theorem execMxmacs_sys (c : Ctl) (t : BitVec 4) (a : VReg) (m : Mods) (s : State) {y : Sys} (hy : s.sys = y) : OutKeeps y (execMxmacs c t a m s) :=
  mxOpOp_sys _ _ _ _ _ _ hy fun _ _ _ _ ht => mxMac_sys _ _ _ _ _ _ _ ht

@[simp] theorem execMxzero_sys (c : Ctl) (t : BitVec 4) (a : VReg) (m : Mods) (s : State) {y : Sys} (hy : s.sys = y) : OutKeeps y (execMxzero c t a m s) :=
  mxOpOp_sys _ _ _ _ _ _ hy fun _ _ _ _ ht => mxZero_sys _ _ _ _ _ _ ht

theorem warpMx_sys (c : Ctl) (u : Uses) (regs : State → Mask → Chk Unit) (f : Mask → State → Member → State → Chk (State × Word)) (s : State) {y : Sys}
    (hy : s.sys = y) (hf : ∀ act s m t, t.sys = y → ChkAll (fun x => x.1.sys = y) (f act s m t)) : OutKeeps y (warpMx c u regs f s) := by
  refine issueT_sys _ _ _ _ hy fun act => chkKeeps_bind _ _ _ fun _ => chkKeeps_bind _ _ _ fun _ => chkKeeps_bind _ _ _ fun _ => ?_
  refine chkAll_bind (Q := fun a : State × List (Mask × Word) => a.1.sys = y) (chkAll_foldlM (a := (s.advance, [])) (fun a m ha => ?_) (by simp [hy])) fun r hr => ?_
  · exact chkAll_bind (hf _ _ _ _ ha) fun x hx => (chkAll_ok ..).mpr hx
  · split <;> exact (chkAll_ok ..).mpr (by simp [hr])

@[simp] theorem execObres_sys (c : Ctl) (d a : VReg) (m : Mods) (s : State) {y : Sys} (hy : s.sys = y) : OutKeeps y (execObres c d a m s) := by
  refine warpMx_sys _ _ _ _ _ hy fun act s0 mm t ht => ?_
  dsimp only
  split
  · exact chkAll_pure_bind fun _ => (chkAll_ok ..).mpr (by simp [ht])
  · refine chkAll_pure_bind fun _ => chkAll_pure_bind fun _ => ?_
    split <;> exact (chkAll_ok ..).mpr (by simp [ht])

@[simp] theorem execObrel_sys (c : Ctl) (m : Mods) (s : State) {y : Sys} (hy : s.sys = y) : OutKeeps y (execObrel c m s) := by
  refine warpMx_sys _ _ _ _ _ hy fun act s0 mm t ht => ?_
  dsimp only
  split
  · exact (chkAll_ok ..).mpr (by simp [ht])
  · exact chkAll_pure_bind fun _ => (chkAll_ok ..).mpr (by simp [ht])

@[simp] theorem execShape_sys (c : Ctl) (a b : VReg) (m : Mods) (s : State) {y : Sys} (hy : s.sys = y) : OutKeeps y (execShape c a b m s) := by
  refine warpMx_sys _ _ _ _ _ hy fun act s0 mm t ht => chkAll_pure_bind fun _ => ?_
  split
  · exact chkAll_error _
  · exact chkAll_pure_bind fun _ => chkAll_pure_bind fun _ => chkAll_pure_bind fun _ => (chkAll_ok ..).mpr (by simp [ht])

@[simp] theorem readOp_sys (c : Ctl) (u : Uses) (t : BitVec 4) (a b : VReg) (m : Mods) (cvt : Bool) (s : State) {y : Sys} (hy : s.sys = y) :
    OutKeeps y (readOp c u t a b m cvt s) := by
  subst hy
  unfold readOp
  refine issueT_sys _ _ _ _ rfl fun act => ?_
  repeat refine chkKeeps_bind _ _ _ fun _ => ?_
  split
  · exact OptKeeps.chk ‹_› (by simp)
  · simp

@[simp] theorem execMxver_sys (c : Ctl) (d : VReg) (t : BitVec 4) (s : State) {y : Sys} (hy : s.sys = y) : OutKeeps y (execMxver c d t s) :=
  warpMx_sys _ _ _ _ _ hy fun _ _ _ _ ht => chkAll_pure_bind fun _ => (chkAll_ok ..).mpr ht

@[simp] theorem execMxflags_sys (c : Ctl) (d : VReg) (m : Mods) (s : State) {y : Sys} (hy : s.sys = y) : OutKeeps y (execMxflags c d m s) := by
  refine warpMx_sys _ _ _ _ _ hy fun act s0 mm t ht => ?_
  dsimp only
  split <;> exact (chkAll_ok ..).mpr (by simp [ht])

@[simp] theorem execMxbar_sys (c : Ctl) (k : BitVec 4) (s : State) {y : Sys} (hy : s.sys = y) : OutKeeps y (execMxbar c k s) := by
  subst hy
  unfold execMxbar
  refine issueT_sys _ _ _ _ rfl fun act => ?_
  repeat refine chkKeeps_bind _ _ _ fun _ => ?_
  split
  · exact OptKeeps.chk ‹_› (by simp)
  · simp

@[simp] theorem execMxwait_sys (c : Ctl) (k : BitVec 4) (s : State) {y : Sys} (hy : s.sys = y) : OutKeeps y (execMxwait c k s) := by
  unfold execMxwait
  split
  · exact streamMx_sys _ _ _ _ hy fun mx t ht => by dsimp only; split <;> simp [ht]
  · exact issue_sys _ _ _ _ hy fun act => chkKeeps_bind _ _ _ fun _ => chkKeeps_error _ _

@[simp] theorem execMxacq_sys (c : Ctl) (m : Mods) (s : State) {y : Sys} (hy : s.sys = y) : OutKeeps y (execMxacq c m s) := by
  subst hy
  unfold execMxacq
  refine issueT_sys _ _ _ _ rfl fun act => ?_
  repeat refine chkKeeps_bind _ _ _ fun _ => ?_
  simp

@[simp] theorem execMxrel_sys (c : Ctl) (m : Mods) (s : State) {y : Sys} (hy : s.sys = y) : OutKeeps y (execMxrel c m s) := by
  subst hy
  unfold execMxrel
  refine issueT_sys _ _ _ _ rfl fun act => ?_
  repeat refine chkKeeps_bind _ _ _ fun _ => ?_
  simp

@[simp] theorem wakeOwner_sys (core seq : Nat) (s : State) : (wakeOwner core seq s).sys = s.sys := by
  unfold wakeOwner
  split <;> simp

@[simp] theorem execMatrixOpStart_sys (core seq k : Nat) (s : State) {y : Sys} (hy : s.sys = y) : OutKeeps y (execMatrixOpStart core seq k s) := by
  subst hy
  unfold execMatrixOpStart
  dsimp only
  (repeat' split) <;> simp

@[simp] theorem execMatrixOpComplete_sys (core seq k : Nat) (s : State) {y : Sys} (hy : s.sys = y) : OutKeeps y (execMatrixOpComplete core seq k s) := by
  subst hy
  unfold execMatrixOpComplete
  split <;> simp

@[simp] theorem registerSched_sys (core op : Nat) (r : SchedRun) (s : State) : (registerSched core op r s).sys = s.sys := by simp [registerSched]

@[simp] theorem execSchrun_sys (c : Ctl) (o : OpsM) (s : State) {y : Sys} (hy : s.sys = y) : OutKeeps y (execSchrun c o s) := by
  subst hy
  unfold execSchrun
  refine issueT_sys _ _ _ _ rfl fun act => ?_
  repeat refine chkKeeps_bind _ _ _ fun _ => ?_
  split
  · exact OptKeeps.chk ‹_› (by simp)
  · dsimp only
    split
    · exact chkKeeps_bind _ _ _ fun _ => chkKeeps_bind _ _ _ fun _ => by split <;> simp
    · exact chkKeeps_bind _ _ _ fun _ => chkKeeps_bind _ _ _ fun _ => by split <;> simp

@[simp] theorem execSchrunRegister_sys (k : Nat) (s : State) {y : Sys} (hy : s.sys = y) : OutKeeps y (execSchrunRegister k s) := by
  subst hy
  unfold execSchrunRegister
  (repeat' split) <;> simp

@[simp] theorem completeSched_sys (o : LongOp) (r : SchedRun) (s : State) : (completeSched o r s).sys = s.sys := by simp [completeSched]

@[simp] theorem execPivchk_sys (c : Ctl) (o : OpsV) (s : State) {y : Sys} (hy : s.sys = y) : OutKeeps y (execPivchk c o s) := by
  subst hy
  unfold execPivchk
  refine issueT_sys _ _ _ _ rfl fun act => ?_
  repeat refine chkKeeps_bind _ _ _ fun _ => ?_
  split <;> simp

@[simp] theorem execSchstat_sys (c : Ctl) (o : OpsV) (s : State) {y : Sys} (hy : s.sys = y) : OutKeeps y (execSchstat c o s) := by
  subst hy
  unfold execSchstat
  refine issueT_sys _ _ _ _ rfl fun act => ?_
  repeat refine chkKeeps_bind _ _ _ fun _ => ?_
  split <;> simp

@[simp] theorem execAtom_sys (c : Ctl) (o : OpsM) (s : State) {y : Sys} (hy : s.sys = y) : OutKeeps y (execAtom c o s) := by
  subst hy
  unfold execAtom
  refine issueT_sys _ _ _ _ rfl fun act => ?_
  repeat refine chkKeeps_bind _ _ _ fun _ => ?_
  simp

@[simp] theorem execAtomc_sys (c : Ctl) (o : OpsM) (s : State) {y : Sys} (hy : s.sys = y) : OutKeeps y (execAtomc c o s) := by
  subst hy
  unfold execAtomc
  refine issueT_sys _ _ _ _ rfl fun act => ?_
  repeat refine chkKeeps_bind _ _ _ fun _ => ?_
  simp

@[simp] theorem execLdacq_sys (c : Ctl) (o : OpsM) (s : State) {y : Sys} (hy : s.sys = y) : OutKeeps y (execLdacq c o s) := by
  subst hy
  unfold execLdacq
  refine issueT_sys _ _ _ _ rfl fun act => ?_
  repeat refine chkKeeps_bind _ _ _ fun _ => ?_
  simp

@[simp] theorem execStrel_sys (c : Ctl) (o : OpsM) (s : State) {y : Sys} (hy : s.sys = y) : OutKeeps y (execStrel c o s) := by
  subst hy
  unfold execStrel
  refine issueT_sys _ _ _ _ rfl fun act => ?_
  repeat refine chkKeeps_bind _ _ _ fun _ => ?_
  simp

@[simp] theorem fenceDone_sys (kind : Nat) (ms : List Member) (s : State) : (fenceDone kind ms s).sys = s.sys := by simp [fenceDone]

@[simp] theorem resumeFence_sys (o : LongOp) (s : State) : (resumeFence o s).sys = s.sys := by
  unfold resumeFence
  split <;> simp

end Sys2Proof.Machine
end

section
/-!
PROOFS. The system registers: fences, atomics, Conjunction instructions, capabilities, and the start of tasks leave them alone.
-/
set_option autoImplicit false

namespace Sys2Proof.Machine

@[simp] theorem startCj_sys (c : Ctl) (act : Mask) (d : Option Fld) (r : CjReq) (s : State) {y : Sys} (hy : s.sys = y) : ChkKeeps y (startCj c act d r s) := by
  subst hy
  unfold startCj
  dsimp only
  split
  · have hp := performCj_sys r s
    revert hp
    generalize performCj r s = a
    intro hp
    cases a with
    | trap t => simp
    | wait s' =>
      have hs : s'.sys = s.sys := hp
      dsimp only
      (repeat' split) <;> simp [hs]
    | done s' vals =>
      have hs : s'.sys = s.sys := hp
      refine (chkKeeps_ok ..).mpr ((afterCj_sys ..).trans ?_)
      split <;> simp [hs]
  · (repeat' split) <;> simp

@[simp] theorem cjOp_sys (c : Ctl) (u : Uses) (o : OpsM) (kind : Nat) (sh : Shp) (s : State) {y : Sys} (hy : s.sys = y) : OutKeeps y (cjOp c u o kind sh s) := by
  subst hy
  unfold cjOp
  refine issueT_sys _ _ _ _ rfl fun act => ?_
  repeat refine chkKeeps_bind _ _ _ fun _ => ?_
  (repeat' split) <;> simp

@[simp] theorem execCapld_sys (c : Ctl) (cd ca : BitVec 5) (b : VReg) (m : Mods) (s : State) {y : Sys} (hy : s.sys = y) : OutKeeps y (execCapld c cd ca b m s) := by
  subst hy
  unfold execCapld
  refine issueT_sys _ _ _ _ rfl fun act => chkKeeps_bind _ _ _ fun _ => chkKeeps_bind _ _ _ fun _ => ?_
  dsimp only
  split
  · exact OptKeeps.chk ‹_› (by simp)
  · simp

@[simp] theorem execCapst_sys (c : Ctl) (cd ca : BitVec 5) (b : VReg) (m : Mods) (s : State) {y : Sys} (hy : s.sys = y) : OutKeeps y (execCapst c cd ca b m s) := by
  subst hy
  unfold execCapst
  refine issueT_sys _ _ _ _ rfl fun act => ?_
  repeat refine chkKeeps_bind _ _ _ fun _ => ?_
  simp

@[simp] theorem capWrite_sys (cd : Nat) (f : (Nat × Nat) × Nat → Chk Cap) (s : State) (xs : List ((Nat × Nat) × Nat)) {y : Sys} (hy : s.sys = y) :
    ChkKeeps y (capWrite cd f s xs) := by
  induction xs with
  | nil => exact (chkKeeps_ok ..).mpr hy
  | cons x r ih => exact chkKeeps_bind _ _ _ fun v => chkAll_bind ih fun s' hs => (chkKeeps_ok ..).mpr (by simp [show s'.sys = y from hs])

@[simp] theorem execCapnar_sys (c : Ctl) (cd ca : BitVec 5) (b : VReg) (m : Mods) (s : State) {y : Sys} (hy : s.sys = y) :
    OutKeeps y (execCapnar c cd ca b m s) := by
  subst hy
  unfold execCapnar
  refine issueT_sys _ _ _ _ rfl fun act => ?_
  repeat refine chkKeeps_bind _ _ _ fun _ => ?_
  split <;> simp

@[simp] theorem State.modPart_sys (s : State) (p : Nat) (f : Part → Part) : (s.modPart p f).sys = s.sys := by
  unfold State.modPart
  split <;> simp

@[simp] theorem State.setRoom_sys (s : State) (owner : Nat) (l : Frames) : (s.setRoom owner l).sys = s.sys := by simp [State.setRoom]

@[simp] theorem State.giveFrames_sys (s : State) (owner : Nat) (l : Frames) : (s.giveFrames owner l).sys = s.sys := by simp [State.giveFrames]

@[simp] theorem pickOid_sys (n : Nat) (s : State) : (pickOid n s).2.sys = s.sys := by
  induction n generalizing s with
  | zero => rfl
  | succ n ih =>
    unfold pickOid
    split
    · rfl
    · exact ih _

@[simp] theorem forgetSaved_sys (id : BitVec 24) (s : State) (x : Saved) : (forgetSaved id s x).sys = s.sys := by simp [forgetSaved]

@[simp] theorem forgetOid_sys (id : BitVec 24) (s : State) : (forgetOid id s).sys = s.sys := by simp [forgetOid]

@[simp] theorem addObj_sys (o : Obj) (s : State) : (addObj o s).2.sys = s.sys := by simp [addObj]

@[simp] theorem dropObj_sys (oid : BitVec 24) (s : State) : (dropObj oid s).sys = s.sys := by
  unfold dropObj
  split <;> simp

@[simp] theorem State.modJob_sys (s : State) (j : Nat) (f : Job → Job) : (s.modJob j f).sys = s.sys := by
  unfold State.modJob
  split <;> simp

@[simp] theorem startBlock_sys (core : Nat) (b : Block) (places : List (Nat × Nat)) (s : State) : (startBlock core b places s).sys = s.sys := by
  unfold startBlock
  split <;> simp

@[simp] theorem notify_sys (core : Nat) (s : State) : (notify core s).sys = s.sys := by simp [notify]

@[simp] theorem notifyDies_sys (p : Nat) (mask : BitVec 4) (s : State) : (notifyDies p mask s).sys = s.sys := by simp [notifyDies]

@[simp] theorem notifyPart_sys (p : Nat) (s : State) : (notifyPart p s).sys = s.sys := by simp [notifyPart]

@[simp] theorem State.modUid_sys (s : State) (uid : Nat) (f : Block → Block) : (s.modUid uid f).sys = s.sys := by
  unfold State.modUid
  split <;> simp

@[simp] theorem wakeAll_sys (p : Wait → Bool) (s : State) : (wakeAll p s).sys = s.sys := by simp [wakeAll]

@[simp] theorem spillRecs_sys (rs : List TaskRec) (s : State) : (spillRecs rs s).sys = s.sys := by simp [spillRecs]

@[simp] theorem pushDeque_sys (core : Nat) (r : TaskRec) (s : State) {y : Sys} (hy : s.sys = y) : OptKeeps y (pushDeque core r s) := by
  subst hy
  unfold pushDeque
  dsimp only
  (repeat' split) <;> simp

@[simp] theorem pushMany_sys (core : Nat) (rs : List TaskRec) (s : State) : (pushMany core rs s).1.sys = s.sys := by
  induction rs generalizing s with
  | nil => rfl
  | cons r rs ih =>
    unfold pushMany
    split
    · rfl
    · exact (ih _).trans (OptKeeps.of_eq ‹_› (by simp))

@[simp] theorem setCellFlag_sys (oid : BitVec 24) (off i : Nat) (b : Bool) (s : State) : (setCellFlag oid off i b s).sys = s.sys := by simp [setCellFlag]

@[simp] theorem setCellNext_sys (oid : BitVec 24) (off : Nat) (n : BitVec 24 × Nat) (s : State) : (setCellNext oid off n s).sys = s.sys := by simp [setCellNext]

@[simp] theorem disarm_sys (oid : BitVec 24) (off : Nat) (s : State) : (disarm oid off s).sys = s.sys := by simp [disarm]

@[simp] theorem pendCell_sys (core : Nat) (oid : BitVec 24) (off : Nat) (s : State) : (pendCell core oid off s).sys = s.sys := by
  unfold pendCell
  split <;> simp

@[simp] theorem releaseCell_sys (core : Nat) (oid : BitVec 24) (off : Nat) (s : State) : (releaseCell core oid off s).sys = s.sys := by
  unfold releaseCell
  split
  case h_1 s' hp =>
    have hs : s'.sys = s.sys := OptKeeps.of_eq hp (by simp)
    simp [hs]
  case h_2 => simp

@[simp] theorem succStep_sys (core part : Nat) (oid : BitVec 24) (off : Nat) (s : State) : (succStep core part oid off s).sys = s.sys := by
  unfold succStep
  (repeat' split) <;> simp

@[simp] theorem armCell_sys (core : Nat) (oid : BitVec 24) (off : Nat) (r : TaskRec) (s : State) {y : Sys} (hy : s.sys = y) :
    OptKeeps y (armCell core oid off r s) := by
  subst hy
  unfold armCell
  split <;> simp

@[simp] theorem holdGate_sys (places : List (Side × Nat × Nat)) (s : State) {y : Sys} (hy : s.sys = y) : OptKeeps y (holdGate places s) := by
  simp [holdGate, hy]

@[simp] theorem makeSticky_sys (act : Mask) (s : State) : (makeSticky act s).sys = s.sys := by simp [makeSticky]

@[simp] theorem countSpawn_sys (job : Bool) (r : TaskRec) (s : State) : (countSpawn job r s).sys = s.sys := by
  unfold countSpawn
  (repeat' split) <;> simp

@[simp] theorem spawnLane_sys (s0 : State) (defer : Bool) (req : Nat → Nat) (l : Nat) (s : State) : (spawnLane s0 defer req l s).1.sys = s.sys := by
  unfold spawnLane
  dsimp only
  split
  · split
    case h_1 s' hp => exact (countSpawn_sys ..).trans (OptKeeps.of_eq hp (by simp))
    case h_2 => rfl
  · split
    case h_1 s' hp => exact (countSpawn_sys ..).trans (OptKeeps.of_eq hp (by simp))
    case h_2 => rfl

@[simp] theorem spawnAll_sys (s0 : State) (defer : Bool) (req : Nat → Nat) (ls : List Nat) (s : State) : (spawnAll s0 defer req ls s).1.sys = s.sys := by
  induction ls generalizing s with
  | nil => rfl
  | cons l r ih => simp [spawnAll, ih]

@[simp] theorem execSpawn_sys (c : Ctl) (o : OpsMP) (s : State) {y : Sys} (hy : s.sys = y) : OutKeeps y (execSpawn c o s) := by
  subst hy
  unfold execSpawn
  refine issueT_sys _ _ _ _ rfl fun act => chkKeeps_bind _ _ _ fun _ => chkKeeps_bind _ _ _ fun _ => ?_
  split
  · exact OptKeeps.chk ‹_› (by simp)
  · refine chkKeeps_bind _ _ _ fun _ => ?_
    dsimp only
    split
    · exact OptKeeps.chk ‹_› (by simp)
    · simp

@[simp] theorem joinOp_sys (c : Ctl) (u : Uses) (o : OpsV) (count : Block → Nat) (wait : Nat → Nat → Wait) (s : State) {y : Sys} (hy : s.sys = y) :
    OutKeeps y (joinOp c u o count wait s) := by
  subst hy
  unfold joinOp
  refine issueT_sys _ _ _ _ rfl fun act => chkKeeps_bind _ _ _ fun _ => chkKeeps_bind _ _ _ fun _ => ?_
  dsimp only
  split <;> simp

@[simp] theorem endJoins_sys (s : State) : (endJoins s).sys = s.sys := by simp [endJoins]

@[simp] theorem State.modProg_sys (s : State) (key : Nat) (f : Prog → Prog) : (s.modProg key f).sys = s.sys := by
  unfold State.modProg
  split <;> simp

end Sys2Proof.Machine
end

section
/-!
PROOFS. The system registers: standing programs, child grids, and the saving of blocks leave them alone.
-/
set_option autoImplicit false

namespace Sys2Proof.Machine

@[simp] theorem writeReport_sys (p : Prog) (f : State → State) (s : State) (hf : ∀ t, (f t).sys = t.sys) : (writeReport p f s).sys = s.sys := by
  unfold writeReport
  split <;> simp [hf]

@[simp] theorem supersede_sys (key : Nat) (s : State) : (supersede key s).sys = s.sys := by
  unfold supersede
  split <;> simp

@[simp] theorem flipVersion_sys (p : Prog) (i : Nat) (s : State) : (flipVersion p i s).sys = s.sys := by simp [flipVersion]

@[simp] theorem sendPosts_sys (key i : Nat) (d : Word) (s : State) : (sendPosts key i d s).sys = s.sys := by
  unfold sendPosts
  split <;> simp

@[simp] theorem execRpost_sys (c : Ctl) (o : OpsV) (s : State) {y : Sys} (hy : s.sys = y) : OutKeeps y (execRpost c o s) := by
  subst hy
  unfold execRpost
  refine issueT_sys _ _ _ _ rfl fun act => chkKeeps_bind _ _ _ fun _ => chkKeeps_bind _ _ _ fun _ => ?_
  dsimp only
  split
  · exact chkKeeps_error _ _
  · refine chkKeeps_bind _ _ _ fun _ => ?_
    split
    · exact OptKeeps.chk ‹_› (by simp)
    · simp
    · refine (chkKeeps_ok ..).mpr ?_
      simp only [State.putD_sys, sendPosts_sys, State.modBlock_sys]
      (repeat' split) <;> simp

@[simp] theorem execRread_sys (c : Ctl) (o : OpsV) (s : State) {y : Sys} (hy : s.sys = y) : OutKeeps y (execRread c o s) := by
  subst hy
  unfold execRread
  refine issueT_sys _ _ _ _ rfl fun act => ?_
  repeat refine chkKeeps_bind _ _ _ fun _ => ?_
  split <;> simp

@[simp] theorem setResidual_sys (key i : Nat) (v : Word) (s : State) : (setResidual key i v s).1.sys = s.sys := by
  unfold setResidual
  split <;> simp

@[simp] theorem rsetLanes_sys (key : Nat) (s0 : State) (o : OpsV) (ls : List Nat) (s : State) : (rsetLanes key s0 o ls s).1.sys = s.sys := by
  induction ls generalizing s with
  | nil => rfl
  | cons l r ih => simp [rsetLanes, ih]

@[simp] theorem execRset_sys (c : Ctl) (o : OpsV) (s : State) {y : Sys} (hy : s.sys = y) : OutKeeps y (execRset c o s) := by
  subst hy
  unfold execRset
  refine issueT_sys _ _ _ _ rfl fun act => chkKeeps_bind _ _ _ fun _ => ?_
  split
  · exact chkKeeps_error _ _
  · refine chkKeeps_bind _ _ _ fun _ => ?_
    split
    · exact OptKeeps.chk ‹_› (by simp)
    · simp

@[simp] theorem inpostEvent_sys (key : Nat) (p : Prog) (at_ : Nat) (bytes : List Byte) (pairs : List (Nat × Nat)) (s : State) :
    (inpostEvent key p at_ bytes pairs s).sys = s.sys := by simp [inpostEvent]

@[simp] theorem execInpost_sys (c : Ctl) (o : OpsM) (s : State) {y : Sys} (hy : s.sys = y) : OutKeeps y (execInpost c o s) := by
  subst hy
  unfold execInpost
  refine issueT_sys _ _ _ _ rfl fun act => chkKeeps_bind _ _ _ fun _ => chkKeeps_bind _ _ _ fun _ => ?_
  dsimp only
  split
  · exact OptKeeps.chk ‹_› (by simp)
  · refine chkKeeps_bind _ _ _ fun _ => ?_
    split
    · exact OptKeeps.chk ‹_› (by simp)
    · refine chkKeeps_bind _ _ _ fun p => ?_
      split
      · exact OptKeeps.chk ‹_› (by simp)
      · simp

@[simp] theorem resumeSnap_sys (o : LongOp) (s : State) : (resumeSnap o s).sys = s.sys := by
  unfold resumeSnap
  (repeat' split) <;> simp

@[simp] theorem execSnap_sys (c : Ctl) (o : OpsM) (s : State) {y : Sys} (hy : s.sys = y) : OutKeeps y (execSnap c o s) := by
  subst hy
  unfold execSnap
  refine issueT_sys _ _ _ _ rfl fun act => chkKeeps_bind _ _ _ fun _ => ?_
  dsimp only
  split
  · split
    · exact chkKeeps_error _ _
    · exact chkKeeps_bind _ _ _ fun _ => by simp
  · refine chkKeeps_bind _ _ _ fun _ => ?_
    split
    · exact chkKeeps_error _ _
    · refine chkKeeps_bind _ _ _ fun _ => chkKeeps_bind _ _ _ fun _ => ?_
      split
      · exact OptKeeps.chk ‹_› (by simp)
      · split <;> simp

@[simp] theorem startChild_sys (g : Grid) (s : State) : (startChild g s).sys = s.sys := by
  unfold startChild
  dsimp only
  (repeat' split) <;> simp

@[simp] theorem execLaunch_sys (c : Ctl) (o : OpsMP) (s : State) {y : Sys} (hy : s.sys = y) : OutKeeps y (execLaunch c o s) := by
  subst hy
  unfold execLaunch
  refine issueT_sys _ _ _ _ rfl fun act => chkKeeps_bind _ _ _ fun _ => chkKeeps_bind _ _ _ fun _ => ?_
  split
  case h_1 hx => 
    revert hx
    split
    · exact nofun
    · exact fun hx => OptKeeps.chk hx (by simp)
  case h_2 => exact chkKeeps_bind _ _ _ fun _ => by simp

@[simp] theorem dropOps_sys (core seq : Nat) (s : State) : (dropOps core seq s).sys = s.sys := by
  unfold dropOps
  refine (foldl_sys _ _ _ fun s o => ?_).trans rfl
  dsimp only
  (repeat' split) <;> simp

@[simp] theorem deliverFor_sys (core seq : Nat) (o : LongOp) (s : State) : (deliverFor core seq o s).sys = s.sys := by simp [deliverFor]

@[simp] theorem deliverAll_sys (core seq : Nat) (s : State) : (deliverAll core seq s).sys = s.sys := by simp [deliverAll]

@[simp] theorem clearSlices_sys (core seq : Nat) (s : State) : (clearSlices core seq s).sys = s.sys :=
  foldl_sys _ _ _ fun _ _ => by simp

@[simp] theorem detach_sys (core seq : Nat) (s : State) : (detach core seq s).sys = s.sys := by
  unfold detach
  simp only [dropOps_sys, State.modBlock_sys]
  refine (foldl_sys _ _ _ fun s o => ?_).trans (by simp)
  split
  · exact foldl_sys _ _ _ fun _ _ => by split <;> simp
  · rfl

@[simp] theorem settlePreempt_sys (core : Nat) (s : State) : (settlePreempt core s).sys = s.sys := by simp [settlePreempt]

@[simp] theorem freeGangs_sys (part : Nat) (s : State) : (freeGangs part s).sys = s.sys := by simp [freeGangs]

@[simp] theorem freePlace_sys (core seq : Nat) (s : State) : (freePlace core seq s).sys = s.sys := by simp [freePlace]

@[simp] theorem newArea_sys (part : Nat) (bytes : List Byte) (s : State) : (newArea part bytes s).2.sys = s.sys := by simp [newArea]

@[simp] theorem evict_sys (core seq : Nat) (s0 : State) : (evict core seq s0).sys = s0.sys := by simp [evict]

@[simp] theorem reattach_sys (core seq : Nat) (x : Saved) (o : LongOp) (s : State) : (reattach core seq x o s).sys = s.sys := by simp [reattach]

@[simp] theorem attach_sys (core seq : Nat) (x : Saved) (s : State) : (attach core seq x s).sys = s.sys := by
  unfold attach
  refine (foldl_sys _ _ _ fun s o => by split <;> simp).trans ?_
  simp

@[simp] theorem dropArea_sys (x : Saved) (s : State) : (dropArea x s).sys = s.sys := by simp [dropArea]

@[simp] theorem restore_sys (k core : Nat) (s : State) : (restore k core s).sys = s.sys := by
  unfold restore
  (repeat' split) <;> simp

@[simp] theorem markForRoom_sys (core seq : Nat) (s : State) : (markForRoom core seq s).sys = s.sys := by simp [markForRoom]

@[simp] theorem execEviction_sys (core seq : Nat) (s : State) {y : Sys} (hy : s.sys = y) : OutKeeps y (execEviction core seq s) := by
  simp [execEviction, hy]

@[simp] theorem saveWarp_sys (core seq slot : Nat) (oid : BitVec 24) (off : Nat) (s : State) : (saveWarp core seq slot oid off s).1.sys = s.sys := by
  unfold saveWarp
  (repeat' split) <;> simp

@[simp] theorem saveBlock_sys (core seq : Nat) (oid : BitVec 24) (off : Nat) (s : State) : (saveBlock core seq oid off s).1.sys = s.sys := by
  unfold saveBlock
  (repeat' split) <;> simp

@[simp] theorem countLoaded_sys (b : Block) (s : State) : (countLoaded b s).sys = s.sys := by
  unfold countLoaded
  (repeat' split) <;> simp

end Sys2Proof.Machine
end

section
/-!
PROOFS. The system registers: the agent's instructions, captures, special registers and pages leave them alone.
-/
set_option autoImplicit false

namespace Sys2Proof.Machine

@[simp] theorem loadBlock_sys (core seq : Nat) (oid : BitVec 24) (off : Nat) (s : State) : (loadBlock core seq oid off s).1.sys = s.sys := by
  unfold loadBlock
  dsimp only
  (repeat' split) <;> simp

@[simp] theorem waitCj_sys (w : WRef) (lanes : Mask) (obj : BitVec 24) (pc : BitVec 32) (a : BitVec 24 × Nat × Word) (s : State) :
    (waitCj w lanes obj pc a s).sys = s.sys := by
  unfold waitCj
  split <;> simp

@[simp] theorem takeWaits_sys (w : WRef) (rec : Nat → Nat) (x : Saved) (s : State) : (takeWaits w rec x s).sys = s.sys := by
  refine (foldl_sys _ _ _ fun _ _ => by simp).trans (foldl_sys _ _ _ fun _ _ => ?_)
  split <;> simp

@[simp] theorem loadWarp_sys (core seq slot : Nat) (oid : BitVec 24) (off : Nat) (s : State) : (loadWarp core seq slot oid off s).1.sys = s.sys := by
  unfold loadWarp
  (repeat' split) <;> simp

theorem ctxOp_sys (c : Ctl) (u : Uses) (o : OpsM) (right : Nat) (busy : State → Nat → Bool) (len : State → Nat → Nat → BitVec 24 → Nat → Nat)
    (run : Nat → Nat → Nat → BitVec 24 → Nat → State → CtxAns) (s : State) {y : Sys} (hy : s.sys = y)
    (hr : ∀ core seq slot oid off t, (run core seq slot oid off t).1.sys = t.sys) : OutKeeps y (ctxOp c u o right busy len run s) := by
  subst hy
  unfold ctxOp
  refine issueT_sys _ _ _ _ rfl fun act => chkKeeps_bind _ _ _ fun _ => chkKeeps_bind _ _ _ fun _ => chkKeeps_bind _ _ _ fun _ => ?_
  dsimp only
  split <;> simp [hr]

@[simp] theorem execCtxsv_sys (c : Ctl) (o : OpsM) (s : State) {y : Sys} (hy : s.sys = y) : OutKeeps y (execCtxsv c o s) := by
  unfold execCtxsv
  split <;> exact ctxOp_sys _ _ _ _ _ _ _ _ hy fun _ _ _ _ _ _ => by simp

@[simp] theorem execCtxld_sys (c : Ctl) (o : OpsM) (s : State) {y : Sys} (hy : s.sys = y) : OutKeeps y (execCtxld c o s) := by
  unfold execCtxld
  split <;> exact ctxOp_sys _ _ _ _ _ _ _ _ hy fun _ _ _ _ _ _ => by simp

@[simp] theorem capture_sys (kind core seq : Nat) (s : State) : (capture kind core seq s).2.sys = s.sys := by simp [capture]

@[simp] theorem recordStop_sys (kind core seq : Nat) (t : TrapInfo) (s : State) : (recordStop kind core seq t s).sys = s.sys := by simp [recordStop]

@[simp] theorem tick_sys (core : Nat) (s : State) : (tick core s).sys = s.sys := by simp [tick]

@[simp] theorem execSrd_sys (c : Ctl) (d : VReg) (m : Mods) (s : State) {y : Sys} (hy : s.sys = y) : OutKeeps y (execSrd c d m s) := by
  subst hy
  unfold execSrd
  refine issueT_sys _ _ _ _ rfl fun act => ?_
  repeat refine chkKeeps_bind _ _ _ fun _ => ?_
  split <;> simp

@[simp] theorem swrPut_sys (n : Nat) (v : Word) (m : Member) (s : State) : (swrPut n v m s).sys = s.sys := by
  unfold swrPut
  split <;> simp

@[simp] theorem execSwr_sys (c : Ctl) (a : VReg) (m : Mods) (s : State) {y : Sys} (hy : s.sys = y) : OutKeeps y (execSwr c a m s) := by
  subst hy
  unfold execSwr
  refine issueT_sys _ _ _ _ rfl fun act => ?_
  repeat refine chkKeeps_bind _ _ _ fun _ => ?_
  simp

@[simp] theorem execBrkpt_sys (c : Ctl) (m : Mods) (s : State) {y : Sys} (hy : s.sys = y) : OutKeeps y (execBrkpt c m s) := by
  subst hy
  unfold execBrkpt
  refine issueT_sys _ _ _ _ rfl fun act => ?_
  dsimp only
  split
  · exact chkKeeps_error _ _
  · refine (chkKeeps_ok ..).mpr ((foldl_sys _ _ _ fun t cq => ?_).trans (by simp))
    (repeat' split) <;> simp

@[simp] theorem execIcacheFill_sys (core k : Nat) (s : State) {y : Sys} (hy : s.sys = y) : OutKeeps y (execIcacheFill core k s) := by
  subst hy
  unfold execIcacheFill
  (repeat' split) <;> simp

@[simp] theorem execYieldExpiry_sys (core slice stamp : Nat) (s : State) {y : Sys} (hy : s.sys = y) : OutKeeps y (execYieldExpiry core slice stamp s) := by
  simp [execYieldExpiry, hy]

@[simp] theorem arriveOp_sys (seqd : Bool) (o : LongOp) (s : State) : (arriveOp seqd o s).sys = s.sys := by
  unfold arriveOp
  split <;> simp

@[simp] theorem execLoadDataArrival_sys (k : Nat) (s : State) {y : Sys} (hy : s.sys = y) : OutKeeps y (execLoadDataArrival k s) := by
  subst hy
  unfold execLoadDataArrival
  split <;> simp

@[simp] theorem execLongLatencyComplete_sys (k : Nat) (s : State) {y : Sys} (hy : s.sys = y) : OutKeeps y (execLongLatencyComplete k s) := by
  subst hy
  unfold execLongLatencyComplete
  (repeat' split) <;> simp

@[simp] theorem execRemoteStorePerformed_sys (k : Nat) (s : State) {y : Sys} (hy : s.sys = y) : OutKeeps y (execRemoteStorePerformed k s) := by
  subst hy
  unfold execRemoteStorePerformed
  split <;> simp

@[simp] theorem execCollapseRequest_sys (k : Nat) (s : State) {y : Sys} (hy : s.sys = y) : OutKeeps y (execCollapseRequest k s) := by
  subst hy
  unfold execCollapseRequest
  (repeat' split) <;> simp

@[simp] theorem commitCollapse_sys (c : Collapse) (s : State) : (commitCollapse c s).sys = s.sys := by
  unfold commitCollapse
  split <;> simp

@[simp] theorem pushCopy_sys (seqd : Bool) (k : Nat) (s : State) : (pushCopy seqd k s).sys = s.sys := by
  unfold pushCopy
  (repeat' split) <;> simp

@[simp] theorem execCollapseAck_sys (k die : Nat) (s : State) {y : Sys} (hy : s.sys = y) : OutKeeps y (execCollapseAck k die s) := by
  subst hy
  unfold execCollapseAck
  dsimp only
  (repeat' split) <;> simp

@[simp] theorem execSequencerWrite_sys (k : Nat) (s : State) {y : Sys} (hy : s.sys = y) : OutKeeps y (execSequencerWrite k s) := by
  subst hy
  unfold execSequencerWrite
  split <;> simp

@[simp] theorem resumeOn_sys (oid : BitVec 24) (s : State) : (resumeOn oid s).sys = s.sys :=
  foldl_sys _ _ _ fun _ _ => by split <;> simp

@[simp] theorem modPage_sys (oid : BitVec 24) (page : Nat) (f : PageEntry → PageEntry) (s : State) : (modPage oid page f s).sys = s.sys := by simp [modPage]

@[simp] theorem execPageCompress_sys (oid page : Nat) (slot : BitVec 24) (s : State) {y : Sys} (hy : s.sys = y) : OutKeeps y (execPageCompress oid page slot s) := by
  subst hy
  unfold execPageCompress
  split <;> simp

@[simp] theorem abortCmds_sys (o : Obj) (oid : BitVec 24) (k : Nat) (s : State) : (abortCmds o oid k s).sys = s.sys := by simp [abortCmds]

@[simp] theorem execPageExpand_sys (oid page : Nat) (frame : Option (BitVec 24)) (s : State) {y : Sys} (hy : s.sys = y) :
    OutKeeps y (execPageExpand oid page frame s) := by
  subst hy
  unfold execPageExpand
  dsimp only
  (repeat' split) <;> simp

@[simp] theorem execPageKindChange_sys (oid page : Nat) (kind : BitVec 2) (s : State) {y : Sys} (hy : s.sys = y) :
    OutKeeps y (execPageKindChange oid page kind s) := by
  subst hy
  unfold execPageKindChange
  split <;> simp

@[simp] theorem killObj_sys (oid : BitVec 24) (s : State) : (killObj oid s).sys = s.sys := by simp [killObj]

end Sys2Proof.Machine
end

section
/-!
PROOFS. The system registers: the end of blocks, grids and jobs, launches, and standing programs' dispatch leave them alone.
-/
set_option autoImplicit false

namespace Sys2Proof.Machine

@[simp] theorem releaseProg_sys (key : Nat) (s : State) : (releaseProg key s).sys = s.sys := by
  unfold releaseProg
  split <;> simp

@[simp] theorem drainProg_sys (key : Nat) (s : State) : (drainProg key s).sys = s.sys := by
  unfold drainProg
  split <;> simp

@[simp] theorem endJobCount_sys (job : Nat) (s : State) : (endJobCount job s).sys = s.sys := by
  unfold endJobCount
  dsimp only
  (repeat' split) <;> simp

@[simp] theorem stopProg_sys (key : Nat) (s : State) : (stopProg key s).sys = s.sys := by simp [stopProg]

@[simp] theorem releaseHolds_sys (uid : Nat) (s : State) : (releaseHolds uid s).sys = s.sys := by simp [releaseHolds]

@[simp] theorem endKid_sys (uid : Nat) (s : State) : (endKid uid s).sys = s.sys := by
  unfold endKid
  dsimp only
  (repeat' split) <;> simp

@[simp] theorem endGridOf_sys (uid : Nat) (s : State) : (endGridOf uid s).sys = s.sys := by
  unfold endGridOf
  dsimp only
  (repeat' split) <;> simp

@[simp] theorem endDispatch_sys (part : Nat) (r : TaskRec) (s : State) : (endDispatch part r s).sys = s.sys := by simp [endDispatch]

@[simp] theorem endGridBlock_sys (g : Nat) (s : State) : (endGridBlock g s).sys = s.sys := by
  unfold endGridBlock
  split <;> simp

@[simp] theorem cancelAll_sys (core seq : Nat) (s : State) : (cancelAll core seq s).sys = s.sys := by simp [cancelAll]

@[simp] theorem removeBlock_sys (core seq : Nat) (s : State) : (removeBlock core seq s).sys = s.sys := by simp [removeBlock]

@[simp] theorem linkCells_sys (cs : List (BitVec 24 × Nat)) (s : State) : (linkCells cs s).sys = s.sys := by simp [linkCells]

@[simp] theorem dropCells_sys (job : Nat) (s : State) : (dropCells job s).sys = s.sys := by simp [dropCells]

@[simp] theorem dropSaved_sys (job : Nat) (s : State) : (dropSaved job s).sys = s.sys := by simp [dropSaved]

@[simp] theorem markLaunch_sys (job : Nat) (code : BitVec 8) (detail : Word) (s : State) : (markLaunch job code detail s).sys = s.sys := by simp [markLaunch]

@[simp] theorem endJob_sys (job : Nat) (cause : BitVec 32) (code : BitVec 8) (s : State) : (endJob job cause code s).sys = s.sys := by simp [endJob]

@[simp] theorem endRecord_sys (part : Nat) (r : TaskRec) (s : State) : (endRecord part r s).sys = s.sys := by
  unfold endRecord
  split <;> simp

@[simp] theorem abortJob_sys (job : Nat) (cause : BitVec 8) (s : State) : (abortJob job cause s).sys = s.sys := by
  unfold abortJob
  (repeat' split) <;> simp

@[simp] theorem endWork_sys (b : Block) (s : State) : (endWork b s).sys = s.sys := by
  unfold endWork
  (repeat' split) <;> simp

@[simp] theorem execBlockRetire_sys (core seq : Nat) (s : State) {y : Sys} (hy : s.sys = y) : OutKeeps y (execBlockRetire core seq s) := by
  subst hy
  unfold execBlockRetire
  dsimp only
  (repeat' split) <;> simp

@[simp] theorem dropRecord_sys (r : TaskRec) (s : State) : (dropRecord r s).sys = s.sys := by
  unfold dropRecord
  (repeat' split) <;> simp

@[simp] theorem execGridComplete_sys (g : Nat) (s : State) {y : Sys} (hy : s.sys = y) : OutKeeps y (execGridComplete g s) := by
  subst hy
  unfold execGridComplete
  (repeat' split) <;> simp

@[simp] theorem execUnhandledTrapAbort_sys (core seq : Nat) (s : State) {y : Sys} (hy : s.sys = y) : OutKeeps y (execUnhandledTrapAbort core seq s) := by
  subst hy
  unfold execUnhandledTrapAbort
  (repeat' split) <;> simp

@[simp] theorem passTurn_sys (core : Nat) (claims : Bool) (s : State) : (passTurn core claims s).sys = s.sys := by simp [passTurn]

@[simp] theorem claimTicket_sys (core id : Nat) (g : Grid) (ps : List (Nat × Nat)) (s : State) : (claimTicket core id g ps s).sys = s.sys := by simp [claimTicket]

@[simp] theorem takeRecord_sys (core : Nat) (src : Source) (r : TaskRec) (s : State) : (takeRecord core src r s).sys = s.sys := by simp [takeRecord]

@[simp] theorem placeRecord_sys (core : Nat) (src : Source) (r : TaskRec) (s : State) : (placeRecord core src r s).sys = s.sys := by
  unfold placeRecord
  (repeat' split) <;> simp

@[simp] theorem execTaskStart_sys (core : Nat) (s : State) {y : Sys} (hy : s.sys = y) : OutKeeps y (execTaskStart core s) := by
  subst hy
  unfold execTaskStart
  split <;> simp

@[simp] theorem execTicketClaim_sys (core : Nat) (s : State) {y : Sys} (hy : s.sys = y) : OutKeeps y (execTicketClaim core s) := by
  subst hy
  unfold execTicketClaim
  split <;> simp

@[simp] theorem execSteal_sys (core : Nat) (s : State) {y : Sys} (hy : s.sys = y) : OutKeeps y (execSteal core s) := by
  subst hy
  unfold execSteal
  dsimp only
  (repeat' split) <;> simp

@[simp] theorem execLandingReturn_sys (core : Nat) (s : State) {y : Sys} (hy : s.sys = y) : OutKeeps y (execLandingReturn core s) := by
  subst hy
  unfold execLandingReturn
  dsimp only
  (repeat' split) <;> simp

@[simp] theorem execBlockRestore_sys (k core : Nat) (s : State) {y : Sys} (hy : s.sys = y) : OutKeeps y (execBlockRestore k core s) := by
  subst hy
  unfold execBlockRestore
  split <;> simp

@[simp] theorem startDispatch_sys (key : Nat) (p : Prog) (d i : Nat) (s : State) : (startDispatch key p d i s).sys = s.sys := by
  unfold startDispatch
  dsimp only
  (repeat' split) <;> simp

@[simp] theorem execSettleDispatch_sys (die : Nat) (s : State) {y : Sys} (hy : s.sys = y) : OutKeeps y (execSettleDispatch die s) := by
  subst hy
  unfold execSettleDispatch
  dsimp only
  (repeat' split) <;> simp

@[simp] theorem execPostApply_sys (k : Nat) (s : State) {y : Sys} (hy : s.sys = y) : OutKeeps y (execPostApply k s) := by
  subst hy
  unfold execPostApply
  split <;> simp

@[simp] theorem converge_sys (key : Nat) (p : Prog) (s : State) : (converge key p s).sys = s.sys := by
  unfold converge
  dsimp only
  (repeat' split) <;> simp

@[simp] theorem execConvergenceSweep_sys (prog : Nat) (s : State) {y : Sys} (hy : s.sys = y) : OutKeeps y (execConvergenceSweep prog s) := by
  subst hy
  unfold execConvergenceSweep
  split <;> simp

@[simp] theorem standProg_sys (h : CmdHdr) (part load idx : Nat) (l : Load) (img : ProgImage) (caps : SMap Cap) (mask : Word) (s : State) :
    (standProg h part load idx l img caps mask s).sys = s.sys := by simp [standProg]

@[simp] theorem requeue_sys (r : TaskRec) (core part : Nat) (s : State) {y : Sys} (hy : s.sys = y) : OptKeeps y (requeue r core part s) := by
  subst hy
  unfold requeue
  (repeat' split) <;> simp

@[simp] theorem requeueHeld_sys (ok : Nat → TaskRec × Nat × BitVec 24 × Nat → Bool) (s : State) : (requeueHeld ok s).sys = s.sys := by
  refine foldl_sys _ _ _ fun s j => foldl_sys _ _ _ fun s x => ?_
  split
  case h_1 t hq => 
    have ht : t.sys = s.sys := OptKeeps.of_eq hq (by simp)
    simp [ht]
  case h_2 => rfl

@[simp] theorem retryCell_sys (core : Nat) (s : State) : (retryCell core s).sys = s.sys := by
  unfold retryCell
  split
  · rfl
  · lift_lets
    intro gone r job n follows
    split
    · simp
    · split
      case h_1 t hq =>
        have ht : t.sys = s.sys := OptKeeps.of_eq hq (by simp)
        simp [ht]
      case h_2 => rfl

@[simp] theorem execPendingRetry_sys (core : Nat) (s : State) {y : Sys} (hy : s.sys = y) : OutKeeps y (execPendingRetry core s) := by
  simp [execPendingRetry, hy]

end Sys2Proof.Machine
end

section
/-!
PROOFS. The system registers: the object, queue, load and run commands leave them alone.
-/
set_option autoImplicit false

namespace Sys2Proof.Machine

@[simp] theorem State.modVi_sys (s : State) (v : Nat) (f : Vi → Vi) : (s.modVi v f).sys = s.sys := by simp [State.modVi]

@[simp] theorem State.modQueue_sys (s : State) (v q : Nat) (f : Queue → Queue) : (s.modQueue v q f).sys = s.sys := by
  unfold State.modQueue
  split <;> simp

@[simp] theorem fillHead_sys (v qn : Nat) (s : State) : (fillHead v qn s).sys = s.sys := by
  unfold fillHead
  split <;> simp

@[simp] theorem finish_sys (h : CmdHdr) (code : BitVec 8) (detail : Word) (s : State) : (finish h code detail s).sys = s.sys := by simp [finish]

@[simp] theorem badCmd_sys (h : CmdHdr) (s : State) : (badCmd h s).sys = s.sys := by simp [badCmd]

@[simp] theorem await_sys (h : CmdHdr) (w : CmdWait) (s : State) : (await h w s).sys = s.sys := by simp [await]

@[simp] theorem awaitDma_sys (h : CmdHdr) (w : CmdWait) (s : State) : (awaitDma h w s).sys = s.sys := by simp [awaitDma]

@[simp] theorem command_sys (w : Issuer) (minimal : Bool) (h : CmdHdr) (run : State → State) (s : State) {y : Sys} (hy : s.sys = y) (hr : (run s).sys = s.sys) :
    OutKeeps y (command w minimal h run s) := by
  unfold command
  split <;> simp [hr, hy]

@[simp] theorem mint_sys (store slot : BitVec 32) (c : Cap) (s : State) : (mint store slot c s).sys = s.sys := by simp [mint]

@[simp] theorem withStore_sys (h : CmdHdr) (a : Option (BitVec 32 × Nat)) (run : State → State) (s : State) (hr : (run s).sys = s.sys) :
    (withStore h a run s).sys = s.sys := by
  unfold withStore
  split <;> simp [hr]

@[simp] theorem execObjcreate_sys (h : CmdHdr) (b : ObjCreateBody) (s : State) {y : Sys} (hy : s.sys = y) : OutKeeps y (execObjcreate h b s) := by
  subst hy
  unfold execObjcreate
  split <;> simp

@[simp] theorem execObjdestroy_sys (h : CmdHdr) (oid : BitVec 24) (s : State) {y : Sys} (hy : s.sys = y) : OutKeeps y (execObjdestroy h oid s) := by
  subst hy
  refine command_sys _ _ _ _ _ rfl ?_
  (repeat' split) <;> simp

@[simp] theorem execCapmint_sys (h : CmdHdr) (b : CapmintBody) (s : State) {y : Sys} (hy : s.sys = y) : OutKeeps y (execCapmint h b s) := by
  subst hy
  refine command_sys _ _ _ _ _ rfl ?_
  dsimp only
  (repeat' split) <;> simp

@[simp] theorem hcopyBytes_sys (vi : Nat) (b : HcopyBody) (s : State) : (hcopyBytes vi b s).sys = s.sys := by simp [hcopyBytes]

@[simp] theorem tryHcopy_sys (vi : Nat) (b : HcopyBody) (s : State) : (tryHcopy vi b s).1.sys = s.sys := by
  unfold tryHcopy
  (repeat' split) <;> simp

@[simp] theorem execHcopy_sys (h : CmdHdr) (b : HcopyBody) (s : State) {y : Sys} (hy : s.sys = y) : OutKeeps y (execHcopy h b s) := by
  subst hy
  refine command_sys _ _ _ _ _ rfl ?_
  dsimp only
  (repeat' split) <;> simp

@[simp] theorem execWaitcj_sys (h : CmdHdr) (oid : BitVec 32) (off : BitVec 64) (token : BitVec 32) (s : State) {y : Sys} (hy : s.sys = y) :
    OutKeeps y (execWaitcj h oid off token s) := by
  subst hy
  refine command_sys _ _ _ _ _ rfl ?_
  (repeat' split) <;> simp

@[simp] theorem releaseHead_sys (g : GangPart) (s : State) : (releaseHead g s).sys = s.sys := by simp [releaseHead]

@[simp] theorem endParts_sys (ps : List GangPart) (code : BitVec 8) (detail : GangPart → Word) (s : State) :
    (endParts ps code detail s).sys = s.sys := by simp [endParts]

@[simp] theorem endParked_sys (v q : Nat) (s : State) : (endParked v q s).sys = s.sys := by
  refine (foldl_sys _ _ _ fun s j => ?_).trans (foldl_sys _ _ _ fun s a => ?_)
  · split <;> simp
  · split <;> simp

@[simp] theorem abortQueue_sys (v q : Nat) (s : State) : (abortQueue v q s).sys = s.sys := by
  unfold abortQueue
  simp only [State.modVi_sys, endParts_sys, endParked_sys]
  refine foldl_sys _ _ _ fun s c => ?_
  (repeat' split) <;> simp

@[simp] theorem execDestroyq_sys (h : CmdHdr) (qn : BitVec 16) (s : State) {y : Sys} (hy : s.sys = y) : OutKeeps y (execDestroyq h qn s) := by
  subst hy
  refine command_sys _ _ _ _ _ rfl ?_
  dsimp only
  (repeat' split) <;> simp

@[simp] theorem execPageresume_sys (h : CmdHdr) (oid : BitVec 32) (off : BitVec 64) (s : State) {y : Sys} (hy : s.sys = y) :
    OutKeeps y (execPageresume h oid off s) := by
  subst hy
  refine command_sys _ _ _ _ _ rfl ?_
  dsimp only
  (repeat' split) <;> simp

@[simp] theorem startGrid_sys (h : CmdHdr) (b : LaunchBody) (l : Load) (i : Image) (caps : SMap Cap) (s : State) :
    (startGrid h b l i caps s).sys = s.sys := by simp [startGrid]

@[simp] theorem runLaunch_sys (h : CmdHdr) (b : LaunchBody) (l : Load) (i : Image) (caps : SMap Cap) (s : State) :
    (runLaunch h b l i caps s).sys = s.sys := by simp [runLaunch]

@[simp] theorem joinGang_sys (h : CmdHdr) (b : LaunchBody) (isStart : Bool) (s : State) : (joinGang h b isStart s).sys = s.sys := by simp [joinGang]

@[simp] theorem execLaunchCommand_sys (h : CmdHdr) (b : LaunchBody) (s : State) {y : Sys} (hy : s.sys = y) : OutKeeps y (execLaunchCommand h b s) := by
  subst hy
  refine command_sys _ _ _ _ _ rfl ?_
  (repeat' split) <;> simp

@[simp] theorem runStart_sys (h : CmdHdr) (b : LaunchBody) (s : State) : (runStart h b s).sys = s.sys := by
  unfold runStart
  dsimp only
  split
  · simp
  · refine withStore_sys _ _ _ _ ?_
    (repeat' split) <;> simp

@[simp] theorem execStart_sys (h : CmdHdr) (b : LaunchBody) (s : State) {y : Sys} (hy : s.sys = y) : OutKeeps y (execStart h b s) := by
  subst hy
  refine command_sys _ _ _ _ _ rfl ?_
  (repeat' split) <;> simp

@[simp] theorem execStop_sys (h : CmdHdr) (loadh : BitVec 64) (progidx : BitVec 16) (s : State) {y : Sys} (hy : s.sys = y) :
    OutKeeps y (execStop h loadh progidx s) := by
  subst hy
  refine command_sys _ _ _ _ _ rfl ?_
  (repeat' split) <;> simp

theorem evictUntil_sys (core : Nat) (i : Image) (qs : List Nat) (s : State) : ∀ t, evictUntil core i qs s = some t → t.1.sys = s.sys := by
  induction qs generalizing s with
  | nil =>
    intro t h
    rw [evictUntil.eq_1] at h
    cases h
  | cons q r ih =>
    intro t
    rw [evictUntil.eq_2]
    have he : (evict core q s).sys = s.sys := by simp
    generalize evict core q s = u at he ⊢
    split
    · rintro ⟨⟩; exact he
    · exact fun h => (ih _ t h).trans he

theorem makeRoom_sys (g : Grid) (prio : Nat) (s : State) : ∀ t, makeRoom g prio s = some t → t.2.1.sys = s.sys := by
  intro t h
  unfold makeRoom at h
  dsimp only at h
  split at h
  case h_1 x hx =>
    cases h
    obtain ⟨c, -, hc⟩ := List.exists_of_findSome?_eq_some hx
    obtain ⟨ps, -, rfl⟩ := Option.map_eq_some_iff.mp hc
    rfl
  case h_2 =>
    obtain ⟨c, -, hc⟩ := List.exists_of_findSome?_eq_some h
    obtain ⟨u, hu, rfl⟩ := Option.map_eq_some_iff.mp hc
    exact evictUntil_sys _ _ _ _ u hu

@[simp] theorem holdBlocks_sys (id prio n : Nat) (s : State) {y : Sys} (hy : s.sys = y) : OptKeeps y (holdBlocks id prio n s) := by
  induction n generalizing s with
  | zero => exact (optKeeps_some ..).mpr hy
  | succ n ih =>
    unfold holdBlocks
    split
    · exact optKeeps_none _
    · split
      case h_1 => exact optKeeps_none _
      case h_2 c t ps hm =>
        have ht : t.sys = s.sys := makeRoom_sys _ _ _ _ hm
        exact ih _ (by simp [ht, hy])

@[simp] theorem commitPart_sys (g : GangPart) (s : State) {y : Sys} (hy : s.sys = y) : OptKeeps y (commitPart g s) := by
  subst hy
  unfold commitPart
  dsimp only
  (repeat' split) <;> simp

@[simp] theorem commitAll_sys (gs : List GangPart) (s : State) {y : Sys} (hy : s.sys = y) : ChkKeeps y (commitAll gs s) := by
  induction gs generalizing s with
  | nil => exact (chkKeeps_ok ..).mpr hy
  | cons g r ih =>
    unfold commitAll
    split
    case h_1 t ht => exact ih t (OptKeeps.of_eq ht (by simp [hy]))
    case h_2 => exact chkKeeps_error _ _

@[simp] theorem execGangReservation_sys (gang : BitVec 32) (s : State) {y : Sys} (hy : s.sys = y) : OutKeeps y (execGangReservation gang s) := by
  subst hy
  unfold execGangReservation
  refine (outKeeps_next ..).mpr ?_
  split
  · rfl
  · dsimp only
    split
    · simp
    · split
      · rfl
      · split
        case h_1 t ht => exact commitAll_sys _ _ (by simp) t ht
        case h_2 => split <;> simp

@[simp] theorem queueError_sys (v q : Nat) (s : State) : (queueError v q s).sys = s.sys := by simp [queueError]

@[simp] theorem holdHead_sys (v q : Nat) (s : State) : (holdHead v q s).sys = s.sys := by simp [holdHead]

@[simp] theorem sectObj_sys (part : Nat) (f : ModuleFile) (k : Nat) (x : SMap Nat × State) : (sectObj part f k x).2.sys = x.2.sys := by
  unfold sectObj
  split <;> simp

@[simp] theorem createObjs_sys (part : Nat) (f : ModuleFile) (s : State) : (createObjs part f s).2.sys = s.sys := by simp [createObjs]

theorem createReports_sys (part : Nat) (f : ModuleFile) (ids : SMap Nat) (ps : List (ProgHead × Nat)) (s : State) :
    ∀ t, createReports part f ids ps s = .ok t → t.2.sys = s.sys := by
  induction ps generalizing s with
  | nil => rintro t ⟨⟩; rfl
  | cons p rest ih =>
    intro t
    unfold createReports
    dsimp only
    split
    · split
      case h_1 l u hu => rintro ⟨⟩; exact ih _ (l, u) hu
      case h_2 => exact nofun
    · split
      · exact nofun
      · split
        case h_1 l u hu => rintro ⟨⟩; exact (ih _ (l, u) hu).trans (by simp)
        case h_2 => exact nofun

@[simp] theorem placeModule_sys (id part : Nat) (f : ModuleFile) (m : Memory) (base : Nat) (s : State) {y : Sys} (hy : s.sys = y) :
    ChkKeeps y (placeModule id part f m base s) := by
  subst hy
  unfold placeModule
  dsimp only
  split
  · exact chkKeeps_error _ _
  · split
    · exact chkKeeps_error _ _
    · split
      · exact chkKeeps_error _ _
      · split
        case h_1 => exact chkKeeps_error _ _
        case h_2 ps u hu =>
          have hs : u.sys = s.sys := by
            refine (createReports_sys _ _ _ _ _ _ hu).trans ?_
            (repeat' split) <;> simp
          simp [hs]

@[simp] theorem settleLoad_sys (c : Cmd) (id iova len : Nat) (s : State) : (settleLoad c id iova len s).1.sys = s.sys := by
  unfold settleLoad
  dsimp only
  split
  case h_1 t ht =>
    revert ht
    split
    · exact fun ht => placeModule_sys _ _ _ _ _ _ rfl t ht
    · exact nofun
  case h_2 => rfl

@[simp] theorem execUnload_sys (h : CmdHdr) (loadh : BitVec 64) (s : State) {y : Sys} (hy : s.sys = y) : OutKeeps y (execUnload h loadh s) := by
  subst hy
  refine command_sys _ _ _ _ _ rfl ?_
  (repeat' split) <;> simp

@[simp] theorem writeStatus_sys (c : Cmd) (s : State) : (writeStatus c s).sys = s.sys := by simp [writeStatus]

@[simp] theorem dropLaunch_sys (g : Nat) (s : State) : (dropLaunch g s).sys = s.sys := by
  unfold dropLaunch
  split <;> simp

@[simp] theorem dropLoad_sys (l : Nat) (s : State) : (dropLoad l s).1.sys = s.sys := by simp [dropLoad]

@[simp] theorem moveRecords_sys (src dst : Nat) (s : State) : (moveRecords src dst s).sys = s.sys := by simp [moveRecords]

@[simp] theorem moveTo_sys (dsts : List Nat) (src : Nat) (s : State) : (moveTo dsts src s).sys = s.sys := by simp [moveTo]

@[simp] theorem passRecords_sys (part : Nat) (s : State) : (passRecords part s).sys = s.sys := by simp [passRecords]

@[simp] theorem extendMeas_sys (index event : Nat) (item : List Byte) (s : State) : (extendMeas index event item s).sys = s.sys := by simp [extendMeas]

@[simp] theorem mapChanged_sys (s : State) : (mapChanged s).sys = s.sys := by simp [mapChanged]

end Sys2Proof.Machine
end

section
/-!
PROOFS. The system registers: the interfaces, the physical function's partitions, faults and the boot's images leave them alone.
-/
set_option autoImplicit false

namespace Sys2Proof.Machine

@[simp] theorem returnFrames_sys (part : Nat) (s : State) : (returnFrames part s).sys = s.sys := by simp [returnFrames]

@[simp] theorem dropPart_sys (part : Nat) (s : State) : (dropPart part s).sys = s.sys := by simp [dropPart]

@[simp] theorem settleLogread_sys (c : Cmd) (b : LogreadBody) (s : State) : (settleLogread c b s).1.sys = s.sys := by simp [settleLogread]

@[simp] theorem commitCfg_sys (part : Nat) (added : List Nat) (s : State) : (commitCfg part added s).sys = s.sys :=
  (foldl_sys _ _ _ fun _ _ => by simp).trans (foldl_sys _ _ _ fun _ _ => by simp)

@[simp] theorem execDoorbell_sys (vi q : Nat) (tail : BitVec 32) (s : State) {y : Sys} (hy : s.sys = y) : OutKeeps y (execDoorbell vi q tail s) := by
  subst hy
  unfold execDoorbell
  split <;> simp

@[simp] theorem execAdminQueueDrained_sys (vi : Nat) (s : State) {y : Sys} (hy : s.sys = y) : OutKeeps y (execAdminQueueDrained vi s) := by
  simp [execAdminQueueDrained, hy]

@[simp] theorem writeMsix_sys (vi vec byte : Nat) (val : BitVec 64) (s : State) : (writeMsix vi vec byte val s).sys = s.sys := by simp [writeMsix]

@[simp] theorem execRegisterWrite_sys (vi off : Nat) (val : BitVec 64) (s : State) {y : Sys} (hy : s.sys = y) : OutKeeps y (execRegisterWrite vi off val s) := by
  subst hy
  unfold execRegisterWrite
  (repeat' split) <;> simp

@[simp] theorem undoCmd_sys (c : Cmd) (s : State) : (undoCmd c s).sys = s.sys := by
  unfold undoCmd
  split <;> simp

@[simp] theorem setResident_sys (part : Nat) (keep : List (Nat × Nat)) (s : State) : (setResident part keep s).sys = s.sys :=
  (foldl_sys _ _ _ fun _ _ => by simp).trans (foldl_sys _ _ _ fun _ _ => by simp)

@[simp] theorem setShare_sys (part share : Nat) (s : State) : (setShare part share s).sys = s.sys := by simp [setShare]

@[simp] theorem giveUp_sys (kept : List Nat) (core : Nat) (s : State) : (giveUp kept core s).sys = s.sys := by simp [giveUp]

@[simp] theorem applyCfg_sys (b : PartcfgBody) (s : State) : (applyCfg b s).sys = s.sys := by
  refine (setResident_sys ..).trans ((foldl_sys _ _ _ fun _ _ => by simp).trans ((foldl_sys _ _ _ fun _ _ => by simp).trans ?_))
  simp

@[simp] theorem execPartcfg_sys (h : CmdHdr) (b : PartcfgBody) (s : State) {y : Sys} (hy : s.sys = y) : OutKeeps y (execPartcfg h b s) := by
  subst hy
  refine command_sys _ _ _ _ _ rfl ?_
  (repeat' split) <;> simp

@[simp] theorem execShareobj_sys (h : CmdHdr) (b : ShareobjBody) (s : State) {y : Sys} (hy : s.sys = y) : OutKeeps y (execShareobj h b s) := by
  subst hy
  refine command_sys _ _ _ _ _ rfl ?_
  (repeat' split) <;> simp

@[simp] theorem loseScratch_sys (core : Nat) (s : State) : (loseScratch core s).sys = s.sys := by simp [loseScratch]

@[simp] theorem execDbgresume_sys (h : CmdHdr) (part : BitVec 8) (block : BitVec 32) (s : State) {y : Sys} (hy : s.sys = y) :
    OutKeeps y (execDbgresume h part block s) := by
  subst hy
  refine command_sys _ _ _ _ _ rfl ?_
  (repeat' split) <;> simp

@[simp] theorem execQuantumEnd_sys (core : Nat) (s : State) {y : Sys} (hy : s.sys = y) : OutKeeps y (execQuantumEnd core s) := by
  simp [execQuantumEnd, hy]

@[simp] theorem cutWork_sys (core : Nat) (s : State) : (cutWork core s).sys = s.sys := by simp [cutWork]

@[simp] theorem haltBlock_sys (blind : Bool) (core seq cause : Nat) (s : State) : (haltBlock blind core seq cause s).sys = s.sys := by simp [haltBlock]

@[simp] theorem haltCore_sys (blind : Bool) (core cause : Nat) (s : State) : (haltCore blind core cause s).sys = s.sys := by simp [haltCore]

@[simp] theorem halt_sys (core cause : Nat) (s : State) : (halt core cause s).sys = s.sys := by simp [halt]

@[simp] theorem stopHomed_sys (die : Nat) (s : State) : (stopHomed die s).sys = s.sys := by simp [stopHomed]

@[simp] theorem execMcheck_sys (e : EccSite) (s : State) {y : Sys} (hy : s.sys = y) : OutKeeps y (execMcheck e s) := by
  subst hy
  unfold execMcheck
  (repeat' split) <;> simp

@[simp] theorem execIdemAbort_sys (core seq : Nat) (s : State) {y : Sys} (hy : s.sys = y) : OutKeeps y (execIdemAbort core seq s) := by
  subst hy
  unfold execIdemAbort
  (repeat' split) <;> simp

@[simp] theorem bootSystem_sys (image : List Byte) (s : State) : (bootSystem image s).sys = s.sys := by
  unfold bootSystem
  split <;> simp

@[simp] theorem respond_sys (p : Nat) (m : SpdmMsg) (f : Spdm → Spdm) (s : State) : (respond p m f s).sys = s.sys := by simp [respond]

@[simp] theorem answerIf_sys (ok : Bool) (p : Nat) (m : SpdmMsg) (f : Spdm → Spdm) (s : State) {y : Sys} (hy : s.sys = y) : OutKeeps y (answerIf ok p m f s) := by
  simp [answerIf, hy]

end Sys2Proof.Machine
end

section
/-!
PROOFS. The system registers: SPDM answers, and what precedes and follows a move, leave them alone.
-/
set_option autoImplicit false

namespace Sys2Proof.Machine

@[simp] theorem execKeyExchange_sys (port : Nat) (s : State) {y : Sys} (hy : s.sys = y) : OutKeeps y (execKeyExchange port s) := by
  unfold execKeyExchange
  exact answerIf_sys _ _ _ _ _ (by simp [hy])

@[simp] theorem State.begin_sys (s : State) (g : Group) : (s.begin g).sys = s.sys := by simp [State.begin]

@[simp] theorem applyCaps_sys (core : Nat) (s : State) : (applyCaps core s).sys = s.sys := by simp [applyCaps]

@[simp] theorem beatDue_sys (core : Nat) (s : State) : (beatDue core s).sys = s.sys := by simp [beatDue]

@[simp] theorem wakeAgents_sys (s t : State) : (wakeAgents s t).sys = t.sys :=
  foldl_sys _ _ _ fun _ _ => by split <;> simp

end Sys2Proof.Machine
end

section
/-!
PROOFS. The minimum security version (R461): the functions that do change the system registers keep it, and an activation raises it.
-/
set_option autoImplicit false

namespace Sys2Proof.Machine

/-! The functions that change the system registers: all but an activation leave the minimum security version. -/

@[simp] theorem takeTurn_svn (part prio : Nat) (x : Nat × Nat) (s : State) : (takeTurn part prio x s).sys.svnMin = s.sys.svnMin := by
  unfold takeTurn
  split <;> simp

@[simp] theorem popHead_svn (v q : Nat) (s : State) : (popHead v q s).1.sys.svnMin = s.sys.svnMin := by
  unfold popHead
  split
  · rfl
  · dsimp only
    split
    · simp
    · split <;> simp

@[simp] theorem settleStage_svn (c : Cmd) (iova len : Nat) (s : State) : (settleStage c iova len s).1.sys.svnMin = s.sys.svnMin := by
  unfold settleStage
  dsimp only
  split <;> rfl

@[simp] theorem settleCmd_svn (c : Cmd) (s : State) : (settleCmd c s).1.sys.svnMin = s.sys.svnMin := by
  unfold settleCmd
  dsimp only
  (repeat' split) <;> simp

theorem settleCmd_some_svn {c : Cmd} {s t : State} {d : Option Cmd} (h : settleCmd c s = (t, d)) : t.sys.svnMin = s.sys.svnMin := by
  rw [← settleCmd_svn c s, h]

@[simp] theorem recordReason_svn (r : BitVec 8) (s : State) : (recordReason r s).sys.svnMin = s.sys.svnMin := rfl

@[simp] theorem reboot_svn (fails : Nat) (ide : Bool) (s : State) : (reboot fails ide s).sys.svnMin = s.sys.svnMin := rfl

@[simp] theorem resetPart_svn (fails : Nat) (s : State) : (resetPart fails s).sys.svnMin = s.sys.svnMin := by
  unfold resetPart
  split <;> simp

@[simp] theorem failStart_svn (r : BitVec 8) (s : State) : (failStart r s).sys.svnMin = s.sys.svnMin := rfl

@[simp] theorem comeUpMinimal_svn (s : State) : (comeUpMinimal s).sys.svnMin = s.sys.svnMin := rfl

@[simp] theorem nextStage_svn (item : List Byte) (s : State) : (nextStage item s).sys.svnMin = s.sys.svnMin := rfl

@[simp] theorem bootImage_svn (img : List Byte) (bad : BitVec 8) (s : State) : (bootImage img bad s).sys.svnMin = s.sys.svnMin := by
  unfold bootImage
  (repeat' split) <;> simp

@[simp] theorem bootLoaded_svn (bad : BitVec 8) (s : State) : (bootLoaded bad s).sys.svnMin = s.sys.svnMin := by
  unfold bootLoaded
  (repeat' split) <;> simp

@[simp] theorem bootReady_svn (s : State) : (bootReady s).sys.svnMin = s.sys.svnMin := rfl

@[simp] theorem setWarning_svn (hottest : Nat) (s : State) : (setWarning hottest s).sys.svnMin = s.sys.svnMin := by
  unfold setWarning
  (repeat' split) <;> simp

@[simp] theorem thermalStop_svn (s : State) : (thermalStop s).sys.svnMin = s.sys.svnMin := by
  unfold thermalStop
  generalize List.range 192 = cores
  have hcores := foldl_sys (fun s c => haltCore true c 0 s) cores s fun s c => by simp
  simp [hcores]

@[simp] theorem setTherm_svn (compute hub : BitVec 8) (s : State) : (setTherm compute hub s).sys.svnMin = s.sys.svnMin := by
  unfold setTherm
  dsimp only
  split <;> simp

/-- An activation records the larger of the two versions. -/
theorem activate_svn (img : List Byte) (s : State) : s.sys.svnMin ≤ (activate img s).sys.svnMin := by
  unfold activate
  dsimp only
  split
  next h => exact BitVec.le_def.mpr h.le
  next => exact BitVec.le_refl _

/-! ### Moves that lower no minimum security version -/

/-- No state that an outcome holds has a smaller minimum security version than this one. -/
def SvnRises (s : State) (o : Out) : Prop := ∀ t, o = .next t → s.sys.svnMin ≤ t.sys.svnMin

theorem svnRises_next {s t : State} (h : s.sys.svnMin ≤ t.sys.svnMin) : SvnRises s (.next t) := by
  rintro u ⟨⟩
  exact h

theorem svnRises_next_of_eq {s t : State} (h : t.sys.svnMin = s.sys.svnMin) : SvnRises s (.next t) := svnRises_next (BitVec.le_of_eq h.symm)

theorem OutKeeps.svnRises {s : State} {o : Out} (h : OutKeeps s.sys o) : SvnRises s o := fun t ht => by rw [h t ht]; exact BitVec.le_refl _

theorem SvnRises.of_eq {s s' : State} {o : Out} (h : SvnRises s' o) (hs : s'.sys.svnMin = s.sys.svnMin) : SvnRises s o := fun t ht => hs ▸ h t ht

theorem command_svnRises (w : Issuer) (minimal : Bool) (h : CmdHdr) (run : State → State) (s : State) (hr : s.sys.svnMin ≤ (run s).sys.svnMin) :
    SvnRises s (command w minimal h run s) := by
  refine svnRises_next ?_
  split
  · exact hr
  · simp

theorem execRepair_svn (h : CmdHdr) (core : BitVec 16) (s : State) : SvnRises s (execRepair h core s) := by
  refine command_svnRises _ _ _ _ _ (BitVec.le_of_eq ?_)
  dsimp only
  (repeat' split) <;> simp

theorem execFwact_svn (h : CmdHdr) (s : State) : SvnRises s (execFwact h s) := by
  refine command_svnRises _ _ _ _ _ ?_
  dsimp only
  split
  · simp
  · split
    · simp
    · split
      · simpa using activate_svn _ s
      · simp

theorem execDeferredActivation_svn (s : State) : SvnRises s (execDeferredActivation s) := by
  refine svnRises_next ?_
  split
  · split
    · simpa using activate_svn _ s
    · exact BitVec.le_refl _
  · exact BitVec.le_refl _

theorem execCommandCompletion_svn (k : Nat) (s : State) : SvnRises s (execCommandCompletion k s) := by
  refine svnRises_next_of_eq ?_
  split
  · rfl
  · split
    · rfl
    · split
      case h_1 hc => exact settleCmd_some_svn hc
      case h_2 hc => simpa using settleCmd_some_svn hc

theorem execDmaError_svn (k : Nat) (onStatus : Bool) (s : State) : SvnRises s (execDmaError k onStatus s) := by
  refine svnRises_next_of_eq ?_
  split
  · rfl
  · split
    · rfl
    · split
      · split
        · rfl
        · split
          case h_1 hc => exact settleCmd_some_svn hc
          case h_2 hc => simpa using settleCmd_some_svn hc
      · split <;> simp

theorem execFailedStartReset_svn (s : State) : SvnRises s (execFailedStartReset s) := by
  refine svnRises_next_of_eq ?_
  (repeat' split) <;> simp

theorem execReadyTimeout_svn (s : State) : SvnRises s (execReadyTimeout s) := by
  refine svnRises_next_of_eq ?_
  split <;> simp

theorem execBootStageDone_svn (image : List (BitVec 8)) (pass : Bool) (s : State) : SvnRises s (execBootStageDone image pass s) := by
  refine svnRises_next_of_eq ?_
  (repeat' split) <;> simp

theorem execTftpBlock_svn (data : List (BitVec 8)) (s : State) : SvnRises s (execTftpBlock data s) := by
  refine svnRises_next_of_eq ?_
  (repeat' split) <;> rfl

theorem execTftpRetry_svn (s : State) : SvnRises s (execTftpRetry s) := by
  refine svnRises_next_of_eq ?_
  (repeat' split) <;> simp

theorem execIdeKm_svn (port : Nat) (key : BitVec 256) (s : State) : SvnRises s (execIdeKm port key s) := by
  refine svnRises_next_of_eq ?_
  (repeat' split) <;> simp

end Sys2Proof.Machine
end

section
/-!
PROOFS. No instruction, command or event lowers the minimum security version.
-/
set_option autoImplicit false

namespace Sys2Proof.Machine

/-- An instruction, a command or an event lowers no minimum security version. -/
theorem exec_svnRises (i : Instr) (s : State) : SvnRises s (exec i s) := by
  cases i with
  | repair h core => exact execRepair_svn h core s
  | fwact h => exact execFwact_svn h s
  | deferredActivation => exact execDeferredActivation_svn s
  | commandCompletion k => exact execCommandCompletion_svn k s
  | dmaError k onStatus => exact execDmaError_svn k onStatus s
  | sysstatRead => exact svnRises_next_of_eq rfl
  | ideStreamFault => exact svnRises_next_of_eq rfl
  | conventionalReset => exact svnRises_next_of_eq (resetPart_svn ..)
  | coldPowerOn => exact svnRises_next_of_eq (resetPart_svn 0 s)
  | failedStartReset => exact execFailedStartReset_svn s
  | readyTimeout => exact execReadyTimeout_svn s
  | bootStageDone image pass => exact execBootStageDone_svn image pass s
  | tftpBlock data => exact execTftpBlock_svn data s
  | tftpRetry => exact execTftpRetry_svn s
  | thermalWarning compute hub => exact svnRises_next_of_eq (setTherm_svn ..)
  | thermalWarningClear compute hub => exact svnRises_next_of_eq (setTherm_svn ..)
  | thermalStop compute hub => exact svnRises_next_of_eq (setTherm_svn ..)
  | ideKm port key => exact execIdeKm_svn port key s
  | _ =>
    exact OutKeeps.svnRises (by
      simp [exec, execBrx, execBrany, execBrall, execCall, execRet, execClen, execClwait, execCldrop, execClget, execClset, execYield, execIpref, execIsub, execIaddc,
        execIsubb, execImul, execImulh, execImad, execImadw, execIdiv, execIrem, execIabs, execIneg, execImin, execImax, execAnd, execOr, execXor, execAndn,
        execNot, execShl, execShr, execSar, execRol, execPopc, execClz, execCtz, execBrev, execBfx, execBfi, execBperm, execIsad, execIadds, execMov,
        execSel, execIcmp, execPand, execPor, execPxor, execPnot, execPmov, execVote, execBallot, execShfl, execBcast, execAffine, execLaneix, execScan,
        execRed, execFadd, execFsub, execFmul, execFfma, execFmin, execFmax, execFclass, execFrcp, execFrsq, execFex2, execFlg2, execFsin, execFcos,
        execFdot2, execFmul2, execFfma2, execFround, execFscalb, execFsat, execCvt, execCvti, execCvtf, execEfclr, execBscale, execPack4, execPack6,
        execPack8, execFlagclr, execRmode, execLd, execLdnp, execLdv, execSt, execStv, execCpstat, execRltest, execVld, execVst, execVadd, execVprobe,
        execVnbr, execValloc, execVfree, execGthr, execSctr, execSctra, execItemend, execMxldb, execMxlda, execMxst, execMxcvt, execDdiv, execDsqrt,
        execTrstep, execFence, execCjinit, execCjarr, execCjdrop, execCjwait, execCjbyte, execCjtest, execCapoff, execCaptst, execCapget, execCapmov,
        execTjoin, execLwait, execTend, execTself, execTrap, execEret, execBeat, execWfi, execIcinv, execRegq, execNopCommand, execCreateq, execLoad,
        execAqctlEnable, execAqctlDisable, execFunctionLevelReset, execPartdel, execVfbind, execGangpeers, execFwstage, execLogread, execResidentSetChoice,
        execRunawayBlock, execBeatWindowEnd, execEccCorrected, execVfEnable, execGetVersion, execGetCapabilities, execNegotiateAlgorithms, execGetDigests,
        execGetCertificate, execChallenge, execGetMeasurements, execFinish, execEndSession])

end Sys2Proof.Machine
end

section
/-!
PROOFS. No step lowers the minimum security version.
-/
set_option autoImplicit false

namespace Sys2Proof.Machine

section
variable {ex : Exec}

/-- An outcome, and what follows the state that it holds. -/
def Out.followedBy (o : Out) (f : State → Out) : Out :=
  match o with
  | .next t => f t
  | x => x

theorem SvnRises.followedBy {s : State} {o : Out} {f : State → Out} (ho : SvnRises s o) (hf : ∀ t, SvnRises t (f t)) : SvnRises s (o.followedBy f) := by
  cases o with
  | next t => exact fun u hu => BitVec.le_trans (ho t rfl) (hf t u hu)
  | fault => exact fun _ h => nomatch h
  | refused => exact fun _ h => nomatch h

theorem runSlices_cons (core n : Nat) (r : List Nat) (s : State) :
    runSlices ex core (n :: r) s = Out.followedBy (runSlice ex core n s) (runSlices ex core r) := rfl

theorem runTogether_eq (core : Nat) (slices : List Nat) (s : State) :
    runTogether ex core slices s =
      Out.followedBy (runSlices ex core ((List.range 8).filter slices.contains) (s.modCore core fun k => { k with capw := some [] }))
        fun t => .next (applyCaps core t) := rfl

theorem afterMove_eq (s : State) (o : Out) : afterMove s o = o.followedBy fun t => .next (wakeAgents s t).settleTables := rfl

theorem runGroup_svn (hex : ∀ i s, SvnRises s (ex i s)) (g : Group) (s : State) : SvnRises s (runGroup ex g s) := by
  unfold runGroup
  dsimp only
  split
  · exact svnRises_next_of_eq (by simp)
  · split
    · exact (hex _ _).of_eq (by simp)
    · exact svnRises_next_of_eq (by simp)

theorem runStream_svn (hex : ∀ i s, SvnRises s (ex i s)) (core seq : Nat) (s : State) : SvnRises s (runStream ex core seq s) := by
  unfold runStream
  split
  · exact svnRises_next_of_eq rfl
  · split
    · exact svnRises_next_of_eq rfl
    · dsimp only
      split
      · exact svnRises_next_of_eq (by simp)
      · split
        · exact (hex _ _).of_eq (by simp)
        · exact svnRises_next_of_eq (by simp)

theorem runSlice_svn (hex : ∀ i s, SvnRises s (ex i s)) (core slice : Nat) (s : State) : SvnRises s (runSlice ex core slice s) := by
  unfold runSlice
  split
  · exact (runGroup_svn hex _ _).of_eq (by simp)
  · exact svnRises_next_of_eq rfl

theorem runSlices_svn (hex : ∀ i s, SvnRises s (ex i s)) (core : Nat) (ns : List Nat) (s : State) : SvnRises s (runSlices ex core ns s) := by
  induction ns generalizing s with
  | nil => exact svnRises_next_of_eq rfl
  | cons n r ih =>
    rw [runSlices_cons]
    exact (runSlice_svn hex core n s).followedBy ih

theorem runTogether_svn (hex : ∀ i s, SvnRises s (ex i s)) (core : Nat) (slices : List Nat) (s : State) : SvnRises s (runTogether ex core slices s) := by
  rw [runTogether_eq]
  exact ((runSlices_svn hex core _ _).of_eq (by simp)).followedBy fun t => svnRises_next_of_eq (by simp)

theorem runAgent_svn (hex : ∀ i s, SvnRises s (ex i s)) (core : Nat) (s : State) : SvnRises s (runAgent ex core s) := by
  unfold runAgent
  dsimp only
  split
  · exact (runGroup_svn hex _ _).of_eq (by simp)
  · exact svnRises_next_of_eq (by simp)

theorem runCommand_svn (hex : ∀ i s, SvnRises s (ex i s)) (v q : Nat) (s : State) : SvnRises s (runCommand ex v q s) := by
  unfold runCommand
  split
  · exact svnRises_next_of_eq rfl
  · have hpop := popHead_svn v q s
    revert hpop
    generalize popHead v q s = x
    obtain ⟨t, i⟩ := x
    intro hpop
    cases i with
    | none => exact svnRises_next_of_eq (by simpa using hpop)
    | some i =>
      have hrun : SvnRises t ((ex i t).followedBy fun u => .next (holdHead v q u)) := (hex i t).followedBy fun u => svnRises_next_of_eq (by simp)
      exact hrun.of_eq hpop

theorem runEvent_svn (hex : ∀ i s, SvnRises s (ex i s)) (i : Instr) (s : State) : SvnRises s (runEvent ex i s) := by
  unfold runEvent
  split
  · exact hex i s
  · exact fun _ h => nomatch h

theorem runMove_svn (hex : ∀ i s, SvnRises s (ex i s)) (m : Move) (s : State) : SvnRises s (runMove ex m s) := by
  cases m with
  | issue core slice => exact runSlice_svn hex core slice s
  | together core slices => exact runTogether_svn hex core slices s
  | stream core seq => exact runStream_svn hex core seq s
  | agent core => exact runAgent_svn hex core s
  | command v q => exact runCommand_svn hex v q s
  | event i => exact runEvent_svn hex i s
  | idle => exact svnRises_next_of_eq rfl

/-! ### The model's own acts -/

theorem coreActs_svn (hex : ∀ i s, SvnRises s (ex i s)) {s t : State} {c : Nat} {k : Core} {f : State → Out} (hf : f ∈ coreActs ex s c k) :
    SvnRises t (f t) := by
  simp only [coreActs, List.mem_append, List.mem_map, List.mem_flatMap, List.mem_cons, List.not_mem_nil, or_false] at hf
  rcases hf with ((((⟨n, -, rfl⟩ | ⟨q, -, rfl⟩) | rfl) | ⟨q, -, n, -, rfl | rfl⟩) | ⟨q, -, rfl⟩) | ⟨x, -, rfl | rfl⟩
  · exact runMove_svn hex _ t
  · exact runMove_svn hex _ t
  all_goals exact OutKeeps.svnRises (by simp)

theorem yieldActs_svn {s t : State} {c : Nat} {f : State → Out} (hf : f ∈ yieldActs s c) : SvnRises t (f t) := by
  simp only [yieldActs, List.mem_flatMap, List.mem_ite_nil_right, List.mem_singleton] at hf
  obtain ⟨n, -, w, -, th, -, -, rfl⟩ := hf
  exact OutKeeps.svnRises (by simp)

theorem agentActs_svn {s t : State} {c : Nat} {k : Core} {f : State → Out} (hf : f ∈ agentActs s c k) : SvnRises t (f t) := by
  simp only [agentActs, List.mem_append, List.mem_map, List.mem_flatMap, List.mem_cons, List.not_mem_nil, or_false] at hf
  rcases hf with (⟨q, -, rfl | rfl | rfl | rfl⟩ | ⟨n, -, rfl⟩) | rfl | rfl | rfl | rfl | rfl | rfl
  all_goals exact OutKeeps.svnRises (by simp)

theorem opActs_svn {s t : State} {f : State → Out} (hf : f ∈ opActs s) : SvnRises t (f t) := by
  simp only [opActs, List.mem_append, List.mem_map, List.mem_flatMap, List.mem_cons, List.not_mem_nil, or_false] at hf
  rcases hf with (⟨o, -, (rfl | rfl | rfl | rfl | rfl | rfl | rfl | rfl | rfl | rfl | rfl | rfl) | ⟨n, -, rfl⟩⟩ | ⟨x, -, n, -, rfl⟩) | ⟨n, -, rfl⟩
  all_goals exact OutKeeps.svnRises (by simp)

theorem hostActs_svn (hex : ∀ i s, SvnRises s (ex i s)) {s t : State} {f : State → Out} (hf : f ∈ hostActs ex s) : SvnRises t (f t) := by
  simp only [hostActs, List.mem_append, List.mem_map, List.mem_filterMap, List.mem_singleton, Option.map_eq_some_iff] at hf
  rcases hf with ((((((((⟨p, -, x, -, rfl⟩ | ⟨g, -, rfl⟩) | ⟨v, -, rfl⟩) | rfl) | ⟨g, -, rfl⟩) | ⟨n, -, rfl⟩) | ⟨n, -, rfl⟩) | ⟨n, -, rfl⟩) | ⟨p, -, rfl⟩)
  · exact runMove_svn hex _ t
  · exact OutKeeps.svnRises (by simp)
  · exact OutKeeps.svnRises (by simp)
  · exact execDeferredActivation_svn t
  · exact OutKeeps.svnRises (by simp)
  · exact execCommandCompletion_svn n t
  all_goals exact OutKeeps.svnRises (by simp)

theorem ownActs_svn (hex : ∀ i s, SvnRises s (ex i s)) {s t : State} {f : State → Out} (hf : f ∈ ownActs ex s) : SvnRises t (f t) := by
  simp only [ownActs, List.mem_append, List.mem_flatMap] at hf
  rcases hf with ((⟨ck, -, hf⟩ | hf) | ⟨ck, -, hf | hf⟩) | hf
  · exact coreActs_svn hex hf
  · exact opActs_svn hf
  · exact yieldActs_svn hf
  · exact agentActs_svn hf
  · exact hostActs_svn hex hf

theorem mem_of_mem_turned {α : Type} {l : List α} {i : Nat} {a : α} (h : a ∈ turned l i) : a ∈ l :=
  (List.mem_append.mp h).elim List.mem_of_mem_drop List.mem_of_mem_take

theorem afterMove_svn {s u : State} {o : Out} (h : SvnRises s o) : SvnRises s (afterMove u o) := by
  rw [afterMove_eq]
  exact h.followedBy fun t => svnRises_next_of_eq (by simp)

theorem stepWith_svn (hex : ∀ i s, SvnRises s (ex i s)) (s : State) : SvnRises s (stepWith ex s) := by
  unfold stepWith
  split
  · exact afterMove_svn ((runMove_svn hex _ _).of_eq rfl)
  · split
    case h_1 f hfind => exact afterMove_svn (ownActs_svn hex (mem_of_mem_turned (List.mem_of_find?_eq_some hfind)))
    case h_2 => exact svnRises_next_of_eq rfl

end

/-- Settles O13: of all that a step can do, only an activation changes the version, and it records the larger one. -/
theorem minimumSecurityVersionNeverFalls : Obligations.MinimumSecurityVersionNeverFalls :=
  fun _ s t hn hstep => BitVec.le_trans hn (stepWith_svn exec_svnRises s t hstep)

end Sys2Proof.Machine
end

section
/-!
PROOFS. Loads, stores and memory (R266 to R271, log entry 5): what an issue leaves of memory. An LDNP of an absent line under a copy reads the older byte or the
copy's, as the constant `Config.freeNat` says, and writes the byte where it is the copy's; where it is the older one, no load writes.
-/
set_option autoImplicit false

namespace Sys2Proof.Machine
open Sys2Proof.Spec

/-- What every place of memory reads from: the objects, and the blocks' own memories. -/
def State.places (s : State) : SMap Obj × (Nat → Nat → Memory) := (s.objs, fun c q => (s.block c q).shared)

theorem readN_of_places {s t : State} (h : t.places = s.places) (sd : Side) (a n : Nat) : t.readN sd a n = s.readN sd a n :=
  readN_congr (congrArg Prod.fst h :) (fun c q => congrFun (congrFun (congrArg Prod.snd h :) c) q) sd a n

theorem places_ext {s t : State} (ho : t.objs = s.objs) (hb : ∀ c q, (t.block c q).shared = (s.block c q).shared) : t.places = s.places :=
  Prod.ext ho (funext fun c => funext fun q => hb c q)

@[simp] theorem modBlock_places (s : State) (c q : Nat) (f : Block → Block) (hf : ∀ b, (f b).shared = b.shared) : (s.modBlock c q f).places = s.places :=
  places_ext (by unfold State.modBlock; split <;> rfl) fun c' q' => block_modBlock_keeps Block.shared s c q c' q' f hf

@[simp] theorem modWarp_places (s : State) (w : WRef) (f : Warp → Warp) : (s.modWarp w f).places = s.places := modBlock_places _ _ _ _ fun _ => rfl

@[simp] theorem modThreads_places (s : State) (w : WRef) (m : Mask) (f : Nat → Thread → Thread) : (s.modThreads w m f).places = s.places := modWarp_places ..

theorem foldl_places {α : Type} (f : State → α → State) (l : List α) (s : State) (h : ∀ s a, (f s a).places = s.places) : (l.foldl f s).places = s.places :=
  foldl_keeps State.places f h l s

@[simp] theorem modMembers_places (s : State) (ms : List Member) (f : Member → Warp → Warp) : (s.modMembers ms f).places = s.places :=
  foldl_places _ _ _ fun _ _ => modWarp_places ..

@[simp] theorem modCore_places (s : State) (c : Nat) (f : Core → Core) (hf : ∀ k, (f k).blocks = k.blocks) : (s.modCore c f).places = s.places :=
  places_ext rfl fun c' q' => by rw [State.block, block?_modCore s c c' q' f hf]; rfl

@[simp] theorem advance_places (s : State) : s.advance.places = s.places := by
  unfold State.advance
  refine (modCore_places _ _ _ ?_).trans (modMembers_places ..)
  intro k; simp only [Group.countUse]

@[simp] theorem clearLatch_places (g : Group) (s : State) : (clearLatch g s).places = s.places := modCore_places _ _ _ fun _ => rfl

@[simp] theorem trapBlock_places (t : TrapReq) (g : Group) (s : State) (cq : Nat × Nat) : (trapBlock t g s cq).places = s.places := by
  unfold trapBlock
  dsimp only
  split
  · simp
  · split
    · exact modBlock_places _ _ _ _ fun _ => rfl
    · rfl

@[simp] theorem raiseTrap_places (t : TrapReq) (s : State) : (raiseTrap t s).places = s.places := by
  unfold raiseTrap raiseAt takeTrap
  split
  · exact modMembers_places s _ _
  · exact (foldl_places _ _ _ fun _ _ => trapBlock_places ..).trans ((clearLatch_places ..).trans rfl)

@[simp] theorem setLatch_places (s : State) (core k : Nat) (wide : Bool) (a : Mask) (v : Nat → BitVec 64) : (s.setLatch core k wide a v).places = s.places := by
  unfold State.setLatch
  exact modCore_places _ _ _ fun _ => by rfl

@[simp] theorem prefetch_places (core : Nat) (obj : BitVec 24) (st : Int) (s : State) : (prefetch core obj st s).places = s.places :=
  modCore_places _ _ _ fun k => by
    refine foldl_keeps Core.blocks (fun (k : Core) (n : Nat) => k.askLine _ (obj, n)) (fun k n => ?_) _ k
    exact (askLine_keeps _ k (obj, n)).1

@[simp] theorem hints_places (c : Ctl) (u : Uses) (a : Mask) (s0 s : State) : (hints c u a s0 s).places = s.places := by
  have hop : (holdOperand c u a s0 s).places = s.places := by
    unfold holdOperand
    (repeat' split) <;> simp [State.putLatch]
  have hyd (r : State) : (yieldGroup s0 r).places = r.places := by simp [yieldGroup]
  unfold hints
  dsimp only
  split
  · rfl
  · have h2 : (if c.yld = true then yieldGroup s0 (holdOperand c u a s0 s) else holdOperand c u a s0 s).places = s.places := by
      split
      · exact (hyd _).trans hop
      · exact hop
    split
    · exact h2
    · exact (prefetch_places ..).trans h2

@[simp] theorem startOp_places (s : State) (c : Ctl) (o : LongOp) : (s.startOp c o).places = s.places := by
  unfold State.startOp
  exact modMembers_places ..

@[simp] theorem modOp_places (s : State) (id : Nat) (f : LongOp → LongOp) : (s.modOp id f).places = s.places := rfl

@[simp] theorem abortAccess_places (w : WRef) (sd : Side) (off n : Nat) (s : State) : (abortAccess w sd off n s).places = s.places := by
  have hlogs (s : State) (l : Logs) : { s with logs := l }.places = s.places := rfl
  have hf (job : Nat) (x : FaultRec) (s : State) : (logFault job x s).places = s.places := by
    unfold logFault
    split
    · rfl
    · unfold putFault
      exact hlogs ..
  unfold abortAccess
  split
  · split
    · unfold reportAbort
      dsimp only
      split
      · rfl
      · split
        · rfl
        · split
          · rfl
          · exact (hf ..)
    · rfl
  · rfl

@[simp] theorem parkSteps_places (core id : Nat) (steps : List MemStep) (s : State) : (parkSteps core id steps s).places = s.places := by
  refine foldl_places _ _ _ fun s st => ?_
  dsimp only
  split
  · rfl
  · simp [State.modStep]

theorem npByte_places (hev : ∀ n, Config.freeNat n % 2 = 0) (sd : Side) (off : Nat) (s : State) : (npByte sd off s).1.places = s.places := by
  have h : (Config.freeNat s.takeFree.1 % 2 == 1) = false := by rw [hev]; rfl
  unfold npByte
  dsimp only
  simp only [h, Bool.false_eq_true, if_false]
  (repeat' split) <;> rfl

theorem npBytes_places (hev : ∀ n, Config.freeNat n % 2 = 0) (sd : Side) (off n : Nat) (s : State) : (npBytes sd off n s).1.places = s.places := by
  induction n generalizing off s with
  | zero => rfl
  | succ n ih => exact (ih _ _).trans (npByte_places hev ..)

/-- What every step and every abort keeps, a run of steps keeps. -/
theorem runSteps_induct (P : State → Prop) (core op : Nat) (a q : Bool) (hab : ∀ w sd off n s, P s → P (abortAccess w sd off n s))
    (prev steps : List MemStep) (hp : ∀ st ∈ steps, ∀ s, P s → P (performStep core op st s).1) (s : State) (hs : P s) : P (runSteps core op a q prev steps s).1 := by
  induction steps generalizing prev s with
  | nil => exact hs
  | cons st r ih =>
    have ih := fun prev s hs => ih prev (fun x hx => hp x (List.mem_cons_of_mem _ hx)) s hs
    unfold runSteps
    dsimp only
    generalize (if (prev.any st.behind || s.stepAfter core op st) = true then Gate.wait else s.stepGate core a q st) = g
    split
    · exact ih _ _ (hp st List.mem_cons_self s hs)
    · refine ih _ _ ?_
      split
      · exact List.foldlRecOn st.members (fun (s : State) (m : Member) => abortAccess m.w st.side st.off st.n s) hs fun s hs m _ => hab _ _ _ _ _ hs
      · exact hs

theorem startMem_induct (P : State → Prop) (hP : ∀ s t, t.places = s.places → P s → P t) (c : Ctl) (act : Mask) (d : Option Fld) (pr : List Nat) (steps : List MemStep)
    (hp : ∀ core op, ∀ st ∈ steps, ∀ s, P s → P (performStep core op st s).1) (s : State) (hs : P s) : P (startMem c act d pr steps s) := by
  unfold startMem
  dsimp only
  refine hP _ _ (parkSteps_places ..) (hP _ _ (modOp_places ..) ?_)
  exact runSteps_induct P _ _ _ _ (fun _ _ _ _ s h => hP s _ (abortAccess_places ..) h) _ _ (hp _ _) _ (hP _ _ (startOp_places ..) hs)

theorem performLoad_places (hev : ∀ n, Config.freeNat n % 2 = 0) (core op : Nat) (st : MemStep) {f : LForm} (hf : st.act = .load f) (s : State) :
    (performStep core op st s).1.places = s.places := by
  have h : (performAct core op st s).1.places = s.places := by
    unfold performAct
    rw [hf]
    dsimp only
    split
    · exact npBytes_places hev ..
    · rfl
  unfold performStep
  dsimp only
  split <;> simp [h]

/-- A load that starts its accesses leaves memory as it was. -/
theorem startMem_places (hev : ∀ n, Config.freeNat n % 2 = 0) (c : Ctl) (a : Mask) (d : Option Fld) (pr : List Nat) {steps : List MemStep}
    (hload : ∀ st ∈ steps, ∃ f, st.act = .load f) (s : State) : (startMem c a d pr steps s).places = s.places :=
  startMem_induct (fun t => t.places = s.places) (fun _ _ h h' => h.trans h') c a d pr steps
    (fun _ _ st hst r hr => (performLoad_places hev _ _ st (hload st hst).choose_spec r).trans hr) s rfl

/-- One access for each lane, and one for each member, are loads. -/
theorem laneSteps_load (s : State) (a : Mask) (o : MemOpd) (n : Nat) (d : Option Nat) (np : Bool) (f : LForm) :
    ∀ st ∈ laneSteps s a o n d np (fun _ => .load f), ∃ f, st.act = .load f := by
  intro st hst
  obtain ⟨l, -, rfl⟩ := List.mem_map.mp hst
  exact ⟨f, rfl⟩

theorem readN_writeN_other (s : State) (sd sd' : Side) (off a : Nat) (bs : List Byte) (h : ¬ (sd' = sd ∧ off ≤ a ∧ a < off + bs.length)) :
    (s.writeN sd' off bs).readN sd a 1 = s.readN sd a 1 := by
  have hfill (x : Option Nat) : (fillXor x off bs).length = bs.length := by unfold fillXor; split <;> simp
  cases sd' with
  | shm c q =>
    cases sd with
    | obj oid =>
      have ho : (s.writeN (.shm c q) off bs).objs = s.objs := by
        simp only [State.writeN]
        unfold State.modBlock
        split <;> rfl
      simp only [State.readN, State.sideMem, State.sideFill, State.obj?, ho]
    | shm c' q' =>
      simp only [State.writeN, State.readN, State.sideMem, State.sideFill, fillXor, State.block, block?_modBlock]
      by_cases he : c' = c ∧ q' = q
      · obtain ⟨rfl, rfl⟩ := he
        have ha : ¬ (off ≤ a ∧ a < off + bs.length) := fun hh => h ⟨rfl, hh⟩
        simp only [and_self, if_true]
        cases s.block? c' q' with
        | none => rfl
        | some b => simp [memReadN, memRead_memWriteN, ha]
      · simp only [if_neg he]
  | obj oid =>
    cases sd with
    | shm c q =>
      simp only [State.writeN, State.readN, State.sideMem, State.sideFill]
      unfold State.modObj
      split <;> rfl
    | obj oid' =>
      simp only [State.writeN, State.readN, State.sideMem, State.sideFill]
      unfold State.modObj
      cases ho : s.obj? oid with
      | none => rfl
      | some o =>
        by_cases he : oid' = oid
        · subst he
          have ha : ¬ (off ≤ a ∧ a < off + (fillXor o.fill off bs).length) := fun hh => h ⟨rfl, hfill _ ▸ hh⟩
          have hnew : State.obj? { s with objs := smSet s.objs oid'.toNat { o with mem := memWriteN o.mem off (fillXor o.fill off bs) } } oid' =
            some { o with mem := memWriteN o.mem off (fillXor o.fill off bs) } := by simp [State.obj?, smGet_smSet_same]
          simp only [hnew, ho, memReadN, memRead_memWriteN, if_neg ha]
        · have hnew : State.obj? { s with objs := smSet s.objs oid.toNat { o with mem := memWriteN o.mem off (fillXor o.fill off bs) } } oid' = s.obj? oid' := by
            have : oid'.toNat ≠ oid.toNat := fun hh => he (BitVec.eq_of_toNat_eq hh)
            simp [State.obj?, smGet_smSet_other _ _ _ _ this]
          simp only [hnew]

theorem issueT_induct {s : State} (hu : ∀ q, s.cur.unit ≠ .stream q) (P : State → Prop) (hP : ∀ s t, t.places = s.places → P s → P t) (c : Ctl) (u : Uses)
    (body : Mask → State → Chk State) (hs : P s) (hb : ∀ t, body (s.active c) s.advance = .ok t → P t) (t : State) (h : issueT c u body s = .next t) : P t := by
  rw [issueT_issue hu] at h
  obtain ⟨x, -, rfl⟩ | ⟨-, -, rfl⟩ | ⟨x, -, -, -, rfl⟩ | ⟨x, -, -, hans, rfl⟩ := issue_cases h
  · exact hP _ _ (raiseTrap_places ..) hs
  · exact hP _ _ ((hints_places ..).trans (advance_places _)) hs
  · exact hP _ _ (raiseTrap_places ..) hs
  · exact hP _ _ (hints_places ..) (hb x hans)

theorem ok_of_bind {α β ε : Type} {x : Except ε α} {f : α → Except ε β} {t : β} (h : (x >>= f) = .ok t) : ∃ a, f a = .ok t := by
  cases x with
  | error e => nomatch h
  | ok a => exact ⟨a, h⟩

theorem loadOp_places (hev : ∀ n, Config.freeNat n % 2 = 0) {s : State} (hu : ∀ q, s.cur.unit ≠ .stream q) (c : Ctl) (u : Uses) (o : MemOpd) (k : Nat) (d : VReg) (np : Bool) (f : LForm) (t : State)
    (h : loadOp c u o k d np f s = .next t) : t.places = s.places := by
  refine issueT_induct hu (fun t => t.places = s.places) (fun _ _ h h' => h.trans h') c u _ rfl (fun t ht => ?_) t h
  obtain ⟨_, ht⟩ := ok_of_bind ht
  obtain ⟨_, ht⟩ := ok_of_bind ht
  obtain ⟨_, ht⟩ := ok_of_bind ht
  cases ht
  exact (startMem_places hev _ _ _ _ (laneSteps_load _ _ _ _ _ _ _) _).trans (advance_places s)

theorem storeOp_readN_outside {s : State} (hu : ∀ q, s.cur.unit ≠ .stream q) (c : Ctl) (u : Uses) (o : MemOpd) (k reach : Nat) (d : VReg)
    (f : State → Nat → List Byte) (hlen : ∀ r l, (f r l).length = k) (sd : Side) (a : Nat)
    (hout : ∀ l, (s.active c).getLsbD l = true → ¬ (o.side s.advance l = sd ∧ o.ea s.advance l ≤ a ∧ a < o.ea s.advance l + k)) (t : State)
    (h : storeOp c u o k reach d f s = .next t) : t.readN sd a 1 = s.readN sd a 1 := by
  have hP (r t : State) (hrt : t.places = r.places) (hr : r.readN sd a 1 = s.readN sd a 1) : t.readN sd a 1 = s.readN sd a 1 := (readN_of_places hrt ..).trans hr
  have hadv := hP _ _ (advance_places s) rfl
  refine issueT_induct hu (fun t => t.readN sd a 1 = s.readN sd a 1) hP c u _ rfl (fun t ht => ?_) t h
  obtain ⟨_, ht⟩ := ok_of_bind ht
  obtain ⟨_, ht⟩ := ok_of_bind ht
  obtain ⟨_, ht⟩ := ok_of_bind ht
  obtain ⟨_, ht⟩ := ok_of_bind ht
  have hl {l : Nat} (h : l ∈ lanesOf (s.active c)) : (s.active c).getLsbD l = true := (List.mem_filter.mp h).2
  dsimp only at ht
  split at ht
  · cases ht
    refine startMem_induct (fun t => t.readN sd a 1 = s.readN sd a 1) hP _ _ _ _ _ (fun core op st hst r hr => ?_) _ hadv
    obtain ⟨l, hmem, rfl⟩ := List.mem_map.mp hst
    refine (readN_writeN_other _ _ _ _ _ _ ?_).trans hr
    rw [hlen]
    exact hout l (hl hmem)
  · cases ht
    refine hP _ _ (startOp_places ..) (List.foldlRecOn (motive := fun t : State => t.readN sd a 1 = s.readN sd a 1) _ _ hadv fun r hr l hmem => ?_)
    have hw : (r.writeN (o.side s.advance l) (o.ea s.advance l) (f s.advance l)).readN sd a 1 = s.readN sd a 1 := by
      refine (readN_writeN_other _ _ _ _ _ _ ?_).trans hr
      rw [hlen]
      exact hout l (hl hmem)
    unfold storeAt
    split
    · split
      · exact hw
      · exact hr
    · exact hw

/-- Were every free choice of an LDNP the older byte, loads would leave memory as it was, and stores would change only their bytes (R267 to R269). -/
theorem loadAndStoreMemoryFrame_of_even (hev : ∀ n, Config.freeNat n % 2 = 0) : Obligations.LoadAndStoreMemoryFrame := by
  intro c o s t sd a hu
  refine ⟨fun i hi h => ?_, fun i k op hi h hout => ?_⟩
  · refine readN_of_places (?_ : t.places = s.places) sd a 1
    simp only [List.mem_cons, List.not_mem_nil, or_false] at hi
    obtain rfl | rfl | rfl | rfl | rfl := hi
    · exact loadOp_places hev hu c (usesOf (.ld c o)) (opdM o (o.m.sub == 1)) (tyBytes o.m.ty) o.d false (.ext o.m.ty) t h
    · exact loadOp_places hev hu c (usesOf (.ldnp c o)) (opdM o (o.m.sub == 1)) (tyBytes o.m.ty) o.d true (.ext o.m.ty) t h
    · exact loadOp_places hev hu c (usesOf (.ldv c o)) (opdM o (o.m.sub.getLsbD 0)) (vecBytes o.m) o.d false .words t h
    · refine issueT_induct hu (fun t => t.places = s.places) (fun _ _ h h' => h.trans h') c (usesOf (.ldu c o)) _ rfl (fun t ht => ?_) t h
      obtain ⟨_, ht⟩ := ok_of_bind ht
      obtain ⟨_, ht⟩ := ok_of_bind ht
      obtain ⟨_, ht⟩ := ok_of_bind ht
      cases ht
      refine (startMem_places hev _ _ _ _ (fun st hst => ?_) _).trans (advance_places s)
      obtain ⟨m, -, rfl⟩ := List.mem_map.mp hst
      exact ⟨_, rfl⟩
    · refine issueT_induct hu (fun t => t.places = s.places) (fun _ _ h h' => h.trans h') c (usesOf (.prwait c o)) _ rfl (fun t ht => ?_) t h
      obtain ⟨_, ht⟩ := ok_of_bind ht
      obtain ⟨_, ht⟩ := ok_of_bind ht
      cases ht
      exact (startMem_places hev _ _ _ _ (laneSteps_load _ _ _ _ _ _ _) _).trans (advance_places s)
  · simp only [List.mem_cons, List.not_mem_nil, or_false, Prod.mk.injEq] at hi
    obtain ⟨rfl, rfl, rfl⟩ | ⟨rfl, rfl, rfl⟩ := hi
    · exact storeOp_readN_outside hu _ _ _ _ _ _ _ (fun r l => leBytes_length ..) sd a hout t h
    · refine storeOp_readN_outside hu _ _ _ _ _ _ _ (fun r l => ?_) sd a hout t h
      unfold vecBytes
      split <;> simp [List.length_flatMap, leBytes_length]

end Sys2Proof.Machine
end

section
/-!
PROOFS. The memory frame of loads and stores (R267, log entry 5): it holds exactly where no LDNP takes the byte of a pending copy.
-/
set_option autoImplicit false

namespace Sys2Proof.Machine
open Sys2Proof.Spec

/-- A load without parking, of the byte at 64 of shared memory. -/
def npAt : OpsM := { d := .v 5, cap := 0, b := .zero, m := { ty := .i8, sub := 1, imm := 64 } }
/-- A block of one warp whose line at 64 is absent, -/
def npBlock : Block :=
  { origin := .grid 0 0 0 0, uid := 9, code := 1, image := { shared := 256, gen := 16, aff := 8, unif := 8 }, absent := [1]
    warps := [(0, { g := 16, f := 8, q := 8, threads := [{ pc := 5, obj := 1, stamp := 1 }] })] }
/-- and a copy of its core that has still to write 1 there; the next free value is number `n`. -/
def npState (n : Nat) : State :=
  { cores := [(0, { part := some 0, blocks := [(0, npBlock)]
                    copies := [{ id := 1, seq := 0, uid := 9, entry := false, srcSide := none, dstSide := .shm 0 0, todo := [{ dst := 64, len := 1, bytes := [1] }] }] })]
    parts := [(0, { cores := [0] })], cur := { mems := [{ w := ⟨0, 0, 0⟩, lanes := 1 }], obj := 1, pc := 5 }, free := n }

/-- Where the free choice takes the copy's byte, it is written. -/
theorem npByte_new {sd : Side} {off core : Nat} {k : Copy} {p : CopyPart} {bs : List Byte} {s : State} (hfree : Config.freeNat s.free % 2 = 1)
    (hp : s.pendingByte sd off = some (core, k, p)) (hb : s.partBytes core k p = some bs) :
    (npByte sd off s).1 = (State.modCopy { s with free := s.free + 1 } core k.id fun k => k.readPart p bs).writeN sd off [bs.getD (off - p.dst) 0] := by
  have hnew : (Config.freeNat s.takeFree.1 % 2 == 1) = true := beq_iff_eq.mpr hfree
  unfold npByte
  simp only [hp, hb, hnew]
  rfl

/-- The state in which the load's one access is performed. -/
def npStarted (n : Nat) : State :=
  (npState n).advance.startOp {} { id := 0, core := 0, mems := [], obj := 0, pc := 0, marks := marksOf (npState n).cur 1 (usesOf (.ldnp {} npAt)).d [] }

/-- Its access. -/
def npStep : MemStep := { w := ⟨0, 0, 0⟩, lanes := 1, side := .shm 0 0, off := 64, n := 1, act := .load (.ext .i8), d := some 5, np := true }

theorem npState_steps (n : Nat) : laneSteps (npState n).advance 1 (opdM npAt true) 1 (dstReg npAt.d) true (fun _ => .load (.ext .i8)) = [npStep] := by rfl

theorem npState_ready (n : Nat) : (npState n).issueChk (usesOf (.ldnp {} npAt)) 1 = .ok () := by rfl

theorem npState_shape (n : Nat) : (npState n).advance.shapeChk (usesOf (.ldnp {} npAt)) 1 (fun _ => .gen) = .ok () := by rfl

/-- The load of a lane falls out of the block's shared memory. -/
def npOutside (n l : Nat) : Bool :=
  decide ((opdM npAt true).offset (npState n).advance l < 0) ||
    decide ((((opdM npAt true).bounds (npState n).advance l).2 : Int) <
      ((opdM npAt true).bounds (npState n).advance l).1 + (opdM npAt true).offset (npState n).advance l + (1 : Nat))

theorem npState_in_bounds : lanesBy 1 (npOutside 0) = 0 := by decide +kernel

theorem npState_check (n : Nat) : (opdM npAt true).check (npState n).advance 1 1 1 [0] [.scratch] = .ok () := by
  have hb : failIn 1 .capbound (npOutside n) = .ok () := (congrArg (fun z : Mask => trapIf (z != 0) Cause.capbound z 0) npState_in_bounds :)
  have ha : failIn 1 .misalign (fun l => (opdM npAt true).ea (npState n).advance l % 1 != 0) = .ok () := by
    simp [failIn, lanesBy, trapIf, Nat.mod_one, maskOf]
    decide
  show (do failIn 1 .capbound (npOutside n); failIn 1 .misalign _) = _
  rw [hb]
  exact ha

theorem exec_npState (n : Nat) : exec (.ldnp {} npAt) (npState n) = .next (hints {} (usesOf (.ldnp {} npAt)) 1 (npState n)
    (startMem {} 1 (usesOf (.ldnp {} npAt)).d [] [npStep] (npState n).advance)) := by
  have hact : act (.ldnp {} npAt) (npState n) = 1 := (show (npState 0).active {} = 1 by decide +kernel :)
  have h := completes_loadOp (i := .ldnp {} npAt) (s := npState n) (np := true) (f := .ext .i8) (o := opdM npAt true) (k := 1) (d := npAt.d)
    (congrFun (execLdnp.eq_def {} npAt) _) ⟨nofun, by rw [hact]; decide, by rw [hact]; exact npState_ready n⟩ nofun
    (by unfold ShapeOk; rw [hact]; exact npState_shape n) (by rw [hact]; exact npState_check n)
  unfold Completes at h
  rw [hact, npState_steps] at h
  exact h

/-- The one access is performed at issue, with the bytes of `npByte`. -/
theorem npRun (n : Nat) : (runSteps 0 0 false false [] [npStep] (npStarted n)).1 = (performStep 0 0 npStep (npStarted n)).1 := by rfl

theorem npPerform (n : Nat) : (performStep 0 0 npStep (npStarted n)).1 = (npByte (.shm 0 0) 64 (npStarted n)).1 := by rfl

theorem npRead (n : Nat) (hfree : Config.freeNat n % 2 = 1) : (npByte (.shm 0 0) 64 (npStarted n)).1.readN (.shm 0 0) 64 1 = [1] := by
  rw [npByte_new (s := npStarted n) hfree (core := 0)
    (k := { id := 1, seq := 0, uid := 9, entry := false, srcSide := none, dstSide := .shm 0 0, todo := [{ dst := 64, len := 1, bytes := [1] }] })
    (p := { dst := 64, len := 1, bytes := [1] }) (bs := [1]) rfl rfl]
  rfl

/-- Where a free choice is the copy's byte, the load of `npState` writes it. -/
theorem not_loadAndStoreMemoryFrame_of_odd (n : Nat) (hfree : Config.freeNat n % 2 = 1) : ¬ Obligations.LoadAndStoreMemoryFrame := by
  intro h
  have hkeep := (h {} npAt (npState n) _ (.shm 0 0) 64 nofun).1 _ (List.mem_cons_of_mem _ List.mem_cons_self) (exec_npState n)
  have hmem : (startMem {} 1 (usesOf (.ldnp {} npAt)).d [] [npStep] (npState n).advance).readN (.shm 0 0) 64 1 = [1] := by
    unfold startMem
    refine (readN_of_places ((parkSteps_places ..).trans (modOp_places ..)) _ _ _).trans ?_
    exact (congrArg (fun t : State => t.readN (.shm 0 0) 64 1) ((npRun n).trans (npPerform n))).trans (npRead n hfree)
  rw [readN_of_places (hints_places _ _ _ _ _) (.shm 0 0) 64 1, hmem] at hkeep
  have hold : (npState n).readN (.shm 0 0) 64 1 = [0] := rfl
  rw [hold] at hkeep
  exact absurd hkeep (by decide)

/-- The memory frame of loads and stores says no more and no less than that every free choice of an LDNP is the older byte; of the constant that chooses, which has no
body, nothing can be proved. -/
theorem loadAndStoreMemoryFrame_iff : Obligations.LoadAndStoreMemoryFrame ↔ ∀ n, Config.freeNat n % 2 = 0 := by
  refine ⟨fun h n => ?_, loadAndStoreMemoryFrame_of_even⟩
  rcases Nat.mod_two_eq_zero_or_one (Config.freeNat n) with h0 | h1
  · exact h0
  · exact absurd h (not_loadAndStoreMemoryFrame_of_odd n h1)

end Sys2Proof.Machine
end
